-- ==== Sys2Proof/Word.lean ====
section
/-! DEFINITION. The machine's words and bytes (R5, R6, R46). -/

namespace Sys2Proof

/-- A 64-bit register or instruction word (R26, R46). -/
abbrev Word := BitVec 64
/-- A byte of memory (R6). -/
abbrev Byte := BitVec 8

end Sys2Proof
end

