-- ==== Sys2Proof/Syntax.lean ====
section
/-! DEFINITION. The instructions of the P640: one constructor of `Instr` per row of spec/opcode_table.json. Control words
(formats of R48) carry their guard and the fields their rule names; the rows that are no control word (element and operator
firings, port, engine, scheduler, supervisor, host, link and power steps) carry the site, core, partition or request that
takes the step. Conditions on the fields stand in WellFormed.lean. -/

namespace Sys2Proof

/-- A six-bit register field (R49). -/
abbrev Reg := BitVec 6
/-- A predicate number (R49). -/
abbrev Pred := BitVec 4

/-- The guard of a control word: the instruction executes when the predicate differs from the sense bit (R50). -/
structure Guard where
  pred : Pred
  sense : Bool
  deriving DecidableEq, Repr

/-- The guard of a word written without one (R50). -/
def Guard.always : Guard := ⟨0, false⟩

/-- Base, index, scale and displacement of format C.M (R56). -/
structure MemOp where
  base : Reg
  index : Reg
  scale : BitVec 2
  disp : BitVec 24
  deriving DecidableEq, Repr

/-- Access sizes of R56. -/
inductive Size where | b | h | w | d | q
  deriving DecidableEq, Repr

/-- Scopes of R9 and R55. -/
inductive Scope where | core | part | dev | fab | sys
  deriving DecidableEq, Repr

/-- Rounding qualifiers of R54. -/
inductive Rnd where | rne | rtz | rdn | rup | rsr
  deriving DecidableEq, Repr

/-- Type codes of R53. -/
inductive Ty where
  | f32 | bf16 | f16 | e4m3 | e5m2 | e2m1 | e8m0 | c2x8 | f64
  | s8 | s16 | s32 | s64 | z8 | z16 | z32 | z64
  deriving DecidableEq, Repr

/-- Conditions of R78. -/
inductive Cond where | eq | ne | lt | ge | le | gt | ltz | gez | lez | gtz | tst | ntst
  deriving DecidableEq, Repr

/-- Forms 0, 1 (.bc) and 2 (.sc) of R152. -/
inductive OpForm where | range | bc | sc
  deriving DecidableEq, Repr

/-- Stream modes of R312. -/
inductive StrmMode where | rd | fib | wr | scat | sadd | smin | smax | gath
  deriving DecidableEq, Repr

/-- Operations of R359. -/
inductive AmoOp where | add | xchg | and | or | xor | min | max | minz | maxz | fadd | fmin | fmax
  deriving DecidableEq, Repr

/-- The argument page of PART_CREATE (R456). -/
structure PartArgs where
  number : Nat
  geom : Word
  cmax : Nat
  ringBase : Word
  ringLog : Nat
  completion : Word
  bwShare : BitVec 32
  supAsid : BitVec 13
  supCode : Word
  deriving DecidableEq, Repr

/-- One rank of GROUP_REG (R456). -/
structure Member where
  device : BitVec 12
  part : Nat
  core : Nat
  deriving DecidableEq, Repr

/-- A host request over CXL.mem (R343): a read, or a write of some bytes; and the accesses to the host window that no other step
makes (R453): a read of an offset, and a write of MB_ARG. -/
inductive HostReq where
  | read (addr len : Nat)
  | write (addr : Nat) (bytes : List Byte)
  | window (offset : Nat)
  | mailboxArg (v : Word)
  deriving DecidableEq, Repr

/-- A host response over CXL.cache (R344): the bytes of a line, the completion of a write, or a back-invalidate response. -/
inductive CxlResp where
  | data (line : Nat) (bytes : List Byte)
  | writeDone (line : Nat)
  | backInvalidate (line : Nat)
  deriving DecidableEq, Repr

/-- The fields of a Druat flit that the P640 acts on (R462): source device, sequence number, address, the bytes the mask
marks with their offsets in the line, and the highest sequence number the sender has received. -/
structure Flit where
  src : BitVec 12
  seq : BitVec 32
  addr : Nat
  bytes : List (Nat × Byte)
  ack : Nat
  deriving DecidableEq, Repr

/-- The operations of element words (R69). -/
inductive ElemOp where
  | empty | mov | iadd | isub | imul | imad | iand | ior | ixor | ishl | ishr | isra | imin | imax | icmp | sel
  | cmpc | deq | emit | fadd | fsub | fmul | ffma | fmin | fmax | fcmp | fexp2 | frcp
  | fcvtF32Bf16 | fcvtF32F16 | fcvtF32E4m3 | fcvtF32E5m2 | fcvtF32E2m1 | fcvtF32S32 | fcvtF32Z32
  | fcvtBf16F32 | fcvtF16F32 | fcvtE4m3F32 | fcvtE5m2F32 | fcvtE2m1F32 | fcvtS32F32 | fcvtZ32F32
  | vaddBf16 | vmulBf16 | vfmaBf16 | vaddF16 | vmulF16 | vfmaF16 | vaddS16 | vmulS16 | vaddS8 | vmulS8
  deriving DecidableEq, Repr

/-- The fields of an element word (R64). -/
structure ElemWord where
  flagsTrue : BitVec 8
  flagsFalse : BitVec 8
  inputs : BitVec 4
  outputs : BitVec 4
  tagChannel : BitVec 2
  tagClass : BitVec 3
  negate : Bool
  op : ElemOp
  dest : BitVec 4
  srcA : BitVec 4
  srcB : BitVec 4
  deq : BitVec 4
  flagMode : BitVec 2
  flagIndex : BitVec 3
  outTag : BitVec 3
  deriving DecidableEq, Repr

/-- One constructor per row of spec/opcode_table.json; the docstring of each names the rule that gives it. -/
inductive Instr where
  /-- ADD. R73. -/
  | add (g : Guard) (d a b : Reg)
  /-- SUB. R73. -/
  | sub (g : Guard) (d a b : Reg)
  /-- MUL. R73. -/
  | mul (g : Guard) (d a b : Reg)
  /-- MULH. R73. -/
  | mulh (g : Guard) (d a b : Reg)
  /-- MULHZ. R73. -/
  | mulhz (g : Guard) (d a b : Reg)
  /-- DIV. R74. -/
  | div (g : Guard) (d a b : Reg)
  /-- DIVZ. R74. -/
  | divz (g : Guard) (d a b : Reg)
  /-- REM. R74. -/
  | rem (g : Guard) (d a b : Reg)
  /-- REMZ. R74. -/
  | remz (g : Guard) (d a b : Reg)
  /-- AND. R73. -/
  | and (g : Guard) (d a b : Reg)
  /-- OR. R73. -/
  | or (g : Guard) (d a b : Reg)
  /-- XOR. R73. -/
  | xor (g : Guard) (d a b : Reg)
  /-- ANDN. R73. -/
  | andn (g : Guard) (d a b : Reg)
  /-- SHL_REG. R75, function 0. -/
  | shlReg (g : Guard) (d a b : Reg)
  /-- SHL_IMM. R75, function 1. -/
  | shlImm (g : Guard) (d a : Reg) (n : BitVec 6)
  /-- SHR_REG. R75, function 0. -/
  | shrReg (g : Guard) (d a b : Reg)
  /-- SHR_IMM. R75, function 1. -/
  | shrImm (g : Guard) (d a : Reg) (n : BitVec 6)
  /-- SHA_REG. R75, function 0. -/
  | shaReg (g : Guard) (d a b : Reg)
  /-- SHA_IMM. R75, function 1. -/
  | shaImm (g : Guard) (d a : Reg) (n : BitVec 6)
  /-- ROT_REG. R75, function 0. -/
  | rotReg (g : Guard) (d a b : Reg)
  /-- ROT_IMM. R75, function 1. -/
  | rotImm (g : Guard) (d a : Reg) (n : BitVec 6)
  /-- MIN. R73. -/
  | min (g : Guard) (d a b : Reg)
  /-- MAX. R73. -/
  | max (g : Guard) (d a b : Reg)
  /-- MINZ. R73. -/
  | minz (g : Guard) (d a b : Reg)
  /-- MAXZ. R73. -/
  | maxz (g : Guard) (d a b : Reg)
  /-- CLZ. R73. -/
  | clz (g : Guard) (d a : Reg)
  /-- POPC. R73. -/
  | popc (g : Guard) (d a : Reg)
  /-- BFX. R76. -/
  | bfx (g : Guard) (d a b c : Reg)
  /-- BFX_S. R76. -/
  | bfxS (g : Guard) (d a b c : Reg)
  /-- BFI. R76. -/
  | bfi (g : Guard) (d a b c : Reg)
  /-- ADDSH. R73. -/
  | addsh (g : Guard) (d a b : Reg) (n : BitVec 6)
  /-- MAD. R73. -/
  | mad (g : Guard) (d a b c : Reg)
  /-- CMP. R78. -/
  | cmp (g : Guard) (pd : Pred) (a b : Reg) (cond : Cond)
  /-- SEL. R79. -/
  | sel (g : Guard) (d : Reg) (pc : Pred) (a b : Reg)
  /-- MOVI. R77. -/
  | movi (g : Guard) (d : Reg) (imm : BitVec 32)
  /-- MOVHI. R77. -/
  | movhi (g : Guard) (d : Reg) (imm : BitVec 32)
  /-- ADDI. R77. -/
  | addi (g : Guard) (d a : Reg) (imm : BitVec 32)
  /-- PAND. R80. -/
  | pand (g : Guard) (pd pa pb : Pred) (na nb : Bool)
  /-- POR. R80. -/
  | por (g : Guard) (pd pa pb : Pred) (na nb : Bool)
  /-- PNOT. R80. -/
  | pnot (g : Guard) (pd pa : Pred)
  /-- BR. R81. -/
  | br (g : Guard) (off : BitVec 40)
  /-- JAL. R82. -/
  | jal (g : Guard) (off : BitVec 40)
  /-- JR. R83. -/
  | jr (g : Guard) (d a : Reg)
  /-- BRC_L1. R84. -/
  | brcL1 (g : Guard) (off : BitVec 40)
  /-- BRC_ALL. R84. -/
  | brcAll (g : Guard) (off : BitVec 40)
  /-- LOOP. R85, R86; len is the body length minus one. -/
  | loop (g : Guard) (lvl1 : Bool) (a : Reg) (len : BitVec 10)
  /-- LOOPI. R85, R86. -/
  | loopi (g : Guard) (lvl1 : Bool) (len : BitVec 10) (cnt : BitVec 22)
  /-- NOP. R59. -/
  | nop (g : Guard)
  /-- LD. R90, R91. -/
  | ld (g : Guard) (d : Reg) (m : MemOp) (sp sx : Bool) (sz : Size)
  /-- ST. R90, R91. -/
  | st (g : Guard) (d : Reg) (m : MemOp) (sp : Bool) (sz : Size)
  /-- CSRR. R94. -/
  | csrr (g : Guard) (d : Reg) (n : BitVec 12)
  /-- CSRW. R94. -/
  | csrw (g : Guard) (n : BitVec 12) (a : Reg)
  /-- CSRW_SET. R94. -/
  | csrwSet (g : Guard) (n : BitVec 12) (a : Reg)
  /-- CSRW_CLR. R94. -/
  | csrwClr (g : Guard) (n : BitVec 12) (a : Reg)
  /-- TRAP. R98. -/
  | trap (g : Guard) (code : BitVec 16)
  /-- ERET. R99. -/
  | eret (g : Guard)
  /-- ERET_TASK. R99. -/
  | eretTask (g : Guard)
  /-- WFE. R101. -/
  | wfe (g : Guard) (limit : BitVec 40)
  /-- SEV_ALL. R102. -/
  | sevAll (g : Guard)
  /-- SEV_ONE. R102. -/
  | sevOne (g : Guard) (core : BitVec 10)
  /-- SEV_CLUS. R102. -/
  | sevClus (g : Guard)
  /-- HINT_SPIN. R104. -/
  | hintSpin (g : Guard)
  /-- HINT_PF. R104. -/
  | hintPf (g : Guard) (off : BitVec 40)
  /-- MMA. R143, R146. -/
  | mma (g : Guard) (d a b c : Reg) (ty : Ty) (bt : Bool)
  /-- MMAS. R143, R147. -/
  | mmas (g : Guard) (d a b c : Reg) (ty : Ty) (bt : Bool)
  /-- PRUNE. R148, R149. -/
  | prune (g : Guard) (d a b c : Reg) (ty : Ty) (bt : Bool)
  /-- MZERO. R150, R151. -/
  | mzero (g : Guard) (d : Reg)
  /-- MLD. R150, R151. -/
  | mld (g : Guard) (d a : Reg) (ty : Ty) (rnd : Rnd)
  /-- MST. R150, R151. -/
  | mst (g : Guard) (d a : Reg) (ty : Ty) (rnd : Rnd) (sat : Bool)
  /-- AADD. R152. -/
  | aadd (g : Guard) (d a b : Reg) (form : OpForm) (rnd : Rnd) (sat : Bool)
  /-- AMUL. R152. -/
  | amul (g : Guard) (d a b : Reg) (form : OpForm) (rnd : Rnd) (sat : Bool)
  /-- AFMA. R152. -/
  | afma (g : Guard) (d a b c : Reg) (form : OpForm) (rnd : Rnd) (sat : Bool)
  /-- AMAX. R152. -/
  | amax (g : Guard) (d a b : Reg) (form : OpForm)
  /-- AMIN. R152. -/
  | amin (g : Guard) (d a b : Reg) (form : OpForm)
  /-- AEXP2. R152. -/
  | aexp2 (g : Guard) (d a : Reg) (sat : Bool)
  /-- ALOG2. R152. -/
  | alog2 (g : Guard) (d a : Reg) (sat : Bool)
  /-- ARCP. R152. -/
  | arcp (g : Guard) (d a : Reg) (sat : Bool)
  /-- ARSQ. R152. -/
  | arsq (g : Guard) (d a : Reg) (sat : Bool)
  /-- ASIG. R152. -/
  | asig (g : Guard) (d a : Reg) (sat : Bool)
  /-- ASIG_TANH. R152. -/
  | asigTanh (g : Guard) (d a : Reg) (sat : Bool)
  /-- ASIG_SILU. R152. -/
  | asigSilu (g : Guard) (d a : Reg) (sat : Bool)
  /-- ASIG_EXPE. R152. -/
  | asigExpe (g : Guard) (d a : Reg) (sat : Bool)
  /-- ARED_SUM. R155. -/
  | aredSum (g : Guard) (d a : Reg) (rnd : Rnd) (sat : Bool)
  /-- ARED_MAX. R155. -/
  | aredMax (g : Guard) (d a : Reg)
  /-- ARED_MIN. R155. -/
  | aredMin (g : Guard) (d a : Reg)
  /-- ABCAST. R156. -/
  | abcast (g : Guard) (d a : Reg)
  /-- ABCAST_ROW. R156. -/
  | abcastRow (g : Guard) (d a : Reg) (ty : Ty)
  /-- ABCAST_COLV. R156. -/
  | abcastColv (g : Guard) (d a : Reg) (ty : Ty)
  /-- AMOV. R152. -/
  | amov (g : Guard) (d a : Reg)
  /-- ACVT. R157. -/
  | acvt (g : Guard) (d a b : Reg) (ty : Ty) (rnd : Rnd) (sat : Bool)
  /-- ACVT_B32. R157. -/
  | acvtB32 (g : Guard) (d a b : Reg) (ty : Ty) (rnd : Rnd) (sat : Bool)
  /-- RNGLD. R160. -/
  | rngld (g : Guard) (a b : Reg)
  /-- RNGST. R160. -/
  | rngst (g : Guard) (d b : Reg)
  /-- RAND. R160. -/
  | rand (g : Guard) (d : Reg)
  /-- ABIND. R205. -/
  | abind (g : Guard) (slot : BitVec 3) (a b : Reg) (lse : Bool)
  /-- ATTN. R207. -/
  | attn (g : Guard) (slot : BitVec 3) (d a b c : Reg) (tri : Bool)
  /-- TMERGE. R209. -/
  | tmerge (g : Guard) (d a b : Reg)
  /-- KVMAP. R215. -/
  | kvmap (g : Guard) (d a b : Reg)
  /-- KVAPP. R216. -/
  | kvapp (g : Guard) (a b c : Reg)
  /-- KVFORK. R215. -/
  | kvfork (g : Guard) (d a : Reg)
  /-- KVFORK_COW. R217. -/
  | kvforkCow (g : Guard) (d a : Reg)
  /-- KVTRUNC. R215. -/
  | kvtrunc (g : Guard) (a b : Reg)
  /-- KVREL. R215. -/
  | kvrel (g : Guard) (a : Reg)
  /-- KVRET. R215. -/
  | kvret (g : Guard) (a b c : Reg)
  /-- KVCOMPACT. R218. -/
  | kvcompact (g : Guard) (a b c : Reg)
  /-- KVQ_LEN. R215. -/
  | kvqLen (g : Guard) (d a : Reg)
  /-- KVQ_MAP. R215. -/
  | kvqMap (g : Guard) (d a : Reg)
  /-- KVQ_FRAME. R215. -/
  | kvqFrame (g : Guard) (d a : Reg)
  /-- KVQ_STATE. R215. -/
  | kvqState (g : Guard) (d a : Reg)
  /-- PXLKP. R220. -/
  | pxlkp (g : Guard) (d a b : Reg)
  /-- PXLKP_DROP. R220. -/
  | pxlkpDrop (g : Guard) (d a b : Reg)
  /-- PXINS. R221. -/
  | pxins (g : Guard) (d a b : Reg)
  /-- CFG. R297. -/
  | cfg (g : Guard) (a : Reg)
  /-- CFG_STG. R297. -/
  | cfgStg (g : Guard) (a : Reg)
  /-- CFGSW. R297. -/
  | cfgsw (g : Guard)
  /-- STRM. R311, R312. -/
  | strm (g : Guard) (port : BitVec 4) (a b c : Reg) (mode : StrmMode) (ty : Ty) (sc : Scope) (sp : Bool)
  /-- SBAR. R318. -/
  | sbar (g : Guard) (a : Reg)
  /-- SBAR_ORD. R318. -/
  | sbarOrd (g : Guard) (a : Reg)
  /-- BTOK. R319. -/
  | btok (g : Guard) (a : Reg) (id : BitVec 5) (gm : Bool)
  /-- ARGW. R320. -/
  | argw (g : Guard) (op : BitVec 4) (a : Reg)
  /-- TINJ. R321. -/
  | tinj (g : Guard) (ch : BitVec 2) (a : Reg)
  /-- TPOP. R321. -/
  | tpop (g : Guard) (d : Reg) (ch : BitVec 2)
  /-- FSTAT. R322. -/
  | fstat (g : Guard) (d : Reg) (site : BitVec 5)
  /-- FSTAT_ALL. R322. -/
  | fstatAll (g : Guard) (d : Reg)
  /-- SLOTF. R323. -/
  | slotf (g : Guard) (a b : Reg) (sp : Bool)
  /-- CPY_G2S. R354, R355. -/
  | cpyG2s (g : Guard) (d a b c : Reg) (fe gm : Bool) (sc : Scope)
  /-- CPY_S2G. R354, R355. -/
  | cpyS2g (g : Guard) (d a b c : Reg) (gm : Bool) (sc : Scope)
  /-- CPY_G2G. R354, R355. -/
  | cpyG2g (g : Guard) (d a b c : Reg) (gm : Bool) (sc : Scope)
  /-- CPY_S2S. R354, R355. -/
  | cpyS2s (g : Guard) (d a b c : Reg) (fe gm : Bool) (sc : Scope)
  /-- CPY_RING. R358. -/
  | cpyRing (g : Guard) (a b : Reg) (gm : Bool)
  /-- TBINIT. R352. -/
  | tbinit (g : Guard) (a : Reg) (n : BitVec 32) (gm : Bool)
  /-- TBEXP. R352. -/
  | tbexp (g : Guard) (a b : Reg) (gm : Bool)
  /-- TBARR. R352. -/
  | tbarr (g : Guard) (a : Reg) (gm : Bool) (sc : Scope)
  /-- TBWAIT. R352. -/
  | tbwait (g : Guard) (a : Reg) (ph : BitVec 4) (gm : Bool) (sc : Scope)
  /-- TBTEST. R352. -/
  | tbtest (g : Guard) (pd : Pred) (a : Reg) (ph : BitVec 4) (gm : Bool) (sc : Scope)
  /-- AMO. R359, R360. -/
  | amo (g : Guard) (d : Reg) (m : MemOp) (op : AmoOp) (dbl : Bool)
  /-- RED. R359, R360. -/
  | red (g : Guard) (d : Reg) (m : MemOp) (op : AmoOp) (dbl : Bool)
  /-- AMOF. R359, R360. -/
  | amof (g : Guard) (d : Reg) (m : MemOp) (op : AmoOp) (sp dbl : Bool)
  /-- CAS. R361. -/
  | cas (g : Guard) (d a b c : Reg) (sp dbl : Bool)
  /-- LDFE. R362. -/
  | ldfe (g : Guard) (d : Reg) (m : MemOp) (clr : Bool) (sz : Size)
  /-- STFE. R362. -/
  | stfe (g : Guard) (d : Reg) (m : MemOp) (sz : Size)
  /-- PREF. R363. -/
  | pref (g : Guard) (m : MemOp) (l2 : Bool) (sz : Size)
  /-- FENCE. R364. -/
  | fence (g : Guard) (sc : Scope)
  /-- CHAIN_CPY. R366. -/
  | chainCpy (g : Guard) (a b : Reg) (sc : Scope)
  /-- CHAIN_COLL. R366. -/
  | chainColl (g : Guard) (a b : Reg) (sc : Scope)
  /-- SEQW. R367. -/
  | seqw (g : Guard) (d a : Reg) (limit : BitVec 32) (sp : Bool) (sc : Scope)
  /-- COLL_SUM. R368, R369. -/
  | collSum (g : Guard) (d a b c : Reg) (ty : Ty)
  /-- COLL_MAX. R368, R369. -/
  | collMax (g : Guard) (d a b c : Reg) (ty : Ty)
  /-- COLL_MIN. R368, R369. -/
  | collMin (g : Guard) (d a b c : Reg) (ty : Ty)
  /-- COLL_BCAST. R368. -/
  | collBcast (g : Guard) (d a b c : Reg) (ty : Ty)
  /-- COLL_AGATH. R368. -/
  | collAgath (g : Guard) (d a b c : Reg) (ty : Ty)
  /-- COLL_RSCAT. R368. -/
  | collRscat (g : Guard) (d a b c : Reg) (ty : Ty)
  /-- SPL. R371. -/
  | spl (g : Guard) (slot : BitVec 4) (a b c : Reg)
  /-- FIL. R371. -/
  | fil (g : Guard) (slot : BitVec 4) (a b : Reg)
  /-- BSLICE. R388. -/
  | bslice (g : Guard) (d a : Reg) (ty : Ty) (s : BitVec 6)
  /-- BJOIN. R388. -/
  | bjoin (g : Guard) (d a : Reg) (ty : Ty) (s : BitVec 6)
  /-- LCTX. R389. -/
  | lctx (g : Guard) (slot : BitVec 2) (a : Reg)
  /-- LSEL. R392. -/
  | lsel (g : Guard) (slot : BitVec 2)
  /-- LRUN. R392. -/
  | lrun (g : Guard)
  /-- LSTAT_POP. R393. -/
  | lstatPop (g : Guard) (d a : Reg)
  /-- LSTAT_WORD. R393. -/
  | lstatWord (g : Guard) (d a : Reg) (q : BitVec 2)
  /-- LSTAT_SLOT. R393. -/
  | lstatSlot (g : Guard) (d : Reg) (slot : BitVec 2)
  /-- LSTAT_RUNS. R393. -/
  | lstatRuns (g : Guard) (d : Reg)
  /-- TENQ. R411. -/
  | tenq (g : Guard) (a b : Reg)
  /-- LAUNCH. R411. -/
  | launch (g : Guard) (a : Reg)
  /-- LAUNCH_ARG. R411. -/
  | launchArg (g : Guard) (a b : Reg)
  /-- GSIG. R411. -/
  | gsig (g : Guard) (a b : Reg)
  /-- TEND. R412. -/
  | tend (g : Guard)
  /-- TYIELD. R412. -/
  | tyield (g : Guard)
  /-- RINV_TAG. R428. -/
  | rinvTag (g : Guard) (d a : Reg)
  /-- RINV_RANGE. R428. -/
  | rinvRange (g : Guard) (d a b : Reg)
  /-- RINV_ALL. R428. -/
  | rinvAll (g : Guard) (d : Reg)
  /-- RINV_ASID. R428. -/
  | rinvAsid (g : Guard) (d a : Reg)
  /-- RSTAT_LKP. R428. -/
  | rstatLkp (g : Guard) (d : Reg)
  /-- RSTAT_HIT. R428. -/
  | rstatHit (g : Guard) (d : Reg)
  /-- RSTAT_MISS. R428. -/
  | rstatMiss (g : Guard) (d : Reg)
  /-- RSTAT_INS. R428. -/
  | rstatIns (g : Guard) (d : Reg)
  /-- RSTAT_PROBE. R428. -/
  | rstatProbe (g : Guard) (d a : Reg)
  /-- RSTAT_HELD. R428. -/
  | rstatHeld (g : Guard) (d : Reg)
  /-- RSTAT_QUOTA. R428. -/
  | rstatQuota (g : Guard) (d : Reg)
  /-- ILLEGAL_WORD. R62. -/
  | illegalWord (w : Word)
  /-- INSTRUCTION_FETCH_FAULT. R63. -/
  | instructionFetchFault (prot : Bool) (sub : Byte)
  /-- REGISTER_WRITE. R94: the moving core writes a register that has no behaviour of its own. -/
  | registerWrite (n : BitVec 12) (v : Word)
  /-- WFE_TIMEOUT. R101: the limit of the WFE that core c waits in. -/
  | wfeTimeout (c : Nat)
  /-- SEV_DELIVERY. R103: the oldest event on its way is delivered. -/
  | sevDelivery
  /-- COMPACTION_DONE. R218: the oldest compaction of the die switches its map. -/
  | compactionDone (die : Nat)
  /-- SLAB_RELOCATION_STEP. R249: relocation k of the die moves one entry. -/
  | slabRelocationStep (die k : Nat)
  /-- PORT_READ_ACCESS. R312: port p of core c. -/
  | portReadAccess (c p : Nat)
  /-- PORT_GATHER_ACCESS. R312. -/
  | portGatherAccess (c p : Nat)
  /-- PORT_WRITE_ACCESS. R312. -/
  | portWriteAccess (c p : Nat)
  /-- PORT_REDUCTION_ACCESS. R312. -/
  | portReductionAccess (c p : Nat)
  /-- PORT_CONDITION. R314. -/
  | portCondition (c p : Nat)
  /-- SPECULATIVE_FETCH. R316. -/
  | speculativeFetch (c p : Nat)
  /-- PORT_BAR_ARRIVAL. R319. -/
  | portBarArrival (c p : Nat)
  /-- PORT_DONE_TOKEN. R310. -/
  | portDoneToken (c p : Nat)
  /-- PORT_RETRY. R257. -/
  | portRetry (c p : Nat)
  /-- RELATCH_TOKEN. R240: site 48-63 an operator, 64-79 a port. -/
  | relatchToken (c site : Nat)
  /-- INPUT_PACKET_EXPAND. R292. -/
  | inputPacketExpand (c site ch : Nat)
  /-- CFGK_CONSUME. R271. -/
  | cfgkConsume (c e ch : Nat)
  /-- REPEAT. R301: operator site o of core c. -/
  | repeatBlock (c o : Nat)
  /-- MERGE_ISECT. R302. -/
  | mergeIsect (c o : Nat)
  /-- MERGE_UNION. R302. -/
  | mergeUnion (c o : Nat)
  /-- MERGE_CHK. R302. -/
  | mergeChk (c o : Nat)
  /-- RADIX. R303. -/
  | radix (c o : Nat)
  /-- GATE. R304. -/
  | gate (c o : Nat)
  /-- SELECT. R304. -/
  | select (c o : Nat)
  /-- STAT. R305. -/
  | stat (c o : Nat)
  /-- XLAT. R241. -/
  | xlat (c o : Nat)
  /-- CBDEC. R306. -/
  | cbdec (c o : Nat)
  /-- DELTA. R307. -/
  | delta (c o : Nat)
  /-- FCONV. R308. -/
  | fconv (c o : Nat)
  /-- RLE. R308. -/
  | rle (c o : Nat)
  /-- TRANSP. R308. -/
  | transp (c o : Nat)
  /-- MOV. R279. -/
  | mov (c e : Nat)
  /-- IADD. R279. -/
  | iadd (c e : Nat)
  /-- ISUB. R279. -/
  | isub (c e : Nat)
  /-- IMUL. R279. -/
  | imul (c e : Nat)
  /-- IMAD. R279. -/
  | imad (c e : Nat)
  /-- IAND. R279. -/
  | iand (c e : Nat)
  /-- IOR. R279. -/
  | ior (c e : Nat)
  /-- IXOR. R279. -/
  | ixor (c e : Nat)
  /-- ISHL. R279. -/
  | ishl (c e : Nat)
  /-- ISHR. R279. -/
  | ishr (c e : Nat)
  /-- ISRA. R279. -/
  | isra (c e : Nat)
  /-- IMIN. R279. -/
  | imin (c e : Nat)
  /-- IMAX. R279. -/
  | imax (c e : Nat)
  /-- ICMP. R280. -/
  | icmp (c e : Nat)
  /-- ELEM_SEL. R281. -/
  | elemSel (c e : Nat)
  /-- CMPC. R280. -/
  | cmpc (c e : Nat)
  /-- DEQ. R281. -/
  | deq (c e : Nat)
  /-- EMIT. R281. -/
  | emit (c e : Nat)
  /-- FADD. R282. -/
  | fadd (c e : Nat)
  /-- FSUB. R282. -/
  | fsub (c e : Nat)
  /-- FMUL. R282. -/
  | fmul (c e : Nat)
  /-- FFMA. R282. -/
  | ffma (c e : Nat)
  /-- FMIN. R282. -/
  | fmin (c e : Nat)
  /-- FMAX. R282. -/
  | fmax (c e : Nat)
  /-- FCMP. R280. -/
  | fcmp (c e : Nat)
  /-- FEXP2. R282. -/
  | fexp2 (c e : Nat)
  /-- FRCP. R282. -/
  | frcp (c e : Nat)
  /-- FCVT_F32_BF16. R283. -/
  | fcvtF32Bf16 (c e : Nat)
  /-- FCVT_F32_F16. R283. -/
  | fcvtF32F16 (c e : Nat)
  /-- FCVT_F32_E4M3. R283. -/
  | fcvtF32E4m3 (c e : Nat)
  /-- FCVT_F32_E5M2. R283. -/
  | fcvtF32E5m2 (c e : Nat)
  /-- FCVT_F32_E2M1. R283. -/
  | fcvtF32E2m1 (c e : Nat)
  /-- FCVT_F32_S32. R283. -/
  | fcvtF32S32 (c e : Nat)
  /-- FCVT_F32_Z32. R283. -/
  | fcvtF32Z32 (c e : Nat)
  /-- FCVT_BF16_F32. R283. -/
  | fcvtBf16F32 (c e : Nat)
  /-- FCVT_F16_F32. R283. -/
  | fcvtF16F32 (c e : Nat)
  /-- FCVT_E4M3_F32. R283. -/
  | fcvtE4m3F32 (c e : Nat)
  /-- FCVT_E5M2_F32. R283. -/
  | fcvtE5m2F32 (c e : Nat)
  /-- FCVT_E2M1_F32. R283. -/
  | fcvtE2m1F32 (c e : Nat)
  /-- FCVT_S32_F32. R283. -/
  | fcvtS32F32 (c e : Nat)
  /-- FCVT_Z32_F32. R283. -/
  | fcvtZ32F32 (c e : Nat)
  /-- VADD_BF16. R284. -/
  | vaddBf16 (c e : Nat)
  /-- VMUL_BF16. R284. -/
  | vmulBf16 (c e : Nat)
  /-- VFMA_BF16. R284. -/
  | vfmaBf16 (c e : Nat)
  /-- VADD_F16. R284. -/
  | vaddF16 (c e : Nat)
  /-- VMUL_F16. R284. -/
  | vmulF16 (c e : Nat)
  /-- VFMA_F16. R284. -/
  | vfmaF16 (c e : Nat)
  /-- VADD_S16. R284. -/
  | vaddS16 (c e : Nat)
  /-- VMUL_S16. R284. -/
  | vmulS16 (c e : Nat)
  /-- VADD_S8. R284. -/
  | vaddS8 (c e : Nat)
  /-- VMUL_S8. R284. -/
  | vmulS8 (c e : Nat)
  /-- COPY_SECTOR_WRITE. R355: sector of copy number k of core c. -/
  | copySectorWrite (c k sector : Nat)
  /-- COPY_SECTOR_RETRY. R356. -/
  | copySectorRetry (c k sector : Nat)
  /-- RING_SLOT_COPY. R358: ring number k of core c. -/
  | ringSlotCopy (c k : Nat)
  /-- UPDATE_ONLY_EVICT. R339. -/
  | updateOnlyEvict (c line : Nat)
  /-- CHAIN_ENTRY_COMPLETE. R366: the oldest running entry of chain number k of core c. -/
  | chainEntryComplete (c k : Nat)
  /-- SEQW_TIMEOUT. R367. -/
  | seqwTimeout (c : Nat)
  /-- TABLE_LOAD_ENTRY. R390. -/
  | tableLoadEntry (c slot entry : Nat)
  /-- DISPATCH. R416, R417: the scheduler of partition p fills one free day set. -/
  | dispatch (p : Nat)
  /-- REUSE_LOOKUP. R422: the scheduler takes the pure head record of the node. -/
  | reuseLookup (p : Nat) (node : Word) (asid : BitVec 13)
  /-- SCHEDULER_DUSK. R418. -/
  | schedulerDusk (p : Nat)
  /-- TYIELD_AGE_EXPIRY. R412. -/
  | tyieldAgeExpiry (c : Nat)
  /-- ASYNC_TRAP. R253: the oldest fault raised by another block of core c. -/
  | asyncTrap (c : Nat)
  /-- PRT_INV. R239: the moving core writes v to PRT_INV. -/
  | prtInv (v : Word)
  /-- INVALIDATION_COMPLETE. R239. -/
  | invalidationComplete (p : Nat)
  /-- POP_MIGRATE. R243, R245: the moving core writes PRT_POPCMD with OP 1. -/
  | popMigrate (asid : BitVec 13)
  /-- POP_DUPLICATE. R243, R246: OP 2. -/
  | popDuplicate (asid : BitVec 13)
  /-- POP_COLLAPSE. R243, R247: OP 3. -/
  | popCollapse (asid : BitVec 13)
  /-- PAGE_OPERATION_COMPLETE. R243. -/
  | pageOperationComplete (p : Nat)
  /-- DRAIN_TIMER_EXPIRY. R258. -/
  | drainTimerExpiry (c : Nat)
  /-- DRAIN_TIMEOUT. R260. -/
  | drainTimeout (c : Nat)
  /-- TCMD_RESUME. R256: the moving core writes 1 to PRT_TCMD. -/
  | tcmdResume
  /-- TCMD_END. R256: the moving core writes 2 to PRT_TCMD. -/
  | tcmdEnd
  /-- HOTVAL_READ. R244: the moving core reads PRT_HOTVAL into g[d]. -/
  | hotvalRead (d : Reg)
  /-- FRR_ENABLE. R129: the moving core writes FRR_CTL with EN set. -/
  | frrEnable (v : Word)
  /-- FRR_DISABLE. R130: the moving core writes FRR_CTL with EN clear. -/
  | frrDisable (v : Word)
  /-- SCH_QUOTA_WRITE. R425: the moving core writes SCH_QUOTA. -/
  | schQuotaWrite (v : Word)
  /-- PRT_DUSK. R431: the moving core writes 1 to PRT_DUSK. -/
  | prtDusk
  /-- DUSK_START. R431, R432. -/
  | duskStart (c : Nat)
  /-- MARKER_PASS. R434. -/
  | markerPass (c site : Nat)
  /-- WRITE_PORT_DRAIN. R435. -/
  | writePortDrain (c p : Nat)
  /-- FOREIGN_MARK_ARRIVAL. R436. -/
  | foreignMarkArrival (c site ch : Nat)
  /-- SET_SWAP. R437. -/
  | setSwap (c : Nat)
  /-- TASK_RESUME. R439. -/
  | taskResume (c : Nat)
  /-- PRT_RSZ. R443. -/
  | prtRsz (v : Word)
  /-- CLUSTER_REMOVAL_COMPLETE. R444: logical cluster cl of partition p. -/
  | clusterRemovalComplete (p cl : Nat)
  /-- PRT_MOVE. R445. -/
  | prtMove (v : Word)
  /-- TICKET_EXPORT. R448: the moving core writes PRT_TKCMD with OP 1. -/
  | ticketExport
  /-- TICKET_IMPORT. R449: OP 2. -/
  | ticketImport (asid : BitVec 13)
  /-- DOORBELL. R455. -/
  | doorbell (p : Nat) (t : BitVec 32)
  /-- RING_ENTRY_NOP. R455. -/
  | ringEntryNop (p : Nat)
  /-- RING_ENTRY_GRAPH. R410, R455. -/
  | ringEntryGraph (p : Nat)
  /-- RING_ENTRY_RECORD. R455. -/
  | ringEntryRecord (p : Nat)
  /-- DAYBREAK. R457. -/
  | daybreak (tag : Byte)
  /-- PART_CREATE. R456. -/
  | partCreate (tag : Byte) (args : PartArgs)
  /-- PART_DESTROY. R456. -/
  | partDestroy (tag : Byte) (p : Nat)
  /-- SET_TABLES. R456. -/
  | setTables (tag : Byte) (atBase keyBase : Word)
  /-- ASID_SYNC. R456. -/
  | asidSync (tag : Byte) (asid : BitVec 13)
  /-- FRR_OWNER. R456. -/
  | frrOwner (tag : Byte) (range p : Nat)
  /-- GROUP_REG. R456. -/
  | groupReg (tag : Byte) (group : BitVec 16) (members : List Member)
  /-- APERTURE. R456, R461. -/
  | aperture (tag : Byte) (n : Nat) (device : BitVec 12) (enable : Bool)
  /-- TICKET_KEY. R456. -/
  | ticketKey (tag : Byte) (key : BitVec 256)
  /-- CLUSTER_MOVE. R456. -/
  | clusterMove (tag : Byte) (p logical physical : Nat)
  /-- RESET. R456, R458. -/
  | reset (tag : Byte) (clearCount : Bool)
  /-- MAILBOX_UNKNOWN. R456. -/
  | mailboxUnknown (tag code : Byte)
  /-- HIF_ERR_CLEAR. R453. -/
  | hifErrClear (v : Word)
  /-- HOST_MEM_REQUEST. R343. -/
  | hostMemRequest (req : HostReq)
  /-- HOST_WRITE_SNOOP. R344. -/
  | hostWriteSnoop (addr : Nat) (bytes : List Byte)
  /-- DRUAT_LOAD. R462. -/
  | druatLoad (port : Nat) (f : Flit)
  /-- DRUAT_LOAD_RESPONSE. R462. -/
  | druatLoadResponse (port : Nat) (f : Flit)
  /-- DRUAT_STORE. R462. -/
  | druatStore (port : Nat) (f : Flit)
  /-- DRUAT_REDUCTION. R462. -/
  | druatReduction (port : Nat) (f : Flit) (op : AmoOp) (dbl : Bool)
  /-- DRUAT_ACKNOWLEDGE. R462. -/
  | druatAcknowledge (port : Nat) (f : Flit)
  /-- DRUAT_COLLECTIVE_STREAM. R462. -/
  | druatCollectiveStream (port : Nat) (f : Flit) (group : BitVec 16) (rank : Nat)
  /-- DRUAT_MIGRATION_STREAM. R462. -/
  | druatMigrationStream (port : Nat) (f : Flit)
  /-- DRUAT_IDLE. R462. -/
  | druatIdle (port : Nat) (f : Flit)
  /-- FLIT_CRC_FAIL. R462. -/
  | flitCrcFail (port : Nat)
  /-- PORT_RETRAIN. R462. -/
  | portRetrain (port : Nat)
  /-- PORT_FAILED. R462. -/
  | portFailed (port : Nat)
  /-- POWER_ON_START. R458. -/
  | powerOnStart
  /-- START_TIMEOUT. R458. -/
  | startTimeout
  /-- TWILIGHT_START. R460. -/
  | twilightStart (ok : Bool) (step : BitVec 4) (ucie0 : Bool)
  /-- TWILIGHT_RETRY. R460. -/
  | twilightRetry
  /-- POWER_STEP. R463. -/
  | powerStep (island : Nat) (up : Bool)
  /-- CLAIM_STREAM_DONE. R39. -/
  | claimStreamDone (c : Nat)
  /-- MAILBOX_RESULT_POSTED. R456. -/
  | mailboxResultPosted
  /-- START_COMPLETE. R458: none on success, else the failed step; lanes trained per Druat port. -/
  | startComplete (failed : Option (BitVec 4)) (lanes : List (BitVec 8))
  /-- RETRAIN_COMPLETE. R462. -/
  | retrainComplete (port : Nat) (ok : Bool)
  /-- HOST_CXL_RESPONSE. R344. -/
  | hostCxlResponse (r : CxlResp)
  /-- PRT_FQHEAD_WRITE. R255. -/
  | prtFqheadWrite (v : Word)
  /-- POWER_LOSS. R458. -/
  | powerLoss
  /-- TRAY_POWER_LIMIT. R463. -/
  | trayPowerLimit (w : BitVec 16)
  deriving DecidableEq, Repr

end Sys2Proof
end

