-- ==== Sys2Proof/WellFormed.lean ====
section
/-! DEFINITION. The conditions an instruction's fields meet (R49 to R62 and the owning chapters). A word whose fields break
one of them is not accepted (R62); a step of another agent names a site, core or port that exists. -/

namespace Sys2Proof

/-- The even register of a pair (R49). -/
def Reg.even (r : Reg) : Bool := !r.getLsbD 0

/-- Register numbers that some chapter assigns (R94, R96, R199, R223, R127, R261, R383, R429, R451, R465). -/
def Csr.assigned (n : BitVec 12) : Bool :=
  let k := n.toNat
  k ≤ 0x004 || (0x008 ≤ k && k ≤ 0x013) || (0x020 ≤ k && k ≤ 0x025) || k == 0x0F0 || (0x100 ≤ k && k ≤ 0x106) ||
  (0x180 ≤ k && k ≤ 0x189) || (0x200 ≤ k && k ≤ 0x206) || (0x280 ≤ k && k ≤ 0x296) || (0x2A0 ≤ k && k ≤ 0x2AF) ||
  (0x300 ≤ k && k ≤ 0x309) || (0x380 ≤ k && k ≤ 0x383) || (0x400 ≤ k && k ≤ 0x402)

/-- Types of MMA and MMAS (R143). -/
def Ty.mmaOk : Ty → Bool
  | .e4m3 | .e5m2 | .e2m1 | .bf16 | .f16 | .c2x8 => true
  | _ => false
/-- Types of PRUNE (R148). -/
def Ty.pruneOk : Ty → Bool
  | .e4m3 | .e5m2 | .bf16 | .f16 => true
  | _ => false
/-- Types of MLD and MST (R150). -/
def Ty.tileOk : Ty → Bool
  | .f32 | .bf16 | .f16 | .e4m3 | .e5m2 | .e2m1 | .s8 | .s32 => true
  | _ => false
/-- Types of ABCAST.row and ABCAST.colv (R156). -/
def Ty.bcastOk : Ty → Bool
  | .f32 | .bf16 | .f16 => true
  | _ => false
/-- Types of ACVT (R157). -/
def Ty.packedOk : Ty → Bool
  | .e4m3 | .e5m2 | .e2m1 => true
  | _ => false
/-- Types of the combining collectives (R368). -/
def Ty.combineOk : Ty → Bool
  | .f32 | .bf16 | .s32 | .z32 => true
  | _ => false
/-- The integer types (R109, R387). -/
def Ty.isInt : Ty → Bool
  | .s8 | .s16 | .s32 | .s64 | .z8 | .z16 | .z32 | .z64 => true
  | _ => false

/-- Types a stream mode takes (R312). -/
def StrmMode.typeOk (m : StrmMode) (t : Ty) : Bool :=
  match m with
  | .fib | .sadd | .smin | .smax => t == .s32 || t == .z32 || t == .f32
  | .rd | .wr | .scat | .gath =>
    t != .f64 && t != .s64 && t != .z64 && t != .e2m1 && t != .c2x8 && t != .e8m0
/-- Modes that carry a scope: modes 0, 1 and 7 carry none (R312). -/
def StrmMode.scoped : StrmMode → Bool
  | .rd | .fib | .gath => false
  | _ => true
/-- Modes that may name the scratchpad: all but modes 4 to 7 (R312). -/
def StrmMode.spadOk : StrmMode → Bool
  | .rd | .fib | .wr | .scat => true
  | _ => false

/-- Operations of AMO (R359). -/
def AmoOp.amoOk : AmoOp → Bool
  | .fadd | .fmin | .fmax => false
  | _ => true
/-- Operations of RED (R359). -/
def AmoOp.redOk : AmoOp → Bool
  | .xchg => false
  | _ => true
/-- Operations of AMOF (R359). -/
def AmoOp.amofOk : AmoOp → Bool
  | .fadd | .fmin | .fmax => true
  | _ => false

/-- Sizes of LDFE and STFE (R362). -/
def Size.granule : Size → Bool
  | .w | .d | .q => true
  | _ => false

/-- The opcodes of R60 that are assigned. -/
def opAssigned (w : Word) : Bool :=
  let op := (w.extractLsb' 56 8).toNat
  (0x01 ≤ op && op ≤ 0x29) || (0x30 ≤ op && op ≤ 0x3B) || (0x40 ≤ op && op ≤ 0x49) || (0x50 ≤ op && op ≤ 0x58) ||
  (0x60 ≤ op && op ≤ 0x65) || (0x70 ≤ op && op ≤ 0x7D) || (0x80 ≤ op && op ≤ 0x8C) || (0x90 ≤ op && op ≤ 0x95) ||
  (0x98 ≤ op && op ≤ 0xA6)

/-- The fields of an instruction are ones the spec gives it. -/
def Instr.wf : Instr → Bool
  | .add _ _ _ _ => true
  | .sub _ _ _ _ => true
  | .mul _ _ _ _ => true
  | .mulh _ _ _ _ => true
  | .mulhz _ _ _ _ => true
  | .div _ _ _ _ => true
  | .divz _ _ _ _ => true
  | .rem _ _ _ _ => true
  | .remz _ _ _ _ => true
  | .and _ _ _ _ => true
  | .or _ _ _ _ => true
  | .xor _ _ _ _ => true
  | .andn _ _ _ _ => true
  | .shlReg _ _ _ _ => true
  | .shlImm _ _ _ _ => true
  | .shrReg _ _ _ _ => true
  | .shrImm _ _ _ _ => true
  | .shaReg _ _ _ _ => true
  | .shaImm _ _ _ _ => true
  | .rotReg _ _ _ _ => true
  | .rotImm _ _ _ _ => true
  | .min _ _ _ _ => true
  | .max _ _ _ _ => true
  | .minz _ _ _ _ => true
  | .maxz _ _ _ _ => true
  | .clz _ _ _ => true
  | .popc _ _ _ => true
  | .bfx _ _ _ _ _ => true
  | .bfxS _ _ _ _ _ => true
  | .bfi _ _ _ _ _ => true
  | .addsh _ _ _ _ _ => true
  | .mad _ _ _ _ _ => true
  | .cmp _ _ _ _ _ => true
  | .sel _ _ _ _ _ => true
  | .movi _ _ _ => true
  | .movhi _ _ _ => true
  | .addi _ _ _ _ => true
  | .pand _ _ _ _ _ _ => true
  | .por _ _ _ _ _ _ => true
  | .pnot _ _ _ => true
  | .br _ _ => true
  | .jal _ _ => true
  | .jr _ _ _ => true
  | .brcL1 _ _ => true
  | .brcAll _ _ => true
  | .loop _ _ _ _ => true
  | .loopi _ _ _ _ => true
  | .nop _ => true
  | .ld _ d _ _ sx sz => (sz != .q || Reg.even d) && (!sx || sz == .b || sz == .h || sz == .w)
  | .st _ d _ _ sz => sz != .q || Reg.even d
  | .csrr _ _ n => Csr.assigned n
  | .csrw _ n _ => Csr.assigned n
  | .csrwSet _ n _ => Csr.assigned n
  | .csrwClr _ n _ => Csr.assigned n
  | .trap _ _ => true
  | .eret _ => true
  | .eretTask _ => true
  | .wfe _ _ => true
  | .sevAll _ => true
  | .sevOne _ _ => true
  | .sevClus _ => true
  | .hintSpin _ => true
  | .hintPf _ _ => true
  | .mma _ _ a b _ ty bt => Ty.mmaOk ty && Reg.even a && Reg.even b && (ty != .c2x8 || bt) && (!(a == 0 || b == 0) || (ty != .e2m1 && ty != .c2x8 && !bt))
  | .mmas _ _ a b _ ty bt => Ty.mmaOk ty && Reg.even a && Reg.even b && a != 0 && b != 0 && (ty != .c2x8 || bt)
  | .prune _ d a _ _ ty _ => Ty.pruneOk ty && Reg.even d && Reg.even a
  | .mzero _ _ => true
  | .mld _ _ a ty rnd => Ty.tileOk ty && Reg.even a && (ty == .s32 || rnd == .rne)
  | .mst _ d _ ty _ _ => Ty.tileOk ty && Reg.even d
  | .aadd _ _ _ _ _ _ _ => true
  | .amul _ _ _ _ _ _ _ => true
  | .afma _ _ _ _ _ _ _ _ => true
  | .amax _ _ _ _ _ => true
  | .amin _ _ _ _ _ => true
  | .aexp2 _ _ _ _ => true
  | .alog2 _ _ _ _ => true
  | .arcp _ _ _ _ => true
  | .arsq _ _ _ _ => true
  | .asig _ _ _ _ => true
  | .asigTanh _ _ _ _ => true
  | .asigSilu _ _ _ _ => true
  | .asigExpe _ _ _ _ => true
  | .aredSum _ _ _ _ _ => true
  | .aredMax _ _ _ => true
  | .aredMin _ _ _ => true
  | .abcast _ _ _ => true
  | .abcastRow _ _ _ ty => Ty.bcastOk ty
  | .abcastColv _ _ _ ty => Ty.bcastOk ty
  | .amov _ _ _ => true
  | .acvt _ d _ _ ty _ _ => Ty.packedOk ty && Reg.even d
  | .acvtB32 _ d _ _ ty _ _ => Ty.packedOk ty && Reg.even d
  | .rngld _ _ b => Reg.even b
  | .rngst _ _ b => Reg.even b
  | .rand _ _ => true
  | .abind _ _ _ _ _ => true
  | .attn _ _ d a _ _ tri => (tri || Reg.even d) && Reg.even a
  | .tmerge _ _ _ _ => true
  | .kvmap _ _ _ _ => true
  | .kvapp _ _ _ _ => true
  | .kvfork _ _ _ => true
  | .kvforkCow _ _ _ => true
  | .kvtrunc _ _ _ => true
  | .kvrel _ _ => true
  | .kvret _ _ _ _ => true
  | .kvcompact _ _ _ _ => true
  | .kvqLen _ _ _ => true
  | .kvqMap _ _ _ => true
  | .kvqFrame _ _ _ => true
  | .kvqState _ _ _ => true
  | .pxlkp _ _ a _ => Reg.even a
  | .pxlkpDrop _ _ a _ => Reg.even a
  | .pxins _ _ a _ => Reg.even a
  | .cfg _ _ => true
  | .cfgStg _ _ => true
  | .cfgsw _ => true
  | .strm _ _ _ _ _ mode ty sc sp => StrmMode.typeOk mode ty && (mode.scoped || sc == .core) && (!sp || mode.spadOk)
  | .sbar _ _ => true
  | .sbarOrd _ _ => true
  | .btok _ _ _ _ => true
  | .argw _ _ _ => true
  | .tinj _ _ _ => true
  | .tpop _ _ _ => true
  | .fstat _ _ _ => true
  | .fstatAll _ _ => true
  | .slotf _ _ _ _ => true
  | .cpyG2s _ _ _ _ _ _ gm sc => gm || sc == .core
  | .cpyS2g _ _ _ _ _ gm sc => gm || sc == .core
  | .cpyG2g _ _ _ _ _ gm sc => gm || sc == .core
  | .cpyS2s _ _ _ _ _ _ gm sc => gm || sc == .core
  | .cpyRing _ _ _ _ => true
  | .tbinit _ _ n _ => 1 ≤ n.toNat && n.toNat < 2 ^ 20
  | .tbexp _ _ _ _ => true
  | .tbarr _ _ gm sc => gm || sc == .core
  | .tbwait _ _ _ gm sc => gm || sc == .core
  | .tbtest _ _ _ _ gm sc => gm || sc == .core
  | .amo _ _ _ op _ => AmoOp.amoOk op
  | .red _ _ _ op _ => AmoOp.redOk op
  | .amof _ _ _ op _ _ => AmoOp.amofOk op
  | .cas _ _ _ _ _ _ _ => true
  | .ldfe _ d _ _ sz => Size.granule sz && (sz != .q || Reg.even d)
  | .stfe _ d _ sz => Size.granule sz && (sz != .q || Reg.even d)
  | .pref _ _ _ _ => true
  | .fence _ _ => true
  | .chainCpy _ _ _ _ => true
  | .chainColl _ _ _ _ => true
  | .seqw _ _ _ _ _ _ => true
  | .collSum _ _ _ _ _ ty => Ty.combineOk ty
  | .collMax _ _ _ _ _ ty => Ty.combineOk ty
  | .collMin _ _ _ _ _ ty => Ty.combineOk ty
  | .collBcast _ _ _ _ _ ty => ty != .e2m1 && ty != .c2x8
  | .collAgath _ _ _ _ _ ty => ty != .e2m1 && ty != .c2x8
  | .collRscat _ _ _ _ _ ty => Ty.combineOk ty
  | .spl _ _ _ _ _ => true
  | .fil _ _ _ _ => true
  | .bslice _ _ _ ty _ => Ty.isInt ty
  | .bjoin _ _ _ ty _ => Ty.isInt ty
  | .lctx _ _ _ => true
  | .lsel _ _ => true
  | .lrun _ => true
  | .lstatPop _ _ _ => true
  | .lstatWord _ _ _ _ => true
  | .lstatSlot _ _ _ => true
  | .lstatRuns _ _ => true
  | .tenq _ _ _ => true
  | .launch _ _ => true
  | .launchArg _ _ _ => true
  | .gsig _ _ _ => true
  | .tend _ => true
  | .tyield _ => true
  | .rinvTag _ _ _ => true
  | .rinvRange _ _ _ _ => true
  | .rinvAll _ _ => true
  | .rinvAsid _ _ _ => true
  | .rstatLkp _ _ => true
  | .rstatHit _ _ => true
  | .rstatMiss _ _ => true
  | .rstatIns _ _ => true
  | .rstatProbe _ _ _ => true
  | .rstatHeld _ _ => true
  | .rstatQuota _ _ => true
  | .illegalWord w => !opAssigned w
  | .instructionFetchFault _ _ => true
  | .registerWrite n _ => Csr.assigned n
  | .wfeTimeout c => decide (c < 640)
  | .sevDelivery => true
  | .compactionDone die => decide (die < 4)
  | .slabRelocationStep die _ => decide (die < 4)
  | .portReadAccess c p => decide (c < 640) && decide (p < 16)
  | .portGatherAccess c p => decide (c < 640) && decide (p < 16)
  | .portWriteAccess c p => decide (c < 640) && decide (p < 16)
  | .portReductionAccess c p => decide (c < 640) && decide (p < 16)
  | .portCondition c p => decide (c < 640) && decide (p < 16)
  | .speculativeFetch c p => decide (c < 640) && decide (p < 16)
  | .portBarArrival c p => decide (c < 640) && decide (p < 16)
  | .portDoneToken c p => decide (c < 640) && decide (p < 16)
  | .portRetry c p => decide (c < 640) && decide (p < 16)
  | .relatchToken c site => decide (c < 640) && decide (site < 128)
  | .inputPacketExpand c site ch => decide (c < 640) && decide (site < 128) && decide (ch < 4)
  | .cfgkConsume c e ch => decide (c < 640) && decide (e < 48) && decide (ch < 4)
  | .repeatBlock c o => decide (c < 640) && decide (o < 16)
  | .mergeIsect c o => decide (c < 640) && decide (o < 16)
  | .mergeUnion c o => decide (c < 640) && decide (o < 16)
  | .mergeChk c o => decide (c < 640) && decide (o < 16)
  | .radix c o => decide (c < 640) && decide (o < 16)
  | .gate c o => decide (c < 640) && decide (o < 16)
  | .select c o => decide (c < 640) && decide (o < 16)
  | .stat c o => decide (c < 640) && decide (o < 16)
  | .xlat c o => decide (c < 640) && decide (o < 16)
  | .cbdec c o => decide (c < 640) && decide (o < 16)
  | .delta c o => decide (c < 640) && decide (o < 16)
  | .fconv c o => decide (c < 640) && decide (o < 16)
  | .rle c o => decide (c < 640) && decide (o < 16)
  | .transp c o => decide (c < 640) && decide (o < 16)
  | .mov c e => decide (c < 640) && decide (e < 48)
  | .iadd c e => decide (c < 640) && decide (e < 48)
  | .isub c e => decide (c < 640) && decide (e < 48)
  | .imul c e => decide (c < 640) && decide (e < 48)
  | .imad c e => decide (c < 640) && decide (e < 48)
  | .iand c e => decide (c < 640) && decide (e < 48)
  | .ior c e => decide (c < 640) && decide (e < 48)
  | .ixor c e => decide (c < 640) && decide (e < 48)
  | .ishl c e => decide (c < 640) && decide (e < 48)
  | .ishr c e => decide (c < 640) && decide (e < 48)
  | .isra c e => decide (c < 640) && decide (e < 48)
  | .imin c e => decide (c < 640) && decide (e < 48)
  | .imax c e => decide (c < 640) && decide (e < 48)
  | .icmp c e => decide (c < 640) && decide (e < 48)
  | .elemSel c e => decide (c < 640) && decide (e < 48)
  | .cmpc c e => decide (c < 640) && decide (e < 48)
  | .deq c e => decide (c < 640) && decide (e < 48)
  | .emit c e => decide (c < 640) && decide (e < 48)
  | .fadd c e => decide (c < 640) && decide (e < 48)
  | .fsub c e => decide (c < 640) && decide (e < 48)
  | .fmul c e => decide (c < 640) && decide (e < 48)
  | .ffma c e => decide (c < 640) && decide (e < 48)
  | .fmin c e => decide (c < 640) && decide (e < 48)
  | .fmax c e => decide (c < 640) && decide (e < 48)
  | .fcmp c e => decide (c < 640) && decide (e < 48)
  | .fexp2 c e => decide (c < 640) && decide (e < 48)
  | .frcp c e => decide (c < 640) && decide (e < 48)
  | .fcvtF32Bf16 c e => decide (c < 640) && decide (e < 48)
  | .fcvtF32F16 c e => decide (c < 640) && decide (e < 48)
  | .fcvtF32E4m3 c e => decide (c < 640) && decide (e < 48)
  | .fcvtF32E5m2 c e => decide (c < 640) && decide (e < 48)
  | .fcvtF32E2m1 c e => decide (c < 640) && decide (e < 48)
  | .fcvtF32S32 c e => decide (c < 640) && decide (e < 48)
  | .fcvtF32Z32 c e => decide (c < 640) && decide (e < 48)
  | .fcvtBf16F32 c e => decide (c < 640) && decide (e < 48)
  | .fcvtF16F32 c e => decide (c < 640) && decide (e < 48)
  | .fcvtE4m3F32 c e => decide (c < 640) && decide (e < 48)
  | .fcvtE5m2F32 c e => decide (c < 640) && decide (e < 48)
  | .fcvtE2m1F32 c e => decide (c < 640) && decide (e < 48)
  | .fcvtS32F32 c e => decide (c < 640) && decide (e < 48)
  | .fcvtZ32F32 c e => decide (c < 640) && decide (e < 48)
  | .vaddBf16 c e => decide (c < 640) && decide (e < 48)
  | .vmulBf16 c e => decide (c < 640) && decide (e < 48)
  | .vfmaBf16 c e => decide (c < 640) && decide (e < 48)
  | .vaddF16 c e => decide (c < 640) && decide (e < 48)
  | .vmulF16 c e => decide (c < 640) && decide (e < 48)
  | .vfmaF16 c e => decide (c < 640) && decide (e < 48)
  | .vaddS16 c e => decide (c < 640) && decide (e < 48)
  | .vmulS16 c e => decide (c < 640) && decide (e < 48)
  | .vaddS8 c e => decide (c < 640) && decide (e < 48)
  | .vmulS8 c e => decide (c < 640) && decide (e < 48)
  | .copySectorWrite c _ _ => decide (c < 640)
  | .copySectorRetry c _ _ => decide (c < 640)
  | .ringSlotCopy c _ => decide (c < 640)
  | .updateOnlyEvict c _ => decide (c < 640)
  | .chainEntryComplete c _ => decide (c < 640)
  | .seqwTimeout c => decide (c < 640)
  | .tableLoadEntry c slot _ => decide (c < 640) && decide (slot < 4)
  | .dispatch p => decide (p < 64)
  | .reuseLookup p _ _ => decide (p < 64)
  | .schedulerDusk p => decide (p < 64)
  | .tyieldAgeExpiry c => decide (c < 640)
  | .asyncTrap c => decide (c < 640)
  | .prtInv _ => true
  | .invalidationComplete p => decide (p < 64)
  | .popMigrate _ => true
  | .popDuplicate _ => true
  | .popCollapse _ => true
  | .pageOperationComplete p => decide (p < 64)
  | .drainTimerExpiry c => decide (c < 640)
  | .drainTimeout c => decide (c < 640)
  | .tcmdResume => true
  | .tcmdEnd => true
  | .hotvalRead _ => true
  | .frrEnable _ => true
  | .frrDisable _ => true
  | .schQuotaWrite _ => true
  | .prtDusk => true
  | .duskStart c => decide (c < 640)
  | .markerPass c site => decide (c < 640) && decide (site < 128)
  | .writePortDrain c p => decide (c < 640) && decide (p < 16)
  | .foreignMarkArrival c site ch => decide (c < 640) && decide (site < 128) && decide (ch < 4)
  | .setSwap c => decide (c < 640)
  | .taskResume c => decide (c < 640)
  | .prtRsz _ => true
  | .clusterRemovalComplete p _ => decide (p < 64)
  | .prtMove _ => true
  | .ticketExport => true
  | .ticketImport _ => true
  | .doorbell p _ => decide (p < 64)
  | .ringEntryNop p => decide (p < 64)
  | .ringEntryGraph p => decide (p < 64)
  | .ringEntryRecord p => decide (p < 64)
  | .daybreak _ => true
  | .partCreate _ _ => true
  | .partDestroy _ p => decide (p < 64)
  | .setTables _ _ _ => true
  | .asidSync _ _ => true
  | .frrOwner _ _ p => decide (p < 64)
  | .groupReg _ _ _ => true
  | .aperture _ _ _ _ => true
  | .ticketKey _ _ => true
  | .clusterMove _ p _ _ => decide (p < 64)
  | .reset _ _ => true
  | .mailboxUnknown _ _ => true
  | .hifErrClear _ => true
  | .hostMemRequest _ => true
  | .hostWriteSnoop _ _ => true
  | .druatLoad port _ => decide (port < 48)
  | .druatLoadResponse port _ => decide (port < 48)
  | .druatStore port _ => decide (port < 48)
  | .druatReduction port _ _ _ => decide (port < 48)
  | .druatAcknowledge port _ => decide (port < 48)
  | .druatCollectiveStream port _ _ _ => decide (port < 48)
  | .druatMigrationStream port _ => decide (port < 48)
  | .druatIdle port _ => decide (port < 48)
  | .flitCrcFail port => decide (port < 48)
  | .portRetrain port => decide (port < 48)
  | .portFailed port => decide (port < 48)
  | .powerOnStart => true
  | .startTimeout => true
  | .twilightStart _ _ _ => true
  | .twilightRetry => true
  | .powerStep island _ => decide (island < 168)
  | .claimStreamDone c => decide (c < 640)
  | .mailboxResultPosted => true
  | .startComplete _ lanes => lanes.all fun n => decide (n.toNat ≤ 4)
  | .retrainComplete port _ => decide (port < 48)
  | .hostCxlResponse _ => true
  | .prtFqheadWrite _ => true
  | .powerLoss => true
  | .trayPowerLimit _ => true

end Sys2Proof
end

