-- ==== Sys2Proof/Decode.lean ====
section
/-! DEFINITION. Decoding and encoding of control words (R48 to R62) and of element words (R64 to R69, R288). -/

namespace Sys2Proof

/-- Why a control word is not accepted (R62): its opcode is unassigned; a field holds a reserved value; or a field the
instruction does not use is nonzero. The machine takes the ILLEGAL trap on each. -/
inductive Reject where | unassigned | reservedValue | unusedField
  deriving DecidableEq, Repr

/-- Size codes of R56. -/
def Size.code : Size → BitVec 3
  | .b => 0 | .h => 1 | .w => 2 | .d => 3 | .q => 4
def Size.ofCode (c : BitVec 3) : Option Size :=
  match c.toNat with
  | 0 => some .b | 1 => some .h | 2 => some .w | 3 => some .d | 4 => some .q | _ => none
/-- Scope codes of R55. -/
def Scope.code : Scope → BitVec 3
  | .core => 0 | .part => 1 | .dev => 2 | .fab => 3 | .sys => 4
def Scope.ofCode (c : BitVec 3) : Option Scope :=
  match c.toNat with
  | 0 => some .core | 1 => some .part | 2 => some .dev | 3 => some .fab | 4 => some .sys | _ => none
/-- Rounding codes of R54. -/
def Rnd.code : Rnd → BitVec 3
  | .rne => 0 | .rtz => 1 | .rdn => 2 | .rup => 3 | .rsr => 4
def Rnd.ofCode (c : BitVec 3) : Option Rnd :=
  match c.toNat with
  | 0 => some .rne | 1 => some .rtz | 2 => some .rdn | 3 => some .rup | 4 => some .rsr | _ => none
/-- Type codes of R53. -/
def Ty.code : Ty → BitVec 5
  | .f32 => 0x00 | .bf16 => 0x01 | .f16 => 0x02 | .e4m3 => 0x03 | .e5m2 => 0x04 | .e2m1 => 0x05 | .e8m0 => 0x06
  | .c2x8 => 0x07 | .f64 => 0x08 | .s8 => 0x10 | .s16 => 0x11 | .s32 => 0x12 | .s64 => 0x13 | .z8 => 0x14
  | .z16 => 0x15 | .z32 => 0x16 | .z64 => 0x17
def Ty.ofCode (c : BitVec 5) : Option Ty :=
  match c.toNat with
  | 0x00 => some .f32 | 0x01 => some .bf16 | 0x02 => some .f16 | 0x03 => some .e4m3 | 0x04 => some .e5m2
  | 0x05 => some .e2m1 | 0x06 => some .e8m0 | 0x07 => some .c2x8 | 0x08 => some .f64 | 0x10 => some .s8
  | 0x11 => some .s16 | 0x12 => some .s32 | 0x13 => some .s64 | 0x14 => some .z8 | 0x15 => some .z16
  | 0x16 => some .z32 | 0x17 => some .z64 | _ => none
/-- Condition codes of R78. -/
def Cond.code : Cond → BitVec 6
  | .eq => 0 | .ne => 1 | .lt => 2 | .ge => 3 | .le => 4 | .gt => 5 | .ltz => 6 | .gez => 7 | .lez => 8 | .gtz => 9
  | .tst => 10 | .ntst => 11
def Cond.ofCode (c : BitVec 6) : Option Cond :=
  match c.toNat with
  | 0 => some .eq | 1 => some .ne | 2 => some .lt | 3 => some .ge | 4 => some .le | 5 => some .gt | 6 => some .ltz
  | 7 => some .gez | 8 => some .lez | 9 => some .gtz | 10 => some .tst | 11 => some .ntst | _ => none
/-- Forms of R152. -/
def OpForm.code : OpForm → BitVec 2
  | .range => 0 | .bc => 1 | .sc => 2
def OpForm.ofCode (c : BitVec 2) : Option OpForm :=
  match c.toNat with
  | 0 => some .range | 1 => some .bc | 2 => some .sc | _ => none
/-- Stream modes of R312. -/
def StrmMode.code : StrmMode → BitVec 5
  | .rd => 0 | .fib => 1 | .wr => 2 | .scat => 3 | .sadd => 4 | .smin => 5 | .smax => 6 | .gath => 7
def StrmMode.ofCode (c : BitVec 5) : Option StrmMode :=
  match c.toNat with
  | 0 => some .rd | 1 => some .fib | 2 => some .wr | 3 => some .scat | 4 => some .sadd | 5 => some .smin
  | 6 => some .smax | 7 => some .gath | _ => none
/-- Operation codes of AMO and RED (R359). -/
def AmoOp.code : AmoOp → BitVec 4
  | .add => 0 | .xchg => 1 | .and => 2 | .or => 3 | .xor => 4 | .min => 5 | .max => 6 | .minz => 7 | .maxz => 8
  | .fadd => 9 | .fmin => 10 | .fmax => 11
def AmoOp.ofCode (c : BitVec 4) : Option AmoOp :=
  match c.toNat with
  | 0 => some .add | 1 => some .xchg | 2 => some .and | 3 => some .or | 4 => some .xor | 5 => some .min | 6 => some .max
  | 7 => some .minz | 8 => some .maxz | 9 => some .fadd | 10 => some .fmin | 11 => some .fmax | _ => none
/-- Operation codes of AMOF (R359); the operations AMOF does not have give the reserved code. -/
def AmoOp.codeF : AmoOp → BitVec 2
  | .fadd => 0 | .fmin => 1 | .fmax => 2
  | .add | .xchg | .and | .or | .xor | .min | .max | .minz | .maxz => 3
def AmoOp.ofCodeF (c : BitVec 2) : Option AmoOp :=
  match c.toNat with
  | 0 => some .fadd | 1 => some .fmin | 2 => some .fmax | _ => none

/-- A six-bit field that names a predicate: bits [5:4] are zero (R49). -/
def predField (p : Pred) : BitVec 6 := 0#2 ++ p
/-- Function bit [16] as a form field (R143). -/
def bit2 (b : Bool) : BitVec 2 := 0#1 ++ BitVec.ofBool b
/-- Function bit [0] of a C.S word (R317). -/
def bit21 (b : Bool) : BitVec 21 := 0#20 ++ BitVec.ofBool b
/-- The size codes .w and .d (R359). -/
def szWD (dbl : Bool) : BitVec 3 := 0#1 ++ 1#1 ++ BitVec.ofBool dbl

/-- Fields of format C.R, register operations (R48); fields marked zero are left out. -/
structure FR where
  op : BitVec 8
  d : BitVec 6
  a : BitVec 6
  b : BitVec 6
  c : BitVec 6
  g : Guard
  fn : BitVec 11
  deriving DecidableEq, Repr

/-- The word of format C.R with these fields. -/
def FR.pack (f : FR) : Word :=
  f.op ++ f.d ++ f.a ++ f.b ++ f.c ++ f.g.pred ++ BitVec.ofBool f.g.sense ++ f.fn ++ 0#16

/-- The fields of a word read in format C.R. -/
def FR.unpack (w : Word) : FR :=
  ⟨w.extractLsb' 56 8, w.extractLsb' 50 6, w.extractLsb' 44 6, w.extractLsb' 38 6, w.extractLsb' 32 6, ⟨w.extractLsb' 28 4, w.getLsbD 27⟩, w.extractLsb' 16 11⟩

/-- Fields of format C.I, one immediate (R48); fields marked zero are left out. -/
structure FI where
  op : BitVec 8
  d : BitVec 6
  a : BitVec 6
  g : Guard
  q : BitVec 7
  imm : BitVec 32
  deriving DecidableEq, Repr

/-- The word of format C.I with these fields. -/
def FI.pack (f : FI) : Word :=
  f.op ++ f.d ++ f.a ++ f.g.pred ++ BitVec.ofBool f.g.sense ++ f.q ++ f.imm

/-- The fields of a word read in format C.I. -/
def FI.unpack (w : Word) : FI :=
  ⟨w.extractLsb' 56 8, w.extractLsb' 50 6, w.extractLsb' 44 6, ⟨w.extractLsb' 40 4, w.getLsbD 39⟩, w.extractLsb' 32 7, w.extractLsb' 0 32⟩

/-- Fields of format C.M, memory access (R48); fields marked zero are left out. -/
structure FM where
  op : BitVec 8
  d : BitVec 6
  base : BitVec 6
  index : BitVec 6
  g : Guard
  size : BitVec 3
  scale : BitVec 2
  q : BitVec 4
  disp : BitVec 24
  deriving DecidableEq, Repr

/-- The word of format C.M with these fields. -/
def FM.pack (f : FM) : Word :=
  f.op ++ f.d ++ f.base ++ f.index ++ f.g.pred ++ BitVec.ofBool f.g.sense ++ f.size ++ f.scale ++ f.q ++ f.disp

/-- The fields of a word read in format C.M. -/
def FM.unpack (w : Word) : FM :=
  ⟨w.extractLsb' 56 8, w.extractLsb' 50 6, w.extractLsb' 44 6, w.extractLsb' 38 6, ⟨w.extractLsb' 34 4, w.getLsbD 33⟩, w.extractLsb' 30 3, w.extractLsb' 28 2, w.extractLsb' 24 4, w.extractLsb' 0 24⟩

/-- Fields of format C.B, branches (R48); fields marked zero are left out. -/
structure FB where
  op : BitVec 8
  g : Guard
  kind : BitVec 3
  off : BitVec 40
  deriving DecidableEq, Repr

/-- The word of format C.B with these fields. -/
def FB.pack (f : FB) : Word :=
  f.op ++ f.g.pred ++ BitVec.ofBool f.g.sense ++ f.kind ++ 0#8 ++ f.off

/-- The fields of a word read in format C.B. -/
def FB.unpack (w : Word) : FB :=
  ⟨w.extractLsb' 56 8, ⟨w.extractLsb' 52 4, w.getLsbD 51⟩, w.extractLsb' 48 3, w.extractLsb' 0 40⟩

/-- Fields of format C.S, streams and the fabric (R48); fields marked zero are left out. -/
structure FS where
  op : BitVec 8
  d : BitVec 6
  a : BitVec 6
  b : BitVec 6
  c : BitVec 6
  g : Guard
  port : BitVec 6
  fn : BitVec 21
  deriving DecidableEq, Repr

/-- The word of format C.S with these fields. -/
def FS.pack (f : FS) : Word :=
  f.op ++ f.d ++ f.a ++ f.b ++ f.c ++ f.g.pred ++ BitVec.ofBool f.g.sense ++ f.port ++ f.fn

/-- The fields of a word read in format C.S. -/
def FS.unpack (w : Word) : FS :=
  ⟨w.extractLsb' 56 8, w.extractLsb' 50 6, w.extractLsb' 44 6, w.extractLsb' 38 6, w.extractLsb' 32 6, ⟨w.extractLsb' 28 4, w.getLsbD 27⟩, w.extractLsb' 21 6, w.extractLsb' 0 21⟩

/-- Fields of format C.X, no register operands (R48); fields marked zero are left out. -/
structure FX where
  op : BitVec 8
  fn : BitVec 8
  g : Guard
  imm : BitVec 40
  deriving DecidableEq, Repr

/-- The word of format C.X with these fields. -/
def FX.pack (f : FX) : Word :=
  f.op ++ f.fn ++ f.g.pred ++ BitVec.ofBool f.g.sense ++ 0#3 ++ f.imm

/-- The fields of a word read in format C.X. -/
def FX.unpack (w : Word) : FX :=
  ⟨w.extractLsb' 56 8, w.extractLsb' 48 8, ⟨w.extractLsb' 44 4, w.getLsbD 43⟩, w.extractLsb' 0 40⟩

/-- Sub-fields fu at [10:6], imm at [5:0] of a field of 11 bits; its other bits as R48 to R61 and the owning chapter fix them. -/
def FnI.pack (fu : BitVec 5) (imm : BitVec 6) : BitVec 11 :=
  fu ++ imm

/-- Sub-fields ty at [10:6], rnd at [5:3], sat at [2:2], form at [1:0] of a field of 11 bits; its other bits as R48 to R61 and the owning chapter fix them. -/
def FnV.pack (ty : BitVec 5) (rnd : BitVec 3) (sat : Bool) (form : BitVec 2) : BitVec 11 :=
  ty ++ rnd ++ BitVec.ofBool sat ++ form

/-- Sub-fields lo at [0:0], hi at [1:1] of a field of 11 bits; its other bits as R48 to R61 and the owning chapter fix them. -/
def FnP.pack (lo : Bool) (hi : Bool) : BitVec 11 :=
  0#9 ++ BitVec.ofBool hi ++ BitVec.ofBool lo

/-- Sub-fields lvl at [10:10], len at [9:0] of a field of 11 bits; its other bits as R48 to R61 and the owning chapter fix them. -/
def FnL.pack (lvl : Bool) (len : BitVec 10) : BitVec 11 :=
  BitVec.ofBool lvl ++ len

/-- Sub-fields flag at [3:3], slot at [2:0] of a field of 11 bits; its other bits as R48 to R61 and the owning chapter fix them. -/
def FnF.pack (flag : Bool) (slot : BitVec 3) : BitVec 11 :=
  0#7 ++ BitVec.ofBool flag ++ slot

/-- Sub-fields dir at [10:8], fe at [4:4], gm at [3:3], sc at [2:0] of a field of 11 bits; its other bits as R48 to R61 and the owning chapter fix them. -/
def FnC.pack (dir : BitVec 3) (fe : Bool) (gm : Bool) (sc : BitVec 3) : BitVec 11 :=
  dir ++ 0#3 ++ BitVec.ofBool fe ++ BitVec.ofBool gm ++ sc

/-- Sub-fields op at [10:8], ty at [7:3] of a field of 11 bits; its other bits as R48 to R61 and the owning chapter fix them. -/
def FnColl.pack (op : BitVec 3) (ty : BitVec 5) : BitVec 11 :=
  op ++ ty ++ 0#3

/-- Sub-fields slot at [3:0] of a field of 11 bits; its other bits as R48 to R61 and the owning chapter fix them. -/
def Fn4.pack (slot : BitVec 4) : BitVec 11 :=
  0#7 ++ slot

/-- Sub-fields form at [10:8], q at [1:0] of a field of 11 bits; its other bits as R48 to R61 and the owning chapter fix them. -/
def FnQ.pack (form : BitVec 3) (q : BitVec 2) : BitVec 11 :=
  form ++ 0#6 ++ q

/-- Sub-fields lvl at [6:6] of a field of 7 bits; its other bits as R48 to R61 and the owning chapter fix them. -/
def QLvl.pack (lvl : Bool) : BitVec 7 :=
  BitVec.ofBool lvl ++ 0#6

/-- Sub-fields gm at [6:6], sc at [5:3] of a field of 7 bits; its other bits as R48 to R61 and the owning chapter fix them. -/
def QBar.pack (gm : Bool) (sc : BitVec 3) : BitVec 7 :=
  BitVec.ofBool gm ++ sc ++ 0#3

/-- Sub-fields len at [31:22], cnt at [21:0] of a field of 32 bits; its other bits as R48 to R61 and the owning chapter fix them. -/
def LoopImm.pack (len : BitVec 10) (cnt : BitVec 22) : BitVec 32 :=
  len ++ cnt

/-- Sub-fields n at [11:0] of a field of 32 bits; its other bits as R48 to R61 and the owning chapter fix them. -/
def CsrImm.pack (n : BitVec 12) : BitVec 32 :=
  0#20 ++ n

/-- Sub-fields ph at [3:0] of a field of 32 bits; its other bits as R48 to R61 and the owning chapter fix them. -/
def PhImm.pack (ph : BitVec 4) : BitVec 32 :=
  0#28 ++ ph

/-- Sub-fields code at [15:0] of a field of 40 bits; its other bits as R48 to R61 and the owning chapter fix them. -/
def CodeImm.pack (code : BitVec 16) : BitVec 40 :=
  0#24 ++ code

/-- Sub-fields core at [9:0] of a field of 40 bits; its other bits as R48 to R61 and the owning chapter fix them. -/
def CoreImm.pack (core : BitVec 10) : BitVec 40 :=
  0#30 ++ core

/-- Sub-fields sp at [1:1], low at [0:0] of a field of 4 bits; its other bits as R48 to R61 and the owning chapter fix them. -/
def QLd.pack (sp : Bool) (low : Bool) : BitVec 4 :=
  0#2 ++ BitVec.ofBool sp ++ BitVec.ofBool low

/-- Sub-fields sp at [2:2], op at [1:0] of a field of 4 bits; its other bits as R48 to R61 and the owning chapter fix them. -/
def QAmof.pack (sp : Bool) (op : BitVec 2) : BitVec 4 :=
  0#1 ++ BitVec.ofBool sp ++ op

/-- Sub-fields sc at [2:0] of a field of 8 bits; its other bits as R48 to R61 and the owning chapter fix them. -/
def FnScope.pack (sc : BitVec 3) : BitVec 8 :=
  0#5 ++ sc

/-- Sub-fields port at [3:0] of a field of 6 bits; its other bits as R48 to R61 and the owning chapter fix them. -/
def PortLo.pack (port : BitVec 4) : BitVec 6 :=
  0#2 ++ port

/-- Sub-fields op at [3:0] of a field of 6 bits; its other bits as R48 to R61 and the owning chapter fix them. -/
def PortHi.pack (op : BitVec 4) : BitVec 6 :=
  1#2 ++ op

/-- Sub-fields site at [4:0] of a field of 6 bits; its other bits as R48 to R61 and the owning chapter fix them. -/
def Port5.pack (site : BitVec 5) : BitVec 6 :=
  0#1 ++ site

/-- Sub-fields mode at [20:16], ty at [15:11], sc at [10:8], sp at [7:7] of a field of 21 bits; its other bits as R48 to R61 and the owning chapter fix them. -/
def FnStrm.pack (mode : BitVec 5) (ty : BitVec 5) (sc : BitVec 3) (sp : Bool) : BitVec 21 :=
  mode ++ ty ++ sc ++ BitVec.ofBool sp ++ 0#7

/-- Sub-fields gm at [5:5], id at [4:0] of a field of 21 bits; its other bits as R48 to R61 and the owning chapter fix them. -/
def FnTok.pack (gm : Bool) (id : BitVec 5) : BitVec 21 :=
  0#15 ++ BitVec.ofBool gm ++ id

/-- Sub-fields ch at [1:0] of a field of 21 bits; its other bits as R48 to R61 and the owning chapter fix them. -/
def FnCh.pack (ch : BitVec 2) : BitVec 21 :=
  0#19 ++ ch

/-- The instruction a word of format C.R names by its opcode and function; its unused fields are checked by `decode`. -/
def candidateR (f : FR) : Option Instr :=
  match f.op.toNat with
  | 0x01 => some (.add f.g f.d f.a f.b)
  | 0x02 => some (.sub f.g f.d f.a f.b)
  | 0x04 => some (.mul f.g f.d f.a f.b)
  | 0x05 => some (.mulh f.g f.d f.a f.b)
  | 0x06 => some (.mulhz f.g f.d f.a f.b)
  | 0x07 => some (.div f.g f.d f.a f.b)
  | 0x08 => some (.divz f.g f.d f.a f.b)
  | 0x09 => some (.rem f.g f.d f.a f.b)
  | 0x0A => some (.remz f.g f.d f.a f.b)
  | 0x0B => some (.and f.g f.d f.a f.b)
  | 0x0C => some (.or f.g f.d f.a f.b)
  | 0x0D => some (.xor f.g f.d f.a f.b)
  | 0x0E => some (.andn f.g f.d f.a f.b)
  | 0x0F =>
    if (f.fn).extractLsb' 6 5 = 0#5 then some (.shlReg f.g f.d f.a f.b)
    else if (f.fn).extractLsb' 6 5 = 1#5 then some (.shlImm f.g f.d f.a ((f.fn).extractLsb' 0 6))
    else none
  | 0x10 =>
    if (f.fn).extractLsb' 6 5 = 0#5 then some (.shrReg f.g f.d f.a f.b)
    else if (f.fn).extractLsb' 6 5 = 1#5 then some (.shrImm f.g f.d f.a ((f.fn).extractLsb' 0 6))
    else none
  | 0x11 =>
    if (f.fn).extractLsb' 6 5 = 0#5 then some (.shaReg f.g f.d f.a f.b)
    else if (f.fn).extractLsb' 6 5 = 1#5 then some (.shaImm f.g f.d f.a ((f.fn).extractLsb' 0 6))
    else none
  | 0x12 =>
    if (f.fn).extractLsb' 6 5 = 0#5 then some (.rotReg f.g f.d f.a f.b)
    else if (f.fn).extractLsb' 6 5 = 1#5 then some (.rotImm f.g f.d f.a ((f.fn).extractLsb' 0 6))
    else none
  | 0x13 => some (.min f.g f.d f.a f.b)
  | 0x14 => some (.max f.g f.d f.a f.b)
  | 0x15 => some (.minz f.g f.d f.a f.b)
  | 0x16 => some (.maxz f.g f.d f.a f.b)
  | 0x17 =>
    if (f.fn).extractLsb' 6 5 = 0#5 then some (.clz f.g f.d f.a)
    else if (f.fn).extractLsb' 6 5 = 1#5 then some (.popc f.g f.d f.a)
    else none
  | 0x18 =>
    if (f.fn).extractLsb' 6 5 = 0#5 then some (.bfx f.g f.d f.a f.b f.c)
    else if (f.fn).extractLsb' 6 5 = 1#5 then some (.bfxS f.g f.d f.a f.b f.c)
    else none
  | 0x19 => some (.bfi f.g f.d f.a f.b f.c)
  | 0x1C => some (.addsh f.g f.d f.a f.b ((f.fn).extractLsb' 0 6))
  | 0x1D => some (.mad f.g f.d f.a f.b f.c)
  | 0x1E => do let cond ← Cond.ofCode ((f.fn).extractLsb' 0 6); pure (.cmp f.g ((f.d).extractLsb' 0 4) f.a f.b cond)
  | 0x1F => some (.sel f.g f.d ((f.c).extractLsb' 0 4) f.a f.b)
  | 0x23 => some (.jr f.g f.d f.a)
  | 0x24 => some (.loop f.g ((f.fn).getLsbD 10) f.a ((f.fn).extractLsb' 0 10))
  | 0x26 => some (.pand f.g ((f.d).extractLsb' 0 4) ((f.a).extractLsb' 0 4) ((f.b).extractLsb' 0 4) ((f.fn).getLsbD 0) ((f.fn).getLsbD 1))
  | 0x27 => some (.por f.g ((f.d).extractLsb' 0 4) ((f.a).extractLsb' 0 4) ((f.b).extractLsb' 0 4) ((f.fn).getLsbD 0) ((f.fn).getLsbD 1))
  | 0x28 => some (.pnot f.g ((f.d).extractLsb' 0 4) ((f.a).extractLsb' 0 4))
  | 0x36 => some (.cas f.g f.d f.a f.b f.c ((f.fn).getLsbD 1) ((f.fn).getLsbD 0))
  | 0x3A => some (.spl f.g ((f.fn).extractLsb' 0 4) f.a f.b f.c)
  | 0x3B => some (.fil f.g ((f.fn).extractLsb' 0 4) f.a f.b)
  | 0x50 =>
    if (f.fn).extractLsb' 8 3 = 0#3 then do let sc ← Scope.ofCode ((f.fn).extractLsb' 0 3); pure (.cpyG2s f.g f.d f.a f.b f.c ((f.fn).getLsbD 4) ((f.fn).getLsbD 3) sc)
    else if (f.fn).extractLsb' 8 3 = 1#3 then do let sc ← Scope.ofCode ((f.fn).extractLsb' 0 3); pure (.cpyS2g f.g f.d f.a f.b f.c ((f.fn).getLsbD 3) sc)
    else if (f.fn).extractLsb' 8 3 = 2#3 then do let sc ← Scope.ofCode ((f.fn).extractLsb' 0 3); pure (.cpyG2g f.g f.d f.a f.b f.c ((f.fn).getLsbD 3) sc)
    else if (f.fn).extractLsb' 8 3 = 3#3 then do let sc ← Scope.ofCode ((f.fn).extractLsb' 0 3); pure (.cpyS2s f.g f.d f.a f.b f.c ((f.fn).getLsbD 4) ((f.fn).getLsbD 3) sc)
    else if (f.fn).extractLsb' 8 3 = 4#3 then some (.cpyRing f.g f.a f.b ((f.fn).getLsbD 3))
    else none
  | 0x52 => some (.tbexp f.g f.a f.b ((f.fn).getLsbD 3))
  | 0x53 => do let sc ← Scope.ofCode ((f.fn).extractLsb' 0 3); pure (.tbarr f.g f.a ((f.fn).getLsbD 3) sc)
  | 0x56 =>
    if (f.fn).extractLsb' 8 3 = 0#3 then do let sc ← Scope.ofCode ((f.fn).extractLsb' 0 3); pure (.chainCpy f.g f.a f.b sc)
    else if (f.fn).extractLsb' 8 3 = 1#3 then do let sc ← Scope.ofCode ((f.fn).extractLsb' 0 3); pure (.chainColl f.g f.a f.b sc)
    else none
  | 0x58 =>
    if (f.fn).extractLsb' 8 3 = 0#3 then do let ty ← Ty.ofCode ((f.fn).extractLsb' 3 5); pure (.collSum f.g f.d f.a f.b f.c ty)
    else if (f.fn).extractLsb' 8 3 = 1#3 then do let ty ← Ty.ofCode ((f.fn).extractLsb' 3 5); pure (.collMax f.g f.d f.a f.b f.c ty)
    else if (f.fn).extractLsb' 8 3 = 2#3 then do let ty ← Ty.ofCode ((f.fn).extractLsb' 3 5); pure (.collMin f.g f.d f.a f.b f.c ty)
    else if (f.fn).extractLsb' 8 3 = 3#3 then do let ty ← Ty.ofCode ((f.fn).extractLsb' 3 5); pure (.collBcast f.g f.d f.a f.b f.c ty)
    else if (f.fn).extractLsb' 8 3 = 4#3 then do let ty ← Ty.ofCode ((f.fn).extractLsb' 3 5); pure (.collAgath f.g f.d f.a f.b f.c ty)
    else if (f.fn).extractLsb' 8 3 = 5#3 then do let ty ← Ty.ofCode ((f.fn).extractLsb' 3 5); pure (.collRscat f.g f.d f.a f.b f.c ty)
    else none
  | 0x60 => do let ty ← Ty.ofCode ((f.fn).extractLsb' 6 5); pure (.mma f.g f.d f.a f.b f.c ty (((f.fn).extractLsb' 0 2).getLsbD 0))
  | 0x61 => do let ty ← Ty.ofCode ((f.fn).extractLsb' 6 5); pure (.mmas f.g f.d f.a f.b f.c ty (((f.fn).extractLsb' 0 2).getLsbD 0))
  | 0x62 => some (.mzero f.g f.d)
  | 0x63 => do let ty ← Ty.ofCode ((f.fn).extractLsb' 6 5); let rnd ← Rnd.ofCode ((f.fn).extractLsb' 3 3); pure (.mld f.g f.d f.a ty rnd)
  | 0x64 => do let ty ← Ty.ofCode ((f.fn).extractLsb' 6 5); let rnd ← Rnd.ofCode ((f.fn).extractLsb' 3 3); pure (.mst f.g f.d f.a ty rnd ((f.fn).getLsbD 2))
  | 0x65 => do let ty ← Ty.ofCode ((f.fn).extractLsb' 6 5); pure (.prune f.g f.d f.a f.b f.c ty (((f.fn).extractLsb' 0 2).getLsbD 0))
  | 0x70 => do let rnd ← Rnd.ofCode ((f.fn).extractLsb' 3 3); let form ← OpForm.ofCode ((f.fn).extractLsb' 0 2); pure (.aadd f.g f.d f.a f.b form rnd ((f.fn).getLsbD 2))
  | 0x71 => do let rnd ← Rnd.ofCode ((f.fn).extractLsb' 3 3); let form ← OpForm.ofCode ((f.fn).extractLsb' 0 2); pure (.amul f.g f.d f.a f.b form rnd ((f.fn).getLsbD 2))
  | 0x72 => do let rnd ← Rnd.ofCode ((f.fn).extractLsb' 3 3); let form ← OpForm.ofCode ((f.fn).extractLsb' 0 2); pure (.afma f.g f.d f.a f.b f.c form rnd ((f.fn).getLsbD 2))
  | 0x73 => do let form ← OpForm.ofCode ((f.fn).extractLsb' 0 2); pure (.amax f.g f.d f.a f.b form)
  | 0x74 => do let form ← OpForm.ofCode ((f.fn).extractLsb' 0 2); pure (.amin f.g f.d f.a f.b form)
  | 0x75 => some (.aexp2 f.g f.d f.a ((f.fn).getLsbD 2))
  | 0x76 => some (.alog2 f.g f.d f.a ((f.fn).getLsbD 2))
  | 0x77 => some (.arcp f.g f.d f.a ((f.fn).getLsbD 2))
  | 0x78 => some (.arsq f.g f.d f.a ((f.fn).getLsbD 2))
  | 0x79 =>
    if (f.fn).extractLsb' 0 2 = 0#2 then some (.asig f.g f.d f.a ((f.fn).getLsbD 2))
    else if (f.fn).extractLsb' 0 2 = 1#2 then some (.asigTanh f.g f.d f.a ((f.fn).getLsbD 2))
    else if (f.fn).extractLsb' 0 2 = 2#2 then some (.asigSilu f.g f.d f.a ((f.fn).getLsbD 2))
    else if (f.fn).extractLsb' 0 2 = 3#2 then some (.asigExpe f.g f.d f.a ((f.fn).getLsbD 2))
    else none
  | 0x7A =>
    if (f.fn).extractLsb' 0 2 = 0#2 then do let rnd ← Rnd.ofCode ((f.fn).extractLsb' 3 3); pure (.aredSum f.g f.d f.a rnd ((f.fn).getLsbD 2))
    else if (f.fn).extractLsb' 0 2 = 1#2 then some (.aredMax f.g f.d f.a)
    else if (f.fn).extractLsb' 0 2 = 2#2 then some (.aredMin f.g f.d f.a)
    else none
  | 0x7B =>
    if (f.fn).extractLsb' 0 2 = 0#2 then some (.abcast f.g f.d f.a)
    else if (f.fn).extractLsb' 0 2 = 1#2 then do let ty ← Ty.ofCode ((f.fn).extractLsb' 6 5); pure (.abcastRow f.g f.d f.a ty)
    else if (f.fn).extractLsb' 0 2 = 2#2 then do let ty ← Ty.ofCode ((f.fn).extractLsb' 6 5); pure (.abcastColv f.g f.d f.a ty)
    else none
  | 0x7C => some (.amov f.g f.d f.a)
  | 0x7D =>
    if (f.fn).extractLsb' 0 2 = 0#2 then do let ty ← Ty.ofCode ((f.fn).extractLsb' 6 5); let rnd ← Rnd.ofCode ((f.fn).extractLsb' 3 3); pure (.acvt f.g f.d f.a f.b ty rnd ((f.fn).getLsbD 2))
    else if (f.fn).extractLsb' 0 2 = 1#2 then do let ty ← Ty.ofCode ((f.fn).extractLsb' 6 5); let rnd ← Rnd.ofCode ((f.fn).extractLsb' 3 3); pure (.acvtB32 f.g f.d f.a f.b ty rnd ((f.fn).getLsbD 2))
    else none
  | 0x80 => some (.abind f.g ((f.fn).extractLsb' 0 3) f.a f.b ((f.fn).getLsbD 3))
  | 0x81 => some (.attn f.g ((f.fn).extractLsb' 0 3) f.d f.a f.b f.c ((f.fn).getLsbD 3))
  | 0x82 => some (.tmerge f.g f.d f.a f.b)
  | 0x83 => some (.kvmap f.g f.d f.a f.b)
  | 0x84 => some (.kvapp f.g f.a f.b f.c)
  | 0x85 =>
    if f.fn = 0#11 then some (.kvfork f.g f.d f.a)
    else if f.fn = 1#11 then some (.kvforkCow f.g f.d f.a)
    else none
  | 0x86 => some (.kvtrunc f.g f.a f.b)
  | 0x87 => some (.kvrel f.g f.a)
  | 0x88 => some (.kvret f.g f.a f.b f.c)
  | 0x89 => some (.kvcompact f.g f.a f.b f.c)
  | 0x8A =>
    if f.fn = 0#11 then some (.kvqLen f.g f.d f.a)
    else if f.fn = 1#11 then some (.kvqMap f.g f.d f.a)
    else if f.fn = 2#11 then some (.kvqFrame f.g f.d f.a)
    else if f.fn = 3#11 then some (.kvqState f.g f.d f.a)
    else none
  | 0x8B =>
    if f.fn = 0#11 then some (.pxlkp f.g f.d f.a f.b)
    else if f.fn = 1#11 then some (.pxlkpDrop f.g f.d f.a f.b)
    else none
  | 0x8C => some (.pxins f.g f.d f.a f.b)
  | 0x90 => do let ty ← Ty.ofCode ((f.fn).extractLsb' 6 5); pure (.bslice f.g f.d f.a ty ((f.fn).extractLsb' 0 6))
  | 0x91 => do let ty ← Ty.ofCode ((f.fn).extractLsb' 6 5); pure (.bjoin f.g f.d f.a ty ((f.fn).extractLsb' 0 6))
  | 0x92 => some (.lctx f.g ((f.fn).extractLsb' 0 2) f.a)
  | 0x93 => some (.lsel f.g ((f.fn).extractLsb' 0 2))
  | 0x94 => some (.lrun f.g)
  | 0x95 =>
    if (f.fn).extractLsb' 8 3 = 0#3 then some (.lstatPop f.g f.d f.a)
    else if (f.fn).extractLsb' 8 3 = 1#3 then some (.lstatWord f.g f.d f.a ((f.fn).extractLsb' 0 2))
    else if (f.fn).extractLsb' 8 3 = 2#3 then some (.lstatSlot f.g f.d ((f.fn).extractLsb' 0 2))
    else if (f.fn).extractLsb' 8 3 = 3#3 then some (.lstatRuns f.g f.d)
    else none
  | 0x98 => some (.tenq f.g f.a f.b)
  | 0x99 =>
    if f.fn = 0#11 then some (.launch f.g f.a)
    else if f.fn = 1#11 then some (.launchArg f.g f.a f.b)
    else none
  | 0x9A => some (.gsig f.g f.a f.b)
  | 0x9D =>
    if (f.fn).extractLsb' 8 3 = 0#3 then some (.rinvTag f.g f.d f.a)
    else if (f.fn).extractLsb' 8 3 = 1#3 then some (.rinvRange f.g f.d f.a f.b)
    else if (f.fn).extractLsb' 8 3 = 2#3 then some (.rinvAll f.g f.d)
    else if (f.fn).extractLsb' 8 3 = 3#3 then some (.rinvAsid f.g f.d f.a)
    else none
  | 0x9E =>
    if (f.fn).extractLsb' 8 3 = 0#3 then some (.rstatLkp f.g f.d)
    else if (f.fn).extractLsb' 8 3 = 1#3 then some (.rstatHit f.g f.d)
    else if (f.fn).extractLsb' 8 3 = 2#3 then some (.rstatMiss f.g f.d)
    else if (f.fn).extractLsb' 8 3 = 3#3 then some (.rstatIns f.g f.d)
    else if (f.fn).extractLsb' 8 3 = 4#3 then some (.rstatProbe f.g f.d f.a)
    else if (f.fn).extractLsb' 8 3 = 5#3 then some (.rstatHeld f.g f.d)
    else if (f.fn).extractLsb' 8 3 = 6#3 then some (.rstatQuota f.g f.d)
    else none
  | 0x9F =>
    if (f.fn).extractLsb' 6 5 = 0#5 then some (.rngld f.g f.a f.b)
    else if (f.fn).extractLsb' 6 5 = 1#5 then some (.rngst f.g f.d f.b)
    else if (f.fn).extractLsb' 6 5 = 2#5 then some (.rand f.g f.d)
    else none
  | _ => none

/-- The instruction a word of format C.I names by its opcode and function; its unused fields are checked by `decode`. -/
def candidateI (f : FI) : Option Instr :=
  match f.op.toNat with
  | 0x03 => some (.addi f.g f.d f.a f.imm)
  | 0x1A => some (.movi f.g f.d f.imm)
  | 0x1B => some (.movhi f.g f.d f.imm)
  | 0x25 => some (.loopi f.g ((f.q).getLsbD 6) ((f.imm).extractLsb' 22 10) ((f.imm).extractLsb' 0 22))
  | 0x51 => some (.tbinit f.g f.a f.imm ((f.q).getLsbD 6))
  | 0x54 => do let sc ← Scope.ofCode ((f.q).extractLsb' 3 3); pure (.tbwait f.g f.a ((f.imm).extractLsb' 0 4) ((f.q).getLsbD 6) sc)
  | 0x55 => do let sc ← Scope.ofCode ((f.q).extractLsb' 3 3); pure (.tbtest f.g ((f.d).extractLsb' 0 4) f.a ((f.imm).extractLsb' 0 4) ((f.q).getLsbD 6) sc)
  | 0x57 => do let sc ← Scope.ofCode ((f.q).extractLsb' 3 3); pure (.seqw f.g f.d f.a f.imm ((f.q).getLsbD 6) sc)
  | 0xA2 => some (.csrr f.g f.d ((f.imm).extractLsb' 0 12))
  | 0xA3 =>
    if f.q = 0#7 then some (.csrw f.g ((f.imm).extractLsb' 0 12) f.a)
    else if f.q = 1#7 then some (.csrwSet f.g ((f.imm).extractLsb' 0 12) f.a)
    else if f.q = 2#7 then some (.csrwClr f.g ((f.imm).extractLsb' 0 12) f.a)
    else none
  | _ => none

/-- The instruction a word of format C.M names by its opcode and function; its unused fields are checked by `decode`. -/
def candidateM (f : FM) : Option Instr :=
  match f.op.toNat with
  | 0x30 => do let sz ← Size.ofCode (f.size); pure (.ld f.g f.d ⟨f.base, f.index, f.scale, f.disp⟩ ((f.q).getLsbD 1) ((f.q).getLsbD 0) sz)
  | 0x31 => do let sz ← Size.ofCode (f.size); pure (.st f.g f.d ⟨f.base, f.index, f.scale, f.disp⟩ ((f.q).getLsbD 1) sz)
  | 0x32 => do let sz ← Size.ofCode (f.size); pure (.ldfe f.g f.d ⟨f.base, f.index, f.scale, f.disp⟩ ((f.q).getLsbD 0) sz)
  | 0x33 => do let sz ← Size.ofCode (f.size); pure (.stfe f.g f.d ⟨f.base, f.index, f.scale, f.disp⟩ sz)
  | 0x34 => do let sz ← Size.ofCode (f.size); pure (.pref f.g ⟨f.base, f.index, f.scale, f.disp⟩ ((f.q).getLsbD 0) sz)
  | 0x35 => do let op ← AmoOp.ofCode (f.q); pure (.amo f.g f.d ⟨f.base, f.index, f.scale, f.disp⟩ op ((f.size).getLsbD 0))
  | 0x37 => do let op ← AmoOp.ofCode (f.q); pure (.red f.g f.d ⟨f.base, f.index, f.scale, f.disp⟩ op ((f.size).getLsbD 0))
  | 0x38 => do let op ← AmoOp.ofCodeF ((f.q).extractLsb' 0 2); pure (.amof f.g f.d ⟨f.base, f.index, f.scale, f.disp⟩ op ((f.q).getLsbD 2) ((f.size).getLsbD 0))
  | _ => none

/-- The instruction a word of format C.B names by its opcode and function; its unused fields are checked by `decode`. -/
def candidateB (f : FB) : Option Instr :=
  match f.op.toNat with
  | 0x20 => some (.br f.g f.off)
  | 0x21 =>
    if f.kind = 0#3 then some (.brcL1 f.g f.off)
    else if f.kind = 1#3 then some (.brcAll f.g f.off)
    else none
  | 0x22 => some (.jal f.g f.off)
  | _ => none

/-- The instruction a word of format C.S names by its opcode and function; its unused fields are checked by `decode`. -/
def candidateS (f : FS) : Option Instr :=
  match f.op.toNat with
  | 0x40 =>
    if f.fn = 0#21 then some (.cfg f.g f.a)
    else if f.fn = 1#21 then some (.cfgStg f.g f.a)
    else none
  | 0x41 => some (.cfgsw f.g)
  | 0x42 => do let mode ← StrmMode.ofCode ((f.fn).extractLsb' 16 5); let ty ← Ty.ofCode ((f.fn).extractLsb' 11 5); let sc ← Scope.ofCode ((f.fn).extractLsb' 8 3); pure (.strm f.g ((f.port).extractLsb' 0 4) f.a f.b f.c mode ty sc ((f.fn).getLsbD 7))
  | 0x43 =>
    if f.fn = 0#21 then some (.sbar f.g f.a)
    else if f.fn = 1#21 then some (.sbarOrd f.g f.a)
    else none
  | 0x44 => some (.btok f.g f.a ((f.fn).extractLsb' 0 5) ((f.fn).getLsbD 5))
  | 0x45 => some (.argw f.g ((f.port).extractLsb' 0 4) f.a)
  | 0x46 => some (.tinj f.g ((f.fn).extractLsb' 0 2) f.a)
  | 0x47 => some (.tpop f.g f.d ((f.fn).extractLsb' 0 2))
  | 0x48 =>
    if f.fn = 0#21 then some (.fstat f.g f.d ((f.port).extractLsb' 0 5))
    else if f.fn = 1#21 then some (.fstatAll f.g f.d)
    else none
  | 0x49 => some (.slotf f.g f.a f.b ((f.fn).getLsbD 0))
  | _ => none

/-- The instruction a word of format C.X names by its opcode and function; its unused fields are checked by `decode`. -/
def candidateX (f : FX) : Option Instr :=
  match f.op.toNat with
  | 0x29 => some (.nop f.g)
  | 0x39 => do let sc ← Scope.ofCode ((f.fn).extractLsb' 0 3); pure (.fence f.g sc)
  | 0x9B => some (.tend f.g)
  | 0x9C => some (.tyield f.g)
  | 0xA0 => some (.trap f.g ((f.imm).extractLsb' 0 16))
  | 0xA1 =>
    if f.fn = 0#8 then some (.eret f.g)
    else if f.fn = 1#8 then some (.eretTask f.g)
    else none
  | 0xA4 => some (.wfe f.g f.imm)
  | 0xA5 =>
    if f.fn = 0#8 then some (.sevAll f.g)
    else if f.fn = 1#8 then some (.sevOne f.g ((f.imm).extractLsb' 0 10))
    else if f.fn = 2#8 then some (.sevClus f.g)
    else none
  | 0xA6 =>
    if f.fn = 0#8 then some (.hintSpin f.g)
    else if f.fn = 1#8 then some (.hintPf f.g f.imm)
    else none
  | _ => none

/-- The format of an opcode (R61): the opcodes R61 does not list use C.R. -/
def candidate (w : Word) : Option Instr :=
  match (w.extractLsb' 56 8).toNat with
  | 0x03 | 0x1A | 0x1B | 0x25 | 0x51 | 0x54 | 0x55 | 0x57 | 0xA2 | 0xA3 => candidateI (FI.unpack w)
  | 0x30 | 0x31 | 0x32 | 0x33 | 0x34 | 0x35 | 0x37 | 0x38 => candidateM (FM.unpack w)
  | 0x20 | 0x21 | 0x22 => candidateB (FB.unpack w)
  | 0x40 | 0x41 | 0x42 | 0x43 | 0x44 | 0x45 | 0x46 | 0x47 | 0x48 | 0x49 => candidateS (FS.unpack w)
  | 0x29 | 0x39 | 0x9B | 0x9C | 0xA0 | 0xA1 | 0xA4 | 0xA5 | 0xA6 => candidateX (FX.unpack w)
  | _ => candidateR (FR.unpack w)

/-- The word of a well-formed control instruction (R48 to R61). The steps that are no control word have no encoding: they
give the all-zero word, which is illegal (R62). -/
def encode : Instr → Word
  | .add g d a b => (FR.mk 0x01#8 d a b 0#6 g (FnI.pack 0#5 0#6)).pack
  | .sub g d a b => (FR.mk 0x02#8 d a b 0#6 g (FnI.pack 0#5 0#6)).pack
  | .mul g d a b => (FR.mk 0x04#8 d a b 0#6 g (FnI.pack 0#5 0#6)).pack
  | .mulh g d a b => (FR.mk 0x05#8 d a b 0#6 g (FnI.pack 0#5 0#6)).pack
  | .mulhz g d a b => (FR.mk 0x06#8 d a b 0#6 g (FnI.pack 0#5 0#6)).pack
  | .div g d a b => (FR.mk 0x07#8 d a b 0#6 g (FnI.pack 0#5 0#6)).pack
  | .divz g d a b => (FR.mk 0x08#8 d a b 0#6 g (FnI.pack 0#5 0#6)).pack
  | .rem g d a b => (FR.mk 0x09#8 d a b 0#6 g (FnI.pack 0#5 0#6)).pack
  | .remz g d a b => (FR.mk 0x0A#8 d a b 0#6 g (FnI.pack 0#5 0#6)).pack
  | .and g d a b => (FR.mk 0x0B#8 d a b 0#6 g (FnI.pack 0#5 0#6)).pack
  | .or g d a b => (FR.mk 0x0C#8 d a b 0#6 g (FnI.pack 0#5 0#6)).pack
  | .xor g d a b => (FR.mk 0x0D#8 d a b 0#6 g (FnI.pack 0#5 0#6)).pack
  | .andn g d a b => (FR.mk 0x0E#8 d a b 0#6 g (FnI.pack 0#5 0#6)).pack
  | .shlReg g d a b => (FR.mk 0x0F#8 d a b 0#6 g (FnI.pack 0#5 0#6)).pack
  | .shlImm g d a n => (FR.mk 0x0F#8 d a 0#6 0#6 g (FnI.pack 1#5 n)).pack
  | .shrReg g d a b => (FR.mk 0x10#8 d a b 0#6 g (FnI.pack 0#5 0#6)).pack
  | .shrImm g d a n => (FR.mk 0x10#8 d a 0#6 0#6 g (FnI.pack 1#5 n)).pack
  | .shaReg g d a b => (FR.mk 0x11#8 d a b 0#6 g (FnI.pack 0#5 0#6)).pack
  | .shaImm g d a n => (FR.mk 0x11#8 d a 0#6 0#6 g (FnI.pack 1#5 n)).pack
  | .rotReg g d a b => (FR.mk 0x12#8 d a b 0#6 g (FnI.pack 0#5 0#6)).pack
  | .rotImm g d a n => (FR.mk 0x12#8 d a 0#6 0#6 g (FnI.pack 1#5 n)).pack
  | .min g d a b => (FR.mk 0x13#8 d a b 0#6 g (FnI.pack 0#5 0#6)).pack
  | .max g d a b => (FR.mk 0x14#8 d a b 0#6 g (FnI.pack 0#5 0#6)).pack
  | .minz g d a b => (FR.mk 0x15#8 d a b 0#6 g (FnI.pack 0#5 0#6)).pack
  | .maxz g d a b => (FR.mk 0x16#8 d a b 0#6 g (FnI.pack 0#5 0#6)).pack
  | .clz g d a => (FR.mk 0x17#8 d a 0#6 0#6 g (FnI.pack 0#5 0#6)).pack
  | .popc g d a => (FR.mk 0x17#8 d a 0#6 0#6 g (FnI.pack 1#5 0#6)).pack
  | .bfx g d a b c => (FR.mk 0x18#8 d a b c g (FnI.pack 0#5 0#6)).pack
  | .bfxS g d a b c => (FR.mk 0x18#8 d a b c g (FnI.pack 1#5 0#6)).pack
  | .bfi g d a b c => (FR.mk 0x19#8 d a b c g (FnI.pack 0#5 0#6)).pack
  | .addsh g d a b n => (FR.mk 0x1C#8 d a b 0#6 g (FnI.pack 0#5 n)).pack
  | .mad g d a b c => (FR.mk 0x1D#8 d a b c g (FnI.pack 0#5 0#6)).pack
  | .cmp g pd a b cond => (FR.mk 0x1E#8 (predField pd) a b 0#6 g (FnI.pack 0#5 cond.code)).pack
  | .sel g d pc a b => (FR.mk 0x1F#8 d a b (predField pc) g (FnI.pack 0#5 0#6)).pack
  | .movi g d imm => (FI.mk 0x1A#8 d 0#6 g 0#7 imm).pack
  | .movhi g d imm => (FI.mk 0x1B#8 d 0#6 g 0#7 imm).pack
  | .addi g d a imm => (FI.mk 0x03#8 d a g 0#7 imm).pack
  | .pand g pd pa pb na nb => (FR.mk 0x26#8 (predField pd) (predField pa) (predField pb) 0#6 g (FnP.pack na nb)).pack
  | .por g pd pa pb na nb => (FR.mk 0x27#8 (predField pd) (predField pa) (predField pb) 0#6 g (FnP.pack na nb)).pack
  | .pnot g pd pa => (FR.mk 0x28#8 (predField pd) (predField pa) 0#6 0#6 g (0#11)).pack
  | .br g off => (FB.mk 0x20#8 g 0#3 off).pack
  | .jal g off => (FB.mk 0x22#8 g 0#3 off).pack
  | .jr g d a => (FR.mk 0x23#8 d a 0#6 0#6 g (0#11)).pack
  | .brcL1 g off => (FB.mk 0x21#8 g 0#3 off).pack
  | .brcAll g off => (FB.mk 0x21#8 g 1#3 off).pack
  | .loop g lvl1 a len => (FR.mk 0x24#8 0#6 a 0#6 0#6 g (FnL.pack lvl1 len)).pack
  | .loopi g lvl1 len cnt => (FI.mk 0x25#8 0#6 0#6 g (QLvl.pack lvl1) (LoopImm.pack len cnt)).pack
  | .nop g => (FX.mk 0x29#8 0#8 g 0#40).pack
  | .ld g d m sp sx sz => (FM.mk 0x30#8 d m.base m.index g sz.code m.scale (QLd.pack sp sx) m.disp).pack
  | .st g d m sp sz => (FM.mk 0x31#8 d m.base m.index g sz.code m.scale (QLd.pack sp false) m.disp).pack
  | .csrr g d n => (FI.mk 0xA2#8 d 0#6 g 0#7 (CsrImm.pack n)).pack
  | .csrw g n a => (FI.mk 0xA3#8 0#6 a g 0#7 (CsrImm.pack n)).pack
  | .csrwSet g n a => (FI.mk 0xA3#8 0#6 a g 1#7 (CsrImm.pack n)).pack
  | .csrwClr g n a => (FI.mk 0xA3#8 0#6 a g 2#7 (CsrImm.pack n)).pack
  | .trap g code => (FX.mk 0xA0#8 0#8 g (CodeImm.pack code)).pack
  | .eret g => (FX.mk 0xA1#8 0#8 g 0#40).pack
  | .eretTask g => (FX.mk 0xA1#8 1#8 g 0#40).pack
  | .wfe g limit => (FX.mk 0xA4#8 0#8 g limit).pack
  | .sevAll g => (FX.mk 0xA5#8 0#8 g 0#40).pack
  | .sevOne g core => (FX.mk 0xA5#8 1#8 g (CoreImm.pack core)).pack
  | .sevClus g => (FX.mk 0xA5#8 2#8 g 0#40).pack
  | .hintSpin g => (FX.mk 0xA6#8 0#8 g 0#40).pack
  | .hintPf g off => (FX.mk 0xA6#8 1#8 g off).pack
  | .mma g d a b c ty bt => (FR.mk 0x60#8 d a b c g (FnV.pack ty.code 0#3 false (bit2 bt))).pack
  | .mmas g d a b c ty bt => (FR.mk 0x61#8 d a b c g (FnV.pack ty.code 0#3 false (bit2 bt))).pack
  | .prune g d a b c ty bt => (FR.mk 0x65#8 d a b c g (FnV.pack ty.code 0#3 false (bit2 bt))).pack
  | .mzero g d => (FR.mk 0x62#8 d 0#6 0#6 0#6 g (FnV.pack 0#5 0#3 false 0#2)).pack
  | .mld g d a ty rnd => (FR.mk 0x63#8 d a 0#6 0#6 g (FnV.pack ty.code rnd.code false 0#2)).pack
  | .mst g d a ty rnd sat => (FR.mk 0x64#8 d a 0#6 0#6 g (FnV.pack ty.code rnd.code sat 0#2)).pack
  | .aadd g d a b form rnd sat => (FR.mk 0x70#8 d a b 0#6 g (FnV.pack 0#5 rnd.code sat form.code)).pack
  | .amul g d a b form rnd sat => (FR.mk 0x71#8 d a b 0#6 g (FnV.pack 0#5 rnd.code sat form.code)).pack
  | .afma g d a b c form rnd sat => (FR.mk 0x72#8 d a b c g (FnV.pack 0#5 rnd.code sat form.code)).pack
  | .amax g d a b form => (FR.mk 0x73#8 d a b 0#6 g (FnV.pack 0#5 0#3 false form.code)).pack
  | .amin g d a b form => (FR.mk 0x74#8 d a b 0#6 g (FnV.pack 0#5 0#3 false form.code)).pack
  | .aexp2 g d a sat => (FR.mk 0x75#8 d a 0#6 0#6 g (FnV.pack 0#5 0#3 sat 0#2)).pack
  | .alog2 g d a sat => (FR.mk 0x76#8 d a 0#6 0#6 g (FnV.pack 0#5 0#3 sat 0#2)).pack
  | .arcp g d a sat => (FR.mk 0x77#8 d a 0#6 0#6 g (FnV.pack 0#5 0#3 sat 0#2)).pack
  | .arsq g d a sat => (FR.mk 0x78#8 d a 0#6 0#6 g (FnV.pack 0#5 0#3 sat 0#2)).pack
  | .asig g d a sat => (FR.mk 0x79#8 d a 0#6 0#6 g (FnV.pack 0#5 0#3 sat 0#2)).pack
  | .asigTanh g d a sat => (FR.mk 0x79#8 d a 0#6 0#6 g (FnV.pack 0#5 0#3 sat 1#2)).pack
  | .asigSilu g d a sat => (FR.mk 0x79#8 d a 0#6 0#6 g (FnV.pack 0#5 0#3 sat 2#2)).pack
  | .asigExpe g d a sat => (FR.mk 0x79#8 d a 0#6 0#6 g (FnV.pack 0#5 0#3 sat 3#2)).pack
  | .aredSum g d a rnd sat => (FR.mk 0x7A#8 d a 0#6 0#6 g (FnV.pack 0#5 rnd.code sat 0#2)).pack
  | .aredMax g d a => (FR.mk 0x7A#8 d a 0#6 0#6 g (FnV.pack 0#5 0#3 false 1#2)).pack
  | .aredMin g d a => (FR.mk 0x7A#8 d a 0#6 0#6 g (FnV.pack 0#5 0#3 false 2#2)).pack
  | .abcast g d a => (FR.mk 0x7B#8 d a 0#6 0#6 g (FnV.pack 0#5 0#3 false 0#2)).pack
  | .abcastRow g d a ty => (FR.mk 0x7B#8 d a 0#6 0#6 g (FnV.pack ty.code 0#3 false 1#2)).pack
  | .abcastColv g d a ty => (FR.mk 0x7B#8 d a 0#6 0#6 g (FnV.pack ty.code 0#3 false 2#2)).pack
  | .amov g d a => (FR.mk 0x7C#8 d a 0#6 0#6 g (FnV.pack 0#5 0#3 false 0#2)).pack
  | .acvt g d a b ty rnd sat => (FR.mk 0x7D#8 d a b 0#6 g (FnV.pack ty.code rnd.code sat 0#2)).pack
  | .acvtB32 g d a b ty rnd sat => (FR.mk 0x7D#8 d a b 0#6 g (FnV.pack ty.code rnd.code sat 1#2)).pack
  | .rngld g a b => (FR.mk 0x9F#8 0#6 a b 0#6 g (FnI.pack 0#5 0#6)).pack
  | .rngst g d b => (FR.mk 0x9F#8 d 0#6 b 0#6 g (FnI.pack 1#5 0#6)).pack
  | .rand g d => (FR.mk 0x9F#8 d 0#6 0#6 0#6 g (FnI.pack 2#5 0#6)).pack
  | .abind g slot a b lse => (FR.mk 0x80#8 0#6 a b 0#6 g (FnF.pack lse slot)).pack
  | .attn g slot d a b c tri => (FR.mk 0x81#8 d a b c g (FnF.pack tri slot)).pack
  | .tmerge g d a b => (FR.mk 0x82#8 d a b 0#6 g (0#11)).pack
  | .kvmap g d a b => (FR.mk 0x83#8 d a b 0#6 g (0#11)).pack
  | .kvapp g a b c => (FR.mk 0x84#8 0#6 a b c g (0#11)).pack
  | .kvfork g d a => (FR.mk 0x85#8 d a 0#6 0#6 g (0#11)).pack
  | .kvforkCow g d a => (FR.mk 0x85#8 d a 0#6 0#6 g (1#11)).pack
  | .kvtrunc g a b => (FR.mk 0x86#8 0#6 a b 0#6 g (0#11)).pack
  | .kvrel g a => (FR.mk 0x87#8 0#6 a 0#6 0#6 g (0#11)).pack
  | .kvret g a b c => (FR.mk 0x88#8 0#6 a b c g (0#11)).pack
  | .kvcompact g a b c => (FR.mk 0x89#8 0#6 a b c g (0#11)).pack
  | .kvqLen g d a => (FR.mk 0x8A#8 d a 0#6 0#6 g (0#11)).pack
  | .kvqMap g d a => (FR.mk 0x8A#8 d a 0#6 0#6 g (1#11)).pack
  | .kvqFrame g d a => (FR.mk 0x8A#8 d a 0#6 0#6 g (2#11)).pack
  | .kvqState g d a => (FR.mk 0x8A#8 d a 0#6 0#6 g (3#11)).pack
  | .pxlkp g d a b => (FR.mk 0x8B#8 d a b 0#6 g (0#11)).pack
  | .pxlkpDrop g d a b => (FR.mk 0x8B#8 d a b 0#6 g (1#11)).pack
  | .pxins g d a b => (FR.mk 0x8C#8 d a b 0#6 g (0#11)).pack
  | .cfg g a => (FS.mk 0x40#8 0#6 a 0#6 0#6 g 0#6 0#21).pack
  | .cfgStg g a => (FS.mk 0x40#8 0#6 a 0#6 0#6 g 0#6 1#21).pack
  | .cfgsw g => (FS.mk 0x41#8 0#6 0#6 0#6 0#6 g 0#6 0#21).pack
  | .strm g port a b c mode ty sc sp => (FS.mk 0x42#8 0#6 a b c g (PortLo.pack port) (FnStrm.pack mode.code ty.code sc.code sp)).pack
  | .sbar g a => (FS.mk 0x43#8 0#6 a 0#6 0#6 g 0#6 0#21).pack
  | .sbarOrd g a => (FS.mk 0x43#8 0#6 a 0#6 0#6 g 0#6 1#21).pack
  | .btok g a id gm => (FS.mk 0x44#8 0#6 a 0#6 0#6 g 0#6 (FnTok.pack gm id)).pack
  | .argw g op a => (FS.mk 0x45#8 0#6 a 0#6 0#6 g (PortHi.pack op) 0#21).pack
  | .tinj g ch a => (FS.mk 0x46#8 0#6 a 0#6 0#6 g 0#6 (FnCh.pack ch)).pack
  | .tpop g d ch => (FS.mk 0x47#8 d 0#6 0#6 0#6 g 0#6 (FnCh.pack ch)).pack
  | .fstat g d site => (FS.mk 0x48#8 d 0#6 0#6 0#6 g (Port5.pack site) 0#21).pack
  | .fstatAll g d => (FS.mk 0x48#8 d 0#6 0#6 0#6 g 0#6 1#21).pack
  | .slotf g a b sp => (FS.mk 0x49#8 0#6 a b 0#6 g 0#6 (bit21 sp)).pack
  | .cpyG2s g d a b c fe gm sc => (FR.mk 0x50#8 d a b c g (FnC.pack 0#3 fe gm sc.code)).pack
  | .cpyS2g g d a b c gm sc => (FR.mk 0x50#8 d a b c g (FnC.pack 1#3 false gm sc.code)).pack
  | .cpyG2g g d a b c gm sc => (FR.mk 0x50#8 d a b c g (FnC.pack 2#3 false gm sc.code)).pack
  | .cpyS2s g d a b c fe gm sc => (FR.mk 0x50#8 d a b c g (FnC.pack 3#3 fe gm sc.code)).pack
  | .cpyRing g a b gm => (FR.mk 0x50#8 0#6 a b 0#6 g (FnC.pack 4#3 false gm 0#3)).pack
  | .tbinit g a n gm => (FI.mk 0x51#8 0#6 a g (QBar.pack gm 0#3) n).pack
  | .tbexp g a b gm => (FR.mk 0x52#8 0#6 a b 0#6 g (FnC.pack 0#3 false gm 0#3)).pack
  | .tbarr g a gm sc => (FR.mk 0x53#8 0#6 a 0#6 0#6 g (FnC.pack 0#3 false gm sc.code)).pack
  | .tbwait g a ph gm sc => (FI.mk 0x54#8 0#6 a g (QBar.pack gm sc.code) (PhImm.pack ph)).pack
  | .tbtest g pd a ph gm sc => (FI.mk 0x55#8 (predField pd) a g (QBar.pack gm sc.code) (PhImm.pack ph)).pack
  | .amo g d m op dbl => (FM.mk 0x35#8 d m.base m.index g (szWD dbl) m.scale op.code m.disp).pack
  | .red g d m op dbl => (FM.mk 0x37#8 d m.base m.index g (szWD dbl) m.scale op.code m.disp).pack
  | .amof g d m op sp dbl => (FM.mk 0x38#8 d m.base m.index g (szWD dbl) m.scale (QAmof.pack sp op.codeF) m.disp).pack
  | .cas g d a b c sp dbl => (FR.mk 0x36#8 d a b c g (FnP.pack dbl sp)).pack
  | .ldfe g d m clr sz => (FM.mk 0x32#8 d m.base m.index g sz.code m.scale (QLd.pack false clr) m.disp).pack
  | .stfe g d m sz => (FM.mk 0x33#8 d m.base m.index g sz.code m.scale 0#4 m.disp).pack
  | .pref g m l2 sz => (FM.mk 0x34#8 0#6 m.base m.index g sz.code m.scale (QLd.pack false l2) m.disp).pack
  | .fence g sc => (FX.mk 0x39#8 (FnScope.pack sc.code) g 0#40).pack
  | .chainCpy g a b sc => (FR.mk 0x56#8 0#6 a b 0#6 g (FnC.pack 0#3 false false sc.code)).pack
  | .chainColl g a b sc => (FR.mk 0x56#8 0#6 a b 0#6 g (FnC.pack 1#3 false false sc.code)).pack
  | .seqw g d a limit sp sc => (FI.mk 0x57#8 d a g (QBar.pack sp sc.code) limit).pack
  | .collSum g d a b c ty => (FR.mk 0x58#8 d a b c g (FnColl.pack 0#3 ty.code)).pack
  | .collMax g d a b c ty => (FR.mk 0x58#8 d a b c g (FnColl.pack 1#3 ty.code)).pack
  | .collMin g d a b c ty => (FR.mk 0x58#8 d a b c g (FnColl.pack 2#3 ty.code)).pack
  | .collBcast g d a b c ty => (FR.mk 0x58#8 d a b c g (FnColl.pack 3#3 ty.code)).pack
  | .collAgath g d a b c ty => (FR.mk 0x58#8 d a b c g (FnColl.pack 4#3 ty.code)).pack
  | .collRscat g d a b c ty => (FR.mk 0x58#8 d a b c g (FnColl.pack 5#3 ty.code)).pack
  | .spl g slot a b c => (FR.mk 0x3A#8 0#6 a b c g (Fn4.pack slot)).pack
  | .fil g slot a b => (FR.mk 0x3B#8 0#6 a b 0#6 g (Fn4.pack slot)).pack
  | .bslice g d a ty s => (FR.mk 0x90#8 d a 0#6 0#6 g (FnI.pack ty.code s)).pack
  | .bjoin g d a ty s => (FR.mk 0x91#8 d a 0#6 0#6 g (FnI.pack ty.code s)).pack
  | .lctx g slot a => (FR.mk 0x92#8 0#6 a 0#6 0#6 g (FnQ.pack 0#3 slot)).pack
  | .lsel g slot => (FR.mk 0x93#8 0#6 0#6 0#6 0#6 g (FnQ.pack 0#3 slot)).pack
  | .lrun g => (FR.mk 0x94#8 0#6 0#6 0#6 0#6 g (0#11)).pack
  | .lstatPop g d a => (FR.mk 0x95#8 d a 0#6 0#6 g (FnQ.pack 0#3 0#2)).pack
  | .lstatWord g d a q => (FR.mk 0x95#8 d a 0#6 0#6 g (FnQ.pack 1#3 q)).pack
  | .lstatSlot g d slot => (FR.mk 0x95#8 d 0#6 0#6 0#6 g (FnQ.pack 2#3 slot)).pack
  | .lstatRuns g d => (FR.mk 0x95#8 d 0#6 0#6 0#6 g (FnQ.pack 3#3 0#2)).pack
  | .tenq g a b => (FR.mk 0x98#8 0#6 a b 0#6 g (0#11)).pack
  | .launch g a => (FR.mk 0x99#8 0#6 a 0#6 0#6 g (0#11)).pack
  | .launchArg g a b => (FR.mk 0x99#8 0#6 a b 0#6 g (1#11)).pack
  | .gsig g a b => (FR.mk 0x9A#8 0#6 a b 0#6 g (0#11)).pack
  | .tend g => (FX.mk 0x9B#8 0#8 g 0#40).pack
  | .tyield g => (FX.mk 0x9C#8 0#8 g 0#40).pack
  | .rinvTag g d a => (FR.mk 0x9D#8 d a 0#6 0#6 g (FnQ.pack 0#3 0#2)).pack
  | .rinvRange g d a b => (FR.mk 0x9D#8 d a b 0#6 g (FnQ.pack 1#3 0#2)).pack
  | .rinvAll g d => (FR.mk 0x9D#8 d 0#6 0#6 0#6 g (FnQ.pack 2#3 0#2)).pack
  | .rinvAsid g d a => (FR.mk 0x9D#8 d a 0#6 0#6 g (FnQ.pack 3#3 0#2)).pack
  | .rstatLkp g d => (FR.mk 0x9E#8 d 0#6 0#6 0#6 g (FnQ.pack 0#3 0#2)).pack
  | .rstatHit g d => (FR.mk 0x9E#8 d 0#6 0#6 0#6 g (FnQ.pack 1#3 0#2)).pack
  | .rstatMiss g d => (FR.mk 0x9E#8 d 0#6 0#6 0#6 g (FnQ.pack 2#3 0#2)).pack
  | .rstatIns g d => (FR.mk 0x9E#8 d 0#6 0#6 0#6 g (FnQ.pack 3#3 0#2)).pack
  | .rstatProbe g d a => (FR.mk 0x9E#8 d a 0#6 0#6 g (FnQ.pack 4#3 0#2)).pack
  | .rstatHeld g d => (FR.mk 0x9E#8 d 0#6 0#6 0#6 g (FnQ.pack 5#3 0#2)).pack
  | .rstatQuota g d => (FR.mk 0x9E#8 d 0#6 0#6 0#6 g (FnQ.pack 6#3 0#2)).pack
  | .illegalWord w => w
  | .instructionFetchFault _ _ => 0
  | .registerWrite _ _ => 0
  | .wfeTimeout _ => 0
  | .sevDelivery => 0
  | .compactionDone _ => 0
  | .slabRelocationStep _ _ => 0
  | .portReadAccess _ _ => 0
  | .portGatherAccess _ _ => 0
  | .portWriteAccess _ _ => 0
  | .portReductionAccess _ _ => 0
  | .portCondition _ _ => 0
  | .speculativeFetch _ _ => 0
  | .portBarArrival _ _ => 0
  | .portDoneToken _ _ => 0
  | .portRetry _ _ => 0
  | .relatchToken _ _ => 0
  | .inputPacketExpand _ _ _ => 0
  | .cfgkConsume _ _ _ => 0
  | .repeatBlock _ _ => 0
  | .mergeIsect _ _ => 0
  | .mergeUnion _ _ => 0
  | .mergeChk _ _ => 0
  | .radix _ _ => 0
  | .gate _ _ => 0
  | .select _ _ => 0
  | .stat _ _ => 0
  | .xlat _ _ => 0
  | .cbdec _ _ => 0
  | .delta _ _ => 0
  | .fconv _ _ => 0
  | .rle _ _ => 0
  | .transp _ _ => 0
  | .mov _ _ => 0
  | .iadd _ _ => 0
  | .isub _ _ => 0
  | .imul _ _ => 0
  | .imad _ _ => 0
  | .iand _ _ => 0
  | .ior _ _ => 0
  | .ixor _ _ => 0
  | .ishl _ _ => 0
  | .ishr _ _ => 0
  | .isra _ _ => 0
  | .imin _ _ => 0
  | .imax _ _ => 0
  | .icmp _ _ => 0
  | .elemSel _ _ => 0
  | .cmpc _ _ => 0
  | .deq _ _ => 0
  | .emit _ _ => 0
  | .fadd _ _ => 0
  | .fsub _ _ => 0
  | .fmul _ _ => 0
  | .ffma _ _ => 0
  | .fmin _ _ => 0
  | .fmax _ _ => 0
  | .fcmp _ _ => 0
  | .fexp2 _ _ => 0
  | .frcp _ _ => 0
  | .fcvtF32Bf16 _ _ => 0
  | .fcvtF32F16 _ _ => 0
  | .fcvtF32E4m3 _ _ => 0
  | .fcvtF32E5m2 _ _ => 0
  | .fcvtF32E2m1 _ _ => 0
  | .fcvtF32S32 _ _ => 0
  | .fcvtF32Z32 _ _ => 0
  | .fcvtBf16F32 _ _ => 0
  | .fcvtF16F32 _ _ => 0
  | .fcvtE4m3F32 _ _ => 0
  | .fcvtE5m2F32 _ _ => 0
  | .fcvtE2m1F32 _ _ => 0
  | .fcvtS32F32 _ _ => 0
  | .fcvtZ32F32 _ _ => 0
  | .vaddBf16 _ _ => 0
  | .vmulBf16 _ _ => 0
  | .vfmaBf16 _ _ => 0
  | .vaddF16 _ _ => 0
  | .vmulF16 _ _ => 0
  | .vfmaF16 _ _ => 0
  | .vaddS16 _ _ => 0
  | .vmulS16 _ _ => 0
  | .vaddS8 _ _ => 0
  | .vmulS8 _ _ => 0
  | .copySectorWrite _ _ _ => 0
  | .copySectorRetry _ _ _ => 0
  | .ringSlotCopy _ _ => 0
  | .updateOnlyEvict _ _ => 0
  | .chainEntryComplete _ _ => 0
  | .seqwTimeout _ => 0
  | .tableLoadEntry _ _ _ => 0
  | .dispatch _ => 0
  | .reuseLookup _ _ _ => 0
  | .schedulerDusk _ => 0
  | .tyieldAgeExpiry _ => 0
  | .asyncTrap _ => 0
  | .prtInv _ => 0
  | .invalidationComplete _ => 0
  | .popMigrate _ => 0
  | .popDuplicate _ => 0
  | .popCollapse _ => 0
  | .pageOperationComplete _ => 0
  | .drainTimerExpiry _ => 0
  | .drainTimeout _ => 0
  | .tcmdResume => 0
  | .tcmdEnd => 0
  | .hotvalRead _ => 0
  | .frrEnable _ => 0
  | .frrDisable _ => 0
  | .schQuotaWrite _ => 0
  | .prtDusk => 0
  | .duskStart _ => 0
  | .markerPass _ _ => 0
  | .writePortDrain _ _ => 0
  | .foreignMarkArrival _ _ _ => 0
  | .setSwap _ => 0
  | .taskResume _ => 0
  | .prtRsz _ => 0
  | .clusterRemovalComplete _ _ => 0
  | .prtMove _ => 0
  | .ticketExport => 0
  | .ticketImport _ => 0
  | .doorbell _ _ => 0
  | .ringEntryNop _ => 0
  | .ringEntryGraph _ => 0
  | .ringEntryRecord _ => 0
  | .daybreak _ => 0
  | .partCreate _ _ => 0
  | .partDestroy _ _ => 0
  | .setTables _ _ _ => 0
  | .asidSync _ _ => 0
  | .frrOwner _ _ _ => 0
  | .groupReg _ _ _ => 0
  | .aperture _ _ _ _ => 0
  | .ticketKey _ _ => 0
  | .clusterMove _ _ _ _ => 0
  | .reset _ _ => 0
  | .mailboxUnknown _ _ => 0
  | .hifErrClear _ => 0
  | .hostMemRequest _ => 0
  | .hostWriteSnoop _ _ => 0
  | .druatLoad _ _ => 0
  | .druatLoadResponse _ _ => 0
  | .druatStore _ _ => 0
  | .druatReduction _ _ _ _ => 0
  | .druatAcknowledge _ _ => 0
  | .druatCollectiveStream _ _ _ _ => 0
  | .druatMigrationStream _ _ => 0
  | .druatIdle _ _ => 0
  | .flitCrcFail _ => 0
  | .portRetrain _ => 0
  | .portFailed _ => 0
  | .powerOnStart => 0
  | .startTimeout => 0
  | .twilightStart _ _ _ => 0
  | .twilightRetry => 0
  | .powerStep _ _ => 0
  | .claimStreamDone _ => 0
  | .mailboxResultPosted => 0
  | .startComplete _ _ => 0
  | .retrainComplete _ _ => 0
  | .hostCxlResponse _ => 0
  | .prtFqheadWrite _ => 0
  | .powerLoss => 0
  | .trayPowerLimit _ => 0

/-- Decoding of a control word (R62): total, and rejecting by name. An opcode that R60 leaves unassigned decodes to the
instruction that takes the ILLEGAL trap. A candidate is accepted when its fields are ones the spec gives it and its own word
is the word decoded, so that every field it does not use is zero. -/
def decode (w : Word) : Except Reject Instr :=
  if !opAssigned w then .ok (.illegalWord w) else
  match candidate w with
  | none => .error .reservedValue
  | some i =>
    if !i.wf then .error .reservedValue
    else if encode i == w then .ok i
    else .error .unusedField

/-- What the machine runs for a word (R62): the instruction decoded, or the one that takes the ILLEGAL trap. -/
def instrOf (w : Word) : Instr :=
  match decode w with
  | .ok i => i
  | .error _ => .illegalWord w

/-- Eight bytes, the lowest address first, as a word (R6). -/
def wordOfBytes : List Byte → Word
  | [] => 0
  | b :: bs => (wordOfBytes bs <<< 8) ||| b.setWidth 64

/-- The bytes of a word, the lowest address first (R6). -/
def bytesOfWord (w : Word) : List Byte :=
  [w.extractLsb' 0 8, w.extractLsb' 8 8, w.extractLsb' 16 8, w.extractLsb' 24 8, w.extractLsb' 32 8, w.extractLsb' 40 8,
   w.extractLsb' 48 8, w.extractLsb' 56 8]

/-- Decoding from bytes: an instruction and the bytes after it (R46). -/
def decodeBytes (bs : List Byte) : Except Reject (Instr × List Byte) :=
  match decode (wordOfBytes (bs.take 8)) with
  | .ok i => .ok (i, bs.drop 8)
  | .error e => .error e

/-- The instruction the decoder reads from an instruction word whose bits are w. -/
def decodeTableWord (_nbits w : Nat) : Option Instr :=
  match decodeBytes (bytesOfWord (BitVec.ofNat 64 w)) with
  | .ok (i, _) => some i
  | .error _ => none

/-! Element words. -/

/-- Element op codes of R69. -/
def ElemOp.ofCode (c : BitVec 7) : Option ElemOp :=
  match c.toNat with
  | 0x00 => some .empty | 0x01 => some .mov | 0x02 => some .iadd | 0x03 => some .isub | 0x04 => some .imul
  | 0x05 => some .imad | 0x06 => some .iand | 0x07 => some .ior | 0x08 => some .ixor | 0x09 => some .ishl
  | 0x0A => some .ishr | 0x0B => some .isra | 0x0C => some .imin | 0x0D => some .imax | 0x0E => some .icmp
  | 0x0F => some .sel | 0x10 => some .cmpc | 0x11 => some .deq | 0x12 => some .emit
  | 0x20 => some .fadd | 0x21 => some .fsub | 0x22 => some .fmul | 0x23 => some .ffma | 0x24 => some .fmin
  | 0x25 => some .fmax | 0x26 => some .fcmp | 0x27 => some .fexp2 | 0x28 => some .frcp
  | 0x30 => some .fcvtF32Bf16 | 0x31 => some .fcvtF32F16 | 0x32 => some .fcvtF32E4m3 | 0x33 => some .fcvtF32E5m2
  | 0x34 => some .fcvtF32E2m1 | 0x35 => some .fcvtF32S32 | 0x36 => some .fcvtF32Z32 | 0x38 => some .fcvtBf16F32
  | 0x39 => some .fcvtF16F32 | 0x3A => some .fcvtE4m3F32 | 0x3B => some .fcvtE5m2F32 | 0x3C => some .fcvtE2m1F32
  | 0x3D => some .fcvtS32F32 | 0x3E => some .fcvtZ32F32
  | 0x40 => some .vaddBf16 | 0x41 => some .vmulBf16 | 0x42 => some .vfmaBf16 | 0x44 => some .vaddF16
  | 0x45 => some .vmulF16 | 0x46 => some .vfmaF16 | 0x48 => some .vaddS16 | 0x49 => some .vmulS16
  | 0x4C => some .vaddS8 | 0x4D => some .vmulS8
  | _ => none
def ElemOp.code : ElemOp → BitVec 7
  | .empty => 0x00 | .mov => 0x01 | .iadd => 0x02 | .isub => 0x03 | .imul => 0x04 | .imad => 0x05 | .iand => 0x06
  | .ior => 0x07 | .ixor => 0x08 | .ishl => 0x09 | .ishr => 0x0A | .isra => 0x0B | .imin => 0x0C | .imax => 0x0D
  | .icmp => 0x0E | .sel => 0x0F | .cmpc => 0x10 | .deq => 0x11 | .emit => 0x12
  | .fadd => 0x20 | .fsub => 0x21 | .fmul => 0x22 | .ffma => 0x23 | .fmin => 0x24 | .fmax => 0x25 | .fcmp => 0x26
  | .fexp2 => 0x27 | .frcp => 0x28
  | .fcvtF32Bf16 => 0x30 | .fcvtF32F16 => 0x31 | .fcvtF32E4m3 => 0x32 | .fcvtF32E5m2 => 0x33 | .fcvtF32E2m1 => 0x34
  | .fcvtF32S32 => 0x35 | .fcvtF32Z32 => 0x36 | .fcvtBf16F32 => 0x38 | .fcvtF16F32 => 0x39 | .fcvtE4m3F32 => 0x3A
  | .fcvtE5m2F32 => 0x3B | .fcvtE2m1F32 => 0x3C | .fcvtS32F32 => 0x3D | .fcvtZ32F32 => 0x3E
  | .vaddBf16 => 0x40 | .vmulBf16 => 0x41 | .vfmaBf16 => 0x42 | .vaddF16 => 0x44 | .vmulF16 => 0x45 | .vfmaF16 => 0x46
  | .vaddS16 => 0x48 | .vmulS16 => 0x49 | .vaddS8 => 0x4C | .vmulS8 => 0x4D

/-- Operations whose addend is the old destination register (R274). -/
def ElemOp.addends : ElemOp → Bool
  | .imad | .ffma | .vfmaBf16 | .vfmaF16 => true
  | _ => false
/-- Operations that read source a alone (R278, R288). -/
def ElemOp.unary : ElemOp → Bool
  | .mov | .fexp2 | .frcp | .fcvtF32Bf16 | .fcvtF32F16 | .fcvtF32E4m3 | .fcvtF32E5m2 | .fcvtF32E2m1 | .fcvtF32S32
  | .fcvtF32Z32 | .fcvtBf16F32 | .fcvtF16F32 | .fcvtE4m3F32 | .fcvtE5m2F32 | .fcvtE2m1F32 | .fcvtS32F32 | .fcvtZ32F32 => true
  | _ => false

/-- The word of an element instruction (R64). -/
def ElemWord.encode (e : ElemWord) : Word :=
  e.flagsTrue ++ e.flagsFalse ++ e.inputs ++ e.outputs ++ e.tagChannel ++ e.tagClass ++ BitVec.ofBool e.negate ++ 0#2 ++
  e.op.code ++ e.dest ++ e.srcA ++ e.srcB ++ e.deq ++ e.flagMode ++ e.flagIndex ++ e.outTag ++ 0#1

/-- A source code that names an input needs that input (R68). -/
def ElemWord.srcOk (e : ElemWord) (src : BitVec 4) : Bool :=
  if src.extractLsb' 2 2 == 2#2 then e.inputs.getLsbD (src.extractLsb' 0 2).toNat else true

/-- The output channels a destination names (R65). -/
def destOuts (dest : BitVec 4) : BitVec 4 :=
  match dest.toNat with
  | 8 => 0b0001 | 9 => 0b0010 | 10 => 0b0100 | 11 => 0b1000 | 12 => 0b0011 | _ => 0

/-- The rules of R65 to R68 and R288 that concern one element word alone. -/
def ElemWord.ok (e : ElemWord) : Bool :=
  e.dest.toNat ≤ 13 &&
  (e.flagMode != 0 || e.flagIndex == 0) &&
  !(e.tagClass == 7 && !e.negate) &&
  ((e.tagChannel == 0 && e.tagClass == 7 && e.negate) || e.inputs.getLsbD e.tagChannel.toNat) &&
  e.srcOk e.srcA && e.srcOk e.srcB && (e.deq &&& ~~~e.inputs) == 0 &&
  (destOuts e.dest &&& ~~~e.outputs) == 0 &&
  (e.flagsTrue &&& e.flagsFalse) == 0 &&
  e.outTag != 7 && (e.outTag == 0 || (8 ≤ e.dest.toNat && e.dest.toNat ≤ 12)) &&
  (!e.op.unary || e.srcB == 0) &&
  (!e.op.addends || e.dest.toNat ≤ 7) &&
  (e.op != .emit || (8 ≤ e.dest.toNat && e.dest.toNat ≤ 12)) &&
  (e.op != .deq || (e.dest == 13 && e.srcA == 0 && e.srcB == 0 && e.flagMode != 3))

/-- The fields of a word read as an element word (R64), when its op is assigned and its zero fields are zero. -/
def ElemWord.ofWord (w : Word) : Option ElemWord := do
  let op ← ElemOp.ofCode (w.extractLsb' 25 7)
  if w.extractLsb' 32 2 == 0 && !w.getLsbD 0 then
    pure ⟨w.extractLsb' 56 8, w.extractLsb' 48 8, w.extractLsb' 44 4, w.extractLsb' 40 4, w.extractLsb' 38 2,
      w.extractLsb' 35 3, w.getLsbD 34, op, w.extractLsb' 21 4, w.extractLsb' 17 4, w.extractLsb' 13 4,
      w.extractLsb' 9 4, w.extractLsb' 7 2, w.extractLsb' 4 3, w.extractLsb' 1 3⟩
  else none

/-- Decoding of an element word (R68, R288): total, none where CFG rejects the word. The word of zeros is an empty slot (R69), although
its tag field would be a reserved value under R66 (DEDUCED, log entry 28). -/
def decodeElem (w : Word) : Option ElemWord :=
  match ElemWord.ofWord w with
  | some e => if w == 0 || e.ok then some e else none
  | none => none

end Sys2Proof
end

