-- ==== Sys2Proof/Machine/Float.lean ====
section
/-! DEFINITION. Number formats and exact arithmetic (R106 to R126): a value is NaN, an infinity or an exact dyadic number with
its sign; every operation is exact, and one rounding narrows the result to its format. -/

namespace Sys2Proof

/-- A floating value: NaN, an infinity, or (−1)^neg × m × 2^e exactly; a zero keeps its sign (R106, R113). -/
inductive FVal where
  | nan
  | inf (neg : Bool)
  | fin (neg : Bool) (m : Nat) (e : Int)
  deriving DecidableEq, Repr

/-- How a format treats its all-ones exponent (R106). -/
inductive FmtKind where | ieee | e4m3 | e2m1
  deriving DecidableEq, Repr

/-- A floating format: exponent and mantissa bits, bias, and its special encodings (R106). -/
structure Fmt where
  eb : Nat
  mb : Nat
  bias : Int
  kind : FmtKind
  deriving DecidableEq, Repr

def Fmt.f64 : Fmt := ⟨11, 52, 1023, .ieee⟩
def Fmt.f32 : Fmt := ⟨8, 23, 127, .ieee⟩
def Fmt.bf16 : Fmt := ⟨8, 7, 127, .ieee⟩
def Fmt.f16 : Fmt := ⟨5, 10, 15, .ieee⟩
def Fmt.e4m3 : Fmt := ⟨4, 3, 7, .e4m3⟩
def Fmt.e5m2 : Fmt := ⟨5, 2, 15, .ieee⟩
def Fmt.e2m1 : Fmt := ⟨2, 1, 1, .e2m1⟩

/-- The format of a floating type code (R53). -/
def Ty.fmt : Ty → Option Fmt
  | .f64 => some Fmt.f64 | .f32 => some Fmt.f32 | .bf16 => some Fmt.bf16 | .f16 => some Fmt.f16
  | .e4m3 => some Fmt.e4m3 | .e5m2 => some Fmt.e5m2 | .e2m1 => some Fmt.e2m1
  | .e8m0 | .c2x8 | .s8 | .s16 | .s32 | .s64 | .z8 | .z16 | .z32 | .z64 => none

/-- Width of an element in bits (R106 to R109). -/
def Ty.bits : Ty → Nat
  | .f64 | .s64 | .z64 => 64 | .f32 | .s32 | .z32 => 32 | .bf16 | .f16 | .s16 | .z16 | .c2x8 => 16
  | .e4m3 | .e5m2 | .e8m0 | .s8 | .z8 => 8 | .e2m1 => 4
/-- Width of an element in bytes, at least one. -/
def Ty.bytes (t : Ty) : Nat := max 1 (t.bits / 8)
/-- The signed integer types (R109). -/
def Ty.signed : Ty → Bool
  | .s8 | .s16 | .s32 | .s64 => true
  | .f32 | .bf16 | .f16 | .e4m3 | .e5m2 | .e2m1 | .e8m0 | .c2x8 | .f64 | .z8 | .z16 | .z32 | .z64 => false

/-- Bits of a number, by halving; the fuel bounds the count. -/
def bitLenAux : Nat → Nat → Nat
  | 0, _ => 0
  | f + 1, n => if n == 0 then 0 else bitLenAux f (n / 2) + 1
/-- The number of bits of n, for n below 2^4096. -/
def bitLen (n : Nat) : Nat := bitLenAux 4096 n

/-- x × 2^k rounded down, for any k. -/
def shiftNat (x : Nat) (k : Int) : Nat := if k ≥ 0 then x * 2 ^ k.toNat else x / 2 ^ (-k).toNat

/-- The value of an encoding (R106, R107). -/
def Fmt.decode (f : Fmt) (x : Nat) : FVal :=
  let m := x % 2 ^ f.mb
  let e := x / 2 ^ f.mb % 2 ^ f.eb
  let s := x / 2 ^ (f.mb + f.eb) % 2 == 1
  let top := e == 2 ^ f.eb - 1
  if f.kind == .ieee && top then (if m == 0 then .inf s else .nan)
  else if f.kind == .e4m3 && top && m == 7 then .nan
  else if e == 0 then .fin s m (1 - f.bias - f.mb)
  else .fin s (m + 2 ^ f.mb) (e - f.bias - f.mb)

/-- The canonical NaN of a format (R111); .e2m1 has none, and a NaN gives +0 there (R117). -/
def Fmt.nan (f : Fmt) : Nat :=
  match f.kind with
  | .ieee => (2 ^ f.eb - 1) * 2 ^ f.mb + 2 ^ (f.mb - 1)
  | .e4m3 => 0x7F
  | .e2m1 => 0

/-- The encoding of the largest finite value, without sign (R106). -/
def Fmt.maxBits (f : Fmt) : Nat :=
  match f.kind with
  | .ieee => (2 ^ f.eb - 1) * 2 ^ f.mb - 1
  | .e4m3 => 0x7E
  | .e2m1 => 7

/-- The sign bit of a format. -/
def Fmt.sign (f : Fmt) (neg : Bool) : Nat := if neg then 2 ^ (f.mb + f.eb) else 0

/-- The encoding of a signed infinity, where the format has one; else what R117 gives in its place without .sat. -/
def Fmt.infBits (f : Fmt) (neg : Bool) : Nat :=
  match f.kind with
  | .ieee => f.sign neg + (2 ^ f.eb - 1) * 2 ^ f.mb
  | .e4m3 => f.nan
  | .e2m1 => f.sign neg + f.maxBits

/-- The magnitude m × 2^e narrowed to a multiple of 2^q by a rounding (R115). -/
def roundAt (rnd : Rnd) (draw : Nat) (neg : Bool) (m : Nat) (e q : Int) : Nat :=
  if e ≥ q then m * 2 ^ (e - q).toNat
  else
    let k := (q - e).toNat
    let lo := m / 2 ^ k
    let rem := m % 2 ^ k
    if rem == 0 then lo
    else
      let up := match rnd with
        | .rne => decide (2 ^ k < 2 * rem) || (2 * rem == 2 ^ k && lo % 2 == 1)
        | .rtz => false
        | .rdn => neg
        | .rup => !neg
        | .rsr => decide (draw < rem * 65536 / 2 ^ k)
      if up then lo + 1 else lo

/-- The result of a rounding whose magnitude passes the largest finite value (R117). -/
def Fmt.overflow (f : Fmt) (rnd : Rnd) (sat neg : Bool) : Nat :=
  if sat then f.sign neg + f.maxBits
  else match rnd with
    | .rne | .rsr => f.infBits neg
    | .rtz => f.sign neg + f.maxBits
    | .rdn => if neg then f.infBits neg else f.sign neg + f.maxBits
    | .rup => if neg then f.sign neg + f.maxBits else f.infBits neg

/-- Rounding of a value to a format (R115, R117). -/
def Fmt.round (f : Fmt) (rnd : Rnd) (draw : Nat) (sat : Bool) : FVal → Nat
  | .nan => f.nan
  | .inf neg => if sat then f.sign neg + f.maxBits else f.infBits neg
  | .fin neg m e =>
    if m == 0 then f.sign neg
    else
      let top := e + bitLen m - 1
      let q := max top (1 - f.bias) - f.mb
      let r := roundAt rnd draw neg m e q
      let q' := if 2 ^ (f.mb + 1) ≤ r then q + 1 else q
      let r' := if 2 ^ (f.mb + 1) ≤ r then r / 2 else r
      let bits := if r' < 2 ^ f.mb then r' else ((q' + f.mb + f.bias).toNat) * 2 ^ f.mb + (r' - 2 ^ f.mb)
      if f.maxBits < bits then f.overflow rnd sat neg else f.sign neg + bits

/-- Rounding to nearest even without .sat. -/
def Fmt.rne (f : Fmt) (v : FVal) : Nat := f.round .rne 0 false v

/-- Negation of a value. -/
def FVal.neg : FVal → FVal
  | .nan => .nan
  | .inf s => .inf (!s)
  | .fin s m e => .fin (!s) m e
/-- The exact product (R113: the sign of a zero product is the exclusive or). -/
def FVal.mul : FVal → FVal → FVal
  | .nan, _ => .nan
  | .inf _, .nan => .nan
  | .fin _ _ _, .nan => .nan
  | .inf s, .inf t => .inf (s != t)
  | .inf s, .fin t m _ => if m == 0 then .nan else .inf (s != t)
  | .fin s m _, .inf t => if m == 0 then .nan else .inf (s != t)
  | .fin s m e, .fin t n d => .fin (s != t) (m * n) (e + d)
/-- A signed magnitude as an integer. -/
def signedInt (neg : Bool) (m : Nat) : Int := if neg then -(m : Int) else m
/-- The exact sum (R113: exact cancellation gives +0, unless every addend is −0). -/
def FVal.add : FVal → FVal → FVal
  | .nan, _ => .nan
  | .inf _, .nan => .nan
  | .fin _ _ _, .nan => .nan
  | .inf s, .inf t => if s == t then .inf s else .nan
  | .inf s, .fin _ _ _ => .inf s
  | .fin _ _ _, .inf t => .inf t
  | .fin s m e, .fin t n d =>
    if m == 0 && n == 0 then .fin (s && t) 0 0
    else if m == 0 then .fin t n d
    else if n == 0 then .fin s m e
    else
      let b := min e d
      let z := signedInt s m * 2 ^ (e - b).toNat + signedInt t n * 2 ^ (d - b).toNat
      .fin (decide (z < 0)) z.natAbs b
/-- Scaling by a power of two: exact. -/
def FVal.scale (v : FVal) (k : Int) : FVal :=
  match v with
  | .nan => .nan
  | .inf s => .inf s
  | .fin s m e => .fin s m (e + k)
/-- The magnitude. -/
def FVal.abs : FVal → FVal
  | .nan => .nan
  | .inf _ => .inf false
  | .fin _ m e => .fin false m e
def FVal.isNan : FVal → Bool
  | .nan => true
  | .inf _ | .fin _ _ _ => false
/-- Order of two values that are not NaN, as a sign: −1, 0 or 1; −0 and +0 are equal. -/
def FVal.cmp : FVal → FVal → Int
  | .nan, _ => 0
  | .inf _, .nan => 0
  | .fin _ _ _, .nan => 0
  | .inf s, .inf t => if s == t then 0 else if s then -1 else 1
  | .inf s, .fin _ _ _ => if s then -1 else 1
  | .fin _ _ _, .inf t => if t then 1 else -1
  | .fin s m e, .fin t n d =>
    let b := min e d
    let x := signedInt s m * 2 ^ (e - b).toNat
    let y := signedInt t n * 2 ^ (d - b).toNat
    if x < y then -1 else if x == y then 0 else 1
def FVal.isNegZero : FVal → Bool
  | .fin true 0 _ => true
  | .nan | .inf _ | .fin _ _ _ => false
/-- Minimum (R114): NaN when either is NaN, and −0 below +0. -/
def FVal.min (a b : FVal) : FVal :=
  if a.isNan || b.isNan then .nan
  else if a.cmp b < 0 then a else if b.cmp a < 0 then b else if b.isNegZero then b else a
/-- Maximum (R114). -/
def FVal.max (a b : FVal) : FVal :=
  if a.isNan || b.isNan then .nan
  else if a.cmp b < 0 then b else if b.cmp a < 0 then a else if a.isNegZero then b else a

/-- A floating-to-integer conversion (R118): rounds, then clamps to lo..hi. -/
def FVal.toInt (v : FVal) (rnd : Rnd) (draw : Nat) (lo hi : Int) : Int :=
  match v with
  | .nan => 0
  | .inf neg => if neg then lo else hi
  | .fin neg m e => Max.max lo (Min.min hi (signedInt neg (roundAt rnd draw neg m e 0)))
/-- An integer as an exact value (R118). -/
def FVal.ofInt (z : Int) : FVal := .fin (decide (z < 0)) z.natAbs 0

/-! The primitives of R125, each correctly rounded. The exponential and the logarithm are evaluated in fixed point with 256
fraction bits and a sticky bit; both are irrational where they are not exact (log entry 10). -/

/-- The largest r below 2^k with r² ≤ n. -/
def isqrtAux (n : Nat) : Nat → Nat → Nat
  | 0, r => r
  | k + 1, r => let t := r + 2 ^ k; if t * t ≤ n then isqrtAux n k t else isqrtAux n k r

/-- 1/x (R125). -/
def FVal.rcp : FVal → FVal
  | .nan => .nan
  | .inf s => .fin s 0 0
  | .fin s m e =>
    if m == 0 then .inf s
    else
      let k := bitLen m + 64
      let q := 2 ^ k / m
      .fin s (2 * q + (if q * m == 2 ^ k then 0 else 1)) (-(k : Int) - e - 1)
/-- 1/√x (R125). -/
def FVal.rsqrt : FVal → FVal
  | .nan => .nan
  | .inf s => if s then .nan else .fin false 0 0
  | .fin s m e =>
    if m == 0 then .inf s
    else if s then .nan
    else
      let m' := if e % 2 == 0 then m else 2 * m
      let e' := if e % 2 == 0 then e else e - 1
      let k := bitLen m' + 64
      let t := 2 ^ (2 * k) / m'
      let r := isqrtAux t (k + 1) 0
      .fin false (2 * r + (if r * r * m' == 2 ^ (2 * k) then 0 else 1)) (-(k : Int) - e' / 2 - 1)

/-- ln 2 × 2^256 and log2 e × 2^256, rounded down. -/
def ln2Fix : Nat := 80260960185991308862233904206310070533990667611589946606122867505419956976171
def log2eFix : Nat := 167052672916848388242985626561247531987276682633131050150846402744536260568207

/-- The exponential series at y × 2^-256 with n terms left, from term k with value t. -/
def expSeries (y : Nat) : Nat → Nat → Nat → Nat
  | 0, _, _ => 0
  | n + 1, k, t => t + expSeries y n (k + 1) (t * y / 2 ^ 256 / k)

/-- 2^x (R125). -/
def FVal.exp2 : FVal → FVal
  | .nan => .nan
  | .inf s => if s then .fin false 0 0 else .inf false
  | .fin s m e =>
    if m == 0 then .fin false 1 0
    else
      let top := e + bitLen m
      if top < -40 then .fin false (if s then 2 ^ 80 - 1 else 2 ^ 80 + 1) (-80)
      else if top > 9 then (if s then .fin false 1 (-400) else .inf false)
      else
        -- x = i + f with 0 ≤ f < 1, f in units of 2^-256
        let z := signedInt s (shiftNat m (e + 256))
        let i := z / 2 ^ 256
        let f := (z % 2 ^ 256).toNat
        if f == 0 then .fin false 1 i
        else .fin false (2 * expSeries (f * ln2Fix / 2 ^ 256) 70 1 (2 ^ 256) + 1) (i - 257)

/-- The series of the inverse hyperbolic tangent at t × 2^-256: n terms left, power p, odd number k. -/
def atanhSeries (t2 : Nat) : Nat → Nat → Nat → Nat
  | 0, _, _ => 0
  | n + 1, k, p => p / k + atanhSeries t2 n (k + 2) (p * t2 / 2 ^ 256)

/-- log2 x (R125). -/
def FVal.log2 : FVal → FVal
  | .nan => .nan
  | .inf s => if s then .nan else .inf false
  | .fin s m e =>
    if m == 0 then .inf true
    else if s then .nan
    else
      let l := bitLen m
      -- x = z × 2^n with z between 3/4 and 3/2
      let big := decide (3 * 2 ^ l < 4 * m)
      let n : Int := if big then e + l else e + l - 1
      let num := m
      let den := if big then 2 ^ l else 2 ^ (l - 1)
      if num == den then FVal.ofInt n
      else
        let d : Int := num - den
        let t := d.natAbs * 2 ^ 256 / (num + den)
        let ln := 2 * atanhSeries (t * t / 2 ^ 256) 90 1 t
        let y : Int := n * 2 ^ 256 + (if d < 0 then -((ln * log2eFix / 2 ^ 256 : Nat) : Int) else ((ln * log2eFix / 2 ^ 256 : Nat) : Int))
        .fin (decide (y < 0)) (2 * y.natAbs + 1) (-257)

/-! FP32 on bit patterns. -/

abbrev F32 := BitVec 32
def F32.val (x : F32) : FVal := Fmt.f32.decode x.toNat
def f32 (v : FVal) : F32 := BitVec.ofNat 32 (Fmt.f32.rne v)
def f32Round (rnd : Rnd) (draw : Nat) (sat : Bool) (v : FVal) : F32 := BitVec.ofNat 32 (Fmt.f32.round rnd draw sat v)
/-- RNE(a + b), RNE(a × b), RNE(a × b + c) with one rounding (R110). -/
def f32Add (a b : F32) : F32 := f32 (a.val.add b.val)
def f32Sub (a b : F32) : F32 := f32 (a.val.add b.val.neg)
def f32Mul (a b : F32) : F32 := f32 (a.val.mul b.val)
def f32Fma (a b c : F32) : F32 := f32 ((a.val.mul b.val).add c.val)
def f32Min (a b : F32) : F32 := f32 (a.val.min b.val)
def f32Max (a b : F32) : F32 := f32 (a.val.max b.val)
def f32Neg (a : F32) : F32 := f32 a.val.neg
def f32Exp2 (a : F32) : F32 := f32 a.val.exp2
def f32Log2 (a : F32) : F32 := f32 a.val.log2
def f32Rcp (a : F32) : F32 := f32 a.val.rcp
def f32Rsqrt (a : F32) : F32 := f32 a.val.rsqrt
/-- Compositions of R126: every step rounds to nearest even. -/
def f32Sig (x : F32) : F32 := f32Rcp (f32Add 0x3F800000 (f32Exp2 (f32Mul (f32Neg x) 0x3FB8AA3B)))
def f32Expe (x : F32) : F32 := f32Exp2 (f32Mul x 0x3FB8AA3B)
def f32Loge (x : F32) : F32 := f32Mul (f32Log2 x) 0x3F317218
def f32Tanh (x : F32) : F32 := f32Sub (f32Mul 0x40000000 (f32Sig (f32Mul 0x40000000 x))) 0x3F800000
def f32Silu (x : F32) : F32 := f32Mul x (f32Sig x)
def f32Diva (a b : F32) : F32 := f32Mul a (f32Rcp b)
/-- .sat of a result (R117): an infinite result becomes the largest finite value of its sign. -/
def f32Sat (sat : Bool) (x : F32) : F32 := f32Round .rne 0 sat x.val

/-- The value of a stored element of a floating type, and of an integer type exactly (R106, R109). -/
def Ty.value (t : Ty) (x : Nat) : FVal :=
  match t.fmt with
  | some f => f.decode x
  | none => FVal.ofInt (if t.signed && x / 2 ^ (t.bits - 1) % 2 == 1 then (x % 2 ^ t.bits : Int) - 2 ^ t.bits else (x % 2 ^ t.bits : Int))

/-- The range of an integer type (R109). -/
def Ty.lo (t : Ty) : Int := if t.signed then -(2 ^ (t.bits - 1)) else 0
def Ty.hi (t : Ty) : Int := if t.signed then 2 ^ (t.bits - 1) - 1 else 2 ^ t.bits - 1

/-- Narrowing of a value to any element type (R115, R117, R118). -/
def Ty.narrow (t : Ty) (rnd : Rnd) (draw : Nat) (sat : Bool) (v : FVal) : Nat :=
  match t.fmt with
  | some f => f.round rnd draw sat v
  | none => (v.toInt rnd draw t.lo t.hi % 2 ^ t.bits).toNat

/-- Components 0 to 7 of a .c2x8 index through a magnitude table (R121). -/
def c2x8 (table : Nat → BitVec 32) (idx : Nat) : List FVal :=
  let row := table (idx / 256 % 256)
  let sgn := fun k => idx / 2 ^ (k + 1) % 2
  let par := (List.range 7).foldl (fun s k => s + sgn k) (idx % 2) % 2
  (List.range 8).map fun k =>
    FVal.fin (if k < 7 then sgn k == 1 else par == 1) (2 * ((row.toNat / 16 ^ k) % 16) + 1) (-1)

/-- The default magnitude table (R122): nibble k of entry p is bit k of p. -/
def defaultMagnitudes (p : Nat) : BitVec 32 :=
  BitVec.ofNat 32 ((List.range 8).foldl (fun s k => s + (p / 2 ^ k % 2) * 16 ^ k) 0)

/-- The scale of a group by R120: none when a value is NaN or infinite, else E with its byte E + 127. -/
def groupScale (t : Ty) (vs : List FVal) : Option Int :=
  let emax : Int := match t with | .e4m3 => 8 | .e5m2 => 15 | _ => 2
  vs.foldl (fun s v => match s, v with
    | none, _ => none
    | some _, .nan => none
    | some _, .inf _ => none
    | some E, .fin _ m e => if m == 0 then some E else
        let x := Max.max (-127) (Min.min 127 (e + bitLen m - 1 - emax)); some (Max.max E x)) (some (-1000))
  |>.map fun E => if E == -1000 then 0 else E

/-! Atomic operations on words. -/

/-- The result of an atomic operation on m with operand v (R359, R114). -/
def AmoOp.apply (op : AmoOp) (dbl : Bool) (m v : Word) : Word :=
  let w : Nat := if dbl then 64 else 32
  let a := m.toNat % 2 ^ w
  let b := v.toNat % 2 ^ w
  let sg := fun (z : Nat) => if z / 2 ^ (w - 1) % 2 == 1 then (z : Int) - 2 ^ w else (z : Int)
  let f := if dbl then Fmt.f64 else Fmt.f32
  let z := match op with
    | .add => (a + b) % 2 ^ w
    | .xchg => b
    | .and => a &&& b
    | .or => a ||| b
    | .xor => a ^^^ b
    | .min => if sg b < sg a then b else a
    | .max => if sg a < sg b then b else a
    | .minz => if b < a then b else a
    | .maxz => if a < b then b else a
    | .fadd => f.rne ((f.decode a).add (f.decode b))
    | .fmin => f.rne ((f.decode a).min (f.decode b))
    | .fmax => f.rne ((f.decode a).max (f.decode b))
  BitVec.ofNat 64 z

/-- Operations and types that may gather in an update-only copy (R338, R360). -/
def AmoOp.gathers (op : AmoOp) (dbl : Bool) : Bool :=
  match op with
  | .add | .and | .or | .xor => true
  | .min | .max | .minz | .maxz | .fadd | .fmin | .fmax => !dbl
  | .xchg => false
/-- The identity of an operation (R338). -/
def AmoOp.identity (op : AmoOp) (dbl : Bool) : Word :=
  match op with
  | .add | .or | .xor | .maxz | .xchg => 0
  | .and => if dbl then 0xFFFFFFFFFFFFFFFF else 0xFFFFFFFF
  | .min => 0x7FFFFFFF
  | .max => 0x80000000
  | .minz => 0xFFFFFFFF
  | .fadd => 0x80000000
  | .fmin => 0x7F800000
  | .fmax => 0xFF800000

end Sys2Proof
end

