-- ==== Sys2Proof/Config.lean ====
section
/-! DEFINITION. What the spec leaves open: free values with no body, so that no proof can see what they are, and the figures
the spec fixes for every part. -/

namespace Sys2Proof

/-- Nanoseconds that pass during one step, by the step's number: the spec bounds durations and fixes none (R3, R34, R463;
log entry 4). -/
opaque Config.elapsedNs : Nat → Nat
/-- Cycles of the cluster clock that pass in a core during one step, by 640 × the step's number + the core (R3, R96; log entry 4). -/
opaque Config.elapsedCycles : Nat → Nat
/-- The lease end the home grants beyond a load's timestamp, taken modulo 16 (R328; log entry 8). -/
opaque Config.leaseLength : Nat → Nat
/-- What serves a load of a line at the step with the given number, while copies under leases may: 0 the home, 1 the core's copy, else
the RDC's (R328; log entry 8). -/
opaque Config.serves : Nat → Nat → Nat
/-- Whether a fetch at the step with the given number finds a word that its own task has stored to since its dispatch in the instruction
cache as it was (R47; log entry 18). -/
opaque Config.fetchesOld : Nat → Bool
/-- Whether ATTN culls an all-masked block, by the step's number and the block: it may, and need not (R182; log entry 16). -/
opaque Config.culls : Nat → Nat → Bool
/-- How often ATTN invokes a stage beyond what its result needs, by the step's number and the use (R182; log entry 16). -/
opaque Config.repeats : Nat → Nat → Nat
/-- How far an instruction that a dusk parks inside goes before the marker takes effect, at the step with the given number (R163, R172; log
entry 49). -/
opaque Config.parkAfter : Nat → Nat
/-- Whether a read of a table-load stream is the day-set task's or, else, the parked task's, when both have it to make (R391; log entry
13). -/
opaque Config.loads : Nat → Bool
/-- Whether an access at the step with the given number fills a line into a cache (R132, R244; log entry 19). -/
opaque Config.fills : Nat → Bool
/-- The translation that an access to an address uses at the step with the given number, while translations of its page may be held:
0 for a walk, k + 1 for the k-th of those held (R238; log entry 6). -/
opaque Config.heldPick : Nat → Word → Nat
/-- Bytes of a save slot or ticket: the layout belongs to the P640 (R438, R450; log entry 24). -/
opaque Config.opaqueByte : Nat → Byte
/-- Sensor figures that a DAYBREAK reports or a register shows and no rule fixes (R457, R465; log entry 26). -/
opaque Config.sensor : Nat → BitVec 16
/-- A 64-bit value that the spec leaves open at the step with the given number (log entry 27). -/
opaque Config.freeWord : Nat → Word
/-- VER of this P640's tickets, and the customisation string of their MAC (R449, R450; log entry 24). -/
opaque Config.ticketVer : BitVec 16
opaque Config.ticketCustom : List Byte

/-- Cores, dies and the mesh (R2, R8, R18). -/
def Config.cores : Nat := 640
/-- Largest ASID plus one (R2). -/
def Config.asids : Nat := 8192

end Sys2Proof
end

