-- ==== Sys2Proof/Machine/Sparse.lean ====
section
/-! DEFINITION. Sparse storage: lists of key and value in rising order of key. A memory lists no cell that holds what an
unlisted cell reads as, so that equal memories are equal lists; a table lists the entries that exist. -/

namespace Sys2Proof.Machine

/-- A sparse array of w-bit cells; an unlisted cell reads zero (log entries 1 and 5). -/
abbrev Cells (w : Nat) := List (Nat × BitVec w)

/-- The cell at a place. -/
def Cells.get {w : Nat} (m : Cells w) (a : Nat) : BitVec w :=
  match m with
  | [] => 0
  | (k, v) :: r => if k == a then v else if a < k then 0 else Cells.get r a

/-- The list with the entry at a place removed. -/
def Cells.erase {w : Nat} (m : Cells w) (a : Nat) : Cells w :=
  match m with
  | [] => []
  | (k, v) :: r => if k == a then r else if a < k then (k, v) :: r else (k, v) :: Cells.erase r a

/-- The list with a nonzero value entered at a place. -/
def Cells.insert {w : Nat} (m : Cells w) (a : Nat) (x : BitVec w) : Cells w :=
  match m with
  | [] => [(a, x)]
  | (k, v) :: r => if k == a then (a, x) :: r else if a < k then (a, x) :: (k, v) :: r else (k, v) :: Cells.insert r a x

/-- Writing a cell: zero, which an unlisted cell reads as, removes the entry. -/
def Cells.set {w : Nat} (m : Cells w) (a : Nat) (x : BitVec w) : Cells w :=
  if x == 0 then m.erase a else m.insert a x

/-- The canonical form of the cells that a list names: of two entries at one address the later stands. -/
def Cells.norm {w : Nat} (m : Cells w) : Cells w := m.foldl (fun t (a, x) => t.set a x) []
/-- The canonical form above a bound: keys strictly rise, and no entry is zero. -/
def Cells.wfFrom {w : Nat} (lo : Nat) (m : Cells w) : Bool :=
  match m with
  | [] => true
  | (k, v) :: r => lo ≤ k && v != 0 && Cells.wfFrom (k + 1) r

/-- The canonical form. -/
def Cells.wf {w : Nat} (m : Cells w) : Bool := m.wfFrom 0

/-- A memory of bytes, in the host's cells. -/
abbrev Memory := List Host.Cell

/-- The canonical form of a memory. -/
def Memory.wf (m : Memory) : Bool := Cells.wf (w := 8) m
/-- One byte of a memory. -/
def Memory.byte (m : Memory) (a : Nat) : Byte := Cells.get (w := 8) m a
/-- The bytes from an address on. -/
def Memory.bytes (m : Memory) (a : Nat) : Nat → List Byte
  | 0 => []
  | n + 1 => m.byte a :: Memory.bytes m (a + 1) n
/-- Writing one byte. -/
def Memory.setByte (m : Memory) (a : Nat) (b : Byte) : Memory := Cells.set (w := 8) m a b
/-- Writing bytes from an address on. -/
def Memory.setBytes (m : Memory) (a : Nat) : List Byte → Memory
  | [] => m
  | b :: bs => Memory.setBytes (m.setByte a b) (a + 1) bs

/-- Bytes as a number, the lowest address least significant (R6). -/
def leNat : List Byte → Nat
  | [] => 0
  | b :: bs => b.toNat + 256 * leNat bs
/-- The n low bytes of a number, the least significant first (R6). -/
def natLe (n : Nat) (x : Nat) : List Byte :=
  match n with
  | 0 => []
  | k + 1 => BitVec.ofNat 8 x :: natLe k (x / 256)
/-- Bytes as a word. -/
def leWord (bs : List Byte) : Word := BitVec.ofNat 64 (leNat bs)

/-- The entry of a table under a key. -/
def tabGet {α : Type} (t : List (Nat × α)) (k : Nat) : Option α :=
  match t with
  | [] => none
  | (j, x) :: r => if j == k then some x else tabGet r k
/-- The table with an entry set under a key, keys in rising order. -/
def tabPut {α : Type} (t : List (Nat × α)) (k : Nat) (x : α) : List (Nat × α) :=
  match t with
  | [] => [(k, x)]
  | (j, y) :: r => if j == k then (k, x) :: r else if k < j then (k, x) :: (j, y) :: r else (j, y) :: tabPut r k x
/-- The table without the entry under a key. -/
def tabDel {α : Type} (t : List (Nat × α)) (k : Nat) : List (Nat × α) :=
  match t with
  | [] => []
  | (j, y) :: r => if j == k then r else (j, y) :: tabDel r k
/-- A set of numbers in rising order: membership, entering and leaving. -/
def setHas (t : List Nat) (k : Nat) : Bool := t.elem k
def setAdd (t : List Nat) (k : Nat) : List Nat :=
  match t with
  | [] => [k]
  | j :: r => if j == k then j :: r else if k < j then k :: j :: r else j :: setAdd r k
def setDel (t : List Nat) (k : Nat) : List Nat := t.filter (· != k)

end Sys2Proof.Machine
end

