-- ==== Sys2Proof/Machine/State.lean ====
section
/-! DEFINITION. The state of the P640: every piece of state the spec names, as plain data, and the state after reset. The rule
of spec/ that gives each field stands beside it. -/

namespace Sys2Proof.Machine

/-- No meaning of this model ends in a fault: the spec gives each instruction an effect, a trap, or a value it leaves open. The
type has no constructor, so none raises one; safe. -/
inductive Fault
  deriving DecidableEq, Repr

/-- Why a step has no meaning. -/
inductive Refusal where
  /-- raised by an arm of `exec` for an instruction that the model does not yet give a meaning; safe: the run stops. -/
  | notModelled (mnemonic : String)
  deriving DecidableEq, Repr

/-- Trap codes 0x01 to 0x11 (R251). -/
inductive TrapCode where
  | illegal | priv | align | page | prot | shape | poison | bind | kvbad | kvcow | kvfull | order | purity | timeout
  | swtrap | sync | link
  deriving DecidableEq, Repr

/-- What a trap reports: its code, the value of R251, the subcode and the source fields of FR0, FR2 where it is not the word,
and whether a retry after a drain raised it (R252); and the addresses that a translation had read when it was refused (R236). -/
structure Trap where
  code : TrapCode
  val : Word
  sub : Byte := 0
  fr2 : Option Word := none
  site : Byte := 0xFF
  chan : BitVec 4 := 0xF
  src : BitVec 4 := 0
  drain : Bool := false
  reads : List Nat := []
  deriving DecidableEq, Repr

/-- The four words of a fault record (R252). -/
structure FaultRecord where
  fr0 : Word
  fr1 : Word
  fr2 : Word
  fr3 : Word
  deriving DecidableEq, Repr

/-- One level of the hardware loops (R86). -/
structure LoopLevel where
  first : Word
  last : Word
  count : BitVec 32
  reload : BitVec 32
  deriving DecidableEq, Repr

/-- A token of 40 bits (R289). -/
structure Token where
  payload : BitVec 32
  cls : BitVec 3
  aux : BitVec 5
  deriving DecidableEq, Repr

/-- An input of a site: its tokens, whether the dusk marker stands behind them (R433), its coordinate register (R270), and the fault of
the bad token that it withholds (R271, R290). -/
structure InQ where
  toks : List Token
  mark : Bool
  coord : BitVec 32
  withheld : Option Trap
  deriving DecidableEq, Repr

/-- An output of a site: its tokens and whether the dusk marker stands behind them (R433). -/
structure OutQ where
  toks : List Token
  mark : Bool
  deriving DecidableEq, Repr

/-- A wiring word (R295). Core 0x3FF names the core itself. -/
structure Wire where
  srcCore : BitVec 10
  srcSite : BitVec 7
  srcCh : BitVec 3
  dstCore : BitVec 10
  dstSite : BitVec 7
  dstCh : BitVec 3
  lc : Bool
  deriving DecidableEq, Repr

/-- A triggered-instruction element (R268): data registers, flags, constant, pool, the stall cycles still to run (R285), and
whether it has passed the marker of a dusk (R434). Its channels and coordinate registers stand in the fabric's queues. -/
structure Element where
  d : Vector (BitVec 32) 8
  f : BitVec 8
  k : BitVec 32
  pool : Vector Word 16
  stall : Nat
  passed : Bool
  deriving DecidableEq, Repr

/-- A latched translation (R240): the region's address, the virtual base of the page, its size, the page's physical base unless the slot
is invalid, the leaf and where it stands, the code and subcode of the failed translation, whether an invalidation has it translated
again, and the partition that owns the address space. -/
structure Latch where
  va : Word
  vbase : Nat
  size : Nat
  pbase : Option Nat
  leaf : Word
  entry : Nat
  code : TrapCode
  sub : Byte
  stale : Bool
  part : Nat
  deriving DecidableEq, Repr

/-- How the next access of a site counts when it fails (R257, R258): as a first attempt, as the quiet retry after a re-latch token,
or as a retry after a resumption or after a drain. -/
inductive Attempt where | first | quiet | resumed | drained
  deriving DecidableEq, Repr

/-- An operator site (R298 to R308): its block, and what it holds between tokens. `emit` are tokens formed and not yet sent,
each with its output; `buf` is the buffered block of REPEAT or TRANSP; `rep` and `pos` the repeats left and the place in the
block; `prev0`, `prev1` the last coordinates since an EOF; `sum`, `count`, `high` the segment of STAT, the run of RLE or the
scale of CBDEC. -/
structure Operator where
  kind : Byte
  mode : Byte
  a : BitVec 32
  w1 : Word
  table : List Word
  latches : List Latch
  emit : List (Nat × Token)
  buf : List Token
  rep : Nat
  pos : Nat
  prev0 : Option (BitVec 32)
  prev1 : Option (BitVec 32)
  sum : BitVec 32
  count : BitVec 32
  high : BitVec 32
  emitted : BitVec 32
  relatch : Bool
  attempt : Attempt
  withheld : Option Trap
  passed : Bool
  deriving DecidableEq, Repr

/-- A stream of STRM with its progress (R311 to R314): elements done, the element the next write names, and the tokens it has
still to emit. -/
structure Stream where
  mode : StrmMode
  ty : Ty
  sc : Scope
  sp : Bool
  base : Word
  count : Word
  stride : BitVec 32
  rowLen : BitVec 32
  done : Word
  index : Word
  emit : List Token
  /-- streams of other ports that have to end first (R318) -/
  await : List (Nat × Nat)
  deriving DecidableEq, Repr

/-- An entry of a port's queue: a stream, or a BAR that BTOK queued behind one (R313, R319). -/
inductive PortItem where
  | stream (st : Stream)
  | bar (id : BitVec 5)
  deriving DecidableEq, Repr

/-- A memory port (R309 to R316): its block word, latched slots, running stream and queue, whether the latest STRM is a read
mode, streams issued and ended, done tokens received from each port, segments ended and done tokens still to send, the
speculative fetch, the withheld access, the retry that is due for it, a write held by a migration (R245, R259), and the widest scope
of its streams (R318). -/
structure Port where
  word : Word
  latches : List Latch
  running : Option Stream
  queue : List PortItem
  latestRead : Bool
  received : List (Nat × Nat)
  segment : Nat
  due : Nat
  spec : Option (Nat × List Byte)
  issued : Nat
  ended : Nat
  retry : Option Attempt
  attempt : Attempt
  relatch : Bool
  withheld : Option Trap
  blocked : Bool
  /-- an access that it has issued waits for an answer from outside -/
  asking : Bool
  passed : Bool
  /-- its image is complete: what it issued has been performed (R435) -/
  saved : Bool
  reach : Scope
  deriving DecidableEq, Repr

/-- Where a barrier stands: a scratchpad offset, or a global virtual address (R350). -/
structure BarRef where
  gm : Bool
  addr : Word
  deriving DecidableEq, Repr

/-- The active configuration of a core's fabric (R268, R293 to R299). Queues are keyed by 8 × site + channel. -/
structure Fabric where
  elems : List (Nat × Element)
  ops : List (Nat × Operator)
  ports : List (Nat × Port)
  wires : List Wire
  ins : List (Nat × InQ)
  outs : List (Nat × OutQ)
  /-- what SBAR.ord asks of later streams: by port, the streams that have to end (R318) -/
  order : List (Nat × Nat)
  deriving DecidableEq, Repr

/-- A checked configuration image kept as the staged one (R297): elements, operator and port blocks with their tables, and
wires. -/
structure Staged where
  elems : List (Nat × Word × List Word)
  ops : List (Nat × Word × Word × List Word)
  ports : List (Nat × Word × List Word)
  wires : List Wire
  deriving DecidableEq, Repr

/-- A stage program of a binding slot (R204): its words, the constant K, and the first pair-entry word of a MASK. -/
structure Stage where
  words : List Word
  k : BitVec 32
  pe : Nat
  deriving DecidableEq, Repr

/-- A binding slot of the attention unit (R205). -/
structure Binding where
  score : Stage
  mask : Option Stage
  blend : Option Stage
  dim : Nat
  block : Nat
  ty : Ty
  outTy : Ty
  pE4m3 : Bool
  consts : Word
  workspace : Word
  handle : BitVec 32
  group : Nat
  lse : Bool
  deriving DecidableEq, Repr

/-- A lookup cell: its truth table and six selectors (R384). -/
structure Cell where
  table : Word
  sel : List Nat
  deriving DecidableEq, Repr

/-- A context slot of the lookup-cell fabric (R386, R390): empty (with its FAIL status), loading with the image address, the
cells the header names once it is read, the entries read so far, a withheld read and the retry that is due for it, or resident. -/
inductive LcSlot where
  | empty (fail : Bool)
  | loading (image : Word) (n : Option Nat) (cells : List (Nat × Cell)) (withheld : Option Trap)
      (retry : Option Attempt)
  | resident (cells : List Cell)
  deriving DecidableEq, Repr

/-- Why a task waits at its instruction (R42); a wait with a limit in cycles (0 for none) holds what CC_CYCLE was at its start (R101,
R367), and the wait of a CFG for quiescence the image that it has checked (R297). -/
inductive Wait where
  | none | barrier | event (limit : Nat) (since : Word) | granule | seqw (limit : Nat) (since : Word) | queueFull | quiescence (image : Option Staged) | interlock | channel
  | operand | tableLoad | plane | collective | remote | migration | busy | claim | tend
  deriving DecidableEq, Repr

/-- The condition of a task: it runs, is held after a supervisor trap (R255), waits for a fault-queue slot with its record
(R255), is drained (R258), or is held with no image after a drain that timed out (R260). -/
inductive TaskCond where
  | run | held | slotWait (rec : FaultRecord) | drained | timedOut
  deriving DecidableEq, Repr

/-- The record a task runs (R397, R422, R424, R426): the node, its successors' reads stand in memory; DONE, PURE, the tiles and
the result range, the tag and granules remembered at the lookup, and whether the run may insert an entry. -/
structure Job where
  done : Word
  pure : Bool
  tiles : List (Word × Nat)
  result : Word
  resultLen : Nat
  tag : Option (BitVec 128)
  granules : List (Nat × BitVec 32)
  uncacheable : Bool
  faulted : Bool
  voided : Bool
  deriving DecidableEq, Repr

/-- Claimed columns, scratchpad bytes, full granules and poisoned granules of a parked task (R39). -/
structure Parts where
  acc : Cells 32
  spad : Memory
  full : List Nat
  poison : List Nat
  deriving DecidableEq, Repr

/-- Whether a parked task's overlapped parts are in the core, still to be streamed out, or streamed out (R39). -/
inductive Residence where | resident | leaving | out
  deriving DecidableEq, Repr

/-- An MMA or MMAS that a marker, a wait or a trap has interrupted (R163, R164): its PC, the groups it has added, and the operand words of
the next group that it has taken from MA and MB. -/
structure MmaSaved where
  pc : Word
  done : Nat
  wa : List (BitVec 32)
  wb : List (BitVec 32)
  deriving DecidableEq, Repr

/-- A live sequence of a KV engine (R202, R210, R213, R214, R218, R249). -/
structure Sequence where
  gen : BitVec 10
  asid : BitVec 13
  desc : Vector Word 4
  slab : Nat
  slabLog : Nat
  tokens : List (Nat × Nat)
  compacting : List Nat
  reloc : Option (Nat × Nat × Nat)
  deriving DecidableEq, Repr

/-- A triple of a query row (R185): accumulator row, maximum, and binary64 sum. -/
structure Triple where
  acc : List (BitVec 32)
  m : BitVec 32
  l : BitVec 64
  deriving DecidableEq, Repr

/-- What a pass has invoked so far (R199): block entries, culled blocks, SCORE, and pair entries. -/
structure Tally where
  blocks : Nat := 0
  culled : Nat := 0
  scores : Nat := 0
  pairs : Nat := 0
  deriving DecidableEq, Repr

/-- A pass of ATTN past its snapshot (R172, R207, R208): its PC, its number at the KV engine, its binding, the sequence and the bases of its
frames, the constant row, the codes of its query rows, the stored positions, and the triples of the blocks done, by block, then row. -/
structure Pass where
  pc : Word
  id : Nat
  bind : Binding
  seq : Sequence
  bases : List Nat
  consts : List (BitVec 32)
  query : List (List Nat)
  poss : List (BitVec 32)
  done : List (List Triple)
  tally : Tally
  deriving DecidableEq, Repr

/-- The context set of a task or supervisor (R26, R96, R438) and what the core keeps for it. -/
structure Ctx where
  /-- the model's own number of the task -/
  id : Nat
  /-- device memory as it stood when the task was dispatched, which fetches read, and the 64-bit words that the task has stored to
  since (R47) -/
  code : Memory
  patched : List Nat
  /-- the lines of host memory that the P640 held at the dispatch -/
  codeLines : List (Nat × List Byte)
  asid : BitVec 13
  part : Nat
  sup : Bool
  regs : Vector Word 64
  preds : Vector Bool 16
  pc : Word
  loop0 : LoopLevel
  loop1 : LoopLevel
  th : Bool
  sh : Bool
  ev : Bool
  cycle : Word
  issued : Word
  thv : Word
  tepc : Word
  tcause : Word
  tval : Word
  svec : Word
  epc : Word
  cause : Word
  stval : Word
  sword : Word
  sscr : Word
  fr : FaultRecord
  halted : Bool
  cond : TaskCond
  wait : Wait
  traps : List Trap
  rngKey : Word
  rngCtr : BitVec 128
  att : Vector Word 6
  bindings : Vector (Option Binding) 8
  lkc : Word
  runs : Word
  lcSel : Option (BitVec 2)
  lcSlots : Vector LcSlot 4
  /-- the wire plane of a parked task once another task has taken the plane (R377) -/
  plane : Option (Cells 256)
  node : Word
  rslot : Word
  prio : Byte
  cols : Nat
  spadBytes : Nat
  job : Option Job
  fabric : Option Fabric
  staged : Option Staged
  btok : List (Nat × BarRef)
  /-- an interrupted MMA or MMAS, of the handler level 1 and of the task's own level 0 (R163) -/
  mma : List (Nat × MmaSaved)
  /-- an interrupted ATTN, of the same levels (R172, R438) -/
  attn : List (Nat × Pass)
  /-- resumed after a drain: a retry that fails again has DRAIN set (R258) -/
  afterDrain : Bool
  parts : Option Parts
  residence : Residence
  /-- a task parked by TYIELD waits for another to enter the day set or for its age (R412) -/
  yielded : Bool
  eligible : Bool
  since : Word
  deriving DecidableEq, Repr

/-- What a copy belongs to: a command of its own, a slot copy of a ring with its number, or an entry of a chain. -/
inductive Owner where
  | command
  | ring (k slot : Nat)
  | chain (k : Nat)
  deriving DecidableEq, Repr

/-- A sector of a filling copy on its way (R356): which of its two granules are filled, the bytes read, and whether they are
poisoned. -/
structure Half where
  low : Bool
  high : Bool
  bytes : List Byte
  bad : Bool
  deriving DecidableEq, Repr

/-- A copy-engine command (R354 to R356): sectors written, sectors counted down, filling sectors on their way, withheld sectors,
and the retries that are due for them. -/
structure Copy where
  owner : Owner
  task : Nat
  asid : BitVec 13
  part : Nat
  dir : BitVec 3
  dst : Word
  src : Word
  sectors : Nat
  fe : Bool
  bar : Option BarRef
  sc : Scope
  done : List Nat
  counted : List Nat
  halves : List (Nat × Half)
  withheld : List (Nat × Trap)
  retry : List (Nat × Attempt)
  deriving DecidableEq, Repr

/-- A running ring (R357, R358): where its descriptor lies and what it holds, the next slot copy, the slot copies landed out of
order, and a withheld access to the descriptor with the retry that is due. -/
structure Ring where
  task : Nat
  asid : BitVec 13
  part : Nat
  gm : Bool
  desc : Word
  src : Word
  dst : Word
  slot : Nat
  nslot : Nat
  dsp : Bool
  fe : Bool
  total : Nat
  next : Nat
  landed : List Nat
  withheld : Option Trap
  retry : Option Attempt
  deriving DecidableEq, Repr

/-- What the current entry of a chain runs: nothing yet, a copy, or a collective as a rank of a group. -/
inductive ChainRun where
  | idle
  | copy (id : Nat)
  | coll (group rank : Nat)
  deriving DecidableEq, Repr

/-- A chain walk (R366): its engine, the current entry, the SEQ before it, the sequence word, what runs, and the SEQ and NEXT of the entry
that runs. -/
structure Chain where
  task : Nat
  asid : BitVec 13
  part : Nat
  coll : Bool
  entry : Word
  last : Option Word
  seqAddr : Word
  sc : Scope
  run : ChainRun
  seq : Word
  next : Word
  deriving DecidableEq, Repr

/-- A slot of the spill map (R371): the registers and their values, and the global address, of an address space, for when no column is
free. -/
structure Spill where
  first : Nat
  last : Nat
  vals : List Word
  column : Option Nat
  addr : Word
  asid : BitVec 13
  deriving DecidableEq, Repr

/-- A dusk, asked for or draining (R431): whether it is a return dusk, or the timed drain's; when it started (R260); and the record
whose candidate made the scheduler send it, by node, ASID and number (R418). -/
structure Dusk where
  ret : Bool
  drain : Bool
  since : Word
  cand : Option (Word × BitVec 13 × BitVec 32)
  deriving DecidableEq, Repr

/-- One core: its two context sets and the blocks outside them (R19). -/
structure Core where
  day : Option Ctx
  night : Option Ctx
  acc : Cells 32
  spad : Memory
  full : List Nat
  poison : List Nat
  plane : Cells 256
  /-- the task whose lookup-cell state is in place, and the ASID of the task that last held the plane (R377, R386) -/
  planeTask : Option Nat
  planeAsid : Option (BitVec 13)
  lastAsid : Option (BitVec 13)
  /-- the context set of the last task that retired here, as it was then (R376) -/
  retired : Option Ctx
  /-- pure tasks that have ended while their insertion or copies of theirs go on (R424, R426) -/
  ended : List (Nat × Job)
  copies : List (Nat × Copy)
  rings : List (Nat × Ring)
  chains : List (Nat × Chain)
  spills : List (Nat × Spill)
  epoch : BitVec 5
  asked : Option Dusk
  dusk : Option Dusk
  refused : Bool
  /-- since when a fault's drain limit runs (R258) -/
  limit : Option Word
  deriving DecidableEq, Repr

/-- A format range (R127 to R134). -/
structure FormatRange where
  ctl : Word
  pbase : Word
  plen : Word
  vbase : Word
  sbase : Word
  dbase : Word
  midx : Byte
  table : List (Nat × BitVec 32)
  fills : Word
  /-- the timestamp of the write that set EN (R130) -/
  ts : Nat
  deriving DecidableEq, Repr

/-- A page operation of the migration engine (R243 to R247). -/
structure PageOp where
  op : Nat
  asid : BitVec 13
  va : Word
  dst : Word
  /-- where the leaf stands and what it held at the start -/
  entry : Nat
  leaf : Word
  size : Nat
  written : Bool
  /-- the REASON with which the operation ends once its last invalidation completes -/
  ending : Option Nat
  deriving DecidableEq, Repr

/-- A translation that an agent of a die may hold (R238): the page it maps, the page's physical base, the leaf and where it stands. -/
structure Held where
  die : Nat
  asid : BitVec 13
  vbase : Nat
  size : Nat
  page : Nat
  leaf : Word
  entry : Nat
  part : Nat
  deriving DecidableEq, Repr

/-- A page known to be duplicated (R246, R247), by a duplicate operation or by a translation through its leaf: where the leaf stands, its
primary page and its size. -/
structure Dup where
  entry : Nat
  primary : Nat
  size : Nat
  deriving DecidableEq, Repr

/-- A pending resize, move or removal of clusters (R443 to R446): those that leave, those that have joined and take no record before the
completion, and whether the host's CLUSTER_MOVE asked for the move. -/
inductive Resize where
  | shrink (geom : Word) (clusters added : List Nat)
  | move (logical physical : Nat) (host : Bool)
  deriving DecidableEq, Repr

/-- A queue entry the scheduler has taken over: the time its record was enqueued (R415). -/
structure Queued where
  node : Word
  asid : BitVec 13
  number : BitVec 32
  since : Word
  deriving DecidableEq, Repr

/-- A pure record the scheduler has taken and that waits for a core (R422, R424): its node, ASID and number, the address of the slot
it stood in and when it was enqueued, its bytes, the claims of its code header, and the tag and granules remembered at the lookup. -/
structure Ready where
  node : Word
  asid : BitVec 13
  number : BitVec 32
  slot : Word
  since : Word
  bytes : List Byte
  cols : Nat
  spad : Nat
  tag : Option (BitVec 128)
  granules : List (Nat × BitVec 32)
  deriving DecidableEq, Repr

/-- What a release leaves for the acquire that observes it (R333): its timestamp, and the accesses it covers that were outstanding,
by number. -/
structure Release where
  ts : Nat
  covers : List Nat
  deriving DecidableEq, Repr

/-- What a scheduler still has to do: the insertion of a task that has ended on a core, the DONE arrival, the reading of the
successors of a node (R398, R408, R424), the operations of the running cascade (a node, and its count of signals or none for a
plain firing) with the firings it may still make, the nodes that begin a cascade each (R409), and the release that all of it
carries (R407, R408). -/
structure Errand where
  asid : BitVec 13
  insert : Option (Nat × Nat)
  done : Word
  node : Option Word
  ops : List (Word × Option Nat)
  budget : Nat
  more : List (Word × Option Nat)
  rel : Release
  deriving DecidableEq, Repr

/-- A partition, with its supervisor registers, command processor and scheduler (R261, R429, R441, R451, R454). -/
structure Partition where
  geom : Word
  cmax : Nat
  /-- the cluster indirection table: logical to physical (R442) -/
  cit : List (Nat × Nat)
  supCore : Nat
  supAsid : BitVec 13
  asel : BitVec 13
  inv : Word
  invBusy : Bool
  draint : BitVec 32
  fqBase : Word
  fqLen : BitVec 16
  fqHead : BitVec 16
  fqTail : BitVec 16
  tsel : BitVec 11
  hotsel : BitVec 13
  popVa : Word
  popDst : Word
  popCmd : Word
  popSt : Word
  pop : Option PageOp
  ageq : BitVec 32
  preempt : Byte
  saveBase : Word
  rsz : Word
  rszSt : Word
  move : Word
  resize : Option Resize
  citSel : Byte
  bwShare : BitVec 32
  tkAddr : Word
  tkSt : Word
  /-- the core whose day-set task an export is having parked (R431, R448) -/
  ticket : Option Nat
  ringBase : Word
  ringLog : Nat
  head : BitVec 32
  tail : BitVec 32
  completion : Word
  /-- the SEQ of the entry taken last, which waits for the entry's effect to be performed at .sys (R455) -/
  seqDue : Option Word
  lastSeq : Word
  supHalted : Bool
  /-- task nodes that hold records, with their enqueue times -/
  queued : List Queued
  /-- nodes the scheduler knows, so that held records and full queues can be told (R416) -/
  nodes : List (Word × BitVec 13)
  ready : List Ready
  errands : List Errand
  /-- records of the scheduler that wait for a slot of the fault queue (R255) -/
  faults : List FaultRecord
  deriving DecidableEq, Repr

/-- A compaction that runs (R218): the sequence, layer group, threshold, and the barrier with the core and task that named it. -/
structure Compaction where
  index : Nat
  group : Nat
  theta : Nat
  core : Nat
  bar : Word
  task : Nat
  asid : BitVec 13
  deriving DecidableEq, Repr

/-- The KV engine of a die (R223). Slabs in use are listed by base entry and log size; generations by index. -/
structure Kv where
  en : Bool
  ftBase : Word
  ftLen : Word
  frSz : Word
  pxBase : Word
  pxLen : Word
  seqMax : Word
  cows : Word
  seqs : List (Nat × Sequence)
  gens : List (Nat × BitVec 10)
  slabs : List (Nat × Nat)
  px : List (BitVec 13 × BitVec 128 × Nat)
  compactions : List Compaction
  /-- indices of sequences being relocated, oldest first -/
  relocs : List Nat
  /-- references that passes hold on frames, each with the number of its pass (R208) -/
  holds : List (Nat × Nat)
  deriving DecidableEq, Repr

/-- An entry of a reuse table (R424). -/
structure ReuseEntry where
  asid : BitVec 13
  tag : BitVec 128
  rlen : Nat
  result : Word
  granules : List (Nat × BitVec 32)
  seq : BitVec 32
  deriving DecidableEq, Repr

/-- The reuse table of a die: entries and the insertion counter (R424, R425). -/
structure Reuse where
  entries : List ReuseEntry
  counter : BitVec 32
  deriving DecidableEq, Repr

/-- Reuse figures of an ASID (R419, R428): quota, lookups, hits, misses, insertions. -/
structure ReuseStats where
  quota : BitVec 20
  lookups : Word
  hits : Word
  misses : Word
  inserts : Word
  deriving DecidableEq, Repr

/-- An update-only copy of a line in a core (R338): operation, whether 64-bit, the timestamp at which it was registered, and the
partials by offset. -/
structure UpdateOnly where
  op : AmoOp
  dbl : Bool
  since : Nat
  partials : List (Nat × Word)
  deriving DecidableEq, Repr

/-- A copy of a line that a core or an RDC keeps under a lease (R328): where the lease ends, the wts that came with it, and the
bytes. -/
structure LineCopy where
  lease : Nat
  wts : Nat
  bytes : List Byte
  deriving DecidableEq, Repr

/-- A view line that its home has filled (R132), with the byte ranges of HBM that the fill read (R133). -/
structure ViewLine where
  line : Nat
  reads : List (Nat × Nat)
  deriving DecidableEq, Repr

/-- The synchronisation objects through which a release is observed (R333): a barrier in a task's scratchpad or in global memory, a
full-empty granule, the event flag of a core, the done tokens of a port, a sequence word in a task's scratchpad or in memory,
a collective group, and the records of a task node. -/
inductive SyncObj where
  | bar (task offset : Nat)
  | barGm (pa : Nat)
  | granule (task n : Nat)
  | event (core : Nat)
  | done (core port : Nat)
  | seq (task offset : Nat)
  | seqGm (pa : Nat)
  | group (n : Nat)
  | node (asid : BitVec 13) (va : Word)
  deriving DecidableEq, Repr

/-- What a remote access asks of its home (R356, R360, R361, R461): a load, a store, a store of a poisoned sector, a reduction with or
without its old value, or a compare and swap with the value it expects. -/
inductive RemoteOp where
  | load
  | store
  | poisoned
  | reduce (op : AmoOp) (dbl returns : Bool)
  | cas (dbl : Bool) (expected : Word)
  deriving DecidableEq, Repr

/-- A remote access over Druat that is outstanding or answered (R342, R461, R462). -/
structure Remote where
  /-- the model's own number of the access -/
  id : Nat
  port : Nat
  /-- the device that the aperture names -/
  device : BitVec 12
  /-- the agent number of R325 and, for a core, the task; the address space whose translation it used -/
  agent : Nat
  task : Nat
  asid : BitVec 13
  op : RemoteOp
  /-- the physical address here, in the aperture -/
  pa : Nat
  len : Nat
  bytes : List Byte
  seq : Nat
  answered : Bool
  failed : Bool
  /-- the virtual address of the access, which LINK reports, and a port's position in its stream (R313) -/
  va : Word
  pos : Word
  deriving DecidableEq, Repr

/-- A flit the P640 has sent and not seen acknowledged (R462): its sequence number, KIND, devices, address, payload and operation,
and how often it has been replayed. -/
structure Sent where
  seq : Nat
  kind : Nat
  source : BitVec 12
  dest : BitVec 12
  addr : Nat
  bytes : List (Nat × Byte)
  op : RemoteOp
  replays : Nat
  deriving DecidableEq, Repr

/-- A write to a line of host memory whose completion is awaited (R344): its number, the agent, and the bytes by offset. -/
structure HostWrite where
  id : Nat
  agent : Nat
  line : Nat
  cells : List (Nat × Byte)
  deriving DecidableEq, Repr

/-- An event on its way (R103): the core it is for, and the release that its SEV makes. -/
structure Event where
  core : Nat
  rel : Release
  deriving DecidableEq, Repr

/-- A Druat port (R462). -/
structure DruatPort where
  state : BitVec 3
  lanes : Byte
  retrains : BitVec 32
  failedRetrains : Nat
  nextSeq : Nat
  received : Nat
  replayAsked : Bool
  sent : List Sent
  deriving DecidableEq, Repr

/-- A Druat aperture (R461). -/
structure Aperture where
  device : BitVec 12
  enabled : Bool
  deriving DecidableEq, Repr

/-- A participant of a collective (R368): its rank, who it is, what it asked for, and its source as read when it arrived. -/
structure Party where
  rank : Nat
  core : Nat
  task : Nat
  asid : BitVec 13
  op : Nat
  ty : Ty
  n : Nat
  p : Nat
  root : Nat
  dst : Word
  data : List Byte
  deriving DecidableEq, Repr

/-- A sector of a participant's destination that a collective has still to write (R327, R369); one of no bytes stands behind the last. -/
structure CollStore where
  rank : Nat
  core : Nat
  task : Nat
  asid : BitVec 13
  dst : Word
  bytes : List Byte
  deriving DecidableEq, Repr

/-- A collective group (R456): its members, the participants that have arrived, what other devices have sent by rank, the sectors still
to write of a collective that runs, and the outcomes, by rank and task, of those that have not yet returned: none when done. -/
structure Group where
  members : List Member
  parties : List Party
  streams : List (Nat × List Byte)
  writes : List CollStore
  outcome : List (Nat × Nat × Option Trap)
  deriving DecidableEq, Repr

/-- An answer of the P640 to the host (R343, R344, R453, R457). -/
inductive HostOut where
  | read (addr : Nat) (bytes : List Byte)
  | written (addr : Nat)
  | msix (vector : Nat)
  | lineRequest (line : Nat)
  | lineWrite (line : Nat) (bytes : List (Nat × Byte))
  | backInvalidate (line : Nat)
  deriving DecidableEq, Repr

/-- A mailbox command (R456). -/
inductive Command where
  /-- `begun`: the summary is on its way to the page -/
  | daybreak (begun : Bool)
  | partCreate (args : PartArgs)
  | partDestroy (p : Nat)
  | setTables (atBase keyBase : Word)
  /-- `begun`: the invalidation of R239 runs -/
  | asidSync (asid : BitVec 13) (begun : Bool)
  | frrOwner (range p : Nat)
  | groupReg (group : BitVec 16) (members : List Member)
  | aperture (n : Nat) (device : BitVec 12) (enable : Bool)
  | ticketKey (key : BitVec 256)
  | clusterMove (p logical physical : Nat)
  | reset (clear : Bool)
  | unknown (code : Byte)
  deriving DecidableEq, Repr

/-- What moves next: a core issues its next control word, an agent takes a step, or a memory error arises (R464, log entry 2). -/
inductive Move where
  | core (n : Nat)
  | act (i : Instr)
  | memoryError (pa : Nat) (corrected : Bool)
  deriving DecidableEq, Repr

/-- Whether the device runs, and in which mode (R458 to R460). -/
inductive Power where | off | starting | normal | twilight | twilightStarting | hold
  deriving DecidableEq, Repr

/-- The machine. -/
structure State where
  /-- moves to come; when none is listed, core `cur` moves (log entry 2) -/
  agenda : List Move
  cur : Nat
  /-- counter of the free values (log entry 4) -/
  tick : Nat
  /-- number of the next task, copy or other engine command (the model's own) -/
  nextId : Nat
  mem : List Host.Cell
  /-- poisoned 32-byte sectors of global memory (R356) -/
  poison : List Nat
  cores : List (Nat × Core)
  parts : List (Nat × Partition)
  /-- logical clock of each agent (R326) -/
  clocks : List (Nat × Nat)
  /-- wts and rts of each line (R326) -/
  lines : List (Nat × (Nat × Nat))
  /-- copies under leases, by holder and line (R328) -/
  copies : List (Nat × LineCopy)
  /-- view lines that their homes hold (R132, R133) -/
  viewLines : List ViewLine
  /-- the latest release of each synchronisation object, and the outstanding accesses of others that an agent's acquires made visible
  to it (R333) -/
  releases : List (SyncObj × Release)
  inherited : List (Nat × List Nat)
  /-- update-only copies by line, then core (R338) -/
  updates : List (Nat × List (Nat × UpdateOnly))
  /-- generation and watch bit of each 64 KB granule (R421) -/
  gens : List (Nat × (BitVec 32 × Bool))
  ranges : List (Nat × FormatRange)
  frrSel : BitVec 6
  /-- translations that may be held (R238), and pages duplicated by an operation (R246, R247) -/
  held : List Held
  dups : List Dup
  /-- hotness counters by die × 4096 + index (R244) -/
  hot : Cells 32
  kvs : Vector Kv 4
  reuse : Vector Reuse 4
  stats : List (Nat × ReuseStats)
  /-- ROOT and V of an ASID that PRT_AROOT has set: in force, and written but not yet in force (R233) -/
  roots : List (Nat × Word)
  rootsNext : List (Nat × Word)
  /-- device registers (R261, R429, R465) -/
  atBase : Word
  keyBase : Word
  time : Word
  hifErr : BitVec 4
  pwrLim : BitVec 16
  pwr : BitVec 16
  drlSel : BitVec 6
  device : Option (BitVec 12)
  ports : List (Nat × DruatPort)
  apertures : List (Nat × Aperture)
  remote : List Remote
  /-- host-memory lines that their home RDCs hold clean, and the writes whose completion is awaited (R344) -/
  hostLines : List (Nat × List Byte)
  hostWrites : List HostWrite
  hostAsked : List Nat
  /-- lines of device memory the host may hold (R343) -/
  hostCopies : List Nat
  /-- lines whose back-invalidate the host has still to answer (R343) -/
  hostSnooped : List Nat
  hostOut : List HostOut
  /-- mailbox (R453, R456): MB_ARG, the command in progress with its tag, and the tag and result of the last completed command -/
  mbArg : Word
  mbPending : Option (Byte × Command)
  mbTag : Byte
  mbResult : Byte
  daybreaks : BitVec 32
  starts : Word
  failedStarts : BitVec 4
  reason : BitVec 4
  power : Power
  trained : Bool
  errors : Vector Word 4
  groups : List (Nat × Group)
  ticketKey : BitVec 256
  /-- tickets this P640 has written (R448): their bytes between header and MAC, by the step that wrote them, and the image -/
  tickets : List (Nat × Ctx)
  /-- clock of each island in steps of 50 MHz below nominal (R463) -/
  islands : List (Nat × Nat)
  /-- events on their way (R103) -/
  events : List Event
  deriving DecidableEq, Repr

/-- A loop level that is not active (R33). -/
def LoopLevel.idle : LoopLevel := ⟨0, 0, 0, 0⟩

/-- A fault record of zeros (R261). -/
def FaultRecord.zero : FaultRecord := ⟨0, 0, 0, 0⟩

/-- The context set at the first instruction of a task (R33). -/
def Ctx.entry (id : Nat) (asid : BitVec 13) (part : Nat) (sup : Bool) (pc : Word) : Ctx where
  id := id
  code := []
  patched := []
  codeLines := []
  asid := asid
  part := part
  sup := sup
  regs := Vector.replicate 64 0
  preds := Vector.replicate 16 false
  pc := pc
  loop0 := LoopLevel.idle
  loop1 := LoopLevel.idle
  th := false
  sh := false
  ev := false
  cycle := 0
  issued := 0
  thv := 0
  tepc := 0
  tcause := 0
  tval := 0
  svec := 0
  epc := 0
  cause := 0
  stval := 0
  sword := 0
  sscr := 0
  fr := FaultRecord.zero
  halted := false
  cond := .run
  wait := .none
  traps := []
  rngKey := 0
  rngCtr := 0
  att := Vector.replicate 6 0
  bindings := Vector.replicate 8 none
  lkc := 0
  runs := 0
  lcSel := none
  lcSlots := Vector.replicate 4 (.empty false)
  plane := none
  node := 0
  rslot := 0
  prio := 0
  cols := 0
  spadBytes := 0
  job := none
  fabric := none
  staged := none
  btok := []
  mma := []
  attn := []
  afterDrain := false
  parts := none
  residence := .resident
  yielded := false
  eligible := false
  since := 0

/-- A core after a device reset: no task, nothing stored (log entry 5). -/
def Core.idle : Core where
  day := none
  night := none
  acc := []
  spad := []
  full := []
  poison := []
  plane := []
  planeTask := none
  planeAsid := none
  lastAsid := none
  retired := none
  ended := []
  copies := []
  rings := []
  chains := []
  spills := []
  epoch := 0
  asked := none
  dusk := none
  refused := false
  limit := none

/-- A KV engine after reset (R223). -/
def Kv.reset : Kv := ⟨false, 0, 0, 0, 0, 0, 0, 0, [], [], [], [], [], [], []⟩

/-- A format range after reset (R127, R128); its magnitude table is the default of R122. -/
def FormatRange.reset : FormatRange := ⟨0, 0, 0, 0, 0, 0, 0, [], 0, 0⟩

/-- A Druat port after reset: DOWN (log entry 22). -/
def DruatPort.down : DruatPort := ⟨0, 0, 0, 0, 1, 0, false, []⟩

/-- The machine right after reset: every register the spec gives a value holds it; the others hold what the log entries name
(1, 2, 4, 5, 8, 19 to 22). The device runs in its normal mode, with no partition and no task. -/
def State.reset : State where
  agenda := []
  cur := 0
  tick := 0
  nextId := 1
  mem := []
  poison := []
  cores := []
  parts := []
  clocks := []
  lines := []
  copies := []
  viewLines := []
  releases := []
  inherited := []
  updates := []
  gens := []
  ranges := []
  frrSel := 0
  held := []
  dups := []
  hot := []
  kvs := Vector.replicate 4 Kv.reset
  reuse := Vector.replicate 4 ⟨[], 0⟩
  stats := []
  roots := []
  rootsNext := []
  atBase := 0
  keyBase := 0
  time := 0
  hifErr := 0
  pwrLim := 2200
  pwr := 0
  drlSel := 0
  device := none
  ports := []
  apertures := []
  remote := []
  hostLines := []
  hostWrites := []
  hostAsked := []
  hostCopies := []
  hostSnooped := []
  hostOut := []
  mbArg := 0
  mbPending := none
  mbTag := 0
  mbResult := 0
  daybreaks := 0
  starts := 0
  failedStarts := 0
  reason := 0
  power := .normal
  trained := true
  errors := Vector.replicate 4 0
  groups := []
  ticketKey := 0
  tickets := []
  islands := []
  events := []

end Sys2Proof.Machine
end

