-- ==== Sys2Proof/Machine/Ops.lean ====
section
/-! DEFINITION. Named operations over the state: cores and tasks, registers, translation and global memory, the scratchpad, and
taking and returning from a trap. -/

namespace Sys2Proof.Machine

/-- The outcome of a step of this machine. -/
abbrev Out := Host.Outcome State Fault Refusal

/-- What ends an operation early: a trap, or a wait of R42; a wait for an answer from outside asks for it once: a remote access, a
line of host memory, or the back-invalidate of a line that the host holds (R343). -/
inductive Exc where
  | trap (t : Trap)
  | wait (w : Wait)
  | ask (r : Remote)
  | askLine (line : Nat)
  | snoop (line : Nat)
  deriving DecidableEq, Repr

/-- An operation that may trap or wait. -/
abbrev Res (α : Type) := Except Exc α

/-- A trap of the control core with a value and a subcode (R251, R252). -/
def trapWith {α : Type} (code : TrapCode) (val : Word) (sub : Byte := 0) : Res α := .error (.trap ⟨code, val, sub, none, 0xFF, 0xF, 0, false, []⟩)
/-- Goes on when a condition holds, and traps otherwise. -/
def require (b : Bool) (code : TrapCode) (val : Word) (sub : Byte := 0) : Res Unit :=
  if b then .ok () else trapWith code val sub
/-- Goes on when a condition holds, and waits otherwise. -/
def await (b : Bool) (w : Wait) : Res Unit := if b then .ok () else .error (.wait w)

/-! Cores, clusters and partitions (R8, R18, R442). -/

def coreCol (n : Nat) : Nat := n % 32
def coreRow (n : Nat) : Nat := n / 32
/-- The cluster of a core, numbered 16 × Y + X (R8, R441). -/
def coreCluster (n : Nat) : Nat := 16 * (coreRow n / 2) + coreCol n / 2
/-- The die of a cluster (R8). -/
def clusterDie (c : Nat) : Nat := 2 * (c / 16 / 5) + c % 16 / 8
def coreDie (n : Nat) : Nat := clusterDie (coreCluster n)
/-- The core at the place within another cluster that a core has within its own. -/
def coreIn (cluster n : Nat) : Nat := 32 * (2 * (cluster / 16) + coreRow n % 2) + 2 * (cluster % 16) + coreCol n % 2

def State.core (s : State) (n : Nat) : Core := (tabGet s.cores n).getD Core.idle
def State.setCore (s : State) (n : Nat) (c : Core) : State := { s with cores := tabPut s.cores n c }
/-- The task in the day set of the moving core. -/
def State.ctx (s : State) : Option Ctx := (s.core s.cur).day
def State.setDay (s : State) (n : Nat) (x : Option Ctx) : State := s.setCore n { s.core n with day := x }
def State.setNight (s : State) (n : Nat) (x : Option Ctx) : State := s.setCore n { s.core n with night := x }
def State.setCtx (s : State) (x : Ctx) : State := s.setDay s.cur (some x)
def State.part (s : State) (p : Nat) : Option Partition := tabGet s.parts p
def State.setPart (s : State) (p : Nat) (q : Partition) : State := { s with parts := tabPut s.parts p q }

/-- The logical cluster that stands on a physical one, and the reverse (R442). -/
def Partition.logical (q : Partition) (physical : Nat) : Option Nat := (q.cit.find? (·.2 == physical)).map (·.1)
def Partition.physical (q : Partition) (logical : Nat) : Option Nat := tabGet q.cit logical
/-- The logical number of a physical core in a partition; a core outside keeps its own number. -/
def State.logicalCore (s : State) (p n : Nat) : Nat :=
  match s.part p with
  | none => n
  | some q => match q.logical (coreCluster n) with
    | none => n
    | some c => coreIn c n
/-- The physical core of a logical number in a partition, when it belongs to the partition (R442). -/
def State.physicalCore (s : State) (p l : Nat) : Option Nat :=
  if l < Config.cores then match s.part p with
    | none => none
    | some q => (q.physical (coreCluster l)).map fun c => coreIn c l
  else none
/-- The physical cores of a partition. -/
def Partition.cores (q : Partition) : List Nat :=
  q.cit.flatMap fun (_, c) => [coreIn c 0, coreIn c 1, coreIn c 32, coreIn c 33]

/-! Registers (R26). -/

/-- g[r]: g0 reads zero. -/
def Ctx.g (x : Ctx) (r : Reg) : Word := if r == 0 then 0 else x.regs[r.toNat]
/-- g[r] ← v: a write to g0 is discarded. -/
def Ctx.setG (x : Ctx) (r : Reg) (v : Word) : Ctx := if r == 0 then x else { x with regs := x.regs.set r.toNat v }
/-- p[i]: p0 reads 1. -/
def Ctx.p (x : Ctx) (i : Pred) : Bool := if i == 0 then true else x.preds[i.toNat]
/-- p[i] ← b: a write to p0 is discarded. -/
def Ctx.setP (x : Ctx) (i : Pred) (b : Bool) : Ctx := if i == 0 then x else { x with preds := x.preds.set i.toNat b }
/-- The guard holds (R50). -/
def Ctx.holds (x : Ctx) (g : Guard) : Bool := x.p g.pred != g.sense
/-- The next register of a pair (R49). -/
def pairHi (r : Reg) : Reg := r ||| 1

/-! Agents (R325). -/

/-- Who makes an access: its agent number, its die, its core and task where it has them, and the address space. -/
structure Agent where
  num : Nat
  die : Nat
  core : Nat
  task : Nat
  asid : BitVec 13
  deriving DecidableEq, Repr

def agentNum (kind hi lo : Nat) : Nat := kind * 2 ^ 20 + hi * 2 ^ 10 + lo
/-- An agent of a core that acts for a task: kind 0 the control core, 1 a port, 2 the copy engine, 3 the attention unit. -/
def coreAgent (kind core lo : Nat) (task : Nat) (asid : BitVec 13) : Agent := ⟨agentNum kind core lo, coreDie core, core, task, asid⟩
/-- An engine of a die (kind 4): it acts for no task. -/
def dieAgent (die unit : Nat) (asid : BitVec 13) : Agent := ⟨agentNum 4 die unit, die, Config.cores, 0, asid⟩
/-- The control core that moves. -/
def State.me (s : State) (x : Ctx) : Agent := coreAgent 0 s.cur 0 x.id x.asid

/-! Physical memory (R44). -/

def hbmEnd : Nat := 0xC000000000
def quarter : Nat := 0x3000000000
def viewBase : Nat := 0x100000000000
def viewEnd : Nat := 0x200000000000

/-- The device-side home of a host-memory line is the RDC of this die (R344). -/
def hostDie (pa : Nat) : Nat := pa / 128 % 4
/-- What a physical address names (R44). In twilight mode every address but one stack of die 0 takes PAGE, host memory too (R459). -/
inductive Region where
  | hbm | aperture (n : Nat) | view | host | none
  deriving DecidableEq, Repr

def State.region (s : State) (pa : Nat) : Region :=
  if s.power == .twilight then
    (if pa < 0x1000000000 then .hbm else .none)
  else if pa < hbmEnd then .hbm
  else if pa < viewBase then
    (let n := pa / 2 ^ 40
     if 1 ≤ n && pa % 2 ^ 40 < hbmEnd then
       (match tabGet s.apertures n with
        | some a => if a.enabled then .aperture n else .none
        | none => .none)
     else .none)
  else if pa < viewEnd then .view
  else .host

/-- The range n with its reset value where it was never written (R127). -/
def State.range (s : State) (n : Nat) : FormatRange := (tabGet s.ranges n).getD FormatRange.reset
def FormatRange.en (r : FormatRange) : Bool := r.ctl.getLsbD 31
def FormatRange.pfmt (r : FormatRange) : Nat := (r.ctl.extractLsb' 20 5).toNat
def FormatRange.vfmt (r : FormatRange) : Nat := (r.ctl.extractLsb' 15 5).toNat
def FormatRange.scaled (r : FormatRange) : Bool := r.ctl.getLsbD 14
def FormatRange.delta (r : FormatRange) : Bool := r.ctl.getLsbD 13
/-- Bytes of a view element (R129). -/
def FormatRange.width (r : FormatRange) : Nat := if r.vfmt == 0 then 4 else 2
def FormatRange.viewBytes (r : FormatRange) : Nat := r.plen.toNat * r.width
def FormatRange.covers (r : FormatRange) (pa : Nat) : Bool :=
  r.en && decide (r.vbase.toNat ≤ pa) && decide (pa < r.vbase.toNat + r.viewBytes)
/-- The enabled range that covers a view address (R130). -/
def State.rangeAt (s : State) (pa : Nat) : Option Nat :=
  (List.range 64).find? fun n => (s.range n).covers pa

/-- The sector, line and granule of an address. -/
def sectorOf (pa : Nat) : Nat := pa / 32
def lineOf (pa : Nat) : Nat := pa / 128
def granuleOf (pa : Nat) : Nat := pa / 65536
/-- The lines that hold the bytes of a range. -/
def linesOf (pa n : Nat) : List Nat := if n == 0 then [] else (List.range (lineOf (pa + n - 1) - lineOf pa + 1)).map (lineOf pa + ·)
/-- The die that homes an HBM address (R44). -/
def hbmDie (pa : Nat) : Nat := pa / quarter

def State.sectorPoisoned (s : State) (pa : Nat) : Bool := setHas s.poison (sectorOf pa)
/-- Any byte of a physical range lies in a poisoned sector. -/
def State.rangePoisoned (s : State) (pa n : Nat) : Bool :=
  (List.range (if n == 0 then 0 else sectorOf (pa + n - 1) - sectorOf pa + 1)).any fun k => setHas s.poison (sectorOf pa + k)

/-- One decoded element of a view, or none where R134 fails the fill (R132). -/
def State.viewElement (s : State) (r : FormatRange) (die i : Nat) : Option Nat :=
  let m : Memory := s.mem
  let pb := r.pbase.toNat
  let c2 := r.pfmt == 7
  let pt : Ty := match r.pfmt with | 3 => .e4m3 | 4 => .e5m2 | 5 => .e2m1 | _ => .c2x8
  let vt : Ty := match r.vfmt with | 0 => .f32 | 1 => .bf16 | _ => .f16
  let pa := if c2 then pb + 2 * (i / 8) else if pt == .e2m1 then pb + i / 2 else pb + i
  let code := (m.byte pa).toNat
  let base : FVal :=
    if c2 then
      ((c2x8 (fun k => (tabGet r.table k).getD (defaultMagnitudes k)) (code + 256 * (m.byte (pa + 1)).toNat))[i % 8]?).getD .nan
    else if pt == .e2m1 then Fmt.e2m1.decode (if i % 2 == 0 then code % 16 else code / 16)
    else pt.value code
  let blk := if c2 then i / 64 else i / 32
  let sa := r.sbase.toNat + blk
  let b := if r.scaled then (m.byte sa).toNat else 0x7F
  let x := if b == 0xFF then .nan else base.scale ((b : Int) - 127)
  let lost := s.sectorPoisoned pa || (r.scaled && s.sectorPoisoned sa)
  if !r.delta then (if lost then none else some (vt.narrow .rne 0 false x))
  else
    let da := r.dbase.toNat + 4 * (i / 64)
    let dir := leNat (m.bytes da 4)
    let first := dir / 128
    let cnt := dir % 128
    let blocks := r.plen.toNat / 64
    let recs := (r.dbase.toNat + 4 * blocks + 7) / 8 * 8
    let rcd := fun k => leNat (m.bytes (recs + 4 * (first + k)) 4)
    let ks := List.range cnt
    let inDie := fun k => hbmDie (recs + 4 * (first + k)) == die && hbmDie (recs + 4 * (first + k) + 3) == die
    let bad := lost || s.rangePoisoned da 4 || decide (64 < cnt) ||
      ks.any (fun k => !inDie k || s.rangePoisoned (recs + 4 * (first + k)) 4 || rcd k / 65536 % 1024 != 0 ||
        (k != 0 && decide (rcd k / 2 ^ 26 ≤ rcd (k - 1) / 2 ^ 26)))
    if bad then none
    else
      let y := match ks.find? (fun k => rcd k / 2 ^ 26 == i % 64) with
        | some k => x.add (Fmt.bf16.decode (rcd k % 65536))
        | none => x
      some (vt.narrow .rne 0 false y)

/-- The bytes of a view line, none when the fill fails in whole (R132, R134). -/
def State.viewLine (s : State) (n line : Nat) : Option (List Byte) :=
  let r := s.range n
  let z := r.width
  let first := (128 * line - r.vbase.toNat) / z
  (List.range (128 / z)).foldl (fun acc k => match acc with
    | none => none
    | some bs => match s.viewElement r (n / 16) (first + k) with
      | none => none
      | some v => some (bs ++ natLe z v)) (some [])

/-! The order of R326 and update-only lines (R338, R339). -/

def State.clock (s : State) (ag : Agent) : Nat := (tabGet s.clocks ag.num).getD 0
def State.lineTs (s : State) (line : Nat) : Nat × Nat := (tabGet s.lines line).getD (0, 0)
/-- The clock of an agent is at least a timestamp (R326). -/
def State.raiseClock (s : State) (ag : Agent) (ts : Nat) : State := { s with clocks := tabPut s.clocks ag.num (max (s.clock ag) ts) }
/-- What an agent does next follows what another has done so far (R36, R345). -/
def State.handOver (s : State) (ag next : Agent) : State := s.raiseClock next (s.clock ag)
/-- The timestamp of a load: max(clock, wts) (R326). -/
def State.loadTs (s : State) (ag : Agent) (line : Nat) : Nat := max (s.clock ag) (s.lineTs line).1
/-- The lease end that the home grants a load; how far beyond its timestamp, at most 15, is open (R328, log entry 8). -/
def State.leaseEnd (s : State) (ag : Agent) (line : Nat) : Nat := s.loadTs ag line + Config.leaseLength s.tick % 16
/-- A load takes its timestamp at the home, under a lease that rts stays above (R326, R328). -/
def State.stampLoad (s : State) (ag : Agent) (line : Nat) : State :=
  let (w, r) := s.lineTs line
  { s with
    clocks := tabPut s.clocks ag.num (s.loadTs ag line)
    lines := tabPut s.lines line (w, max r (s.leaseEnd ag line)) }
/-- A write takes TS = max(clock, rts + 1) (R326), and a line of a view that it invalidates is written at the same timestamp (R133). -/
def State.stampWrites (s : State) (ag : Agent) (lines : List Nat) : State :=
  let ts := lines.foldl (fun m l => max m ((s.lineTs l).2 + 1)) (s.clock ag)
  { s with clocks := tabPut s.clocks ag.num ts, lines := lines.foldl (fun l k => tabPut l k (ts, ts)) s.lines }
def State.stampWrite (s : State) (ag : Agent) (line : Nat) : State := s.stampWrites ag [line]

/-! Copies under leases (R328): a core keeps copies for its agents, and the RDC of a die for those of the die. -/

def coreCopy (core line : Nat) : Nat := core * 2 ^ 41 + line
def rdcCopy (die line : Nat) : Nat := (Config.cores + die) * 2 ^ 41 + line
/-- A copy that may serve a load of an agent: its lease has not ended. One that holds what the home holds is left out: the home gives
the same value and timestamp. -/
def State.staleCopy (s : State) (ag : Agent) (line key : Nat) : Option LineCopy :=
  (tabGet s.copies key).filter fun c => c.wts != (s.lineTs line).1 && decide (s.clock ag ≤ c.lease)
/-- The copy that serves a load: which of those that may is open, and the home may serve it instead (R328, log entry 8). -/
def State.servedBy (s : State) (ag : Agent) (line : Nat) : Option LineCopy :=
  let own := if ag.core < Config.cores then s.staleCopy ag line (coreCopy ag.core line) else none
  let rdc := s.staleCopy ag line (rdcCopy ag.die line)
  match own, rdc with
  | none, none => none
  | own, rdc => match Config.serves s.tick line with | 0 => none | 1 => own | _ => rdc
/-- A load at the home leaves a copy in the core of the agent, and in the RDC of its die unless the die homes the line. -/
def State.keepCopy (s : State) (ag : Agent) (home line lease : Nat) (bytes : List Byte) : State :=
  let c : LineCopy := ⟨lease, (s.lineTs line).1, bytes⟩
  let l := if ag.core < Config.cores then tabPut s.copies (coreCopy ag.core line) c else s.copies
  { s with copies := if ag.die == home then l else tabPut l (rdcCopy ag.die line) c }
/-- Copies of a line are gone everywhere. -/
def State.dropCopies (s : State) (hit : Nat → Bool) : State := { s with copies := s.copies.filter fun (k, _) => !hit (k % 2 ^ 41) }

/-! Releases and acquires (R331 to R334). -/

/-- Every access to a sector that an agent has on its way has been performed at its reach (R331, R355). -/
def State.sectorDone (s : State) (ag : Agent) (pa : Nat) : Bool :=
  !(s.remote.any fun r => r.agent == ag.num && r.op != .load && sectorOf r.pa == sectorOf pa && !r.answered && !r.failed) &&
  !s.hostWrites.any fun w => w.agent == ag.num && w.line == lineOf pa
/-- An access of that number is still outstanding: a remote store or reduction, or a write to host memory. -/
def State.outstanding (s : State) (id : Nat) : Bool :=
  (s.remote.any fun r => r.id == id && r.op != .load && !r.answered && !r.failed) || s.hostWrites.any fun w => w.id == id
/-- The outstanding accesses that a release of an agent covers: its own, and those that its acquires made visible to it (R333). -/
def State.owed (s : State) (ag : Agent) : List Nat :=
  (s.remote.filter fun r => r.agent == ag.num && r.op != .load && !r.answered && !r.failed).map (·.id) ++
  (s.hostWrites.filter fun w => w.agent == ag.num).map (·.id) ++
  ((tabGet s.inherited ag.num).getD []).filter s.outstanding
/-- An outstanding access has been performed at a scope (R331): a remote one at .fab once its home acknowledges it, a host write at .sys
at its completion. -/
def State.doneAt (s : State) (sc : Scope) (id : Nat) : Bool :=
  match sc with
  | .core | .part | .dev => true
  | .fab => !(s.remote.any fun r => r.id == id && r.op != .load && !r.answered && !r.failed)
  | .sys => !s.outstanding id
/-- Every access that a release of an agent at a scope covers has been performed there (R331 to R333). -/
def State.performed (s : State) (ag : Agent) (sc : Scope) : Bool := (s.owed ag).all (s.doneAt sc)
/-- What a release of an agent carries. -/
def State.release (s : State) (ag : Agent) : Release := ⟨s.clock ag, s.owed ag⟩
def lookupObj (l : List (SyncObj × Release)) (o : SyncObj) : Option Release := (l.find? fun (k, _) => k == o).map (·.2)
/-- Both of two releases. -/
def Release.join (a b : Release) : Release := ⟨max a.ts b.ts, a.covers ++ b.covers.filter fun i => !a.covers.contains i⟩
/-- A release stands at an object, for the acquires that observe it. -/
def State.noteRelease (s : State) (o : SyncObj) (r : Release) : State :=
  let all := match lookupObj s.releases o with | some q => r.join q | none => r
  { s with releases := (o, all) :: s.releases.filter fun (k, _) => k != o }
def State.releaseAt (s : State) (ag : Agent) (o : SyncObj) : State := s.noteRelease o (s.release ag)
/-- Accesses that an acquire makes visible to an agent: its releases cover them (R333). -/
def State.inherit (s : State) (ag : Agent) (covers : List Nat) : State :=
  let old := ((tabGet s.inherited ag.num).getD []).filter s.outstanding
  let new := covers.filter fun i => s.outstanding i && !old.contains i
  if new.isEmpty then s else { s with inherited := tabPut s.inherited ag.num (old ++ new) }
/-- An acquire that observes a release: the agent's clock is at least its timestamp + 1, and what it covers is visible to the agent
(R333). -/
def State.observe (s : State) (ag : Agent) (r : Release) : State := (s.raiseClock ag (r.ts + 1)).inherit ag r.covers
/-- An acquire at an object. -/
def State.acquire (s : State) (ag : Agent) (o : SyncObj) : State :=
  match lookupObj s.releases o with
  | none => s
  | some r => s.observe ag r
/-- The host (R325). -/
def hostAgent : Agent := ⟨agentNum 6 0 0, 0, Config.cores, 0, 0⟩
/-- The agent of a Druat port, for accesses that arrive from other devices (R325). -/
def portDevice (port : Nat) : Agent := ⟨agentNum 5 port 0, 0, Config.cores, 0, 0⟩
/-- A release at .fab or .sys comes before what the agent does next, as other devices and, at .sys, the host observe it: an access that
arrives from them from now on is placed behind it (R342, R346, R347). -/
def State.publish (s : State) (ag : Agent) (sc : Scope) : State :=
  let fab := s.ports.foldl (fun t (n, _) => t.handOver ag (portDevice n)) s
  match sc with
  | .core | .part | .dev => s
  | .fab => fab
  | .sys => fab.handOver ag hostAgent

/-- A write to a watched granule raises its generation (R421). -/
def State.bumpGen (s : State) (pa : Nat) : State :=
  match tabGet s.gens (granuleOf pa) with
  | some (g, true) => { s with gens := tabPut s.gens (granuleOf pa) (g + 1, false) }
  | some (_, false) => s
  | none => s

/-- Adds the partials of one copy into its line (R339). -/
def State.foldCopy (s : State) (line : Nat) (u : UpdateOnly) : State :=
  u.partials.foldl (fun t (off, v) =>
    let a := 128 * line + off
    let n := if u.dbl then 8 else 4
    let old := leWord (Memory.bytes t.mem a n)
    { t with mem := Memory.setBytes t.mem a (natLe n (u.op.apply u.dbl old v).toNat) }) s
/-- View lines whose fill read a byte of a range (R133). -/
def State.viewsOf (s : State) (pa n : Nat) : List Nat :=
  (s.viewLines.filter fun v => v.reads.any fun (a, m) => decide (a < pa + n) && decide (pa < a + m)).map (·.line)
/-- Update-only copies of a line combine at the home, in the order given, at a timestamp above that of every reduction combined (R339); view
lines whose fill read the line go (R133). The copies in `rest` stay. -/
def State.combine (s : State) (line : Nat) (us rest : List (Nat × UpdateOnly)) : State :=
  let views := s.viewsOf (128 * line) 128
  let ts := (line :: views).foldl (fun m l => max m ((s.lineTs l).2 + 1)) 0
  us.foldl (fun t (_, u) => t.foldCopy line u) { s with
    updates := if rest.isEmpty then tabDel s.updates line else tabPut s.updates line rest
    lines := (line :: views).foldl (fun l k => tabPut l k (ts, ts)) s.lines
    viewLines := s.viewLines.filter fun v => !views.contains v.line }
/-- The home recalls every update-only copy of a line and combines them in ascending core number (R339). -/
def State.recall (s : State) (line : Nat) : State :=
  match tabGet s.updates line with
  | none => s
  | some us => s.combine line us []
/-- Every update-only copy is evicted: the home may evict at any time (R339), and a fill of a view reads what its lines then hold. -/
def State.recallAll (s : State) : State := s.updates.foldl (fun t (line, _) => t.recall line) s

/-! View lines at their home (R132, R133). -/

/-- The byte ranges of HBM that the fill of a view line reads. -/
def State.viewReads (s : State) (n line : Nat) : List (Nat × Nat) :=
  let r := s.range n
  let count := 128 / r.width
  let first := (128 * line - r.vbase.toNat) / r.width
  let packed := match r.pfmt with
    | 5 => (r.pbase.toNat + first / 2, count / 2)
    | 7 => (r.pbase.toNat + 2 * (first / 8), count / 4)
    | _ => (r.pbase.toNat + first, count)
  let blk := if r.pfmt == 7 then 64 else 32
  let scales := if r.scaled then [(r.sbase.toNat + first / blk, (first + count - 1) / blk - first / blk + 1)] else []
  let dir := r.dbase.toNat + 4 * (first / 64)
  let d := leNat (Memory.bytes s.mem dir 4)
  let recs := (r.dbase.toNat + 4 * (r.plen.toNat / 64) + 7) / 8 * 8
  [packed] ++ scales ++ (if r.delta then [(dir, 4), (recs + 4 * (d / 128), 4 * (d % 128))] else [])
/-- The home fills a view line, and FRR_FILLS counts it: always when it does not hold the line, and else when the line was evicted,
which is open (R132, log entry 19). A fill that fails is not counted (log entry 19). What the line shows was written at the last of the
writes that the fill read, and of the one that set EN (R130, R133). -/
def State.fillView (s : State) (n line : Nat) : State :=
  if (s.viewLines.any fun v => v.line == line) && !Config.fills s.tick then s
  else
    let r := s.range n
    let reads := s.viewReads n line
    let ts := (reads.flatMap fun (a, k) => linesOf a k).foldl (fun m l => max m (s.lineTs l).1) r.ts
    let (w, e) := s.lineTs line
    { s with
      ranges := tabPut s.ranges n { r with fills := r.fills + 1 }
      lines := tabPut s.lines line (max w ts, max e ts)
      viewLines := ⟨line, reads⟩ :: s.viewLines.filter fun v => v.line != line }

/-! Physical reads and writes of device memory. -/

/-- A sector written poisoned; poisoned writes are counted (R356, R457). -/
def State.addPoison (s : State) (sector : Nat) : State :=
  { s with poison := setAdd s.poison sector, errors := s.errors.set 2 (s.errors[2] + 1) }

/-- An agent at the home of a line, on the die given: no copy stands between them. -/
def Agent.atHome (ag : Agent) (die : Nat) : Agent := { ag with die := die, core := Config.cores }

/-- Bytes of HBM in one line: from a copy whose lease lasts, or from the home after the recalls that the read causes (R328, R339). A
line with a poisoned sector leaves no copy. -/
def State.readHbm (s : State) (ag : Agent) (pa n : Nat) : State × List Byte :=
  let line := lineOf pa
  match s.servedBy ag line with
  | some c => (s.raiseClock ag c.wts, (c.bytes.drop (pa % 128)).take n)
  | none =>
    let r := s.recall line
    let t := r.stampLoad ag line
    let t := if t.rangePoisoned (128 * line) 128 then t
      else t.keepCopy ag (hbmDie pa) line (r.leaseEnd ag line) (Memory.bytes t.mem (128 * line) 128)
    (t, Memory.bytes t.mem pa n)

/-- A clean write clears the poison of a sector it covers whole (R356). -/
def State.cleanPoison (s : State) (pa n : Nat) : State :=
  let k := (pa + 31) / 32
  if 32 * k + 32 ≤ pa + n then { s with poison := (List.range ((pa + n) / 32 - k)).foldl (fun p j => setDel p (k + j)) s.poison } else s

/-- Bytes written to HBM by an agent, in one line: recalls, timestamp, view lines, poison, generation, host copies (R133, R326, R339,
R343, R356, R421). A copy of the host that no wait has recalled before counts as recalled here (log entry 21). -/
def State.writeHbm (s : State) (ag : Agent) (pa : Nat) (bs : List Byte) : State :=
  let t := s.recall (lineOf pa)
  let views := t.viewsOf pa bs.length
  let t := t.stampWrites ag (lineOf pa :: views)
  let t := { t with mem := Memory.setBytes t.mem pa bs, viewLines := t.viewLines.filter fun v => !views.contains v.line }
  let t := (t.cleanPoison pa bs.length).bumpGen pa
  if setHas t.hostCopies (lineOf pa) && ag.num != agentNum 6 0 0 then
    { t with hostCopies := setDel t.hostCopies (lineOf pa), hostOut := t.hostOut ++ [.backInvalidate (lineOf pa)] }
  else t
/-- A device agent's write waits while the host may hold the line: the home recalls the copy and waits for the response (R343). -/
def State.hostFree (s : State) (pa : Nat) : Res Unit := if setHas s.hostCopies (lineOf pa) then .error (.snoop (lineOf pa)) else .ok ()

/-! Translation (R231 to R237). -/

/-- Kinds of access (R237). -/
inductive Acc where | load | store | atomic | fetch
  deriving DecidableEq, Repr

/-- A completed walk: the physical address, the leaf and where it stands, the page it maps, and the addresses of the table entries
that it read; and the partition that owns the address space. -/
structure Walk where
  pa : Nat
  leaf : Word
  entry : Nat
  vbase : Nat
  size : Nat
  reads : List Nat
  part : Nat
  deriving DecidableEq, Repr

/-- A table, page or address the walker may reach: subcode 5 in an uncovered view, 2 in no range (R236). -/
def State.reach (s : State) (va : Word) (pa : Nat) : Res Unit :=
  match s.region pa with
  | .none => trapWith .page va 2
  | .view => if (s.rangeAt pa).isSome then .ok () else trapWith .page va 5
  | .hbm | .aperture _ | .host => .ok ()

/-- The device that the aperture of an address names (R461). -/
def State.apertureDevice (s : State) (pa : Nat) : BitVec 12 := match tabGet s.apertures (pa / 2 ^ 40) with | some a => a.device | none => 0
/-- The port that reaches other devices: the lowest one that is ACTIVE or retraining (log entry 22). -/
def State.portFor (s : State) : Option Nat := (s.ports.find? fun (_, p) => p.state == 2 || p.state == 3).map (·.1)

/-- What has arrived from another device for an agent, or the request for it (R342). An answer of fewer bytes than were asked for tells
that the home holds them poisoned (R356, log entry 22). -/
def State.askRemote (s : State) (ag : Agent) (va : Word) (pa len : Nat) (op : RemoteOp) (bytes : List Byte) : Res (List Byte) :=
  if s.power == .twilight then trapWith .link va
  else match s.remote.find? (fun r => r.agent == ag.num && r.task == ag.task && r.op == op && r.pa == pa && r.len == len) with
  | some r => if r.failed then trapWith .link va
    else if r.answered then (if r.bytes.length < len then trapWith .poison va else .ok r.bytes)
    else .error (.wait .remote)
  | none => match s.portFor with
    | none => trapWith .link va
    | some p => .error (.ask ⟨s.nextId, p, s.apertureDevice pa, ag.num, ag.task, ag.asid, op, pa, len, bytes, 0, false, false, va, 0⟩)

/-- A 64-bit word that the walker reads for an agent: from device memory, a view, a line the host has supplied, or another device
(R236, R325). -/
def State.tableWord (s : State) (ag : Agent) (va : Word) (pa : Nat) : Res Word :=
  match s.region pa with
  | .hbm => if s.sectorPoisoned pa then trapWith .poison va else .ok (leWord (Memory.bytes (s.recall (lineOf pa)).mem pa 8))
  | .view => match s.rangeAt pa with
    | none => trapWith .page va 5
    | some n => match s.recallAll.viewLine n (lineOf pa) with
      | none => trapWith .poison va
      | some bs => .ok (leWord ((bs.drop (pa % 128)).take 8))
  | .host => match tabGet s.hostLines (lineOf pa) with
    | some bs => .ok (leWord ((bs.drop (pa % 128)).take 8))
    | none => .error (.askLine (lineOf pa))
  | .aperture _ => (s.askRemote ag va pa 8 .load []).map leWord
  | .none => trapWith .page va 2
/-- Reads of an agent at the addresses given, each at its own timestamp (R236, R326): recalls, leases and view fills with them. -/
def State.stampReads (s : State) (ag : Agent) (reads : List Nat) : State :=
  reads.foldl (fun t pa => match State.region t pa with
    | .hbm => (State.recall t (lineOf pa)).stampLoad ag (lineOf pa)
    | .view => match State.rangeAt t pa with
      | some n => ((State.recallAll t).fillView n (lineOf pa)).stampLoad ag (lineOf pa)
      | none => t
    | .host => State.stampLoad t ag (lineOf pa)
    | .aperture _ | .none => t) s
/-- The reads of a walk. -/
def State.stampWalk (s : State) (ag : Agent) (w : Walk) : State := s.stampReads ag w.reads
/-- A word of a table that an agent reads outside a walk, and the state after the read. -/
def State.readTable (s : State) (ag : Agent) (va : Word) (pa : Nat) : Res (State × Word) := do
  let w ← s.tableWord ag va pa
  .ok (s.stampReads ag [pa], w)
/-- A translation that reads an address first: its reads are what a walk gives, and what a refusal carries (R236). -/
def reading (pa : Nat) : Res Walk → Res Walk
  | .ok w => .ok { w with reads := pa :: w.reads }
  | .error (.trap t) => .error (.trap { t with reads := pa :: t.reads })
  | .error e => .error e

def entryV (e : Word) : Bool := e.getLsbD 0
def entryL (e : Word) : Bool := e.getLsbD 1
def entryR (e : Word) : Bool := e.getLsbD 2
def entryW (e : Word) : Bool := e.getLsbD 3
def entryX (e : Word) : Bool := e.getLsbD 4
def entryDup (e : Word) : Bool := e.getLsbD 5
def entryHot (e : Word) : Bool := e.getLsbD 6
def entryMig (e : Word) : Bool := e.getLsbD 7
def entryAddr (e : Word) : Nat := (e.extractLsb' 8 40).toNat * 256
def entryHidx (e : Word) : Nat := (e.extractLsb' 48 6).toNat

/-- A migration of the page whose leaf stands at an address runs (R236, R245). -/
def State.migrating (s : State) (entry : Nat) : Bool :=
  s.parts.any fun (_, q) => match q.pop with
    | some o => o.op == 1 && o.entry == entry
    | none => false

/-- Whether a leaf entry keeps its own rules at a page size (R235, R236 order 3). -/
def leafOk (e : Word) (size : Nat) (mig : Bool) : Bool :=
  e.extractLsb' 54 10 == 0 && (entryHot e || e.extractLsb' 48 6 == 0) && !(entryW e && !entryR e) && (!entryMig e || mig) &&
  (entryDup e || entryAddr e % size == 0)
/-- Whether a non-leaf entry keeps its rules for a table of a given alignment. -/
def nodeOk (e : Word) (align : Nat) : Bool :=
  e.extractLsb' 48 16 == 0 && e.extractLsb' 2 6 == 0 && entryAddr e % align == 0

/-- Levels of the walk below the root (R234): index position, index bits, page size of a leaf, alignment of the next table. -/
def walkFrom (s : State) (ag : Agent) (va : Word) : List (Nat × Nat × Nat × Nat) → Nat → Res Walk
  | [], _ => trapWith .page va 1
  | (pos, bits, size, align) :: rest, table => do
    s.reach va table
    let at' := table + 8 * (va.toNat / 2 ^ pos % 2 ^ bits)
    reading at' do
      let e ← s.tableWord ag va at'
      require (entryV e) .page va 0
      if entryL e then
        require (size != 0 && leafOk e size (s.migrating at')) .page va 1
        .ok ⟨if entryDup e then 0 else entryAddr e + va.toNat % size, e, at', va.toNat / size * size, size, [], 0⟩
      else do
        require (!rest.isEmpty && nodeOk e align) .page va 1
        walkFrom s ag va rest (entryAddr e)

/-- Where a word of an ASID's entry stands (R232). -/
def State.asidAddr (s : State) (asid : BitVec 13) (k : Nat) : Nat := s.atBase.toNat + 16 * asid.toNat + 8 * k
def rootMask : Word := 0x0000FFFFFFFF0001
/-- ROOT and V laid over an entry's word 0. -/
def withRootOf (r : Option Word) (e : Word) : Word := match r with | none => e | some r => (e &&& ~~~rootMask) ||| (r &&& rootMask)
/-- ROOT and V of an entry's word 0 as PRT_AROOT has set them, once in force for translations (R233). -/
def State.withRoot (s : State) (asid : BitVec 13) (e : Word) : Word := withRootOf (tabGet s.roots asid.toNat) e
/-- PART of an entry's word 0. -/
def entryPart (e : Word) : Nat := (e.extractLsb' 2 6).toNat
/-- A word of an ASID's entry that an agent reads outside a walk, with what PRT_AROOT has written last (R232); none when it stands where
nothing can be read (log entry 6). -/
def State.asidWord (s : State) (ag : Agent) (asid : BitVec 13) (k : Nat) : Res (State × Option Word) :=
  match s.readTable ag 0 (s.asidAddr asid k) with
  | .ok (t, w) => .ok (t, some (if k == 0 then withRootOf (tabGet s.rootsNext asid.toNat) (s.withRoot asid w) else w))
  | .error (.trap _) => .ok (s, none)
  | .error e => .error e
/-- The ASID belongs to a partition (R232), as an agent reads it. -/
def State.asidOf (s : State) (ag : Agent) (asid : BitVec 13) (p : Nat) : Res (State × Bool) := do
  let (t, e) ← s.asidWord ag asid 0
  .ok (t, e.any fun w => entryPart w == p)
/-- An effect on an ASID that another partition owns takes PROT with the value given (R233, R239); the entry has been read all the same. -/
def State.ownAsid (s : State) (ag : Agent) (asid : BitVec 13) (p : Nat) (val : Word) : Res State := do
  let (t, own) ← s.asidOf ag asid p
  if own then .ok t else .error (.trap ⟨.prot, val, 0, none, 0xFF, 0xF, 0, false, [s.asidAddr asid 0]⟩)

/-- What follows a walk is refused with the walk's reads (R236). -/
def Walk.refusing {α : Type} (w : Walk) : Res α → Res α
  | .error (.trap t) => .error (.trap { t with reads := w.reads ++ t.reads })
  | r => r
/-- The page that a die reads through a DUP leaf: its own copy when valid, else the primary (R246). -/
def State.dupPage (s : State) (ag : Agent) (va : Word) (desc : Nat) : Res Nat := do
  let w0 ← s.tableWord ag va desc
  let wd ← s.tableWord ag va (desc + 8 * (ag.die + 1))
  .ok (if wd.getLsbD 0 then (wd.extractLsb' 16 32).toNat * 65536 else (w0.extractLsb' 16 32).toNat * 65536)

/-- Every page of a duplication descriptor lies in a range of R44 (R236 order 4). -/
def State.dupReach (s : State) (ag : Agent) (va : Word) (desc : Nat) : Res Unit := do
  s.reach va desc
  let w0 ← s.tableWord ag va desc
  s.reach va ((w0.extractLsb' 16 32).toNat * 65536)
  (List.range 4).foldlM (fun _ d => do
    let w ← s.tableWord ag va (desc + 8 * (d + 1))
    if w.getLsbD 0 then s.reach va ((w.extractLsb' 16 32).toNat * 65536) else .ok ()) ()

/-- Translation of a virtual address for an agent, with the checks of R236 in order. -/
def State.walk (s : State) (ag : Agent) (va : Word) : Res Walk := do
  require (va.extractLsb' 52 12 == 0) .page va 2
  reading (s.asidAddr ag.asid 0) do
    let e ← s.tableWord ag va (s.asidAddr ag.asid 0)
    let e := s.withRoot ag.asid e
    require (e.getLsbD 0) .page va 6
    let w ← walkFrom s ag va [(39, 13, 0, 4096), (30, 9, 0x40000000, 4096), (21, 9, 0x200000, 256), (16, 5, 0x10000, 0)]
      ((e.extractLsb' 16 32).toNat * 65536)
    let w := { w with part := entryPart e }
    w.refusing do
      if entryDup w.leaf then do
        let desc := entryAddr w.leaf
        s.dupReach ag va desc
        let page ← s.dupPage ag va desc
        .ok { w with pa := page + va.toNat % w.size, reads := w.reads ++ (List.range 5).map fun k => desc + 8 * k }
      else do
        s.reach va w.pa
        .ok w

/-- The permission of an access (R237, R133). -/
def Walk.permit (w : Walk) (view : Bool) (acc : Acc) (va : Word) : Res Unit :=
  match acc with
  | .load => require (entryR w.leaf) .prot va 0
  | .store => do require (!view) .prot va 5; require (entryW w.leaf) .prot va 1
  | .atomic => do require (!view) .prot va 5; require (entryR w.leaf && entryW w.leaf) .prot va 1
  | .fetch => require (entryX w.leaf) .prot va 2

/-- The translations held for an address (R238). -/
def State.heldFor (s : State) (ag : Agent) (va : Word) : List Walk :=
  (s.held.filter fun h =>
    h.die == ag.die && h.asid == ag.asid && decide (h.vbase ≤ va.toNat) && decide (va.toNat < h.vbase + h.size)).map fun h =>
    ⟨h.page + (va.toNat - h.vbase), h.leaf, h.entry, h.vbase, h.size, [], h.part⟩
/-- The translation of an access: a walk, or one that is held. Until an invalidation covers it, the old translation or the new may serve
(R236, R238, log entry 6); where none that is held differs from what a walk gives, there is nothing to choose. -/
def State.lookUp (s : State) (ag : Agent) (va : Word) : Res Walk :=
  let r := s.walk ag va
  let l := s.heldFor ag va
  if (match r with | .ok w => l.all (· == { w with reads := [] }) | .error _ => l.isEmpty) then r
  else
    match Config.heldPick s.tick va with
    | 0 => r
    | k + 1 => match l[k]? with
      | some w => .ok w
      | none => r
def descPage (w : Word) : Nat := (w.extractLsb' 16 32).toNat * 65536
/-- A translation through a DUP leaf makes the duplication known to the home of its primary (R247, log entry 52). -/
def State.noteDup (s : State) (ag : Agent) (w : Walk) : State :=
  if entryDup w.leaf then
    match s.tableWord ag 0 (entryAddr w.leaf) with
    | .ok d =>
      let k : Dup := ⟨w.entry, descPage d, w.size⟩
      if s.dups.contains k then s else { s with dups := s.dups ++ [k] }
    | .error _ => s
  else s
/-- A completed translation may be held from now on (R238). -/
def State.noteHeld (s : State) (ag : Agent) (va : Word) (w : Walk) : State :=
  let h : Held := ⟨ag.die, ag.asid, w.vbase, w.size, w.pa - (va.toNat - w.vbase), w.leaf, w.entry, w.part⟩
  let t := s.noteDup ag w
  if t.held.contains h then t else { t with held := t.held ++ [h] }
/-- Translation with permission. -/
def State.translate (s : State) (ag : Agent) (va : Word) (acc : Acc) : Res Walk := do
  let w ← s.lookUp ag va
  w.refusing (w.permit (s.region w.pa == .view) acc va)
  .ok w

/-- A fill through a leaf with HOT counts at the agent's die; whether the access fills a line is open (R244, log entry 19). -/
def State.countHot (s : State) (ag : Agent) (w : Walk) : State :=
  if entryHot w.leaf && Config.fills s.tick then
    let k := 4096 * ag.die + 64 * w.part + entryHidx w.leaf
    let v := s.hot.get k
    { s with hot := s.hot.set k (if v == 0xFFFFFFFF then v else v + 1) }
  else s

/-! Pure tasks (R426). -/

/-- The set of a core that holds a task. -/
def Core.find (c : Core) (id : Nat) : Option (Bool × Ctx) :=
  match c.day with
  | some x => if x.id == id then some (true, x) else match c.night with
    | some y => if y.id == id then some (false, y) else none
    | none => none
  | none => match c.night with
    | some y => if y.id == id then some (false, y) else none
    | none => none
/-- The task of a core, in either set, changed by f. -/
def State.editTask (s : State) (core id : Nat) (f : Ctx → Ctx) : State :=
  match (s.core core).find id with
  | some (true, x) => s.setDay core (some (f x))
  | some (false, x) => s.setNight core (some (f x))
  | none => s
/-- The bytes lie in a declared range. -/
def inRange (base : Word) (len : Nat) (va : Word) (n : Nat) : Bool :=
  decide (base.toNat ≤ va.toNat) && decide (va.toNat + n ≤ base.toNat + len)
/-- The record of the task that an agent acts for, present or ended with a copy still running. -/
def State.jobOf (s : State) (ag : Agent) : Option Job :=
  match (s.core ag.core).find ag.task with
  | some (_, x) => x.job
  | none => tabGet (s.core ag.core).ended ag.task
/-- The record of that task changed by f. -/
def State.editJob (s : State) (core id : Nat) (f : Job → Job) : State :=
  match tabGet (s.core core).ended id with
  | some j => s.setCore core { s.core core with ended := tabPut (s.core core).ended id (f j) }
  | none => s.editTask core id fun x => { x with job := x.job.map f }
/-- A write of a pure task outside its result range takes PURITY; a read outside its ranges marks it uncacheable (R426). -/
def State.purity (s : State) (ag : Agent) (va : Word) (n : Nat) (write : Bool) : Res State :=
  match s.jobOf ag with
  | none => .ok s
  | some j =>
    if !j.pure then .ok s
    else if inRange j.result j.resultLen va n then .ok s
    else if write then trapWith .purity va
    else if j.tiles.any (fun (b, l) => inRange b l va n) then .ok s
    else .ok (s.editJob ag.core ag.task fun j => { j with uncacheable := true })

/-! Remote and host memory (R342, R344, R462). -/

/-- A line of host memory, with the writes still on their way laid over it (R344). -/
def State.hostLine (s : State) (line : Nat) : Res (List Byte) :=
  match tabGet s.hostLines line with
  | some bs => .ok bs
  | none => .error (.askLine line)

/-- A remote read (R342, R462). -/
def State.readRemote (s : State) (ag : Agent) (va : Word) (pa n : Nat) : Res (List Byte) := s.askRemote ag va pa n .load []

/-- KIND of a request (R462). -/
def RemoteOp.kind : RemoteOp → Nat
  | .load => 1
  | .store | .poisoned => 3
  | .reduce _ _ _ | .cas _ _ => 4
/-- The physical address at the other device: the same offset (R461). -/
def Remote.addr (r : Remote) : Nat := r.pa % 2 ^ 40
/-- A flit sent on a port (R462). -/
def State.send (s : State) (port kind : Nat) (dest : BitVec 12) (addr : Nat) (bytes : List (Nat × Byte)) (op : RemoteOp) : State :=
  match tabGet s.ports port with
  | none => s
  | some p => { s with ports := tabPut s.ports port { p with
      nextSeq := p.nextSeq + 1, sent := p.sent ++ [⟨p.nextSeq, kind, s.device.getD 0, dest, addr, bytes, op, 0⟩] } }
/-- Bytes at their places in the line of an address. -/
def lineCells (a : Nat) (bs : List Byte) : List (Nat × Byte) := bs.zipIdx.map fun (b, i) => (a % 128 + i, b)
/-- A request entered in the table of outstanding remote accesses and sent (R462): a load marks the bytes that it asks for. -/
def State.issueRemote (s : State) (r : Remote) : State :=
  let seq := match tabGet s.ports r.port with | some p => p.nextSeq | none => 0
  (({ s with remote := s.remote ++ [{ r with id := s.nextId, seq := seq }], nextId := s.nextId + 1 }).send r.port r.op.kind r.device r.addr
    (lineCells r.addr (if r.op == RemoteOp.load then List.replicate r.len 0 else r.bytes)) r.op)
/-- A remote access that its issuer does not wait for: sent, and performed at .fab once acknowledged (R331, R462). -/
def State.postRemote (s : State) (ag : Agent) (va : Word) (pa : Nat) (op : RemoteOp) (bs : List Byte) : Res State :=
  if s.power == .twilight then trapWith .link va
  else match s.portFor with
  | none => trapWith .link va
  | some p => .ok (s.issueRemote ⟨0, p, s.apertureDevice pa, ag.num, ag.task, ag.asid, op, pa, bs.length, bs, 0, false, false, va, 0⟩)
/-- Answers consumed by the instruction that completes: those of the agent's reads and reductions. -/
def State.consume (s : State) (ag : Agent) : State :=
  { s with remote := s.remote.filter fun r => !(r.agent == ag.num && r.task == ag.task && (r.answered || r.failed)) }
/-- What a wait for an answer from outside asks for, once. -/
def State.askOutside (s : State) : Exc → State
  | .trap _ | .wait _ => s
  | .ask r => s.issueRemote r
  | .askLine l => if setHas s.hostAsked l then s else { s with hostAsked := setAdd s.hostAsked l, hostOut := s.hostOut ++ [.lineRequest l] }
  | .snoop l =>
    if setHas s.hostSnooped l then s else { s with hostSnooped := setAdd s.hostSnooped l, hostOut := s.hostOut ++ [.backInvalidate l] }

/-- A store to host memory: it takes its place at the device-side home and is written through (R344). -/
def State.writeHost (s : State) (ag : Agent) (pa : Nat) (bs : List Byte) : State :=
  let line := lineOf pa
  let t := (s.stampWrite ag line).cleanPoison pa bs.length
  let cells := bs.zipIdx.map fun (b, i) => (pa % 128 + i, b)
  let lay := fun (l : List Byte) => cells.foldl (fun l (i, b) => l.set i b) l
  { t with
    hostLines := match tabGet t.hostLines line with | some l => tabPut t.hostLines line (lay l) | none => t.hostLines
    hostWrites := t.hostWrites ++ [⟨t.nextId, ag.num, line, cells⟩]
    nextId := t.nextId + 1
    hostOut := t.hostOut ++ [.lineWrite line cells] }

/-! Global accesses: one line at most (R92). -/

/-- The bytes at a translated address; at its home, which no copy stands for, where the operation is performed there. -/
def State.readAt (s : State) (ag : Agent) (va : Word) (pa n : Nat) (home : Bool := false) : Res (State × List Byte) :=
  let who := fun (die : Nat) => if home then ag.atHome die else ag
  match s.region pa with
  | .hbm => if s.rangePoisoned pa n then trapWith .poison va else .ok (s.readHbm (who (hbmDie pa)) pa n)
  | .view =>
    let s := s.recallAll
    match s.rangeAt pa with
    | none => trapWith .page va 5
    | some k =>
      let ag := who (k / 16)
      match s.servedBy ag (lineOf pa) with
      | some c => .ok (s.raiseClock ag c.wts, (c.bytes.drop (pa % 128)).take n)
      | none => match s.viewLine k (lineOf pa) with
        | none => trapWith .poison va
        | some bs =>
          let r := s.fillView k (lineOf pa)
          .ok ((r.stampLoad ag (lineOf pa)).keepCopy ag (k / 16) (lineOf pa) (r.leaseEnd ag (lineOf pa)) bs, (bs.drop (pa % 128)).take n)
  | .host =>
    let ag := { who (hostDie pa) with die := hostDie pa }
    if s.rangePoisoned pa n then trapWith .poison va else match s.servedBy ag (lineOf pa) with
    | some c => .ok (s.raiseClock ag c.wts, (c.bytes.drop (pa % 128)).take n)
    | none => do
      let bs ← s.hostLine (lineOf pa)
      let t := (s.stampLoad ag (lineOf pa)).keepCopy ag (hostDie pa) (lineOf pa) (s.leaseEnd ag (lineOf pa)) bs
      .ok (t, (bs.drop (pa % 128)).take n)
  | .aperture _ => do
    let bs ← s.readRemote ag va pa n
    .ok (s, bs)
  | .none => trapWith .page va 2

/-- A load of n bytes in one line through a translation. -/
def State.loadVia (s : State) (ag : Agent) (va : Word) (n : Nat) (w : Walk) (fetch : Bool := false) (home : Bool := false) :
    Res (State × List Byte) := do
  let s ← if fetch then .ok s else s.purity ag va n false
  let (t, bs) ← w.refusing ((s.stampWalk ag w).readAt ag va w.pa n home)
  .ok ((t.countHot ag w).noteHeld ag va w, bs)
/-- A global load of n bytes in one line (R91, R92). -/
def State.load (s : State) (ag : Agent) (va : Word) (n : Nat) (acc : Acc := .load) (home : Bool := false) : Res (State × List Byte) := do
  let w ← s.translate ag va acc
  s.loadVia ag va n w (acc == .fetch) home

/-- Latched slots of a collapsed page name its primary (R247). -/
def Fabric.collapse (f : Fabric) (entry prim : Nat) (leaf : Word) : Fabric :=
  let g := fun (l : Latch) => if l.pbase.isSome && l.entry == entry then { l with pbase := some prim, leaf := leaf } else l
  { f with
    ops := f.ops.map fun (k, o) => (k, { o with latches := o.latches.map g })
    ports := f.ports.map fun (k, q) => (k, { q with latches := q.latches.map g }) }
/-- Bytes written at a translated address, in one line. -/
def State.writeAt (s : State) (ag : Agent) (va : Word) (pa : Nat) (bs : List Byte) : Res State :=
  match s.region pa with
  | .hbm => do
    s.hostFree pa
    .ok (s.writeHbm ag pa bs)
  | .view => trapWith .prot va 5
  | .host => .ok (s.writeHost ag pa bs)
  | .aperture _ => s.postRemote ag va pa .store bs
  | .none => trapWith .page va 2
/-- The primary page and the valid copies that a duplication descriptor names (R246), as an agent reads it: POISON with the value given
where it is poisoned (R356). -/
def State.descriptor (s : State) (ag : Agent) (val : Word) (desc : Nat) : Res (State × Nat × List Nat) := do
  let (s, w0) ← s.readTable ag val desc
  let (s, copies) ← (List.range 4).foldlM (fun (t, l) d => do
    let (t, w) ← State.readTable t ag val (desc + 8 * (d + 1))
    .ok (t, if w.getLsbD 0 then l ++ [descPage w] else l)) (s, ([] : List Nat))
  .ok (s, descPage w0, copies)
/-- The read stamps of a copy page's lines stand over the primary's: a later write takes its timestamp after every read of the copy
(R247). -/
def liftStamps (src dst size : Nat) (lines : List (Nat × (Nat × Nat))) : List (Nat × (Nat × Nat)) :=
  lines.foldl (fun l (k, (_, r)) =>
    if src ≤ 128 * k && 128 * k < src + size then
      let p := (dst + 128 * k - src) / 128
      let (w, r') := (tabGet l p).getD (0, 0)
      tabPut l p (w, max r' r)
    else l) lines
/-- A duplicated page that is written collapses (R247): no translation, latched slot or cached line names a copy, and the leaf names the
primary. The write of the leaf waits while the host may hold its line (R343). -/
def State.collapse (s : State) (ag : Agent) (val : Word) (entry : Nat) (old : Word) (size : Nat) : Res State := do
  let (s, prim, copies) ← s.descriptor ag val (entryAddr old)
  let dups := copies.filter (· != prim)
  let leaf := (old &&& ~~~(0xFFFFFFFFFF20 : Word)) ||| BitVec.ofNat 64 prim
  let t := { s with lines := dups.foldl (fun l c => liftStamps c prim size l) s.lines }
  let t := t.dropCopies fun k => dups.any fun c => decide (c ≤ 128 * k) && decide (128 * k < c + size)
  let t ← t.writeAt ag val entry (natLe 8 leaf.toNat)
  let g := fun (x : Ctx) => { x with fabric := x.fabric.map fun f => f.collapse entry prim leaf }
  .ok { t with
    held := t.held.filter fun h => h.entry != entry
    dups := t.dups.filter fun d => d.entry != entry
    cores := t.cores.map fun (n, c) => (n, { c with day := c.day.map g, night := c.night.map g }) }
/-- Ranges that meet. -/
def rangesMeet (a n b m : Nat) : Bool := decide (a < b + m) && decide (b < a + n)
/-- A page operation that copies a page for duplication sees a write to it, through whatever leaf, and will cancel (R246). -/
def State.markWritten (s : State) (pa n : Nat) : State :=
  { s with parts := s.parts.map fun (p, q) => match q.pop with
      | some o => if o.op == 2 && rangesMeet pa n (entryAddr o.leaf) o.size then (p, { q with pop := some { o with written := true } }) else (p, q)
      | none => (p, q) }
/-- A write at physical addresses: a page it meets whose duplication runs sees the write, and every page known to be duplicated whose
primary it meets collapses first (R246, R247). -/
def State.forPhysical (s : State) (ag : Agent) (pa n : Nat) : Res State :=
  let val : Word := BitVec.ofNat 64 pa
  (s.dups.filter fun d => rangesMeet pa n d.primary d.size).foldlM (fun t d => do
    let (t, leaf) ← State.readTable t ag val d.entry
    if entryDup leaf then do
      let (u, prim, _) ← State.descriptor t ag val (entryAddr leaf)
      if prim == d.primary then State.collapse u ag val d.entry leaf d.size else .ok u
    else .ok t) (s.markWritten pa n)
/-- A write that meets a page under migration waits, from any agent (R245). -/
def State.moving (s : State) (pa n : Nat) : Bool :=
  s.parts.any fun (_, q) => q.pop.any fun o => o.op == 1 && rangesMeet pa n (entryAddr o.leaf) o.size

/-- An operation that its agent performs at one logical timestamp (R222), given the states before and after it and the lines it reads: it
waits while a page it writes is under migration (R245) or the host may hold a line it writes (R343), and pages known to be duplicated
that it writes collapse (R247). -/
def State.atOnce (b t : State) (ag : Agent) (reads : List Nat) : Res State := do
  let written := (t.lines.map (·.1)).filter fun k => (b.lineTs k).1 != (t.lineTs k).1
  await (written.all fun k => !b.moving (128 * k) 128) .migration
  match written.find? fun k => setHas b.hostCopies k with
  | some k => .error (.snoop k)
  | none =>
    let t ← written.foldlM (fun t k => State.forPhysical t ag (128 * k) 128) t
    -- a collapse has lifted the read stamps of lines of its primary: the write comes after those reads
    let ts := written.foldl (fun m k => let (w, r) := t.lineTs k; if w < r then max m (r + 1) else m) (t.clock ag)
    let ts := reads.foldl (fun m k => max m (b.lineTs k).1) ts
    let lines := written.foldl (fun l k => tabPut l k (ts, ts)) t.lines
    let t := { t with lines := lines }
    .ok ({ t with lines := reads.foldl (fun l k => let (w, r) := t.lineTs k; tabPut l k (w, max r ts)) t.lines }.raiseClock ag ts)

/-- The page a write goes to: a write to a page under migration waits, and a write to a duplicated page, through its DUP leaf or through
another of its primary, collapses it (R245 to R247). -/
def State.forWrite (s : State) (ag : Agent) (va : Word) (n : Nat) (acc : Acc) (w : Walk) : Res (State × Walk) := do
  await (!entryMig w.leaf && !s.moving w.pa n) .migration
  let (t, w) ← (if entryDup w.leaf then do
      let t ← s.collapse ag va w.entry w.leaf w.size
      let w' ← t.translate ag va acc
      .ok (t, w')
    else .ok (s, w) : Res (State × Walk))
  let t ← t.forPhysical ag w.pa n
  .ok (t, w)

/-- A task's own store to device memory, which a fetch of its words may find or not (R47). -/
def State.notePatch (s : State) (ag : Agent) (pa n : Nat) : State :=
  if s.region pa == .hbm then
    s.editTask ag.core ag.task fun x => { x with
      patched := (List.range (if n == 0 then 0 else (pa + n - 1) / 8 - pa / 8 + 1)).foldl (fun l k => setAdd l (pa / 8 + k)) x.patched }
  else s

/-- A store in one line through a translation. -/
def State.storeVia (s : State) (ag : Agent) (va : Word) (bs : List Byte) (w : Walk) : Res State := do
  let (t, w) ← (s.stampWalk ag w).forWrite ag va bs.length .store w
  let t ← t.purity ag va bs.length true
  let t ← t.writeAt ag va w.pa bs
  .ok (((t.countHot ag w).noteHeld ag va w).notePatch ag w.pa bs.length)
/-- A global store in one line (R91, R92). -/
def State.store (s : State) (ag : Agent) (va : Word) (bs : List Byte) : Res State := do
  let w ← s.translate ag va .store
  s.storeVia ag va bs w

/-- A read-modify-write through a translation (R351, R360): the bytes read, and the bytes written in their place, at one timestamp. Host
memory takes SYNC (R360); another device is sent the operation and its operand. -/
def State.updateVia (s : State) (ag : Agent) (va : Word) (n : Nat) (op : RemoteOp) (operand : List Byte) (f : List Byte → List Byte)
    (w : Walk) : Res (State × List Byte) := do
  require (s.region w.pa != .host) .sync va
  let (t, w) ← (s.stampWalk ag w).forWrite ag va n .atomic w
  let t ← t.purity ag va n true
  match t.region w.pa with
  | .aperture _ => do
    let bs ← t.askRemote ag va w.pa operand.length op operand
    .ok (t, bs)
  | .hbm => do
    require (!t.rangePoisoned w.pa n) .poison va
    t.hostFree w.pa
    let t := t.recall (lineOf w.pa)
    let bs := Memory.bytes t.mem w.pa n
    let t := t.writeHbm ag w.pa (f bs)
    .ok (((t.countHot ag w).noteHeld ag va w).notePatch ag w.pa n, bs)
  | .view | .host | .none => trapWith .page va 2
/-- A global read-modify-write. -/
def State.update (s : State) (ag : Agent) (va : Word) (n : Nat) (op : RemoteOp) (operand : List Byte) (f : List Byte → List Byte) :
    Res (State × List Byte) := do
  let w ← s.translate ag va .atomic
  s.updateVia ag va n op operand f w

/-- Loads of n bytes from any address, sector by sector. -/
def State.loadMany (s : State) (ag : Agent) (va : Word) (n : Nat) : Nat → Res (State × List Byte)
  | 0 => .ok (s, [])
  | fuel + 1 =>
    if n == 0 then .ok (s, [])
    else do
      let k := min n (32 - va.toNat % 32)
      let (t, a) ← s.load ag va k
      let (t, b) ← t.loadMany ag (va + BitVec.ofNat 64 k) (n - k) fuel
      .ok (t, a ++ b)
/-- A global load of n bytes by an engine, in sectors. -/
def State.loadN (s : State) (ag : Agent) (va : Word) (n : Nat) : Res (State × List Byte) := s.loadMany ag va n (n + 2)
/-- A 64-bit global load. -/
def State.loadWord (s : State) (ag : Agent) (va : Word) (home : Bool := false) : Res (State × Word) := do
  let (t, bs) ← s.load ag va 8 .load home
  .ok (t, leWord bs)
/-- Stores of bytes at any address, sector by sector. -/
def State.storeMany (s : State) (ag : Agent) (va : Word) (bs : List Byte) : Nat → Res State
  | 0 => .ok s
  | fuel + 1 =>
    if bs.isEmpty then .ok s
    else do
      let k := min bs.length (32 - va.toNat % 32)
      let t ← s.store ag va (bs.take k)
      t.storeMany ag (va + BitVec.ofNat 64 k) (bs.drop k) fuel
/-- A global store of bytes by an engine, in sectors. -/
def State.storeN (s : State) (ag : Agent) (va : Word) (bs : List Byte) : Res State := s.storeMany ag va bs (bs.length + 2)

/-! The scratchpad of a core (R29, R30, R39, R93, R356). -/

def spadSize : Nat := 0x80000
/-- An access to a part that a parked task has not yet been saved from waits (R39): the parked task's share is taken from the
top of the day-set task's claim (log entry 29). -/
def Core.spadReady (c : Core) (o n : Nat) : Bool :=
  match c.night with
  | some y => y.residence != .leaving || decide (o + n ≤ spadSize - y.spadBytes)
  | none => true
/-- A range of the claim of a task (R30), at an address reported by a PROT trap. -/
def claimSpad (x : Ctx) (o : Word) (n : Nat) : Res Unit := require (decide (o.toNat + n ≤ x.spadBytes)) .prot o
/-- Any granule of a range is poisoned (R356). -/
def Core.spadPoisoned (c : Core) (o n : Nat) : Bool :=
  (List.range (if n == 0 then 0 else (o + n - 1) / 16 - o / 16 + 1)).any fun k => setHas c.poison (o / 16 + k)
/-- Bytes read from the day-set task's scratchpad, after the checks of R30, R39 and R356. -/
def State.readSpad (s : State) (n : Nat) (x : Ctx) (o : Word) (len : Nat) : Res (List Byte) := do
  claimSpad x o len
  await ((s.core n).spadReady o.toNat len) .claim
  require (!(s.core n).spadPoisoned o.toNat len) .poison o
  .ok (Memory.bytes (s.core n).spad o.toNat len)
/-- Bytes put into a core's scratchpad: a clean write clears the poison of granules it covers whole (R356). -/
def Core.putSpad (c : Core) (o : Nat) (bs : List Byte) : Core :=
  let k := (o + 15) / 16
  let e := (o + bs.length) / 16
  { c with
    spad := Memory.setBytes c.spad o bs
    poison := (List.range (e - k)).foldl (fun p j => setDel p (k + j)) c.poison }
/-- Bytes written to the day-set task's scratchpad. -/
def State.writeSpad (s : State) (n : Nat) (x : Ctx) (o : Word) (bs : List Byte) : Res State := do
  claimSpad x o bs.length
  await ((s.core n).spadReady o.toNat bs.length) .claim
  .ok (s.setCore n ((s.core n).putSpad o.toNat bs))

/-! The accumulator store (R19, R30, R39). -/

def accKey (row col : Nat) : Nat := 128 * col + row
def Core.accAt (c : Core) (row col : Nat) : BitVec 32 := c.acc.get (accKey row col)
def Core.setAcc (c : Core) (row col : Nat) (v : BitVec 32) : Core := { c with acc := c.acc.set (accKey row col) v }
/-- Columns that a parked task has not yet been saved from (R39, log entry 29). -/
def Core.colsReady (c : Core) (first n : Nat) : Bool :=
  match c.night with
  | some y => y.residence != .leaving || decide (first + n ≤ 1024 - y.cols)
  | none => true
/-- A range of columns within the claim, saved from a parked task (R30, R39); PROT reports the first column (log entry 32). -/
def State.claimCols (s : State) (x : Ctx) (first n : Nat) : Res Unit := do
  require (decide (first + n ≤ x.cols)) .prot (BitVec.ofNat 64 first)
  await ((s.core s.cur).colsReady first n) .claim

/-! Traps (R251 to R256). -/

/-- Numbers of the trap codes (R251). -/
def TrapCode.num : TrapCode → Nat
  | .illegal => 0x01 | .priv => 0x02 | .align => 0x03 | .page => 0x04 | .prot => 0x05 | .shape => 0x06 | .poison => 0x07
  | .bind => 0x08 | .kvbad => 0x09 | .kvcow => 0x0A | .kvfull => 0x0B | .order => 0x0C | .purity => 0x0D | .timeout => 0x0E
  | .swtrap => 0x0F | .sync => 0x10 | .link => 0x11

/-- The fault record of a trap (R252). `core` is the logical core number; `word` stands in FR2 for the control core. -/
def faultRecord (t : Trap) (tm async : Bool) (word : Word) (time : Word) (part core : Nat) (asid : BitVec 13) : FaultRecord where
  fr0 := BitVec.ofNat 64 (t.site.toNat * 2 ^ 40 + t.chan.toNat * 2 ^ 36 + t.src.toNat * 2 ^ 32 + tm.toNat * 2 ^ 26 +
    async.toNat * 2 ^ 25 + t.drain.toNat * 2 ^ 24 + t.sub.toNat * 2 ^ 16 + t.code.num)
  fr1 := t.val
  fr2 := t.fr2.getD (if t.src == 0 then word else 0)
  fr3 := BitVec.ofNat 64 (time.toNat % 2 ^ 32 * 2 ^ 32 + part % 64 * 2 ^ 26 + core % 1024 * 2 ^ 16 + asid.toNat)

def FaultRecord.bytes (r : FaultRecord) : List Byte :=
  natLe 8 r.fr0.toNat ++ natLe 8 r.fr1.toNat ++ natLe 8 r.fr2.toNat ++ natLe 8 r.fr3.toNat

/-- The rectangle of a partition's geometry (R441). -/
def Partition.x0 (q : Partition) : Nat := (q.geom.extractLsb' 0 4).toNat
def Partition.w (q : Partition) : Nat := (q.geom.extractLsb' 4 4).toNat + 1
def Partition.y0 (q : Partition) : Nat := (q.geom.extractLsb' 8 4).toNat
def Partition.h (q : Partition) : Nat := (q.geom.extractLsb' 12 4).toNat + 1
/-- The die of a partition's scheduler and command processor: that of its north-west core (R21). -/
def Partition.schedDie (q : Partition) : Nat := clusterDie (16 * q.y0 + q.x0)
def State.schedDie (s : State) (p : Nat) : Nat := match s.part p with | some q => q.schedDie | none => 0
/-- An event for one task of a core. -/
def State.setTaskEv (s : State) (n id : Nat) : State := s.editTask n id fun x => { x with ev := true }
/-- An event for both tasks present on a core (R101). -/
def State.setEv (s : State) (n : Nat) : State :=
  let c := s.core n
  s.setCore n { c with day := c.day.map fun x => { x with ev := true }, night := c.night.map fun x => { x with ev := true } }

/-- The fault queue has a free slot (R255). -/
def Partition.fqFree (q : Partition) : Bool := decide ((q.fqTail - q.fqHead).toNat < q.fqLen.toNat)
/-- A write of an engine at a physical address, within one line, in whatever range of R44 it lies: it waits while a migration of its page
withholds it (R245) or the host may hold the line (R343). An address in a view or in no range, or one that cannot be reached, is written
nowhere. -/
def State.putPhys (s : State) (ag : Agent) (pa : Nat) (bs : List Byte) : Res State := do
  await (!s.moving pa bs.length) .migration
  match (do (← s.forPhysical ag pa bs.length).writeAt ag (BitVec.ofNat 64 pa) pa bs : Res State) with
  | .error (.trap _) => .ok s
  | r => r
/-- The same of a range, line by line. -/
def putLines (ag : Agent) : Nat → State → Nat → List Byte → Res State
  | 0, s, _, _ => .ok s
  | fuel + 1, s, pa, bs =>
    if bs.isEmpty then .ok s
    else do
      let k := min bs.length (128 - pa % 128)
      let t ← s.putPhys ag pa (bs.take k)
      putLines ag fuel t (pa + k) (bs.drop k)
def State.putRange (s : State) (ag : Agent) (pa : Nat) (bs : List Byte) : Res State := putLines ag (bs.length + 1) s pa bs
/-- A read of an engine at a physical address, line by line, in whatever range of R44 it lies, each line at its home. -/
def getLines (ag : Agent) : Nat → State → Nat → Nat → Res (State × List Byte)
  | 0, s, _, _ => .ok (s, [])
  | fuel + 1, s, pa, n =>
    if n == 0 then .ok (s, [])
    else do
      let k := min n (128 - pa % 128)
      let (t, a) ← s.readAt ag (BitVec.ofNat 64 pa) pa k true
      let (u, b) ← getLines ag fuel t (pa + k) (n - k)
      .ok (u, a ++ b)
def State.getRange (s : State) (ag : Agent) (pa n : Nat) : Res (State × List Byte) := getLines ag (n + 1) s pa n
/-- Appends a record to the fault queue of a partition and sets EV for the supervisor's core (R255): it waits for a free slot, and while
the slot cannot be written. -/
def State.pushFault (s : State) (p : Nat) (r : FaultRecord) : Res State :=
  match s.part p with
  | none => .error (.wait .queueFull)
  | some q => do
    await q.fqFree .queueFull
    let t ← s.putPhys (dieAgent q.schedDie 6 0) (q.fqBase.toNat + 32 * (q.fqTail.toNat % q.fqLen.toNat)) r.bytes
    .ok ((t.setPart p { (t.part p).getD q with fqTail := q.fqTail + 1 }).setEv q.supCore)

/-- A record that no task of a partition waits with: it keeps its place before the fault queue until a slot is free (R255). -/
def State.queueFault (s : State) (p : Nat) (fr : FaultRecord) : State :=
  match s.part p with
  | none => s
  | some q =>
    let held := s.setPart p { q with faults := q.faults ++ [fr] }
    if q.faults.isEmpty then (match s.pushFault p fr with | .ok t => t | .error e => held.askOutside e) else held
/-- A fault that another block of a core raises for a task that is no longer there (R255). -/
def State.leaveFault (s : State) (n p : Nat) (asid : BitVec 13) (t : Trap) : State :=
  s.queueFault p (faultRecord t false (t.src != 0) 0 s.time p (s.logicalCore p n) asid)

/-- A halted supervisor is reported to the host (R256, R464). -/
def State.reportHalt (s : State) (p : Nat) : State :=
  let t := match s.part p with
    | some q => s.setPart p { q with supHalted := true }
    | none => s
  { t with hifErr := t.hifErr ||| 4, hostOut := t.hostOut ++ [.msix (2 + p), .msix 1] }

/-- The PC at which a handler is entered: bits [2:0] of PC are zero (R26), so those of CC_SVEC and CC_THV do not count (log entry 47). -/
def vectorPc (v : Word) : Word := v &&& ~~~7
/-- The supervisor's own handler (R100): entered at CC_SVEC, or the core halts when SH is 1 or CC_SVEC is 0. -/
def State.ownHandler (s : State) (n : Nat) (x : Ctx) (t : Trap) (word resume : Word) (rec : FaultRecord) : State :=
  if x.sh || x.svec == 0 then
    (s.setDay n (some { x with halted := true, fr := rec })).reportHalt x.part
  else
    s.setDay n (some { x with
      epc := resume, cause := BitVec.ofNat 64 t.code.num, stval := t.val, sword := word, sh := true, pc := vectorPc x.svec, fr := rec,
      wait := .none })

/-- A task that has taken a PURITY fault inserts no entry (R424). -/
def Job.noteFault (j : Job) (t : Trap) : Job := if t.code == .purity then { j with faulted := true } else j
def Ctx.noteFault (x : Ctx) (t : Trap) : Ctx := { x with job := x.job.map fun j => j.noteFault t }
/-- A port withholds an access. One whose retry is due is still withheld. -/
def Port.held (q : Port) : Bool := q.withheld.isSome || q.attempt != .first
/-- Nodes of a fabric that withhold, and ports whose write a migration holds (R257, R259). -/
def Fabric.held (f : Fabric) : Nat :=
  (f.ins.filter fun (_, q) => q.withheld.isSome).length + (f.ops.filter fun (_, o) => o.withheld.isSome || o.attempt != .first).length +
  (f.ports.filter fun (_, p) => p.held || p.blocked).length
/-- Nodes of a task that withhold: of its fabric, and its table-load streams (R258, R390). -/
def Ctx.heldNodes (x : Ctx) : Nat :=
  (match x.fabric with | some f => f.held | none => 0) +
  (x.lcSlots.toList.filter fun l => match l with | .loading _ _ _ (some _) _ => true | .loading _ _ _ none (some _) => true | _ => false).length
/-- The sites of a fabric go on as if no marker had come (R40). -/
def Fabric.unmark (f : Fabric) : Fabric :=
  { f with
    ins := f.ins.map fun (k, q) => (k, { q with mark := false })
    outs := f.outs.map fun (k, q) => (k, { q with mark := false })
    elems := f.elems.map fun (k, e) => (k, { e with passed := false })
    ops := f.ops.map fun (k, o) => (k, { o with passed := false })
    ports := f.ports.map fun (k, p) => (k, { p with passed := false, saved := false }) }
/-- A supervisor trap of a task that a dusk drains: the marker has no effect on it, unless the marker has met a withheld region, which
drains as the drain of R258 does (R40, R259, R440). -/
def Core.stopDusk (c : Core) : Core :=
  match c.dusk, c.day with
  | some d, some x =>
    if d.drain || x.heldNodes != 0 then { c with dusk := some { d with drain := true } }
    else { c with dusk := none, day := some { x with fabric := x.fabric.map Fabric.unmark } }
  | _, _ => c
/-- The trap takes the task-mode route (R254). -/
def Ctx.taskRoute (x : Ctx) (t : Trap) : Bool :=
  (t.code == .kvcow || t.code == .order || (t.code == .page && t.drain)) && x.thv != 0 && !x.th

/-- Taking a trap of the task in the day set of core n: the one operation of R252 to R256. `resume` is the resume address,
`word` the control word, `async` whether another block raised it, as any source but the control core is (R252). -/
def State.takeTrap (s : State) (n : Nat) (x : Ctx) (t : Trap) (word resume : Word) (async : Bool) : State :=
  let tm := !x.sup && x.taskRoute t
  let async := async || t.src != 0
  let fr := faultRecord t tm async word s.time x.part (s.logicalCore x.part n) x.asid
  if x.sup then s.ownHandler n x t word resume fr
  else if tm then
    s.setDay n (some { x with
      tcause := BitVec.ofNat 64 t.code.num, tval := t.val, tepc := resume, fr := fr, th := true, pc := vectorPc x.thv, wait := .none })
  else
    let y := { x with pc := resume, fr := fr, wait := .none }.noteFault t
    let held := s.setCore n ((s.setDay n (some { y with cond := .held })).core n).stopDusk
    match held.pushFault x.part fr with
    | .ok s' => s'
    | .error e => (held.askOutside e).editTask n x.id fun z => { z with cond := .slotWait fr }

/-! Issue of a control word (R51, R63, R87, R88). -/

/-- How an instruction leaves the PC: at the next word under the loop step, at a target of a taken transfer, at the next word
with a trap that follows (TRAP, R88), or the step has already left the task as it is to be. -/
inductive Flow where
  | seq
  | jump (pc : Word)
  | trapAfter (t : Trap)
  | gone
  deriving DecidableEq, Repr

/-- The loop step of R87 after an instruction at E, for both levels; with no loop ending there the PC is the next word. -/
def Ctx.loopStep (x : Ctx) : Ctx :=
  let e := x.pc
  let a := x.loop0
  let b := x.loop1
  if !x.th && b.count != 0 && e == b.last then
    let n := b.count - 1
    if n != 0 then { x with loop1 := { b with count := n }, pc := b.first }
    else if a.count != 0 && e == a.last then
      let m := a.count - 1
      if m != 0 then { x with loop0 := { a with count := m }, loop1 := { b with count := b.reload }, pc := a.first }
      else { x with loop0 := { a with count := m }, loop1 := { b with count := n }, pc := e + 8 }
    else { x with loop1 := { b with count := n }, pc := e + 8 }
  else if !x.th && a.count != 0 && e == a.last then
    let m := a.count - 1
    if m != 0 then { x with loop0 := { a with count := m }, pc := a.first }
    else { x with loop0 := { a with count := m }, pc := e + 8 }
  else { x with pc := e + 8 }

/-- A task that may issue (R42, R255): it runs and is not halted. -/
def Ctx.issues (x : Ctx) : Bool := x.cond == .run && !x.halted

/-- The instruction completes: it counts as issued (R96), the wait ends, nothing of its level stays interrupted, and the PC moves (R87,
R88). -/
def Ctx.complete (x : Ctx) (f : Flow) : Ctx :=
  let y := { x with issued := x.issued + 1, wait := .none, mma := tabDel x.mma x.th.toNat, attn := tabDel x.attn x.th.toNat }
  match f with
  | .seq | .trapAfter _ => y.loopStep
  | .jump t => { y with pc := t }
  | .gone => y

/-- The state after an instruction of core n that completed. -/
def State.finish (s : State) (n : Nat) (word : Word) (f : Flow) : State :=
  match (s.core n).day with
  | none => s
  | some x => match f with
    | .gone => s
    | .seq => s.setDay n (some (x.complete .seq))
    | .jump t => s.setDay n (some (x.complete (.jump t)))
    | .trapAfter t => let y := x.complete .seq; s.takeTrap n y t word y.pc false

/-- CC_CYCLE at the start of a wait with a limit: a task that tries again goes on with the wait it is in. -/
def Ctx.waitStart (x : Ctx) : Word :=
  match x.wait with
  | .event _ t | .seqw _ t => t
  | _ => x.cycle
/-- The limit of a wait, in cycles, has passed; a limit of 0 never does. -/
def Ctx.limitPassed (x : Ctx) (limit : Nat) (since : Word) : Bool := limit != 0 && decide (limit ≤ (x.cycle - since).toNat)
/-- The task waits at its instruction (R42). -/
def State.waitAt (s : State) (x : Ctx) (w : Wait) : State := s.setCtx { x with wait := w }

/-- An operation of the moving core that ended early: a trap at the instruction, with nothing else changed but the timestamps of the reads
that a refused translation has made (R236), or a wait at it. -/
def State.interrupt (s : State) (x : Ctx) (word : Word) : Exc → State
  | .trap t => ((s.stampReads (s.me x) t.reads).consume (s.me x)).takeTrap s.cur { x with issued := x.issued + 1 } t word x.pc false
  | .wait (.seqw l t) => (s.consume (s.me x)).waitAt x (.seqw l t)
  | .wait w => s.waitAt x w
  | e => (s.waitAt x .remote).askOutside e

/-- A control word of the moving core (R63): PRIV in task mode for a privileged word, nothing but the PC when its guard does
not hold, and else the body, whose trap leaves nothing changed. A core with no task that may issue does nothing. -/
def control (i : Instr) (g : Guard) (priv : Bool) (s : State) (body : State → Ctx → Res (State × Flow)) : Out :=
  match s.ctx with
  | none => .next s
  | some x =>
    if !x.issues then .next s
    else if priv && !x.sup then .next (s.interrupt x (encode i) (.trap ⟨.priv, encode i, 0, none, 0xFF, 0xF, 0, false, []⟩))
    else if !x.holds g then .next (s.setCtx (x.complete .seq))
    else match body s x with
      | .ok (t, f) => .next ((t.consume (s.me x)).finish s.cur (encode i) f)
      | .error e => .next (s.interrupt x (encode i) e)

/-- A control word that changes the task's own registers alone and goes on to the next word. -/
def simple (i : Instr) (g : Guard) (s : State) (f : Ctx → Ctx) : Out :=
  control i g false s fun s x => .ok (s.setCtx (f x), .seq)

/-- The task of the moving core with a register written. -/
def State.setG (s : State) (x : Ctx) (d : Reg) (v : Word) : State := s.setCtx (x.setG d v)

/-- The task in the day set of the moving core after an operation, or the one it had before. -/
def State.now (s : State) (x : Ctx) : Ctx := s.ctx.getD x

/-- A step of an agent outside the control core's issue: nothing moves in a device that is stopped (R460). -/
def State.alive (s : State) : Bool := s.power == .normal || s.power == .twilight

end Sys2Proof.Machine
end

