-- ==== Sys2Proof/Machine/Operands.lean ====
section
/-! DEFINITION. Operand forms: effective addresses, column ranges, tile descriptors, and the element bits they name. -/

namespace Sys2Proof.Machine

/-- Width of an access in bytes (R56). -/
def sizeBytes : Size → Nat
  | .b => 1 | .h => 2 | .w => 4 | .d => 8 | .q => 16

/-- The effective address of a C.M word (R56): a wrapping sum of base, displacement and scaled index. -/
def Ctx.ea (x : Ctx) (m : MemOp) : Word :=
  x.g m.base + m.disp.signExtend 64 + (x.g m.index <<< m.scale.toNat)

/-- The target of a branch, in words from its own address (R57). -/
def Ctx.target (x : Ctx) (off : BitVec 40) : Word := x.pc + (off.signExtend 64 <<< 3)

/-- Extension of a value of n bytes read by LD (R91). -/
def extend (sx : Bool) (n : Nat) (v : Nat) : Word :=
  if sx && decide (2 ^ (8 * n - 1) ≤ v) then BitVec.ofInt 64 ((v : Int) - 2 ^ (8 * n)) else BitVec.ofNat 64 v

/-- A column range: its first column and its count (R135). -/
structure Cols where
  first : Nat
  n : Nat
  deriving DecidableEq, Repr

/-- The SHAPE check of a column-range word (R135); the trap reports the instruction word. -/
def colRange (word w : Word) : Res Cols := do
  let c : Cols := ⟨(w.extractLsb' 0 10).toNat, (w.extractLsb' 10 10).toNat + 1⟩
  require (w.extractLsb' 20 44 == 0 && decide (c.first + c.n ≤ 1024)) .shape word
  .ok c

/-- A scratchpad descriptor (R136). -/
structure Desc where
  base : Nat
  rp : Nat
  tp : Nat
  rot : Nat
  sc : Bool
  scale : Nat
  deriving DecidableEq, Repr

/-- The fields of the descriptor pair at an even register, with its SHAPE check (R136). -/
def Ctx.desc (x : Ctx) (word : Word) (r : Reg) : Res Desc := do
  let a := x.g r
  let b := x.g (pairHi r)
  let d : Desc := ⟨(a.extractLsb' 0 32).toNat, (a.extractLsb' 32 32).toNat, (b.extractLsb' 0 32).toNat,
    (b.extractLsb' 32 4).toNat, b.getLsbD 39, (b.extractLsb' 40 19).toNat⟩
  require (b.extractLsb' 59 5 == 0 && b.extractLsb' 36 3 == 0 && decide (d.rot ≤ 5) && (d.sc || d.scale == 0)) .shape word
  .ok d

/-- ALIGN of a descriptor: base, rp and tp are multiples of 16, and of 16 × 2^c for base and rp under rotation code c (R138,
R139). The trap reports the value that is not. -/
def Desc.aligned (d : Desc) : Res Unit := do
  let u := 16 * 2 ^ d.rot
  require (d.base % u == 0) .align (BitVec.ofNat 64 d.base)
  require (d.rp % u == 0) .align (BitVec.ofNat 64 d.rp)
  require (d.tp % 16 == 0) .align (BitVec.ofNat 64 d.tp)
  require (!d.sc || d.scale % 16 == 0) .align (BitVec.ofNat 64 d.scale)
/-- ALIGN of a plain scratchpad offset (R139). -/
def offAligned (o : Word) : Res Unit := require (o.toNat % 16 == 0) .align o

/-- The bit address of element k of row i of a tile of elements of b bits (R137, R138). -/
def Desc.bit (d : Desc) (b : Nat) (i k : Nat) : Nat :=
  let tp := if d.tp == 0 then 16 * b else d.tp
  let a := d.base + k / 128 * tp + i * d.rp + k % 128 * b / 8
  8 * (a ^^^ ((if d.rot == 0 then 0 else i % 2 ^ d.rot) * 16)) + k % 128 * b % 8
/-- The byte address of .c2x8 index q of row i: the address of element 8q, with w = 1/4 byte (R137). -/
def Desc.index (d : Desc) (i q : Nat) : Nat := d.bit 2 i (8 * q) / 8

/-- The address of the scale byte of element k of row i, for rows of depth n and blocks of 32 or 64 (R139). -/
def Desc.scaleAt (d : Desc) (blk n i k : Nat) : Nat := d.scale + i * (n / blk) + k / blk

/-- The bytes that a tile of rows × depth elements of b bits names lie below the claim (R140). Every row is checked at its
last element and at the end of each full tile of 128. -/
def Desc.claim (d : Desc) (x : Ctx) (b rows depth : Nat) : Res Unit :=
  let last := fun i k => d.bit b i k / 8 + max 1 (b / 8)
  let ks := (List.range ((depth + 127) / 128)).map fun t => min (depth - 1) (128 * t + 127)
  let top := (List.range rows).foldl (fun m i => ks.foldl (fun m k => max m (last i k)) m) 0
  require (decide (top ≤ x.spadBytes)) .prot (BitVec.ofNat 64 d.base)
/-- A plain range of the scratchpad lies below the claim (R140). -/
def claimOff (x : Ctx) (o n : Nat) : Res Unit := require (decide (o + n ≤ x.spadBytes)) .prot (BitVec.ofNat 64 o)

/-- The b bits at a bit address of a memory, for b of 4, 8, 16, 32 or 64. -/
def bitsAt (m : Memory) (a b : Nat) : Nat :=
  if b == 4 then (if a % 8 == 0 then (m.byte (a / 8)).toNat % 16 else (m.byte (a / 8)).toNat / 16)
  else leNat (m.bytes (a / 8) (b / 8))
/-- The memory with b bits written at a bit address. -/
def putBits (m : Memory) (a b v : Nat) : Memory :=
  if b == 4 then
    let o := (m.byte (a / 8)).toNat
    m.setByte (a / 8) (BitVec.ofNat 8 (if a % 8 == 0 then o / 16 * 16 + v % 16 else o % 16 + v % 16 * 16))
  else m.setBytes (a / 8) (natLe (b / 8) v)

/-- An element of a tile as an exact value (R106). -/
def Desc.elem (d : Desc) (m : Memory) (t : Ty) (i k : Nat) : FVal := t.value (bitsAt m (d.bit t.bits i k) t.bits)
/-- The exponent of a block scale, none for the NaN byte (R108, R119); 0 without scales. -/
def Desc.scaleOf (d : Desc) (m : Memory) (blk n i k : Nat) : Option Int :=
  if !d.sc then some 0
  else let b := (m.byte (d.scaleAt blk n i k)).toNat; if b == 0xFF then none else some ((b : Int) - 127)
/-- A value under a block scale (R119). -/
def scaled (v : FVal) : Option Int → FVal
  | none => .nan
  | some e => v.scale e

/-- Poison anywhere in a tile's bytes is consumed by the instruction that reads it (R356). -/
def Core.tilePoison (c : Core) (d : Desc) (b rows depth : Nat) : Res Unit :=
  let top := (List.range rows).find? fun i => (List.range ((depth * b + 127) / 128)).any fun q =>
    let k := q * 128 / b
    decide (k < depth) && setHas c.poison (d.bit b i k / 128)
  match top with
  | none => .ok ()
  | some i => trapWith .poison (BitVec.ofNat 64 (d.bit b i 0 / 8))
/-- Poison in a plain range. -/
def Core.rangePoison (c : Core) (o n : Nat) : Res Unit := require (!c.spadPoisoned o n) .poison (BitVec.ofNat 64 o)

end Sys2Proof.Machine
end

