-- ==== Sys2Proof/Machine/Draws.lean ====
section
/-! DEFINITION. The random stream of a task: Philox-4x32-10 and the draws of stochastic rounding (R116, R158, R159; log entry 11). -/

namespace Sys2Proof.Machine

/-- Ten rounds of Philox-4x32 over a counter of four words under a key of two. -/
def philoxRounds : Nat → BitVec 32 → BitVec 32 → BitVec 32 → BitVec 32 → BitVec 32 → BitVec 32 →
    BitVec 32 × BitVec 32 × BitVec 32 × BitVec 32
  | 0, _, _, a, b, c, d => (a, b, c, d)
  | n + 1, k0, k1, a, b, c, d =>
    let p := (0xD2511F53 : BitVec 64) * a.setWidth 64
    let q := (0xCD9E8D57 : BitVec 64) * c.setWidth 64
    philoxRounds n (k0 + 0x9E3779B9) (k1 + 0xBB67AE85)
      (q.extractLsb' 32 32 ^^^ b ^^^ k0) (q.extractLsb' 0 32) (p.extractLsb' 32 32 ^^^ d ^^^ k1) (p.extractLsb' 0 32)

/-- The block of a counter under a key: x3 : x2 : x1 : x0 (R158, R159). -/
def philox (key : Word) (ctr : BitVec 128) : BitVec 128 :=
  let (a, b, c, d) := philoxRounds 10 (key.extractLsb' 0 32) (key.extractLsb' 32 32) (ctr.extractLsb' 0 32) (ctr.extractLsb' 32 32)
    (ctr.extractLsb' 64 32) (ctr.extractLsb' 96 32)
  d ++ c ++ b ++ a

/-- Draw number n of an instruction: the eight draws of a block are its 16-bit fields in ascending order (R158). -/
def Ctx.draw (x : Ctx) (n : Nat) : Nat := ((philox x.rngKey (x.rngCtr + BitVec.ofNat 128 (n / 8))).extractLsb' (16 * (n % 8)) 16).toNat
/-- The draw of element n under a rounding: none is taken unless it is .rsr. -/
def Ctx.drawFor (x : Ctx) (rnd : Rnd) (n : Nat) : Nat := if rnd == .rsr then x.draw n else 0
/-- The stream behind an instruction of n element results: the rest of the last block is discarded (R158). -/
def Ctx.drawn (x : Ctx) (rnd : Rnd) (n : Nat) : Ctx :=
  if rnd == .rsr then { x with rngCtr := x.rngCtr + BitVec.ofNat 128 ((n + 7) / 8) } else x

end Sys2Proof.Machine
end

