-- ==== Sys2Proof/Machine/Fabric.lean ====
section
/-! DEFINITION. Tokens, channels and their motion in a core's spatial fabric (R268, R270, R289 to R293, R296, R433). A token that
leaves an output stands in its input at once when there is room (log entry 14). -/

namespace Sys2Proof.Machine

/-- A token in a register (R289). -/
def Token.word (t : Token) : Word := (0 : BitVec 24) ++ t.aux ++ t.cls ++ t.payload
def Token.ofWord (w : Word) : Token := ⟨w.extractLsb' 0 32, w.extractLsb' 32 3, w.extractLsb' 35 5⟩
def Token.data (v : BitVec 32) : Token := ⟨v, 0, 0⟩
def Token.coordTok (v : BitVec 32) : Token := ⟨v, 1, 0⟩
def Token.eof (level : Nat) : Token := ⟨0, 2, BitVec.ofNat 5 level⟩
def Token.bar (id : BitVec 5) : Token := ⟨0, 3, id⟩

/-- The auxiliary field breaks R290 or R291. -/
def Token.bad (t : Token) : Bool :=
  match t.cls.toNat with
  | 0 | 1 | 5 | 6 => t.aux != 0
  | 7 => !t.aux.getLsbD 4 && (t.aux != 0 || t.payload == 0)
  | _ => false

/-- The key of a channel end: 8 × site + channel. -/
def chKey (site ch : Nat) : Nat := 8 * site + ch
def InQ.empty : InQ := ⟨[], false, 0, none⟩
def Fabric.inq (f : Fabric) (k : Nat) : InQ := (tabGet f.ins k).getD InQ.empty
def Fabric.outq (f : Fabric) (k : Nat) : OutQ := (tabGet f.outs k).getD ⟨[], false⟩
def Fabric.setIn (f : Fabric) (k : Nat) (q : InQ) : Fabric := { f with ins := tabPut f.ins k q }
def Fabric.setOut (f : Fabric) (k : Nat) (q : OutQ) : Fabric := { f with outs := tabPut f.outs k q }
def Fabric.wiredIn (f : Fabric) (site ch : Nat) : Bool := (tabGet f.ins (chKey site ch)).isSome
def Fabric.wiredOut (f : Fabric) (site ch : Nat) : Bool := (tabGet f.outs (chKey site ch)).isSome

/-- The head of an input: its first token, unless that is a marker, a packet in expansion or a withheld token (R270, R290,
R292). -/
def InQ.head (q : InQ) : Option Token :=
  match q.toks with
  | [] => none
  | t :: _ => if t.cls == 4 || t.cls == 7 || t.bad then none else some t
def Fabric.head (f : Fabric) (site ch : Nat) : Option Token := (f.inq (chKey site ch)).head
/-- The head leaves its input, and the coordinate register follows (R270). -/
def InQ.pop (q : InQ) : InQ :=
  match q.toks with
  | [] => q
  | t :: r =>
    let c := match t.cls.toNat with | 0 => q.coord + 1 | 1 => t.payload | 2 => 0 | _ => q.coord
    { q with toks := r, coord := c }
def Fabric.pop (f : Fabric) (site ch : Nat) : Fabric := f.setIn (chKey site ch) (f.inq (chKey site ch)).pop
/-- Room in an output: every output holds at most four tokens (R268, R293). -/
def Fabric.space (f : Fabric) (site ch : Nat) : Nat := 4 - (f.outq (chKey site ch)).toks.length
def Fabric.push (f : Fabric) (site ch : Nat) (t : Token) : Fabric :=
  let q := f.outq (chKey site ch)
  f.setOut (chKey site ch) { q with toks := q.toks ++ [t] }

/-- An operator or a port withholds (R257). -/
def Fabric.withhold (f : Fabric) (site : Nat) (t : Trap) : Fabric :=
  if site < 64 then
    (match tabGet f.ops site with | some o => { f with ops := tabPut f.ops site { o with withheld := some t } } | none => f)
  else
    match tabGet f.ports site with | some p => { f with ports := tabPut f.ports site { p with withheld := some t } } | none => f
/-- An input of a site withholds a token (R290). -/
def Fabric.inputHeld (f : Fabric) (site : Nat) : Bool := f.ins.any fun (k, q) => k / 8 == site && q.withheld.isSome
/-- An operator withholds, itself or at an input. -/
def Fabric.opHeld (f : Fabric) (site : Nat) (o : Operator) : Bool := o.withheld.isSome || f.inputHeld site
/-- A port withholds: an access, a write that a page operation holds back (R245, R259), or a token at an input. -/
def Fabric.portHeld (f : Fabric) (site : Nat) (q : Port) : Bool := q.held || q.blocked || f.inputHeld site

/-- The source code of FR0 for a fabric site (R252). A bad token at MA, MB or a control-core channel is the control core's, and its site has
no code in FR0 (log entry 30). -/
def siteSource (site : Nat) : BitVec 4 := if site < 48 then 3 else if site < 64 then 2 else if site < 80 then 1 else 0
/-- What FR2 holds for a fabric site: for a port its stream counter state, the elements that its running stream has done (R252, R313; log
entry 27); otherwise 0. -/
def Fabric.position (f : Fabric) (site : Nat) : Word :=
  match tabGet f.ports site with
  | some q => match q.running with | some st => st.done | none => 0
  | none => 0
/-- A fault of a fabric site. -/
def Fabric.siteTrap (f : Fabric) (code : TrapCode) (val : Word) (sub : Byte) (site chan : Nat) : Trap :=
  ⟨code, val, sub, some (f.position site), if site < 80 then BitVec.ofNat 8 site else 0xFF, BitVec.ofNat 4 chan, siteSource site, false, []⟩

/-- The drain limit of R258 runs from the first node of the day-set task that withholds. -/
def State.startLimit (s : State) (n : Nat) : State :=
  let c := s.core n
  let one := match c.day with | some x => decide (x.heldNodes ≤ 1) | none => true
  if c.limit.isNone || one then s.setCore n { c with limit := some s.time } else s
/-- A fault that another block raises for a task is kept until the control core's next boundary (R253). One whose block withholds nothing
starts no drain limit. -/
def State.raiseAsync (s : State) (core id : Nat) (t : Trap) (withholds : Bool := true) : State :=
  let u := s.editTask core id fun x => { x with traps := x.traps ++ [t] }
  let day := match (s.core core).day with | some x => x.id == id | none => false
  if day && withholds && [0, 1, 2, 3, 7].contains t.src.toNat then u.startLimit core else u

/-! The marker (R433, R434). -/

/-- The wires that leave an output of this core, and those that enter an input. -/
def Fabric.wiresFrom (f : Fabric) (site ch : Nat) : List Wire :=
  f.wires.filter fun w => w.srcCore == 0x3FF && w.srcSite.toNat == site && w.srcCh.toNat == ch
def Fabric.wiresInto (f : Fabric) (site : Nat) : List Wire :=
  f.wires.filter fun w => w.dstCore == 0x3FF && w.dstSite.toNat == site
/-- An input holds the marker. -/
def Fabric.marked (f : Fabric) (w : Wire) : Bool := (f.inq (chKey w.dstSite.toNat w.dstCh.toNat)).mark
/-- A site of the fabric has passed the marker. -/
def Fabric.passed (f : Fabric) (site : Nat) : Bool :=
  if site < 48 then (match tabGet f.elems site with | some e => e.passed | none => true)
  else if site < 64 then (match tabGet f.ops site with | some o => o.passed | none => true)
  else (match tabGet f.ports site with | some p => p.passed | none => true)
/-- Every input that is not loop-carried has the marker (R434). -/
def Fabric.mayPass (f : Fabric) (site : Nat) : Bool := (f.wiresInto site).all fun w => w.lc || f.marked w
/-- A site fires nothing from the moment that the marker stands at every input that is not loop-carried (R434). -/
def State.halted (s : State) (n : Nat) (f : Fabric) (site : Nat) : Bool := f.passed site || ((s.core n).dusk.isSome && f.mayPass site)

/-! Motion. -/

/-- Moves tokens of an output into an input while there is room: an input holds four tokens, and a packet is expanded before
another token arrives (R292, R293). Answers the queues and the tokens that arrived. -/
def moveToks : Nat → List Token → List Token → List Token → List Token × List Token × List Token
  | 0, o, i, a => (o, i, a)
  | n + 1, o, i, a => match o with
    | [] => ([], i, a)
    | t :: r => if i.length < 4 && !i.any (fun u => u.cls == 7) then moveToks n r (i ++ [t]) (a ++ [t]) else (o, i, a)

/-- The input withholds the first of its tokens whose auxiliary field is bad, and raises its fault once (R290). An element raises its own
for a CFGK at its head (R271). -/
def InQ.arrive (f : Fabric) (site ch : Nat) (q : InQ) : InQ × List Trap :=
  if q.withheld.isSome then (q, [])
  else match q.toks.find? fun t => t.bad && !(t.cls == 5 && site < 48) with
    | none => (q, [])
    | some t => let e := f.siteTrap .shape t.word 0 site ch; ({ q with withheld := some e }, [e])

/-- One local channel. -/
def Fabric.moveWire (f : Fabric) (w : Wire) : Fabric × List Trap :=
  let ok := chKey w.srcSite.toNat w.srcCh.toNat
  let ik := chKey w.dstSite.toNat w.dstCh.toNat
  let o := f.outq ok
  let i := f.inq ik
  let (o', i', a) := moveToks 4 o.toks i.toks []
  if a.isEmpty then (f, [])
  else
    let (q, ts) := InQ.arrive f w.dstSite.toNat w.dstCh.toNat { i with toks := i' }
    ((f.setOut ok { o with toks := o' }).setIn ik q, ts)

/-- The core field that names the issuing core (R295). -/
def ownCore : BitVec 10 := 0x3FF
def Wire.localTo (w : Wire) : Bool := w.srcCore == ownCore && w.dstCore == ownCore
/-- The word with 0x3FF read as a core's number (R296). -/
def Wire.absolute (w : Wire) (me : Nat) : Wire :=
  { w with
    srcCore := if w.srcCore == ownCore then BitVec.ofNat 10 me else w.srcCore
    dstCore := if w.dstCore == ownCore then BitVec.ofNat 10 me else w.dstCore }

/-- The task in the day set of a core, with its active configuration. -/
def State.dayFabric (s : State) (n : Nat) : Option (Ctx × Fabric) :=
  match (s.core n).day with
  | none => none
  | some x => x.fabric.map fun f => (x, f)
def State.setFabric (s : State) (n : Nat) (f : Fabric) : State :=
  match (s.core n).day with
  | none => s
  | some x => s.setDay n (some { x with fabric := some f })

/-- A channel that crosses cores is live: the other core's active configuration lists it, under one ASID and partition (R296). -/
def State.liveEnd (s : State) (x : Ctx) (a : Wire) (n : Nat) : Option (Ctx × Fabric) :=
  match s.dayFabric n with
  | none => none
  | some (y, g) =>
    if y.asid == x.asid && y.part == x.part && g.wires.any (fun u => u.absolute (s.logicalCore y.part n) == a) then some (y, g)
    else none

/-- A marker that stayed at an input is discarded once the configuration that sent it is live again (R436). -/
def InQ.unmarked (q : InQ) : InQ := { q with toks := q.toks.filter (·.cls != 4) }
/-- One channel of core n whose source is another site of n or another core, moved when it is live. -/
def State.moveCross (s : State) (n : Nat) (w : Wire) : State :=
  match s.dayFabric n with
  | none => s
  | some (x, f) =>
    let me := s.logicalCore x.part n
    let a := w.absolute me
    let srcCore := if w.srcCore == ownCore then some n else s.physicalCore x.part w.srcCore.toNat
    let dstCore := if w.dstCore == ownCore then some n else s.physicalCore x.part w.dstCore.toNat
    match srcCore, dstCore with
    | some i, some j =>
      if i == j then s
      else match (if i == n then some (x, f) else s.liveEnd x a i), (if j == n then some (x, f) else s.liveEnd x a j) with
        | some (_, fi), some (y, fj) =>
          let ok := chKey w.srcSite.toNat w.srcCh.toNat
          let ik := chKey w.dstSite.toNat w.dstCh.toNat
          let o := fi.outq ok
          let q0 := fj.inq ik
          let q := if (s.core i).dusk.isNone then q0.unmarked else q0
          if q.mark then s
          else
            let (o', i', arr) := moveToks 4 o.toks q.toks []
            if arr.isEmpty then (if q == q0 then s else s.setFabric j (fj.setIn ik q))
            else
              let (q', ts) := InQ.arrive fj w.dstSite.toNat w.dstCh.toNat { q with toks := i' }
              let t := (s.setFabric i (fi.setOut ok { o with toks := o' })).setFabric j (fj.setIn ik q')
              ts.foldl (fun u e => u.raiseAsync j y.id e) t
        | _, _ => s
    | _, _ => s

/-- Every channel of core n's active configuration moves what it can. -/
def State.settle (s : State) (n : Nat) : State :=
  match s.dayFabric n with
  | none => s
  | some (x, f) =>
    let (g, ts) := f.wires.foldl (fun (h, ts) w =>
      if w.localTo then (let (h', t') := h.moveWire w; (h', ts ++ t')) else (h, ts)) (f, [])
    let t := ts.foldl (fun u e => u.raiseAsync n x.id e) (s.setFabric n g)
    (f.wires.filter fun w => !w.localTo).foldl (fun u w => u.moveCross n w) t

/-- A step of a site of core n: the device runs, the day-set task has an active configuration, and the body answers what the
site does, with the faults it raises, or nothing when it does nothing. -/
def siteStep (s : State) (n : Nat) (body : State → Ctx → Fabric → Option (State × Fabric × List Trap)) : Out :=
  if !s.alive then .next s else
  match s.dayFabric n with
  | none => .next s
  | some (x, f) => match body s x f with
    | none => .next s
    | some (t, g, ts) => .next ((ts.foldl (fun u e => u.raiseAsync n x.id e) (t.setFabric n g)).settle n)

/-- INPUT_PACKET_EXPAND (R291, R292): the input port expands one DATA of its packet when the input has room for it. -/
def execInputPacketExpand (c site ch : Nat) (s : State) : Out :=
  siteStep s c fun s _ f =>
    let k := chKey site ch
    let q := f.inq k
    let before := q.toks.takeWhile (·.cls != 7)
    match q.toks.dropWhile (·.cls != 7) with
    | [] => none
    | p :: r =>
      if p.bad || 4 ≤ before.length then none
      else
        let (v, rest) : BitVec 32 × List Token :=
          if p.aux.getLsbD 4 then
            (p.payload, if p.aux.extractLsb' 0 4 == 0 then [] else [{ p with aux := p.aux - 1 }])
          else (0, if p.payload == 1 then [] else [{ p with payload := p.payload - 1 }])
        some (s, f.setIn k { q with toks := before ++ [Token.data v] ++ rest ++ r }, [])

/-- FOREIGN_MARK_ARRIVAL (R436): the marker behind the tokens of a channel from another core reaches its input: it is discarded
when its epoch is not the reached core's, and else stays at the input's head while that task is not draining. -/
def execForeignMarkArrival (c site ch : Nat) (s : State) : Out :=
  if !s.alive then .next s else
  match s.dayFabric c with
  | none => .next s
  | some (x, f) =>
    match f.wires.find? (fun w => w.dstCore == ownCore && w.srcCore != ownCore && w.dstSite.toNat == site && w.dstCh.toNat == ch) with
    | none => .next s
    | some w => match s.physicalCore x.part w.srcCore.toNat with
      | none => .next s
      | some i => match s.liveEnd x (w.absolute (s.logicalCore x.part c)) i with
        | none => .next s
        | some (_, fi) =>
          let ok := chKey w.srcSite.toNat w.srcCh.toNat
          let o := fi.outq ok
          if o.mark && o.toks.isEmpty then
            let t := s.setFabric i (fi.setOut ok { o with mark := false })
            let q := f.inq (chKey site ch)
            let e := (s.core i).epoch
            if e == (s.core c).epoch && (s.core c).dusk.isNone then
              .next (t.setFabric c (f.setIn (chKey site ch) { q with toks := q.toks ++ [⟨0, 4, e⟩] }))
            else .next t
          else .next s

end Sys2Proof.Machine
end

