-- ==== Sys2Proof/Machine/Flags.lean ====
section
/-! DEFINITION. Conditions, and the status words computed from the state. -/

namespace Sys2Proof.Machine

/-- A condition between two values (R78). -/
def condHolds (c : Cond) (a b : Word) : Bool :=
  match c with
  | .eq => a == b
  | .ne => a != b
  | .lt => a.slt b
  | .ge => !a.slt b
  | .le => a.sle b
  | .gt => !a.sle b
  | .ltz => a.ult b
  | .gez => !a.ult b
  | .lez => a.ule b
  | .gtz => !a.ule b
  | .tst => (a &&& b) != 0
  | .ntst => (a &&& b) == 0

def bitWord (b : Bool) (k : Nat) : Word := if b then 1 <<< k else 0

/-- CC_STATUS (R97): LA1, LA0 and NIGHT are computed. -/
def Ctx.status (x : Ctx) (night : Bool) : Word :=
  bitWord x.th 7 ||| bitWord x.sh 6 ||| bitWord x.sup 5 ||| bitWord x.ev 4 ||| bitWord (x.loop1.count != 0) 3 |||
  bitWord (x.loop0.count != 0) 2 ||| bitWord night 1

/-- CC_ID of a task on a core with a given logical number (R27, R442). -/
def ccId (asid : BitVec 13) (part logical : Nat) : Word :=
  BitVec.ofNat 64 (asid.toNat * 2 ^ 42 + part % 64 * 2 ^ 36 + coreDie logical * 2 ^ 34 + coreCluster logical * 2 ^ 26 +
    logical * 2 ^ 16 + coreRow logical * 2 ^ 5 + coreCol logical)

/-- Three-way results of ICMP, CMPC and FCMP (R280). -/
def threeWay (lt eq : Bool) : BitVec 32 := if lt then 0xFFFFFFFF else if eq then 0 else 1

end Sys2Proof.Machine
end

