-- ==== Sys2Proof/Machine/Elem.lean ====
section
/-! DEFINITION. Element operations (R279 to R284), and the firing of an element (R272 to R276, R285). -/

namespace Sys2Proof.Machine

/-- One floating lane operation in a 16-bit format (R284). -/
def lane16 (f : Fmt) (g : FVal → FVal → FVal → FVal) (a b x : BitVec 32) : BitVec 32 :=
  let one := fun (lo : Nat) => BitVec.ofNat 16 (f.rne (g (f.decode (a.extractLsb' lo 16).toNat) (f.decode (b.extractLsb' lo 16).toNat)
    (f.decode (x.extractLsb' lo 16).toNat)))
  one 16 ++ one 0
def laneInt16 (g : BitVec 16 → BitVec 16 → BitVec 16) (a b : BitVec 32) : BitVec 32 :=
  g (a.extractLsb' 16 16) (b.extractLsb' 16 16) ++ g (a.extractLsb' 0 16) (b.extractLsb' 0 16)
def laneInt8 (g : BitVec 8 → BitVec 8 → BitVec 8) (a b : BitVec 32) : BitVec 32 :=
  g (a.extractLsb' 24 8) (b.extractLsb' 24 8) ++ g (a.extractLsb' 16 8) (b.extractLsb' 16 8) ++
  g (a.extractLsb' 8 8) (b.extractLsb' 8 8) ++ g (a.extractLsb' 0 8) (b.extractLsb' 0 8)

def fsum (a b _x : FVal) : FVal := a.add b
def fprod (a b _x : FVal) : FVal := a.mul b
def ffused (a b x : FVal) : FVal := (a.mul b).add x

/-- A narrow format read from the low bits, and FP32 narrowed into the low bits (R283). -/
def widenFrom (f : Fmt) (bits : Nat) (a : BitVec 32) : BitVec 32 := f32 (f.decode (a.toNat % 2 ^ bits))
def narrowTo (f : Fmt) (sat : Bool) (a : BitVec 32) : BitVec 32 := BitVec.ofNat 32 (f.round .rne 0 sat (F32.val a))

/-- The three-way result of FCMP: 2 when either operand is NaN (R280). -/
def fcmp3 (a b : BitVec 32) : BitVec 32 :=
  let x := F32.val a
  let y := F32.val b
  if x.isNan || y.isNan then 2 else threeWay (decide (x.cmp y < 0)) (x.cmp y == 0)

/-- The result of an operation on its sources a and b, the addend x, and f0 at the start (R274, R279 to R284). -/
def elemEval (op : ElemOp) (a b x : BitVec 32) (f0 : Bool) : BitVec 32 :=
  match op with
  | .empty | .deq => 0
  | .mov | .emit => a
  | .iadd => a + b
  | .isub => a - b
  | .imul => a * b
  | .imad => a * b + x
  | .iand => a &&& b
  | .ior => a ||| b
  | .ixor => a ^^^ b
  | .ishl => a <<< (b.toNat % 32)
  | .ishr => a >>> (b.toNat % 32)
  | .isra => a.sshiftRight (b.toNat % 32)
  | .imin => if b.slt a then b else a
  | .imax => if a.slt b then b else a
  | .icmp => threeWay (a.slt b) (a == b)
  | .sel => if f0 then a else b
  | .cmpc => threeWay (a.ult b) (a == b)
  | .fadd => f32Add a b
  | .fsub => f32Sub a b
  | .fmul => f32Mul a b
  | .ffma => f32Fma a b x
  | .fmin => f32Min a b
  | .fmax => f32Max a b
  | .fcmp => fcmp3 a b
  | .fexp2 => f32Exp2 a
  | .frcp => f32Rcp a
  | .fcvtF32Bf16 => widenFrom Fmt.bf16 16 a
  | .fcvtF32F16 => widenFrom Fmt.f16 16 a
  | .fcvtF32E4m3 => widenFrom Fmt.e4m3 8 a
  | .fcvtF32E5m2 => widenFrom Fmt.e5m2 8 a
  | .fcvtF32E2m1 => widenFrom Fmt.e2m1 4 a
  | .fcvtF32S32 => f32 (FVal.ofInt a.toInt)
  | .fcvtF32Z32 => f32 (FVal.ofInt a.toNat)
  | .fcvtBf16F32 => narrowTo Fmt.bf16 false a
  | .fcvtF16F32 => narrowTo Fmt.f16 false a
  | .fcvtE4m3F32 => narrowTo Fmt.e4m3 true a
  | .fcvtE5m2F32 => narrowTo Fmt.e5m2 true a
  | .fcvtE2m1F32 => narrowTo Fmt.e2m1 false a
  | .fcvtS32F32 => BitVec.ofNat 32 (Ty.s32.narrow .rne 0 false (F32.val a))
  | .fcvtZ32F32 => BitVec.ofNat 32 (Ty.z32.narrow .rne 0 false (F32.val a))
  | .vaddBf16 => lane16 Fmt.bf16 fsum a b x
  | .vmulBf16 => lane16 Fmt.bf16 fprod a b x
  | .vfmaBf16 => lane16 Fmt.bf16 ffused a b x
  | .vaddF16 => lane16 Fmt.f16 fsum a b x
  | .vmulF16 => lane16 Fmt.f16 fprod a b x
  | .vfmaF16 => lane16 Fmt.f16 ffused a b x
  | .vaddS16 => laneInt16 (· + ·) a b
  | .vmulS16 => laneInt16 (· * ·) a b
  | .vaddS8 => laneInt8 (· + ·) a b
  | .vmulS8 => laneInt8 (· * ·) a b

/-- The latency of an operation (R285). -/
def elemLatency (op : ElemOp) : Nat :=
  match op with
  | .empty | .mov | .iadd | .isub | .iand | .ior | .ixor | .ishl | .ishr | .isra | .imin | .imax | .icmp | .sel | .cmpc
  | .deq | .emit => 1
  | .imul | .imad => 2
  | .fexp2 | .frcp => 6
  | .fadd | .fsub | .fmul | .ffma | .fmin | .fmax | .fcmp | .fcvtF32Bf16 | .fcvtF32F16 | .fcvtF32E4m3 | .fcvtF32E5m2
  | .fcvtF32E2m1 | .fcvtF32S32 | .fcvtF32Z32 | .fcvtBf16F32 | .fcvtF16F32 | .fcvtE4m3F32 | .fcvtE5m2F32 | .fcvtE2m1F32
  | .fcvtS32F32 | .fcvtZ32F32 | .vaddBf16 | .vmulBf16 | .vfmaBf16 | .vaddF16 | .vmulF16 | .vfmaF16 | .vaddS16 | .vmulS16
  | .vaddS8 | .vmulS8 => 3

/-- The head an element's word sees: DATA, COORD, EOF or BAR (R270). -/
def Fabric.elemHead (f : Fabric) (e ch : Nat) : Option Token :=
  match f.head e ch with
  | some t => if t.cls.toNat < 4 then some t else none
  | none => none

/-- The tag test on the head of the tag channel (R66). -/
def Fabric.tagTest (f : Fabric) (e : Nat) (w : ElemWord) : Bool :=
  if w.tagClass == 7 && w.negate then true
  else match f.elemHead e w.tagChannel.toNat with
    | some t => (t.cls == w.tagClass) != w.negate
    | none => false

/-- A word of an element is ready (R272). -/
def Fabric.ready (f : Fabric) (e : Nat) (el : Element) (w : ElemWord) : Bool :=
  w.op != .empty && (w.flagsTrue &&& ~~~el.f) == 0 && (w.flagsFalse &&& el.f) == 0 &&
  (List.range 4).all (fun k => !w.inputs.getLsbD k || (f.elemHead e k).isSome) &&
  (List.range 4).all (fun k => !w.outputs.getLsbD k || 0 < f.space e k) &&
  f.tagTest e w

/-- The ready word of the lowest slot (R273). -/
def Fabric.choice (f : Fabric) (e : Nat) (el : Element) : Option ElemWord :=
  ((el.pool.toList.filterMap decodeElem).find? fun w => f.ready e el w)

/-- SRC(n) of R274. -/
def Fabric.src (f : Fabric) (e : Nat) (el : Element) (w : ElemWord) (n : BitVec 4) : BitVec 32 :=
  let k := n.toNat
  if h : k < 8 then el.d[k]
  else if k < 12 then ((f.elemHead e (k - 8)).map (·.payload)).getD 0
  else if k == 12 then el.k
  else if k == 14 then (f.inq (chKey e w.tagChannel.toNat)).coord
  else if k == 15 then 1 else 0

/-- The auxiliary field of an enqueued token (R276). -/
def Fabric.auxOf (f : Fabric) (e : Nat) (w : ElemWord) (b : BitVec 32) : BitVec 5 :=
  if w.op == .emit then b.extractLsb' 0 5
  else if w.op == .mov && w.srcA.extractLsb' 2 2 == 2#2 then
    (match f.elemHead e (w.srcA.toNat - 8) with
     | some t => if t.cls == w.outTag then t.aux else 0
     | none => 0)
  else 0

/-- The effect of a firing (R274). -/
def Fabric.fireWord (f : Fabric) (e : Nat) (el : Element) (w : ElemWord) : Fabric :=
  let a := f.src e el w w.srcA
  let b := f.src e el w w.srcB
  let x := if h : w.dest.toNat < 8 then el.d[w.dest.toNat] else 0
  let res := elemEval w.op a b x (el.f.getLsbD 0)
  let tok : Token := ⟨res, w.outTag, f.auxOf e w b⟩
  let d' := if h : w.dest.toNat < 8 then (if w.op == .deq then el.d else el.d.set w.dest.toNat res) else el.d
  let outs := destOuts w.dest
  let g := (List.range 4).foldl (fun g k => if outs.getLsbD k then g.push e k tok else g) f
  let g := (List.range 4).foldl (fun g k => if w.deq.getLsbD k then g.pop e k else g) g
  let bit : BitVec 8 := 1 <<< w.flagIndex.toNat
  let fl := match w.flagMode.toNat with
    | 1 => el.f ||| bit
    | 2 => el.f &&& ~~~bit
    | 3 => if res != 0 then el.f ||| bit else el.f &&& ~~~bit
    | _ => el.f
  { g with elems := tabPut g.elems e { el with d := d', f := fl, stall := elemLatency w.op - 1 } }

/-- The CFGK tokens at the heads of an element's inputs at the start of a cycle, by channel. -/
def Fabric.cfgkHeads (f : Fabric) (e : Nat) : List (Nat × Token) :=
  (List.range 4).filterMap fun ch => match (f.inq (chKey e ch)).toks with
    | t :: _ => if t.cls == 5 then some (ch, t) else none
    | [] => none
/-- The bad token that an input withholds is a CFGK: the one at its head, since only there is a CFGK withheld at an element (R271). -/
def InQ.cfgkHeld (q : InQ) : Bool := q.withheld.any fun e => (Token.ofWord e.val).cls == 5
/-- What the input ports of an element do at the end of a cycle with the CFGK tokens that stood at the heads at its start (R271): one with
auxiliary field 0 sets K and is consumed, another is withheld and raises SHAPE once. Of two in one cycle the higher channel's K stays
(log entry 14). -/
def Fabric.consumeCfgk (f : Fabric) (e : Nat) (heads : List (Nat × Token)) : Fabric × List Trap :=
  heads.foldl (fun ((g : Fabric), ts) (ch, t) =>
    let k := chKey e ch
    let q := g.inq k
    if t.aux == 0 then
      let g := g.setIn k { q with toks := q.toks.drop 1 }
      ({ g with elems := g.elems.map fun (j, el) => if j == e then (j, { el with k := t.payload }) else (j, el) }, ts)
    else if q.cfgkHeld then (g, ts)
    else
      let tr := g.siteTrap .shape t.word 0 e ch
      (g.setIn k { q with withheld := some tr }, ts ++ [tr])) (f, [])
/-- One cycle of an element (R271, R273, R285): a stall cycle passes, or a word fires, or none does; then its CFGK heads are consumed. -/
def Fabric.cycle (f : Fabric) (e : Nat) (el : Element) (w : Option ElemWord) : Fabric × List Trap :=
  let heads := f.cfgkHeads e
  let g :=
    if 0 < el.stall then { f with elems := tabPut f.elems e { el with stall := el.stall - 1 } }
    else match w with | some w => f.fireWord e el w | none => f
  g.consumeCfgk e heads

/-- One cycle of an element whose lowest ready word has the given operation: it fires, or a stall cycle passes (R285). -/
def fire (op : ElemOp) (c e : Nat) (s : State) : Out :=
  siteStep s c fun s _ f =>
    match tabGet f.elems e with
    | none => none
    | some el =>
      if s.halted c f e then none
      else if 0 < el.stall then (let (g, ts) := f.cycle e el none; some (s, g, ts))
      else match f.choice e el with
        | some w => if w.op == op then (let (g, ts) := f.cycle e el (some w); some (s, g, ts)) else none
        | none => none

/-- CFGK_CONSUME (R271): a cycle in which a CFGK stands at the head of an input and no word fires. -/
def execCfgkConsume (c e ch : Nat) (s : State) : Out :=
  siteStep s c fun s _ f =>
    match tabGet f.elems e with
    | none => none
    | some el =>
      if s.halted c f e || !(f.cfgkHeads e).any (fun (k, t) => k == ch && (t.aux == 0 || !(f.inq (chKey e k)).cfgkHeld)) then none
      else if el.stall == 0 && (f.choice e el).isSome then none
      else (let (g, ts) := f.cycle e el none; some (s, g, ts))

def execMov (c e : Nat) (s : State) : Out := fire .mov c e s
def execIadd (c e : Nat) (s : State) : Out := fire .iadd c e s
def execIsub (c e : Nat) (s : State) : Out := fire .isub c e s
def execImul (c e : Nat) (s : State) : Out := fire .imul c e s
def execImad (c e : Nat) (s : State) : Out := fire .imad c e s
def execIand (c e : Nat) (s : State) : Out := fire .iand c e s
def execIor (c e : Nat) (s : State) : Out := fire .ior c e s
def execIxor (c e : Nat) (s : State) : Out := fire .ixor c e s
def execIshl (c e : Nat) (s : State) : Out := fire .ishl c e s
def execIshr (c e : Nat) (s : State) : Out := fire .ishr c e s
def execIsra (c e : Nat) (s : State) : Out := fire .isra c e s
def execImin (c e : Nat) (s : State) : Out := fire .imin c e s
def execImax (c e : Nat) (s : State) : Out := fire .imax c e s
def execIcmp (c e : Nat) (s : State) : Out := fire .icmp c e s
def execElemSel (c e : Nat) (s : State) : Out := fire .sel c e s
def execCmpc (c e : Nat) (s : State) : Out := fire .cmpc c e s
def execDeq (c e : Nat) (s : State) : Out := fire .deq c e s
def execEmit (c e : Nat) (s : State) : Out := fire .emit c e s
def execFadd (c e : Nat) (s : State) : Out := fire .fadd c e s
def execFsub (c e : Nat) (s : State) : Out := fire .fsub c e s
def execFmul (c e : Nat) (s : State) : Out := fire .fmul c e s
def execFfma (c e : Nat) (s : State) : Out := fire .ffma c e s
def execFmin (c e : Nat) (s : State) : Out := fire .fmin c e s
def execFmax (c e : Nat) (s : State) : Out := fire .fmax c e s
def execFcmp (c e : Nat) (s : State) : Out := fire .fcmp c e s
def execFexp2 (c e : Nat) (s : State) : Out := fire .fexp2 c e s
def execFrcp (c e : Nat) (s : State) : Out := fire .frcp c e s
def execFcvtF32Bf16 (c e : Nat) (s : State) : Out := fire .fcvtF32Bf16 c e s
def execFcvtF32F16 (c e : Nat) (s : State) : Out := fire .fcvtF32F16 c e s
def execFcvtF32E4m3 (c e : Nat) (s : State) : Out := fire .fcvtF32E4m3 c e s
def execFcvtF32E5m2 (c e : Nat) (s : State) : Out := fire .fcvtF32E5m2 c e s
def execFcvtF32E2m1 (c e : Nat) (s : State) : Out := fire .fcvtF32E2m1 c e s
def execFcvtF32S32 (c e : Nat) (s : State) : Out := fire .fcvtF32S32 c e s
def execFcvtF32Z32 (c e : Nat) (s : State) : Out := fire .fcvtF32Z32 c e s
def execFcvtBf16F32 (c e : Nat) (s : State) : Out := fire .fcvtBf16F32 c e s
def execFcvtF16F32 (c e : Nat) (s : State) : Out := fire .fcvtF16F32 c e s
def execFcvtE4m3F32 (c e : Nat) (s : State) : Out := fire .fcvtE4m3F32 c e s
def execFcvtE5m2F32 (c e : Nat) (s : State) : Out := fire .fcvtE5m2F32 c e s
def execFcvtE2m1F32 (c e : Nat) (s : State) : Out := fire .fcvtE2m1F32 c e s
def execFcvtS32F32 (c e : Nat) (s : State) : Out := fire .fcvtS32F32 c e s
def execFcvtZ32F32 (c e : Nat) (s : State) : Out := fire .fcvtZ32F32 c e s
def execVaddBf16 (c e : Nat) (s : State) : Out := fire .vaddBf16 c e s
def execVmulBf16 (c e : Nat) (s : State) : Out := fire .vmulBf16 c e s
def execVfmaBf16 (c e : Nat) (s : State) : Out := fire .vfmaBf16 c e s
def execVaddF16 (c e : Nat) (s : State) : Out := fire .vaddF16 c e s
def execVmulF16 (c e : Nat) (s : State) : Out := fire .vmulF16 c e s
def execVfmaF16 (c e : Nat) (s : State) : Out := fire .vfmaF16 c e s
def execVaddS16 (c e : Nat) (s : State) : Out := fire .vaddS16 c e s
def execVmulS16 (c e : Nat) (s : State) : Out := fire .vmulS16 c e s
def execVaddS8 (c e : Nat) (s : State) : Out := fire .vaddS8 c e s
def execVmulS8 (c e : Nat) (s : State) : Out := fire .vmulS8 c e s

end Sys2Proof.Machine
end

