-- ==== Sys2Proof/Machine/Oper.lean ====
section
/-! DEFINITION. The fixed operators (R241, R298 to R308). One step of an operator takes the tokens of one entry and forms the
tokens that follow from it, which wait in `emit` until their outputs have room. -/

namespace Sys2Proof.Machine

/-- What an operator does with the heads of its inputs: nothing yet; a fault that withholds a token of an input; or the inputs it
dequeues, once each time they are listed, with its new state. -/
inductive OpAct where
  | idle
  | fault (code : TrapCode) (val : Word) (ch : Nat) (sub : Byte)
  | go (pops : List Nat) (q : Operator)
  deriving DecidableEq, Repr

/-- The token behind the head of an input. -/
def Fabric.second (f : Fabric) (site ch : Nat) : Option Token :=
  match (f.inq (chKey site ch)).toks with
  | _ :: t :: _ => if t.cls == 4 || t.cls == 7 || t.bad then none else some t
  | _ => none

def Operator.out (q : Operator) (ts : List (Nat × Token)) : Operator := { q with emit := q.emit ++ ts }
/-- A token sent to each of n outputs (R300). -/
def Operator.outAll (q : Operator) (n : Nat) (t : Token) : Operator := q.out ((List.range n).map fun k => (k, t))

/-- SHAPE of a token withheld at an input (R300). -/
def opShape (t : Token) (ch : Nat) : OpAct := .fault .shape t.word ch 0

/-- EOF or BAR at the head of the first listed input: it is forwarded to n outputs once every listed input has one of the same
class and auxiliary field, and the first that differs is withheld (R300). -/
def joint (f : Fabric) (site : Nat) (chs : List Nat) (t : Token) (n : Nat) (q : Operator) : OpAct :=
  match chs.find? (fun k => match f.head site k with | none => false | some u => u.cls != t.cls || u.aux != t.aux) with
  | some k => match f.head site k with
    | some u => opShape u k
    | none => .idle
  | none => if chs.all (fun k => (f.head site k).isSome) then .go chs (q.outAll n t) else .idle

/-- Pushes the formed tokens that have room, in order (R293). -/
def flush (site : Nat) : List (Nat × Token) → Fabric → Nat → Fabric × List (Nat × Token) × Nat
  | [], f, n => (f, [], n)
  | (k, t) :: r, f, n => if 0 < f.space site k then flush site r (f.push site k t) (n + 1) else (f, (k, t) :: r, n)

/-- One step of operator site o of core c, of a kind and, where the rows of the table part by mode, a mode. A fault withholds the token and
stops the operator (R300); the retry after a re-latch token is quiet, and one after a drain has DRAIN set (R257, R258). -/
def opStep (kind : Nat) (mode : Option Nat) (c o : Nat) (s : State) (act : Fabric → Nat → Operator → OpAct) : Out :=
  siteStep s c fun s _ f =>
    let site := 48 + o
    match tabGet f.ops site with
    | none => none
    | some q =>
      if q.kind.toNat != kind || mode.any (· != q.mode.toNat) || s.halted c f site || q.withheld.isSome then none
      else if !q.emit.isEmpty then
        let (g, rest, n) := flush site q.emit f 0
        if n == 0 then none
        else some (s, { g with ops := tabPut g.ops site { q with emit := rest, emitted := q.emitted + BitVec.ofNat 32 n } }, [])
      else match act f site q with
        | .idle => none
        | .fault code val ch sub =>
          let t := { f.siteTrap code val sub site ch with drain := q.attempt == .drained }
          some (s, { f with ops := tabPut f.ops site { q with withheld := some t, attempt := .first } },
            if q.attempt == .quiet then [] else [t])
        | .go pops q' =>
          let g := pops.foldl (fun g k => g.pop site k) f
          let (g, rest, n) := flush site q'.emit g 0
          some (s, { g with ops := tabPut g.ops site { q' with
            emit := rest, emitted := q'.emitted + BitVec.ofNat 32 n, attempt := .first } }, [])

def Token.isData (t : Token) : Bool := t.cls == 0
def Token.isCoord (t : Token) : Bool := t.cls == 1
def Token.isEof (t : Token) : Bool := t.cls == 2
def Token.isBar (t : Token) : Bool := t.cls == 3
def Token.taken (t : Token) : Bool := t.payload != 0

/-- REPEAT (R301): a block up to an EOF of level 0 is buffered, and emitted as often as a count says: with in1 unwired argument A, as it
stands when the EOF is taken in (R320). Between blocks an EOF of another level or a BAR passes under R300 (log entry 31). -/
def actRepeat (f : Fabric) (site : Nat) (q : Operator) : OpAct :=
  let ends := fun (t : Token) => t.isEof && t.aux == 0
  let full := q.buf.getLast?.any ends
  let start := fun (n : BitVec 32) (b : List Token) => { q with buf := if n == 0 then [] else b, rep := n.toNat, pos := 0 }
  if 0 < q.rep then
    match q.buf[q.pos]? with
    | none => .idle
    | some t =>
      let last := q.pos + 1 == q.buf.length
      let r := if last then q.rep - 1 else q.rep
      .go [] { q with emit := [(0, t)], pos := if last then 0 else q.pos + 1, rep := r, buf := if r == 0 then [] else q.buf }
  else if full then
    match f.head site 1 with
    | none => .idle
    | some n => if n.isData then .go [1] (start n.payload q.buf) else opShape n 1
  else match f.head site 0 with
    | none => .idle
    | some t =>
      if q.buf.isEmpty && (t.isBar || (t.isEof && t.aux != 0)) then
        joint f site (if f.wiredIn site 1 then [0, 1] else [0]) t 1 q
      else if 3 < t.cls.toNat || 2048 ≤ q.buf.length then opShape t 0
      else if ends t && !f.wiredIn site 1 then .go [0] (start q.a (q.buf ++ [t]))
      else .go [0] { q with buf := q.buf ++ [t] }
def execRepeatBlock (c o : Nat) (s : State) : Out := opStep 1 none c o s actRepeat

/-- The entry at the head of a fibre input: nothing yet, its end or another token, a fault, or a COORD with its DATA (R302). -/
inductive Entry where
  | none | other (t : Token) | fault (a : OpAct) | entry (x : BitVec 32) (d : Token)
  deriving DecidableEq, Repr

/-- The entry of a fibre input with the checks of R302: coordinates ascend, and each COORD is followed by one DATA. -/
def Fabric.entry (f : Fabric) (site ch : Nat) (prev : Option (BitVec 32)) : Entry :=
  match f.head site ch with
  | .none => .none
  | some t =>
    if t.isCoord then
      match prev with
      | some p => if t.payload.toNat ≤ p.toNat then .fault (.fault .order (t.payload ++ p) ch 0) else follow t
      | .none => follow t
    else if t.isEof || t.isBar then .other t
    else .fault (opShape t ch)
where
  follow (t : Token) : Entry :=
    match f.second site ch with
    | .none => .none
    | some d => if d.isData then .entry t.payload d else .fault (opShape t ch)

/-- MERGE in modes .isect and .union (R302). -/
def actMerge (union : Bool) (f : Fabric) (site : Nat) (q : Operator) : OpAct :=
  let drop := fun (k : Nat) (x : BitVec 32) (ts : List (Nat × Token)) =>
    OpAct.go [k, k] { q with
      emit := ts, prev0 := if k == 0 then some x else q.prev0, prev1 := if k == 1 then some x else q.prev1 }
  let fill := Token.data q.a
  let only0 := fun x d => drop 0 x (if union then [(0, Token.coordTok x), (0, d), (1, fill)] else [])
  let only1 := fun x d => drop 1 x (if union then [(0, Token.coordTok x), (0, fill), (1, d)] else [])
  match f.entry site 0 q.prev0, f.entry site 1 q.prev1 with
  | .fault a, _ => a
  | .none, .fault a => a
  | .other _, .fault a => a
  | .entry _ _, .fault a => a
  | .none, _ => .idle
  | .other _, .none => .idle
  | .entry _ _, .none => .idle
  | .other t, .other u =>
    if t.isEof && u.isEof then .go [0, 1] { q with emit := [(0, t)], prev0 := .none, prev1 := .none }
    else if t.cls == u.cls && t.aux == u.aux then .go [0, 1] { q with emit := [(0, t)] }
    else opShape u 1
  | .other t, .entry x d => if t.isEof then only1 x d else opShape ⟨x, 1, 0⟩ 1
  | .entry x d, .other u => if u.isEof then only0 x d else opShape u 1
  | .entry x d, .entry y e =>
    if x == y then
      .go [0, 0, 1, 1] { q with
        emit := [(0, Token.coordTok x), (0, d), (1, e)], prev0 := some x, prev1 := some y }
    else if x.toNat < y.toNat then only0 x d
    else only1 y e
/-- MERGE in mode .chk (R302). -/
def actChk (f : Fabric) (site : Nat) (q : Operator) : OpAct :=
  match f.entry site 0 q.prev0 with
  | .none => .idle
  | .fault a => a
  | .other t => .go [0] { q with emit := [(0, t)], prev0 := if t.isEof then .none else q.prev0 }
  | .entry x d => .go [0, 0] { q with emit := [(0, Token.coordTok x), (0, d)], prev0 := some x }
def execMergeIsect (c o : Nat) (s : State) : Out := opStep 2 (some 0) c o s (actMerge false)
def execMergeUnion (c o : Nat) (s : State) : Out := opStep 2 (some 1) c o s (actMerge true)
def execMergeChk (c o : Nat) (s : State) : Out := opStep 2 (some 2) c o s actChk

/-- RADIX (R303). A shift above 31, which only ARGW can leave, chooses an output that the spec does not state (log entry 27). -/
def radixOut (q : Operator) (x : BitVec 32) : Nat :=
  let m := if q.mode == 0 then 2 else 4
  if q.a.toNat < 32 then (x >>> q.a.toNat).toNat % m else (Config.freeWord q.emitted.toNat).toNat % m
def actRadix (f : Fabric) (site : Nat) (q : Operator) : OpAct :=
  match f.head site 0 with
  | none => .idle
  | some t =>
    if t.isCoord then .go [0] (q.out [(radixOut q t.payload, t)])
    else if t.isData then .go [0] (q.out [(radixOut q (f.inq (chKey site 0)).coord, t)])
    else if t.isEof || t.isBar then .go [0] (q.outAll (if q.mode == 0 then 2 else 4) t)
    else opShape t 0
def execRadix (c o : Nat) (s : State) : Out := opStep 3 none c o s actRadix

/-- GATE (R304). A COORD that no DATA follows passes alone (log entry 31). -/
def actGate (f : Fabric) (site : Nat) (q : Operator) : OpAct :=
  let decide' := fun (pops : List Nat) (ts : List (Nat × Token)) =>
    match f.head site 1 with
    | none => OpAct.idle
    | some n => if n.isData then .go (pops ++ [1]) (q.out (if n.taken != (q.mode == 1) then ts else [])) else opShape n 1
  match f.head site 0 with
  | none => .idle
  | some t =>
    if t.isData then decide' [0] [(0, t)]
    else if t.isCoord then
      match f.second site 0 with
      | none => .idle
      | some d => if d.isData then decide' [0, 0] [(0, t), (0, d)] else .go [0] (q.out [(0, t)])
    else if t.isEof || t.isBar then joint f site [0, 1] t 1 q
    else opShape t 0
def execGate (c o : Nat) (s : State) : Out := opStep 4 none c o s actGate

/-- SELECT (R304). -/
def actSelect (f : Fabric) (site : Nat) (q : Operator) : OpAct :=
  let choose := fun (pops : List Nat) (a b : List Token) =>
    match f.head site 2 with
    | none => OpAct.idle
    | some n => if n.isData then .go (pops ++ [2]) (q.out ((if n.taken then a else b).map fun t => (0, t))) else opShape n 2
  match f.head site 0, f.head site 1 with
  | some t, some u =>
    if t.isData && u.isData then choose [0, 1] [t] [u]
    else if t.isCoord && u.isCoord then
      match f.second site 0, f.second site 1 with
      | some d, some e => if !d.isData then opShape t 0 else if !e.isData then opShape u 1 else choose [0, 0, 1, 1] [t, d] [u, e]
      | _, _ => .idle
    else if t.isCoord && u.isData then opShape t 0
    else if t.isData && u.isCoord then opShape u 1
    else if t.isEof || t.isBar then joint f site [0, 1, 2] t 1 q
    else if u.isEof || u.isBar then opShape u 1
    else if 3 < t.cls.toNat then opShape t 0
    else opShape u 1
  | _, _ => .idle
def execSelect (c o : Nat) (s : State) : Out := opStep 5 none c o s actSelect

/-- STAT (R305); a COORD of its input is consumed with the data (log entry 31). -/
def Operator.fresh (q : Operator) : Operator :=
  { q with sum := 0, count := 0, high := if q.mode == 0 then 0x80000000 else 0xFF800000 }
def actStat (f : Fabric) (site : Nat) (q : Operator) : OpAct :=
  match f.head site 0 with
  | none => .idle
  | some t =>
    if t.isData then
      let v := t.payload
      let sm := if q.mode == 0 then q.sum + v else f32Add q.sum v
      let hi := if q.mode == 0 then (if q.high.slt v then v else q.high) else f32Max q.high v
      .go [0] { q with sum := sm, count := q.count + 1, high := hi }
    else if t.isCoord then .go [0] q
    else if t.isEof then
      .go [0] (q.fresh.out [(0, Token.data q.sum), (0, Token.data q.count), (0, Token.data q.high), (0, t)])
    else if t.isBar then .go [0] (q.out [(0, t)])
    else opShape t 0
def execStat (c o : Nat) (s : State) : Out := opStep 6 none c o s actStat

/-- The fields of XLAT's word 1 (R299, R241): entries, log2 of indices per entry, log2 of the element width. -/
def Operator.xlatE (q : Operator) : Nat := (q.w1.extractLsb' 0 6).toNat + 1
def Operator.xlatS (q : Operator) : Nat := (q.w1.extractLsb' 6 5).toNat
def Operator.xlatV (q : Operator) : Nat := (q.w1.extractLsb' 11 3).toNat
/-- XLAT (R241). COORD, EOF and BAR pass in order. Between a re-latch token's injection and its passage the operator takes none in. -/
def actXlat (tick : Nat) (f : Fabric) (site : Nat) (q : Operator) : OpAct :=
  match f.head site 0 with
  | none => .idle
  | some t =>
    if q.relatch then .idle
    else if t.isData then
      let i := t.payload.toNat
      let e := i / 2 ^ q.xlatS
      let off := i % 2 ^ q.xlatS * 2 ^ q.xlatV
      if q.xlatE ≤ e then .fault .page (Config.freeWord tick) 0 3
      else match q.latches[e]? with
        | some l => if l.pbase.isSome then .go [0] (q.out [(0, Token.data (BitVec.ofNat 32 (e * 2 ^ 26 + off)))])
          else .fault l.code (((q.table[e]?).getD 0) + BitVec.ofNat 64 off) 0 l.sub
        | none => .fault .page (Config.freeWord tick) 0 3
    else if t.cls.toNat ≤ 3 then .go [0] (q.out [(0, t)])
    else opShape t 0
def execXlat (c o : Nat) (s : State) : Out := opStep 7 none c o s (actXlat s.tick)

/-- CBDEC (R306): `pos` counts the indices under the scale in `sum`, an EOF between them notwithstanding. -/
def actCbdec (f : Fabric) (site : Nat) (q : Operator) : OpAct :=
  let scaled := f.wiredIn site 1
  let table := fun (k : Nat) => ((q.table[k / 2]?).getD 0).extractLsb' (32 * (k % 2)) 32
  let eight := fun (idx : Nat) (b : Nat) =>
    (c2x8 table idx).map fun v =>
      let y := if b == 0xFF then FVal.nan else v.scale ((b : Int) - 127)
      ((0 : Nat), Token.data (if q.mode == 0 then f32 y else BitVec.ofNat 32 (Fmt.bf16.rne y)))
  match f.head site 0 with
  | none => .idle
  | some t =>
    if t.isData then
      let idx := t.payload.toNat % 65536
      if !scaled then .go [0] (q.out (eight idx (q.a.toNat % 256)))
      else if q.pos == 0 then
        match f.head site 1 with
        | none => .idle
        | some b =>
          if b.isData then .go [0, 1] { q with emit := eight idx (b.payload.toNat % 256), sum := b.payload, pos := 1 }
          else opShape b 1
      else .go [0] { q with emit := eight idx (q.sum.toNat % 256), pos := (q.pos + 1) % 8 }
    else if t.isCoord then .go [0] (q.out [(0, t)])
    else if t.isEof || t.isBar then
      joint f site (if scaled then [0, 1] else [0]) t 1 q
    else opShape t 0
def execCbdec (c o : Nat) (s : State) : Out := opStep 8 none c o s actCbdec

/-- DELTA (R307). -/
def actDelta (f : Fabric) (site : Nat) (q : Operator) : OpAct :=
  match f.head site 0 with
  | none => .idle
  | some t =>
    if t.isCoord then .go [0] (q.out [(0, t)])
    else if 3 < t.cls.toNat then opShape t 0
    else match f.entry site 1 q.prev1 with
      | .none => .idle
      | .fault a => a
      | .other u =>
        if t.isData then (if u.isEof then .go [0] (q.out [(0, t)]) else opShape u 1)
        else if u.cls == t.cls && u.aux == t.aux then
          .go [0, 1] { q with emit := [(0, t)], prev1 := if t.isEof then .none else q.prev1 }
        else opShape u 1
      | .entry x d =>
        if t.isData then
          let c := (f.inq (chKey site 0)).coord
          if x == c then
            let delta := Fmt.bf16.decode (d.payload.toNat % 65536)
            let y := if q.mode == 0 then f32 ((F32.val t.payload).add delta)
              else BitVec.ofNat 32 (Fmt.bf16.rne ((Fmt.bf16.decode (t.payload.toNat % 65536)).add delta))
            .go [0, 1, 1] { q with emit := [(0, Token.data y)], prev1 := some x }
          else if x.toNat < c.toNat then .go [1, 1] { q with prev1 := some x }
          else .go [0] (q.out [(0, t)])
        else if t.isEof then .go [1, 1] { q with prev1 := some x }
        else opShape ⟨x, 1, 0⟩ 1
def execDelta (c o : Nat) (s : State) : Out := opStep 9 none c o s actDelta

/-- FCONV (R308): the conversion of R283 that the mode names. -/
def actFconv (f : Fabric) (site : Nat) (q : Operator) : OpAct :=
  match f.head site 0 with
  | none => .idle
  | some t =>
    if t.isData then
      .go [0] (q.out [(0, Token.data (elemEval ((ElemOp.ofCode (q.mode.setWidth 7)).getD .empty) t.payload 0 0 false))])
    else if t.cls.toNat ≤ 3 then .go [0] (q.out [(0, t)])
    else opShape t 0
def execFconv (c o : Nat) (s : State) : Out := opStep 10 none c o s actFconv

/-- The tokens of a run (R308): one DATA as it is, else a packet. -/
def runTokens (v n : BitVec 32) : List (Nat × Token) :=
  if n == 0 then []
  else if n == 1 then [(0, Token.data v)]
  else if v == 0 then [(0, ⟨n, 7, 0⟩)]
  else [(0, ⟨v, 7, 16 + BitVec.ofNat 5 (n.toNat - 1)⟩)]
/-- RLE (R308): `count` tokens of payload `high` stand in the run. -/
def actRle (f : Fabric) (site : Nat) (q : Operator) : OpAct :=
  match f.head site 0 with
  | none => .idle
  | some t =>
    if t.isData then
      if q.count != 0 && q.high == t.payload then
        let n := q.count + 1
        if n == (if t.payload == 0 then 0xFFFFFFFF else 16) then
          .go [0] { q with emit := runTokens t.payload n, count := 0, high := 0 }
        else .go [0] { q with count := n }
      else .go [0] { q with emit := runTokens q.high q.count, count := 1, high := t.payload }
    else if t.cls.toNat ≤ 3 then .go [0] { q with emit := runTokens q.high q.count ++ [(0, t)], count := 0, high := 0 }
    else opShape t 0
def execRle (c o : Nat) (s : State) : Out := opStep 11 none c o s actRle

/-- The rows of a buffered block: its DATA, split at each EOF. -/
def blockRows (ts : List Token) : List (List Token) :=
  let (rows, row) := ts.foldl (fun (rows, row) t =>
    if t.isEof then (rows ++ [row], []) else if t.isData then (rows, row ++ [t]) else (rows, row)) (([] : List (List Token)), ([] : List Token))
  if row.isEmpty then rows else rows ++ [row]
/-- TRANSP (R308). A BAR inside a block follows the block, and an EOF of another level passes between blocks (R300, log entry 31). -/
def actTransp (f : Fabric) (site : Nat) (q : Operator) : OpAct :=
  match f.head site 0 with
  | none => .idle
  | some t =>
    if t.isData then
      if 2048 ≤ (q.buf.filter Token.isData).length then opShape t 0 else .go [0] { q with buf := q.buf ++ [t] }
    else if t.isEof && 1 < t.aux.toNat && q.buf.isEmpty then .go [0] (q.out [(0, t)])
    else if t.isBar then
      if q.buf.isEmpty then .go [0] (q.out [(0, t)]) else .go [0] { q with buf := q.buf ++ [t] }
    else if t.isEof && t.aux.toNat ≤ 1 then
      let b := if t.aux == 0 then q.buf ++ [t] else q.buf
      let rows := blockRows b
      let w := match rows with | [] => 0 | r :: _ => r.length
      if rows.any (fun r => r.length != w) then opShape t 0
      else if t.aux == 0 then .go [0] { q with buf := b }
      else
        let cols := (List.range w).flatMap fun k => (rows.filterMap fun r => r[k]?) ++ [Token.eof 0]
        .go [0] { q with emit := (cols ++ [t] ++ q.buf.filter Token.isBar).map fun u => (0, u), buf := [] }
    else opShape t 0
def execTransp (c o : Nat) (s : State) : Out := opStep 12 none c o s actTransp

end Sys2Proof.Machine
end

