-- ==== Sys2Proof/Machine/Matrix.lean ====
section
/-! DEFINITION. Matrix multiply, pruning, and zero, load and store of accumulator columns (R123, R141 to R151, R163, R164). -/

namespace Sys2Proof.Machine

/-- The group-aligned sum of the products of one group (R123). -/
def groupSum (ps : List FVal) : FVal :=
  let hasNan := ps.any FVal.isNan
  let hasInf := fun (sg : Bool) => ps.any fun p => p == .inf sg
  let zero := fun (p : FVal) => match p with | .fin _ m _ => m == 0 | .nan | .inf _ => false
  if hasNan || (hasInf false && hasInf true) then .nan
  else if hasInf false then .inf false
  else if hasInf true then .inf true
  else if ps.all zero then .fin (ps.all FVal.isNegZero) 0 0
  else
    let e := ps.foldl (fun (a : Option Int) p => match p with
      | .fin _ m d => if m == 0 then a else (let t : Int := d + bitLen m - 1; some (match a with | some b => Max.max b t | none => t))
      | .nan | .inf _ => a) none
    let u := e.getD 0 - 42
    let total := ps.foldl (fun (z : Int) p => match p with
      | .fin sg m d =>
        let v := signedInt sg m
        z + (if u ≤ d then v * 2 ^ (d - u).toNat else v / 2 ^ (u - d).toNat)
      | .nan | .inf _ => z) 0
    .fin (decide (total < 0)) total.natAbs u

/-- One group added to an accumulator element, with one rounding (R123). -/
def addGroup (acc : BitVec 32) (ps : List FVal) : BitVec 32 := f32 ((F32.val acc).add (groupSum ps))

/-- K products in groups of 16 added to an element. -/
def addProducts (prod : Nat → FVal) (first groups : Nat) (acc : BitVec 32) : BitVec 32 :=
  (List.range groups).foldl (fun a g => addGroup a ((List.range 16).map fun k => prod (16 * (first + g) + k))) acc

/-- The core's accumulator store with an element of every row and named column replaced. -/
def Core.mapCols (c : Core) (first n : Nat) (f : Nat → Nat → BitVec 32) : Core :=
  (List.range 128).foldl (fun c i => (List.range n).foldl (fun c j => c.setAcc i (first + j) (f i j)) c) c

/-- The exact value of element (k, j) of a B operand, without its scale (R137, R144). -/
def bElem (d : Desc) (m : Memory) (ty : Ty) (bt : Bool) (k j : Nat) : FVal :=
  if ty == .c2x8 then
    let a := d.index j (k / 8)
    ((c2x8 defaultMagnitudes (leNat (m.bytes a 2)))[k % 8]?).getD .nan
  else if bt then d.elem m ty j k else d.elem m ty k j
/-- Elements that one block scale of a B operand covers (R139, R147). -/
def scaleBlock (ty : Ty) : Nat := if ty == .c2x8 then 64 else 32
/-- Scale blocks along a depth. The compressed B of an MMAS may end in half a block, which has a scale byte of its own: R139 states the
array for whole blocks alone (DESIGN CHOICE, log entry 50). -/
def scaleCount (ty : Ty) (depth : Nat) : Nat := (depth + scaleBlock ty - 1) / scaleBlock ty
/-- The scale exponent of element (k, j) of a B operand of depth K and N columns (R139, R146). -/
def bScale (d : Desc) (m : Memory) (ty : Ty) (bt : Bool) (depth n k j : Nat) : Option Int :=
  if !d.sc then some 0
  else
    let a := if bt then d.scale + j * scaleCount ty depth + k / scaleBlock ty else d.scale + k / 32 * n + j
    let b := (m.byte a).toNat
    if b == 0xFF then none else some ((b : Int) - 127)

/-- The type of A (R144). -/
def aType (ty : Ty) : Ty := if ty == .c2x8 then .e2m1 else ty

/-- Bits of an element as a descriptor lays it out: an element of .c2x8 takes two (R137). -/
def layBits (ty : Ty) : Nat := if ty == .c2x8 then 2 else ty.bits

/-- PROT of a B operand and its scales (R140, R142). -/
def claimB (x : Ctx) (d : Desc) (ty : Ty) (bt : Bool) (depth n : Nat) : Res Unit := do
  d.claim x (layBits ty) (if bt then n else depth) (if bt then depth else n)
  if d.sc then claimOff x d.scale (n * scaleCount ty depth) else .ok ()
/-- PROT of an A operand and its scales. -/
def claimA (x : Ctx) (d : Desc) (ty : Ty) (depth : Nat) : Res Unit := do
  d.claim x (aType ty).bits 128 depth
  if d.sc then claimOff x d.scale (128 * (depth / 32)) else .ok ()
/-- The reading of a B operand and its scales: it waits for writes on their way, and poison traps (R35, R356). -/
def State.readyB (s : State) (x : Ctx) (d : Desc) (ty : Ty) (bt : Bool) (depth n : Nat) : Res Unit := do
  let c := s.core s.cur
  await (c.spadReady 0 x.spadBytes) .claim
  c.tilePoison d (layBits ty) (if bt then n else depth) (if bt then depth else n)
  if d.sc then c.rangePoison d.scale (n * scaleCount ty depth) else .ok ()
/-- The reading of an A operand and its scales. -/
def State.readyA (s : State) (x : Ctx) (d : Desc) (ty : Ty) (depth : Nat) : Res Unit := do
  let c := s.core s.cur
  await (c.spadReady 0 x.spadBytes) .claim
  c.tilePoison d (aType ty).bits 128 depth
  if d.sc then c.rangePoison d.scale (128 * (depth / 32)) else .ok ()

/-- The column range of an output of N columns, N a multiple of 16 from 16 to 128 (R143). -/
def mmaCols (word w : Word) : Res Cols := do
  let c ← colRange word w
  require (c.n % 16 == 0 && c.n ≤ 128) .shape word
  .ok c
/-- A depth of R145 under the type and the scales in use. -/
def depthOk (ty : Ty) (scaled sparse : Bool) (k : Nat) : Bool :=
  16 ≤ k && k ≤ 16384 && k % 16 == 0 && (!(ty == .e2m1 || scaled) || k % 32 == 0) && (ty != .c2x8 || k % 64 == 0) &&
  (!sparse || (if ty == .c2x8 then k % 128 == 0 else k % 32 == 0)) && (!scaled || (ty != .bf16 && ty != .f16))

/-! Interruption (R163, R164). -/

/-- What is saved of the MMA or MMAS at the PC, when it has been interrupted. -/
def Ctx.mmaSaved (x : Ctx) : MmaSaved :=
  match tabGet x.mma x.th.toNat with
  | some m => if m.pc == x.pc then m else ⟨x.pc, 0, [], []⟩
  | none => ⟨x.pc, 0, [], []⟩
def Ctx.saveMma (x : Ctx) (m : MmaSaved) : Ctx := { x with mma := tabPut x.mma x.th.toNat m }
/-- Groups or blocks that an instruction goes through before a marker takes effect, of those that are left: all of them, unless a dusk has
been asked for; when its marker comes is open, but one at least completes (R163, R172, log entry 49). -/
def State.before (s : State) (left : Nat) : Nat :=
  if (s.core s.cur).asked.isSome then min left (1 + Config.parkAfter s.tick) else left

/-- Groups of the sum of MMA over scratchpad operands (R146). -/
def State.addGroups (s : State) (cols : Cols) (first n : Nat) (a : Nat → Nat → FVal) (b : Nat → Nat → FVal) : State :=
  let c := s.core s.cur
  s.setCore s.cur (c.mapCols cols.first cols.n fun i j =>
    addProducts (fun q => (a i q).mul (b q j)) first n (c.accAt i (cols.first + j)))
/-- MMA and MMAS over scratchpad operands: the groups that are left, or those before a marker, with the next group saved (R146, R163). -/
def State.runMma (s : State) (x : Ctx) (cols : Cols) (k : Nat) (a : Nat → Nat → FVal) (b : Nat → Nat → FVal) : State × Flow :=
  let m := x.mmaSaved
  let left := k / 16 - m.done
  let n := s.before left
  let t := s.addGroups cols m.done n a b
  if n == left then (t, .seq)
  else (t.setCtx { x.saveMma { m with done := m.done + n } with wait := .operand }, .gone)

/-! The channel form (R141, R163, R164). -/

/-- Elements of b bits packed in 32-bit payloads, from bit 0 upward. -/
def unpack (b : Nat) (ws : List (BitVec 32)) : List Nat :=
  ws.flatMap fun w => (List.range (32 / b)).map fun k => w.toNat / 2 ^ (b * k) % 2 ^ b

/-- Where the taking of an operand's words ends: it has them all, its channels run empty, or a token is not DATA. -/
inductive Taken where
  | all | short | wrong
  deriving DecidableEq, Repr

/-- Takes 64-bit words of an operand from its channel pair: the first channel gives the low half (R141). -/
def takeWords (site : Nat) : Nat → Fabric → List (BitVec 32) → Taken × Fabric × List (BitVec 32)
  | 0, f, ws => (.all, f, ws)
  | n + 1, f, ws =>
    match f.head site 0, f.head site 1 with
    | some a, some b =>
      if a.isData && b.isData then takeWords site n ((f.pop site 0).pop site 1) (ws ++ [a.payload, b.payload]) else (.wrong, f, ws)
    | some a, none => (if a.isData then .short else .wrong, f, ws)
    | none, some b => (if b.isData then .short else .wrong, f, ws)
    | none, none => (.short, f, ws)

/-- A token that is not DATA stands at the head of a pair (R164). -/
def Fabric.wrongHead (f : Fabric) (site : Nat) : Bool :=
  (f.head site 0).any (fun t => !t.isData) || (f.head site 1).any fun t => !t.isData

/-- The wait of a channel-form MMA before its next group, with what it has taken saved (R163). -/
def State.mmaPause (s : State) (x : Ctx) (f : Fabric) (m : MmaSaved) : State :=
  (s.setCtx { x.saveMma m with fabric := some f, wait := .operand }).settle s.cur
/-- SHAPE of a channel-form MMA (R164): the groups added stand, their words are gone from the channels, and the words taken for the next
group stay saved (log entry 49). -/
def State.mmaTrap (s : State) (x : Ctx) (f : Fabric) (word : Word) (m : MmaSaved) : State :=
  ((s.consume (s.me x)).takeTrap s.cur { x.saveMma m with issued := x.issued + 1, fabric := some f }
    ⟨.shape, word, 0, some (BitVec.ofNat 64 m.done), 0xFF, 0xF, 0, false, []⟩ word x.pc false).settle s.cur

/-- What a channel-form MMA does in one attempt: it takes what its channels hold, adds each group once whole, at most as many as `fuel`, and
completes, waits or traps. -/
def mmaGroups (cols : Cols) (k : Nat) (ty : Ty) (chA chB : Bool) (a b : Nat → Nat → FVal) (word : Word) :
    Nat → State → Ctx → Fabric → MmaSaved → State × Flow
  | fuel, s, x, f, m =>
    if m.done * 16 == k then ((s.setCtx { x with fabric := some f }).settle s.cur, .seq)
    else match fuel with
    | 0 => (s.mmaPause x f m, .gone)
    | fuel + 1 =>
      let needA := if chA then (16 * 128 * ty.bits / 32 - m.wa.length) / 2 else 0
      let needB := if chB then (16 * cols.n * ty.bits / 32 - m.wb.length) / 2 else 0
      let (ra, f, wa) := takeWords 80 needA f m.wa
      let (rb, f, wb) := takeWords 81 needB f m.wb
      let m := { m with wa := wa, wb := wb }
      -- of a pair that has given all its words of this group, and owes further ones, the head is looked at while the other pair is short
      let ahead := decide ((m.done + 1) * 16 < k) &&
        (chA && rb == .short && ra == .all && f.wrongHead 80 || chB && ra == .short && rb == .all && f.wrongHead 81)
      if ra == .wrong || rb == .wrong || ahead then (s.mmaTrap x f word m, .gone)
      else if ra == .short || rb == .short then (s.mmaPause x f m, .gone)
      else
        let ea := unpack ty.bits wa
        let eb := unpack ty.bits wb
        let va := fun i q => if chA then ty.value ((ea[128 * (q % 16) + i]?).getD 0) else a i q
        let vb := fun q j => if chB then ty.value ((eb[cols.n * (q % 16) + j]?).getD 0) else b q j
        mmaGroups cols k ty chA chB a b word fuel (s.addGroups cols m.done 1 va vb) x f ⟨m.pc, m.done + 1, [], []⟩

/-- MMA (R143 to R146, R164). Checks of registers run SHAPE, ALIGN, PROT (R142); of several operands that fail the same check the trap
reports the first of columns, A and B (DESIGN CHOICE, log entry 32). A pair of which only one channel is wired counts as unwired (DESIGN
CHOICE, log entry 31). -/
def execMma (g : Guard) (d a b c : Reg) (ty : Ty) (bt : Bool) (s : State) : Out :=
  let word := encode (.mma g d a b c ty bt)
  control (.mma g d a b c ty bt) g false s fun s x => do
    let chA := a == 0
    let chB := b == 0
    let cols ← mmaCols word (x.g d)
    let da ← if chA then .ok ⟨0, 0, 0, 0, false, 0⟩ else x.desc word a
    let db ← if chB then .ok ⟨0, 0, 0, 0, false, 0⟩ else x.desc word b
    let k := ((x.g c).extractLsb' 0 32).toNat
    require ((x.g c).extractLsb' 32 32 == 0 && depthOk ty (da.sc || db.sc) false k) .shape word
    let wired := match x.fabric with
      | some f => (!chA || f.wiredIn 80 0 && f.wiredIn 80 1) && (!chB || f.wiredIn 81 0 && f.wiredIn 81 1)
      | none => !chA && !chB
    (if wired then .ok () else .error (.trap ⟨.shape, word, 0, some 0, 0xFF, 0xF, 0, false, []⟩) : Res Unit)
    da.aligned
    db.aligned
    s.claimCols x cols.first cols.n
    if chA then .ok () else claimA x da ty k
    if chB then .ok () else claimB x db ty bt k cols.n
    if chA then .ok () else s.readyA x da ty k
    if chB then .ok () else s.readyB x db ty bt k cols.n
    let m := (s.core s.cur).spad
    let va := fun i q => scaled (da.elem m (aType ty) i q) (da.scaleOf m 32 k i q)
    let vb := fun q j => scaled (bElem db m ty bt q j) (bScale db m ty bt k cols.n q j)
    let run := match x.fabric with
      | some f => if chA || chB then mmaGroups cols k ty chA chB va vb word (s.before (k / 16 - x.mmaSaved.done)) s x f x.mmaSaved
        else s.runMma x cols k va vb
      | none => s.runMma x cols k va vb
    .ok run

/-- The metadata nibble of column j and group g (R147). -/
def nibble (m : Memory) (off k j g : Nat) : Nat :=
  let b := (m.byte (off + j * (k / 8) + g / 2)).toNat
  if g % 2 == 0 then b % 16 else b / 16
/-- The compressed row that dense row r of a column comes from under its nibble, none for +0 (R147). -/
def sourceRow (nib g q : Nat) : Option Nat :=
  if nib / 4 == q then some (2 * g + 1) else if nib % 4 == q then some (2 * g) else none

/-- MMAS (R143, R145, R147): MMA on the dense B′ that the metadata describes. -/
def execMmas (g : Guard) (d a b c : Reg) (ty : Ty) (bt : Bool) (s : State) : Out :=
  let word := encode (.mmas g d a b c ty bt)
  control (.mmas g d a b c ty bt) g false s fun s x => do
    let cols ← mmaCols word (x.g d)
    let da ← x.desc word a
    let db ← x.desc word b
    let k := ((x.g c).extractLsb' 0 32).toNat
    let off := ((x.g c).extractLsb' 32 32).toNat
    require (depthOk ty (da.sc || db.sc) true k) .shape word
    da.aligned
    db.aligned
    offAligned (BitVec.ofNat 64 off)
    s.claimCols x cols.first cols.n
    claimA x da ty k
    claimB x db ty bt (k / 2) cols.n
    claimOff x off (cols.n * (k / 8))
    s.readyA x da ty k
    s.readyB x db ty bt (k / 2) cols.n
    (s.core s.cur).rangePoison off (cols.n * (k / 8))
    let m := (s.core s.cur).spad
    let va := fun i q => scaled (da.elem m (aType ty) i q) (da.scaleOf m 32 k i q)
    let vb := fun q j => match sourceRow (nibble m off k j (q / 4)) (q / 4) (q % 4) with
      | some r => scaled (bElem db m ty bt r j) (bScale db m ty bt (k / 2) cols.n r j)
      | none => .fin false 0 0
    .ok (s.runMma x cols k va vb)

/-! Pruning (R148, R149). -/

/-- Granules that the rows of a tile cover whole lose their poison (R356). -/
def rowsClean (d : Desc) (b rows n : Nat) (p : List Nat) : List Nat :=
  p.filter fun gr => !(List.range rows).any fun i => (List.range (n * b / 128)).any fun q => d.bit b i (q * 128 / b) / 128 == gr

/-- The magnitudes of two elements are in descending order: NaN is largest. -/
def magLt (a b : FVal) : Bool := if b.isNan then !a.isNan else if a.isNan then false else decide (a.abs.cmp b.abs < 0)
/-- The two rows of a group of four that are kept, in ascending order: largest magnitudes, ties to the lower row. -/
def kept (v : Nat → FVal) : Nat × Nat :=
  let best := fun (skip : Option Nat) => (List.range 4).foldl (fun (b : Option Nat) q =>
    if skip == some q then b else match b with | none => some q | some p => if magLt (v p) (v q) then some q else b) none
  let p := (best none).getD 0
  let q := (best (some p)).getD 0
  (min p q, max p q)
/-- Bit fields written one after another: each by its bit address, width and value. -/
def putAll (m : Memory) (l : List (Nat × Nat × Nat)) : Memory := l.foldl (fun m (a, b, v) => putBits m a b v) m
/-- The bit address of element (r, j) of a B operand (R144). -/
def bBit (d : Desc) (ty : Ty) (bt : Bool) (r j : Nat) : Nat := if bt then d.bit ty.bits j r else d.bit ty.bits r j
/-- What PRUNE writes of N columns of depth K, where rows u and v of each group of a column are kept: the compressed elements, and the
metadata nibbles from an offset on (R147, R149). Where compressed rows overlap, or the metadata overlaps them, what stands later in this list
stays: columns in ascending order, then the metadata (DESIGN CHOICE, log entry 50). -/
def pruneWrites (dd : Desc) (ty : Ty) (bt : Bool) (n k off : Nat) (code : Nat → Nat → Nat) (u v : Nat → Nat → Nat) : List (Nat × Nat × Nat) :=
  ((List.range n).flatMap fun j => (List.range (k / 4)).flatMap fun q =>
    [(bBit dd ty bt (2 * q) j, ty.bits, code (4 * q + u j q) j), (bBit dd ty bt (2 * q + 1) j, ty.bits, code (4 * q + v j q) j)]) ++
  (List.range n).flatMap fun j => (List.range (k / 4)).map fun q =>
    (8 * (off + j * (k / 8) + q / 2) + 4 * (q % 2), 4, u j q + 4 * v j q)
def execPrune (g : Guard) (d a b c : Reg) (ty : Ty) (bt : Bool) (s : State) : Out :=
  let word := encode (.prune g d a b c ty bt)
  control (.prune g d a b c ty bt) g false s fun s x => do
    let dd ← x.desc word d
    let da ← x.desc word a
    let n := ((x.g b).extractLsb' 0 8).toNat
    let k := ((x.g c).extractLsb' 0 32).toNat
    let off := ((x.g c).extractLsb' 32 32).toNat
    require (!dd.sc && !da.sc && (x.g b).extractLsb' 8 56 == 0 && 16 ≤ n && n ≤ 128 && n % 16 == 0 && depthOk ty false true k) .shape word
    dd.aligned
    da.aligned
    offAligned (BitVec.ofNat 64 off)
    claimB x da ty bt k n
    dd.claim x ty.bits (if bt then n else k / 2) (if bt then k / 2 else n)
    claimOff x off (n * (k / 8))
    s.readyB x da ty bt k n
    let core := s.core s.cur
    let code := fun r j => bitsAt core.spad (bBit da ty bt r j) ty.bits
    let keep := fun j q => kept fun r => ty.value (code (4 * q + r) j)
    let clean := rowsClean dd ty.bits (if bt then n else k / 2) (if bt then k / 2 else n) core.poison
    .ok (s.setCore s.cur { core with
      spad := putAll core.spad (pruneWrites dd ty bt n k off code (fun j q => (keep j q).1) (fun j q => (keep j q).2))
      poison := clean.filter fun p => !((List.range (n * (k / 8) / 16)).any fun t => p == off / 16 + t) }, .seq)

/-! Zero, load and store (R150, R151). -/

def execMzero (g : Guard) (d : Reg) (s : State) : Out :=
  let word := encode (.mzero g d)
  control (.mzero g d) g false s fun s x => do
    let cols ← colRange word (x.g d)
    s.claimCols x cols.first cols.n
    .ok (s.setCore s.cur ((s.core s.cur).mapCols cols.first cols.n fun _ _ => 0), .seq)

/-- An FP32 result of a load (R115, R118, R151). R151 calls the transfer of an .f32 element a conversion too, so that a NaN becomes the
canonical one; R111 and R156 show that a move would keep it (DEDUCED, log entry 50). -/
def loadF32 (rnd : Rnd) (draw : Nat) (v : FVal) : BitVec 32 := f32Round rnd draw false v
def execMld (g : Guard) (d a : Reg) (ty : Ty) (rnd : Rnd) (s : State) : Out :=
  let word := encode (.mld g d a ty rnd)
  control (.mld g d a ty rnd) g false s fun s x => do
    let cols ← colRange word (x.g d)
    let da ← x.desc word a
    let n := cols.n
    require (!(da.sc && (ty == .s8 || ty == .s32)) && (!da.sc || n % 32 == 0) && (ty != .e2m1 || n % 2 == 0)) .shape word
    da.aligned
    s.claimCols x cols.first n
    da.claim x ty.bits 128 n
    if da.sc then claimOff x da.scale (128 * (n / 32)) else .ok ()
    let c := s.core s.cur
    await (c.spadReady 0 x.spadBytes) .claim
    c.tilePoison da ty.bits 128 n
    if da.sc then c.rangePoison da.scale (128 * (n / 32)) else .ok ()
    let m := c.spad
    let val := fun i j => loadF32 rnd (x.drawFor rnd (i * n + j)) (scaled (da.elem m ty i j) (da.scaleOf m 32 n i j))
    let t := s.setCore s.cur (c.mapCols cols.first n val)
    .ok (t.setCtx (x.drawn rnd (128 * n)), .seq)

/-- A scratchpad with every element of a tile of 128 rows written (R137, R151): where pitches make rows overlap, the element that comes
last in ascending row, then ascending column, stays (DESIGN CHOICE, log entry 50). -/
def putTile (d : Desc) (b n : Nat) (f : Nat → Nat → Nat) (m : Memory) : Memory :=
  (List.range 128).foldl (fun m i => (List.range n).foldl (fun m j => putBits m (d.bit b i j) b (f i j)) m) m
/-- The same of a tile of 128 rows. -/
def tileClean (d : Desc) (b n : Nat) (p : List Nat) : List Nat := rowsClean d b 128 n p
def execMst (g : Guard) (d a : Reg) (ty : Ty) (rnd : Rnd) (sat : Bool) (s : State) : Out :=
  let word := encode (.mst g d a ty rnd sat)
  control (.mst g d a ty rnd sat) g false s fun s x => do
    let dd ← x.desc word d
    let cols ← colRange word (x.g a)
    let n := cols.n
    require (!dd.sc && (ty != .e2m1 || n % 2 == 0)) .shape word
    dd.aligned
    s.claimCols x cols.first n
    dd.claim x ty.bits 128 n
    let c := s.core s.cur
    await (c.spadReady 0 x.spadBytes) .claim
    let code := fun i j => ty.narrow rnd (x.drawFor rnd (i * n + j)) sat (F32.val (c.accAt i (cols.first + j)))
    let c' := { c with spad := putTile dd ty.bits n code c.spad, poison := tileClean dd ty.bits n c.poison }
    .ok ((s.setCore s.cur c').setCtx (x.drawn rnd (128 * n)), .seq)

end Sys2Proof.Machine
end

