-- ==== Sys2Proof/Machine/AccVec.lean ====
section
/-! DEFINITION. Accumulator vectors: element-wise operations, reductions along columns, broadcasts, conversion to microscaled
types, and the random stream (R152 to R160). -/

namespace Sys2Proof.Machine

/-- A range with the count a rule gives it (R153). -/
def rangeOf (word w : Word) (n : Nat) : Res Cols := do
  let c ← colRange word w
  require (c.n == n) .shape word
  .ok c

/-- The second operand of a two-operand vector instruction (R152): a range, one column for every column, or one value. -/
def operandB (x : Ctx) (word : Word) (b : Reg) (form : OpForm) (n : Nat) : Res (Option Cols) :=
  match form with
  | .range => (rangeOf word (x.g b) n).map some
  | .bc => (rangeOf word (x.g b) 1).map some
  | .sc => do
    require ((x.g b).extractLsb' 32 32 == 0) .shape word
    .ok none

/-- The value of the second operand at a place. -/
def Core.operandAt (c : Core) (x : Ctx) (b : Reg) (form : OpForm) (cols : Option Cols) (i j : Nat) : F32 :=
  match cols with
  | some r => c.accAt i (r.first + (if form == .bc then 0 else j))
  | none => (x.g b).extractLsb' 0 32

/-- An element-wise instruction of one operand (R152, R154): SHAPE, then PROT, then every element from the old store. -/
def vector1 (i : Instr) (g : Guard) (d a : Reg) (s : State) (f : F32 → F32) : Out :=
  control i g false s fun s x => do
    let dc ← colRange (encode i) (x.g d)
    let ac ← rangeOf (encode i) (x.g a) dc.n
    s.claimCols x dc.first dc.n
    s.claimCols x ac.first ac.n
    let c := s.core s.cur
    .ok (s.setCore s.cur (c.mapCols dc.first dc.n fun r j => f (c.accAt r (ac.first + j))), .seq)

/-- An element-wise instruction of two operands and, for AFMA, an addend; f is given the draw of the element (R152, R154, R158). -/
def vector2 (i : Instr) (g : Guard) (d a b : Reg) (third : Option Reg) (form : OpForm) (rnd : Rnd) (s : State)
    (f : Nat → F32 → F32 → F32 → F32) : Out :=
  control i g false s fun s x => do
    let word := encode i
    let dc ← colRange word (x.g d)
    let n := dc.n
    let ac ← rangeOf word (x.g a) n
    let bc ← operandB x word b form n
    let cc ← (match third with | some r => rangeOf word (x.g r) n | none => .ok ac)
    s.claimCols x dc.first n
    s.claimCols x ac.first n
    (match bc with | some r => s.claimCols x r.first r.n | none => .ok () : Res Unit)
    s.claimCols x cc.first n
    let c := s.core s.cur
    let t := s.setCore s.cur (c.mapCols dc.first n fun r j =>
      f (x.drawFor rnd (r * n + j)) (c.accAt r (ac.first + j)) (c.operandAt x b form bc r j) (c.accAt r (cc.first + j)))
    .ok (t.setCtx (x.drawn rnd (128 * n)), .seq)

def execAadd (g : Guard) (d a b : Reg) (form : OpForm) (rnd : Rnd) (sat : Bool) (s : State) : Out :=
  vector2 (.aadd g d a b form rnd sat) g d a b none form rnd s fun w p q _ => f32Round rnd w sat (p.val.add q.val)
def execAmul (g : Guard) (d a b : Reg) (form : OpForm) (rnd : Rnd) (sat : Bool) (s : State) : Out :=
  vector2 (.amul g d a b form rnd sat) g d a b none form rnd s fun w p q _ => f32Round rnd w sat (p.val.mul q.val)
def execAfma (g : Guard) (d a b c : Reg) (form : OpForm) (rnd : Rnd) (sat : Bool) (s : State) : Out :=
  vector2 (.afma g d a b c form rnd sat) g d a b (some c) form rnd s fun w p q r => f32Round rnd w sat ((p.val.mul q.val).add r.val)
def execAmax (g : Guard) (d a b : Reg) (form : OpForm) (s : State) : Out :=
  vector2 (.amax g d a b form) g d a b none form .rne s fun _ p q _ => f32Max p q
def execAmin (g : Guard) (d a b : Reg) (form : OpForm) (s : State) : Out :=
  vector2 (.amin g d a b form) g d a b none form .rne s fun _ p q _ => f32Min p q

/-! Primitives and compositions, each with .sat of its result (R125, R126, R152). -/

def execAexp2 (g : Guard) (d a : Reg) (sat : Bool) (s : State) : Out :=
  vector1 (.aexp2 g d a sat) g d a s fun v => f32Sat sat (f32Exp2 v)
def execAlog2 (g : Guard) (d a : Reg) (sat : Bool) (s : State) : Out :=
  vector1 (.alog2 g d a sat) g d a s fun v => f32Sat sat (f32Log2 v)
def execArcp (g : Guard) (d a : Reg) (sat : Bool) (s : State) : Out :=
  vector1 (.arcp g d a sat) g d a s fun v => f32Sat sat (f32Rcp v)
def execArsq (g : Guard) (d a : Reg) (sat : Bool) (s : State) : Out :=
  vector1 (.arsq g d a sat) g d a s fun v => f32Sat sat (f32Rsqrt v)
def execAsig (g : Guard) (d a : Reg) (sat : Bool) (s : State) : Out :=
  vector1 (.asig g d a sat) g d a s fun v => f32Sat sat (f32Sig v)
def execAsigTanh (g : Guard) (d a : Reg) (sat : Bool) (s : State) : Out :=
  vector1 (.asigTanh g d a sat) g d a s fun v => f32Sat sat (f32Tanh v)
def execAsigSilu (g : Guard) (d a : Reg) (sat : Bool) (s : State) : Out :=
  vector1 (.asigSilu g d a sat) g d a s fun v => f32Sat sat (f32Silu v)
def execAsigExpe (g : Guard) (d a : Reg) (sat : Bool) (s : State) : Out :=
  vector1 (.asigExpe g d a sat) g d a s fun v => f32Sat sat (f32Expe v)

/-- AMOV copies bits (R152). -/
def execAmov (g : Guard) (d a : Reg) (s : State) : Out := vector1 (.amov g d a) g d a s fun v => v

/-! Reductions (R155). -/

/-- ARED over a range of n columns: `step` takes the draw of the addition, `one` the single column of a range of one, and `last`
what stands in the destination. -/
def reduceCols (i : Instr) (g : Guard) (d a : Reg) (rnd : Rnd) (s : State) (step : Nat → F32 → F32 → F32) (one last : F32 → F32) : Out :=
  control i g false s fun s x => do
    let word := encode i
    let dc ← rangeOf word (x.g d) 1
    let ac ← colRange word (x.g a)
    s.claimCols x dc.first 1
    s.claimCols x ac.first ac.n
    let c := s.core s.cur
    let m := ac.n - 1
    let row := fun r =>
      if m == 0 then one (c.accAt r ac.first)
      else last ((List.range m).foldl (fun v k => step (x.drawFor rnd (r * m + k)) v (c.accAt r (ac.first + k + 1))) (c.accAt r ac.first))
    .ok ((s.setCore s.cur (c.mapCols dc.first 1 fun r _ => row r)).setCtx (x.drawn rnd (128 * m)), .seq)

/-- A single column under .sum: its bits, or the largest finite value for an infinity under .sat. -/
def satBits (sat : Bool) (v : F32) : F32 := if v.val.isNan then v else f32Sat sat v
def execAredSum (g : Guard) (d a : Reg) (rnd : Rnd) (sat : Bool) (s : State) : Out :=
  reduceCols (.aredSum g d a rnd sat) g d a rnd s (fun w u v => f32Round rnd w false (u.val.add v.val)) (satBits sat) (f32Sat sat)
def execAredMax (g : Guard) (d a : Reg) (s : State) : Out :=
  reduceCols (.aredMax g d a) g d a .rne s (fun _ => f32Max) (fun v => f32 v.val) id
def execAredMin (g : Guard) (d a : Reg) (s : State) : Out :=
  reduceCols (.aredMin g d a) g d a .rne s (fun _ => f32Min) (fun v => f32 v.val) id

/-! Broadcasts (R156). -/

def execAbcast (g : Guard) (d a : Reg) (s : State) : Out :=
  control (.abcast g d a) g false s fun s x => do
    let word := encode (.abcast g d a)
    let dc ← colRange word (x.g d)
    let ac ← rangeOf word (x.g a) 1
    s.claimCols x dc.first dc.n
    s.claimCols x ac.first 1
    let c := s.core s.cur
    .ok (s.setCore s.cur (c.mapCols dc.first dc.n fun r _ => c.accAt r ac.first), .seq)

/-- A value as FP32: .f32 moves its bits, the others convert (R156). -/
def asF32 (ty : Ty) (bits : Nat) : F32 := if ty == .f32 then BitVec.ofNat 32 bits else f32 (ty.value bits)
/-- ABCAST of values in the scratchpad: `which` picks the value of row i and column j, out of `count` of the destination. -/
def spreadSpad (i : Instr) (g : Guard) (d a : Reg) (ty : Ty) (s : State) (count : Nat → Nat) (which : Nat → Nat → Nat) : Out :=
  control i g false s fun s x => do
    let word := encode i
    let dc ← colRange word (x.g d)
    let o := ((x.g a).extractLsb' 0 32).toNat
    require ((x.g a).extractLsb' 32 32 == 0) .shape word
    offAligned (BitVec.ofNat 64 o)
    s.claimCols x dc.first dc.n
    let len := count dc.n * ty.bytes
    claimOff x o len
    let c := s.core s.cur
    await (c.spadReady o len) .claim
    c.rangePoison o len
    .ok (s.setCore s.cur (c.mapCols dc.first dc.n fun r j => asF32 ty (leNat (Memory.bytes c.spad (o + which r j * ty.bytes) ty.bytes))), .seq)
def execAbcastRow (g : Guard) (d a : Reg) (ty : Ty) (s : State) : Out :=
  spreadSpad (.abcastRow g d a ty) g d a ty s (fun _ => 128) fun r _ => r
def execAbcastColv (g : Guard) (d a : Reg) (ty : Ty) (s : State) : Out :=
  spreadSpad (.abcastColv g d a ty) g d a ty s id fun _ j => j

/-! Conversion (R157). -/

/-- ACVT with groups of `grp n` columns that share a scale (R120, R157). -/
def convertTile (i : Instr) (g : Guard) (d a b : Reg) (ty : Ty) (rnd : Rnd) (sat : Bool) (b32 : Bool) (s : State) : Out :=
  control i g false s fun s x => do
    let word := encode i
    let dd ← x.desc word d
    let ac ← colRange word (x.g a)
    let n := ac.n
    let o := ((x.g b).extractLsb' 0 32).toNat
    require (!dd.sc && (x.g b).extractLsb' 32 32 == 0 && (!b32 || n % 32 == 0) && (ty != .e2m1 || n % 2 == 0)) .shape word
    dd.aligned
    offAligned (BitVec.ofNat 64 o)
    s.claimCols x ac.first n
    dd.claim x ty.bits 128 n
    let grp := if b32 then 32 else n
    let per := n / grp
    claimOff x o (128 * per)
    let c := s.core s.cur
    await (c.spadReady 0 x.spadBytes) .claim
    let val := fun r j => F32.val (c.accAt r (ac.first + j))
    let scale := fun r k => groupScale ty ((List.range grp).map fun j => val r (k * grp + j))
    let code := fun r j => match scale r (j / grp) with
      | none => 0
      | some e => ty.narrow rnd (x.drawFor rnd (r * n + j)) sat ((val r j).scale (-e))
    let bytes := (List.range 128).flatMap fun r => (List.range per).map fun k => match scale r k with
      | none => (0xFF : Byte)
      | some e => BitVec.ofInt 8 (e + 127)
    let c' := { c with spad := putTile dd ty.bits n code c.spad, poison := tileClean dd ty.bits n c.poison }
    .ok ((s.setCore s.cur (c'.putSpad o bytes)).setCtx (x.drawn rnd (128 * n)), .seq)
def execAcvt (g : Guard) (d a b : Reg) (ty : Ty) (rnd : Rnd) (sat : Bool) (s : State) : Out :=
  convertTile (.acvt g d a b ty rnd sat) g d a b ty rnd sat false s
def execAcvtB32 (g : Guard) (d a b : Reg) (ty : Ty) (rnd : Rnd) (sat : Bool) (s : State) : Out :=
  convertTile (.acvtB32 g d a b ty rnd sat) g d a b ty rnd sat true s

/-! The random stream (R159, R160). -/

def execRngld (g : Guard) (a b : Reg) (s : State) : Out :=
  simple (.rngld g a b) g s fun x => { x with rngKey := x.g a, rngCtr := x.g (pairHi b) ++ x.g b }
def execRngst (g : Guard) (d b : Reg) (s : State) : Out :=
  simple (.rngst g d b) g s fun x =>
    ((x.setG d x.rngKey).setG b (x.rngCtr.extractLsb' 0 64)).setG (pairHi b) (x.rngCtr.extractLsb' 64 64)
def execRand (g : Guard) (d : Reg) (s : State) : Out :=
  simple (.rand g d) g s fun x => { x.setG d ((philox x.rngKey x.rngCtr).extractLsb' 0 64) with rngCtr := x.rngCtr + 1 }

end Sys2Proof.Machine
end

