-- ==== Sys2Proof/Machine/Atomic.lean ====
section
/-! DEFINITION. What synchronisation rests on: scopes at which accesses are performed (R331, R332), a task's scratchpad wherever it
stands (R39), reductions (R338, R339, R360), and transaction barriers (R349 to R351). -/

namespace Sys2Proof.Machine

/-- The wider of two scopes (R332). -/
def widerScope (a b : Scope) : Scope := if a.code.toNat < b.code.toNat then b else a

/-! The scratchpad of a task in either set (R16, R39). -/

/-- A part of a parked task's claim that has not been streamed out (R39, log entry 29). -/
def Core.parkedReady (c : Core) (y : Ctx) (o n : Nat) : Bool :=
  y.residence == .resident ||
  (match c.day with | some x => decide (o + n ≤ spadSize - x.spadBytes) | none => true)

/-- Bytes of a task's scratchpad. A granule of a parked task that has been streamed out is read where the save area keeps it, and one
that is on its way waits until it is saved: R356 makes writes wait and is silent on reads (log entry 29). -/
def State.taskRead (s : State) (n id : Nat) (o : Word) (len : Nat) : Res (List Byte) :=
  match (s.core n).find id with
  | some (true, x) => s.readSpad n x o len
  | some (false, y) => do
    claimSpad y o len
    await (y.residence == .out || (s.core n).parkedReady y o.toNat len) .claim
    match y.parts with
    | some q => do
      require (!({ Core.idle with poison := q.poison }).spadPoisoned o.toNat len) .poison o
      .ok (Memory.bytes q.spad o.toNat len)
    | none => .error (.wait .claim)
  | none => trapWith .prot o
/-- Bytes written to a task's scratchpad; a clean write clears the poison of granules it covers whole (R356). -/
def State.taskWrite (s : State) (n id : Nat) (o : Word) (bs : List Byte) : Res State :=
  match (s.core n).find id with
  | some (true, x) => s.writeSpad n x o bs
  | some (false, y) => do
    claimSpad y o bs.length
    await ((s.core n).parkedReady y o.toNat bs.length) .claim
    match y.parts with
    | some q =>
      let c := { Core.idle with spad := q.spad, poison := q.poison }.putSpad o.toNat bs
      .ok (s.setNight n (some { y with parts := some { q with spad := c.spad, poison := c.poison } }))
    | none => .error (.wait .claim)
  | none => trapWith .prot o
/-- The full-empty bits of a task's granules (R341). -/
def State.taskFull (s : State) (n id : Nat) : List Nat :=
  match (s.core n).find id with
  | some (true, _) => (s.core n).full
  | some (false, y) => match y.parts with | some q => q.full | none => []
  | none => []
def State.setTaskFull (s : State) (n id : Nat) (l : List Nat) : State :=
  match (s.core n).find id with
  | some (true, _) => s.setCore n { s.core n with full := l }
  | some (false, y) => s.setNight n (some { y with parts := y.parts.map fun q => { q with full := l } })
  | none => s
/-- Poison of a task's granules set (R356). -/
def State.poisonTask (s : State) (n id : Nat) (o len : Nat) : State :=
  let add := fun (p : List Nat) => (List.range ((len + 15) / 16)).foldl (fun p k => setAdd p (o / 16 + k)) p
  match (s.core n).find id with
  | some (true, _) => s.setCore n { s.core n with poison := add (s.core n).poison }
  | some (false, y) => s.setNight n (some { y with parts := y.parts.map fun q => { q with poison := add q.poison } })
  | none => s

/-! Reductions. -/

/-- A reduction gathered into the update-only copy of a core (R338, R339): copies of another operation or type are recalled first.
It takes the agent's clock as its timestamp, which the registration of a new copy brings above every earlier access of the line; a later
agent of the core joins the copy at no earlier timestamp than its registration. View lines whose fill read the bytes are invalidated at the
reduction's timestamp, which comes after their reads (R133). -/
def State.gather (s : State) (ag : Agent) (pa : Nat) (op : AmoOp) (dbl : Bool) (v : Word) : State :=
  let line := lineOf pa
  let off := pa % 128
  let others := (tabGet s.updates line).getD []
  let t := if others.any (fun (_, u) => u.op != op || u.dbl != dbl) then s.recall line else s
  let us := (tabGet t.updates line).getD []
  let (w, r) := t.lineTs line
  let u := (tabGet us ag.core).getD ⟨op, dbl, r + 1, []⟩
  let views := t.viewsOf pa (if dbl then 8 else 4)
  let ts := views.foldl (fun m k => max m ((t.lineTs k).2 + 1)) (max (t.clock ag) u.since)
  let old := (tabGet u.partials off).getD (op.identity dbl)
  let u' := { u with since := ts, partials := tabPut u.partials off (op.apply dbl old v) }
  let t := { t with
    updates := tabPut t.updates line (tabPut us ag.core u')
    clocks := tabPut t.clocks ag.num ts
    lines := views.foldl (fun l k => tabPut l k (ts, ts)) (tabPut t.lines line (max w ts, max r ts))
    viewLines := t.viewLines.filter fun v => !views.contains v.line }
  t.bumpGen pa

/-- A reduction on global memory (R360): into an update-only copy where R338 allows it and the scope is below .fab (log entry 7),
else at the home, at one timestamp. -/
def State.reduceVia (s : State) (ag : Agent) (va : Word) (op : AmoOp) (dbl : Bool) (v : Word) (sc : Scope) (w : Walk) : Res State := do
  let n := if dbl then 8 else 4
  require (s.region w.pa != .host) .sync va
  let (t, w) ← (s.stampWalk ag w).forWrite ag va n .atomic w
  let t ← t.purity ag va n true
  match t.region w.pa with
  | .hbm => do
    require (!t.rangePoisoned w.pa n) .poison va
    t.hostFree w.pa
    let t :=
      if op.gathers dbl && sc != .fab && sc != .sys && decide (ag.core < Config.cores) then t.gather ag w.pa op dbl v
      else
        let t := t.recall (lineOf w.pa)
        t.writeHbm ag w.pa (natLe n (op.apply dbl (leWord (Memory.bytes t.mem w.pa n)) v).toNat)
    .ok (((t.countHot ag w).noteHeld ag va w).notePatch ag w.pa n)
  | .aperture _ => t.postRemote ag va w.pa (.reduce op dbl false) (natLe n v.toNat)
  | .view | .host | .none => trapWith .page va 2
def State.reduce (s : State) (ag : Agent) (va : Word) (op : AmoOp) (dbl : Bool) (v : Word) (sc : Scope) : Res State := do
  let w ← s.translate ag va .atomic
  s.reduceVia ag va op dbl v sc w

/-! Transaction barriers. -/

/-- The fields of a barrier object (R349). -/
structure Bar where
  live : Bool
  gm : Bool
  owner : BitVec 13
  ps : Int
  ea : Nat
  pa : Nat
  phase : Nat
  deriving DecidableEq, Repr

def Bar.ofBits (b : BitVec 128) : Bar where
  live := b.getLsbD 110
  gm := b.getLsbD 109
  owner := b.extractLsb' 96 13
  ps := (b.extractLsb' 48 48).toInt
  ea := (b.extractLsb' 28 20).toNat
  pa := (b.extractLsb' 8 20).toNat
  phase := (b.extractLsb' 0 4).toNat
def Bar.toBits (b : Bar) : BitVec 128 :=
  (0 : BitVec 17) ++ BitVec.ofBool b.live ++ BitVec.ofBool b.gm ++ b.owner ++ BitVec.ofInt 48 b.ps ++ BitVec.ofNat 20 b.ea ++
  BitVec.ofNat 20 b.pa ++ (0 : BitVec 4) ++ BitVec.ofNat 4 b.phase
def Bar.ofBytes (bs : List Byte) : Bar := Bar.ofBits (BitVec.ofNat 128 (leNat bs))
def Bar.bytes (b : Bar) : List Byte := natLe 16 b.toBits.toNat

/-- UPDATE(da, ds) of R351, and whether the phase advances: none when a count would leave its range. -/
def Bar.update (b : Bar) (da : Nat) (ds : Int) : Option (Bar × Bool) :=
  let ps := b.ps + ds
  if b.pa < da || ps < -(2 ^ 47) || 2 ^ 47 - 1 < ps then none
  else
    let pa := b.pa - da
    if pa == 0 && ps == 0 then some ({ b with pa := b.ea, ps := 0, phase := (b.phase + 1) % 16 }, true)
    else some ({ b with pa := pa, ps := ps }, false)

/-- The checks of R350 on the object: LIVE, OWNER and GM. -/
def Bar.okFor (b : Bar) (asid : BitVec 13) (gm : Bool) : Bool := b.live && b.owner == asid && b.gm == gm

/-- The place of a barrier: 16-byte alignment, then for a global one its translation, permission and region (R350, R352). -/
def State.barWalk (s : State) (ag : Agent) (addr : Word) (write : Bool) : Res Walk := do
  let w ← s.walk ag addr
  w.refusing do
    require (entryR w.leaf && (!write || entryW w.leaf)) .prot addr (if write then 1 else 0)
    require (s.region w.pa == .hbm) .sync addr
  .ok w

/-- The barrier object as it stands. -/
def State.barRead (s : State) (n : Nat) (ag : Agent) (r : BarRef) : Res (State × Bar) := do
  require (r.addr.toNat % 16 == 0) .align r.addr
  if r.gm then do
    let w ← s.barWalk ag r.addr false
    let (t, bs) ← s.loadVia ag r.addr 16 w
    .ok (t, Bar.ofBytes bs)
  else do
    let bs ← s.taskRead n ag.task r.addr 16
    .ok (s, Bar.ofBytes bs)
/-- The barrier object written whole. -/
def State.barWrite (s : State) (n : Nat) (ag : Agent) (r : BarRef) (b : Bar) : Res State := do
  require (r.addr.toNat % 16 == 0) .align r.addr
  if r.gm then do
    let w ← s.barWalk ag r.addr true
    s.storeVia ag r.addr b.bytes w
  else s.taskWrite n ag.task r.addr b.bytes
/-- A barrier that passes the checks of R350. -/
def State.barChecked (s : State) (n : Nat) (ag : Agent) (r : BarRef) : Res (State × Bar) := do
  let (t, b) ← s.barRead n ag r
  require (b.okFor ag.asid r.gm) .sync r.addr
  .ok (t, b)
/-- The object through which the release of an update to a barrier is observed (R333). -/
def State.barObj (s : State) (ag : Agent) (r : BarRef) : SyncObj :=
  if r.gm then (match s.walk ag r.addr with | .ok w => .barGm w.pa | .error _ => .bar ag.task r.addr.toNat)
  else .bar ag.task r.addr.toNat
/-- An update at the barrier's home (R351), a read-modify-write at one timestamp for a global one; an arrival or a countdown is a release
(R333), and an advance of a scratchpad barrier sets EV for the task whose claim holds it (R101, R353). -/
def State.barUpdate (s : State) (n : Nat) (ag : Agent) (r : BarRef) (da : Nat) (ds : Int) : Res State := do
  require (r.addr.toNat % 16 == 0) .align r.addr
  let obj := s.barObj ag r
  let done := fun (t : State) => if da != 0 || decide (ds < 0) then t.releaseAt ag obj else t
  if r.gm then do
    let w ← s.barWalk ag r.addr true
    let (t, bs) ← s.updateVia ag r.addr 16 .load [] (fun bs =>
      match (Bar.ofBytes bs).update da ds with | some (b, _) => b.bytes | none => bs) w
    let b := Bar.ofBytes bs
    require (b.okFor ag.asid true && (b.update da ds).isSome) .sync r.addr
    .ok (done t)
  else do
    let (t, b) ← s.barChecked n ag r
    match b.update da ds with
    | none => trapWith .sync r.addr
    | some (b', adv) => do
      let t ← t.barWrite n ag r b'
      .ok (done (if adv then t.setTaskEv n ag.task else t))

end Sys2Proof.Machine
end

