-- ==== Sys2Proof/Machine/Kv.lean ====
section
/-! DEFINITION. The KV engine of a die: frame table, map slabs, sequences, relocation, compaction and the prefix index (R200 to R203,
R210 to R223, R227, R248 to R250, R477). -/

namespace Sys2Proof.Machine

def State.kv (s : State) (die : Nat) : Kv := (s.kvs[die % 4]?).getD Kv.reset
def State.setKv (s : State) (die : Nat) (k : Kv) : State := { s with kvs := s.kvs.setIfInBounds (die % 4) k }
/-- The agent of a die's KV engine (R325). -/
def kvAgent (die : Nat) : Agent := dieAgent die 0 0
/-- The agent of a die's compaction engine and its copier (R218, R249, R325). -/
def compactor (die : Nat) : Agent := dieAgent die 1 0

/-! Physical access by an engine. -/

/-- HBM bytes as a reader finds them, update-only copies recalled (R339). -/
def State.seen (s : State) (pa n : Nat) : List Byte :=
  let t := (linesOf pa n).foldl (fun t k => State.recall t k) s
  Memory.bytes t.mem pa n
/-- HBM bytes written by an engine, sector by sector. -/
def writeRange (ag : Agent) : Nat → State → Nat → List Byte → State
  | 0, s, _, _ => s
  | fuel + 1, s, pa, bs =>
    if bs.isEmpty then s
    else
      let k := min bs.length (32 - pa % 32)
      writeRange ag fuel (s.writeHbm ag pa (bs.take k)) (pa + k) (bs.drop k)
/-- A write within an operation of State.atOnce, which sees to migrations, duplications and the timestamp. -/
def State.writeEngine (s : State) (ag : Agent) (pa : Nat) (bs : List Byte) : State := writeRange ag (bs.length + 1) s pa bs
/-- Sectors of a range marked poisoned (R356). -/
def State.poisonRange (s : State) (pa n : Nat) : State :=
  let ks := List.range (if n == 0 then 0 else sectorOf (pa + n - 1) - sectorOf pa + 1)
  ks.foldl (fun t k => t.addPoison (sectorOf pa + k)) s

/-! The frame table (R212). -/

/-- An entry of the frame table. -/
structure Frame where
  count : Nat
  fill : Nat
  px : Bool
  psn : Bool
  base : Nat
  deriving DecidableEq, Repr

def Frame.ofWord (w : Word) : Frame :=
  ⟨(w.extractLsb' 48 16).toNat, (w.extractLsb' 43 5).toNat, w.getLsbD 42, w.getLsbD 41, (w.extractLsb' 0 40).toNat * 256⟩
def Frame.word (f : Frame) : Word :=
  BitVec.ofNat 64 (f.count * 2 ^ 48 + f.fill % 32 * 2 ^ 43 + f.px.toNat * 2 ^ 42 + f.psn.toNat * 2 ^ 41 + f.base / 256 % 2 ^ 40)

def Kv.ftAddr (k : Kv) (f : Nat) : Nat := k.ftBase.toNat + 8 * f
def State.frameWord (s : State) (die f : Nat) : Word := leWord (s.seen ((s.kv die).ftAddr f) 8)
def State.frame (s : State) (die f : Nat) : Frame := Frame.ofWord (s.frameWord die f)
def State.setFrame (s : State) (die f : Nat) (e : Frame) (ag : Agent := kvAgent die) : State :=
  s.writeEngine ag ((s.kv die).ftAddr f) (natLe 8 e.word.toNat)
/-- COUNT changed; a frame that returns to the free list loses PX and PSN (R215). -/
def State.addCount (s : State) (die f : Nat) : State := let e := s.frame die f; s.setFrame die f { e with count := e.count + 1 }
def State.subCount (s : State) (die f : Nat) (ag : Agent := kvAgent die) : State :=
  let e := s.frame die f
  s.setFrame die f (if e.count ≤ 1 then { e with count := 0, px := false, psn := false } else { e with count := e.count - 1 }) ag
/-- An entry of the frame table that an operation reads takes POISON when its sector is poisoned (R356). -/
def State.frameOk (s : State) (die f : Nat) : Res Unit :=
  let a := (s.kv die).ftAddr f
  require (!s.sectorPoisoned a) .poison (BitVec.ofNat 64 a)
/-- A task present on a core still has the pass: one that goes on elsewhere, or has ended, has left it (R208). -/
def State.passLives (s : State) (pass : Nat) : Bool :=
  s.cores.any fun (_, c) => (c.day.toList ++ c.night.toList).any fun x => x.attn.any fun (_, p) => p.id == pass
/-- A pass that has not ended holds a reference on a frame (R208). -/
def State.frameHeld (s : State) (die f : Nat) : Bool := (s.kv die).holds.any fun (p, h) => h == f && s.passLives p
/-- Free frames, in ascending order: those at COUNT 0 that no pass holds (R208, R227). A frame whose entry is written poisoned does not count
as free (log entry 33). -/
def State.freeFrames (s : State) (die : Nat) : List Nat :=
  (List.range (s.kv die).ftLen.toNat).filter fun f =>
    (s.frame die f).count == 0 && !s.sectorPoisoned ((s.kv die).ftAddr f) && !s.frameHeld die f
/-- A pass has ended: the home drops its references (R208). -/
def State.dropHolds (s : State) (die pass : Nat) : State :=
  let k := s.kv die
  s.setKv die { k with holds := k.holds.filter fun (p, _) => p != pass }

/-! Slabs (R213, R248, R249). -/

/-- The slab store begins behind the frame table, on 64 KB (R248). -/
def Kv.storeBase (k : Kv) : Nat := (k.ftBase.toNat + 8 * k.ftLen.toNat + 65535) / 65536 * 65536
/-- The lowest place of the store that is free for 2^l entries (R248, log entry 33). -/
def Kv.findSlab (k : Kv) (l : Nat) : Option Nat :=
  let n := 2 ^ l
  let cap := 4 * k.ftLen.toNat
  let places := 0 :: k.slabs.map fun (o, j) => (o + 2 ^ j + n - 1) / n * n
  let fits := places.filter fun o => decide (o + n ≤ cap) && k.slabs.all fun (a, j) => decide (o + n ≤ a) || decide (a + 2 ^ j ≤ o)
  match fits with
  | [] => none
  | o :: r => some (r.foldl min o)
/-- The base-2 logarithm of the least power of two not below n. -/
def ceilLog (n : Nat) : Nat := if n ≤ 1 then 0 else bitLen (n - 1)

/-- Where entry n of a sequence's map stands; none beyond the slab (R249). -/
def Sequence.place (q : Sequence) (n : Nat) : Option Nat :=
  match q.reloc with
  | none => if n < 2 ^ q.slabLog then some (q.slab + n) else none
  | some (ob, ol, p) =>
    if n < p || 2 ^ ol ≤ n then (if n < 2 ^ q.slabLog then some (q.slab + n) else none) else some (ob + n)
def Kv.entryAddr (k : Kv) (place : Nat) : Nat := k.storeBase + 8 * place
/-- A map entry (R213): POISON when it stands in a poisoned sector (R250), with its address. -/
def State.mapEntry (s : State) (die : Nat) (q : Sequence) (n : Nat) : Res Word :=
  match q.place n with
  | none => .ok 0
  | some p =>
    let a := (s.kv die).entryAddr p
    if s.sectorPoisoned a then trapWith .poison (BitVec.ofNat 64 a) else .ok (leWord (s.seen a 8))
def State.setMapEntry (s : State) (die : Nat) (q : Sequence) (n : Nat) (w : Word) (ag : Agent := kvAgent die) : State :=
  match q.place n with
  | none => s
  | some p => s.writeEngine ag ((s.kv die).entryAddr p) (natLe 8 w.toNat)
def frameOf (e : Word) : Nat := (e.extractLsb' 32 24).toNat
def entryOf (f : Nat) : Word := BitVec.ofNat 64 (2 ^ 63 + f % 2 ^ 24 * 2 ^ 32)
def entryLive (e : Word) : Bool := e.getLsbD 63

/-! Sequences (R202, R210, R211, R214). -/

def Sequence.heads (q : Sequence) : Nat := (q.desc[0].extractLsb' 0 16).toNat
def Sequence.dim (q : Sequence) : Nat := (q.desc[0].extractLsb' 16 16).toNat
def Sequence.tyCode (q : Sequence) : BitVec 5 := q.desc[0].extractLsb' 32 5
def Sequence.ty (q : Sequence) : Ty := (Ty.ofCode q.tyCode).getD .f16
def Sequence.groups (q : Sequence) : Nat := (q.desc[0].extractLsb' 40 16).toNat
def Sequence.headStride (q : Sequence) : Nat := (q.desc[1].extractLsb' 0 32).toNat
def Sequence.tensorStride (q : Sequence) : Nat := (q.desc[1].extractLsb' 32 32).toNat
def Sequence.posOff (q : Sequence) : Nat := (q.desc[2].extractLsb' 0 16).toNat
def Sequence.retOff (q : Sequence) : Nat := (q.desc[2].extractLsb' 16 16).toNat
def Sequence.kvOff (q : Sequence) : Nat := (q.desc[2].extractLsb' 32 16).toNat
/-- Bytes of one K or V vector. -/
def Sequence.vecBytes (q : Sequence) : Nat := q.dim * q.ty.bytes
def Sequence.t (q : Sequence) (g : Nat) : Nat := (tabGet q.tokens g).getD 0
/-- Pages in use of a layer group (R214). -/
def Sequence.pages (q : Sequence) (g : Nat) : Nat := (q.t g + 15) / 16
def Sequence.setT (q : Sequence) (g n : Nat) : Sequence := { q with tokens := tabPut q.tokens g n }
/-- The place and length of each part of slot t in a frame or staging image (R211). -/
def Sequence.slotParts (q : Sequence) (t : Nat) : List (Nat × Nat) :=
  [(q.posOff + 4 * t, 4)] ++ (List.range q.heads).map (fun h => (q.retOff + 16 * h + t, 1)) ++
  (List.range q.heads).flatMap fun h =>
    let b := q.kvOff + h * q.headStride + t * q.vecBytes
    [(b, q.vecBytes), (b + q.tensorStride, q.vecBytes)]
/-- Regions of a frame (R211). -/
def Sequence.regions (q : Sequence) : List (Nat × Nat) :=
  [(q.posOff, 64), (q.retOff, 16 * q.heads)] ++ (List.range q.heads).flatMap fun h =>
    [(q.kvOff + h * q.headStride, 16 * q.vecBytes), (q.kvOff + h * q.headStride + q.tensorStride, 16 * q.vecBytes)]
/-- Regions do not meet. -/
def disjoint : List (Nat × Nat) → Bool
  | [] => true
  | (a, n) :: r => r.all (fun (b, m) => decide (a + n ≤ b) || decide (b + m ≤ a)) && disjoint r
/-- The limits of a map descriptor (R210, R211). -/
def Sequence.descOk (q : Sequence) (frSz : Nat) : Bool :=
  let w0 := q.desc[0]
  let w2 := q.desc[2]
  1 ≤ q.heads && q.heads ≤ 256 && q.dim % 4 == 0 && 4 ≤ q.dim && q.dim ≤ 256 && 1 ≤ q.tyCode.toNat && q.tyCode.toNat ≤ 4 &&
  w0.extractLsb' 37 3 == 0 && w0.extractLsb' 56 8 == 0 && 1 ≤ q.groups && q.groups ≤ 1024 &&
  q.headStride % 32 == 0 && q.tensorStride % 32 == 0 && q.posOff % 32 == 0 && q.retOff % 32 == 0 && q.kvOff % 32 == 0 &&
  w2.extractLsb' 48 16 == 0 && q.desc[3] == 0 && q.regions.all (fun (a, n) => decide (a + n ≤ frSz)) && disjoint q.regions

/-- A handle (R202). -/
def handleOf (die : Nat) (gen : BitVec 10) (idx : Nat) : BitVec 32 := BitVec.ofNat 32 (die % 4 * 2 ^ 30 + gen.toNat * 2 ^ 20 + idx % 2 ^ 20)
def handleDie (w : Word) : Nat := (w.extractLsb' 30 2).toNat
def handleIdx (w : Word) : Nat := (w.extractLsb' 0 20).toNat
def handleGen (w : Word) : BitVec 10 := w.extractLsb' 20 10
def pageGroup (w : Word) : Nat := (w.extractLsb' 32 16).toNat
def pageNum (w : Word) : Nat := (w.extractLsb' 48 16).toNat
/-- A KV page word (R201). -/
def pageWord (w : Word) (page : Nat) : Word := BitVec.ofNat 64 (page % 65536 * 2 ^ 48) ||| (w.extractLsb' 0 48).setWidth 64

def State.setSeq (s : State) (die idx : Nat) (q : Sequence) : State :=
  let k := s.kv die
  s.setKv die { k with seqs := tabPut k.seqs idx q }

/-- A live sequence that a handle names, for the moving task: KVFULL while the engine is off, KVBAD, PROT (R202, R477 orders 3
to 5). Its PROT reports the handle (log entry 32). -/
def State.liveSeq (s : State) (x : Ctx) (w : Word) : Res Sequence := do
  let k := s.kv (handleDie w)
  let h := (w.extractLsb' 0 32).setWidth 64
  require k.en .kvfull w
  match tabGet k.seqs (handleIdx w) with
  | none => trapWith .kvbad h
  | some q => do
    require (q.gen == handleGen w) .kvbad h
    require (q.asid == x.asid) .prot h
    .ok q
/-- A sequence for a KV instruction: the zero fields of its word, then the sequence, its layer group, and the stall while a layer
group of it is compacted (R201, R218, R477). -/
def State.kvSeq (s : State) (x : Ctx) (word w : Word) (handle page0 : Bool) : Res Sequence := do
  require ((!handle || w.extractLsb' 32 32 == 0) && (!page0 || pageNum w == 0)) .shape word
  let q ← s.liveSeq x w
  require (decide (pageGroup w < q.groups)) .shape word
  await q.compacting.isEmpty .busy
  .ok q

/-- A trap of the moving task's instruction that leaves a state behind: the spec has it change something. -/
def State.trapNow (s : State) (x : Ctx) (word : Word) (t : Trap) : State :=
  (s.consume (s.me x)).takeTrap s.cur { x with issued := x.issued + 1 } t word x.pc false
/-- KVCOW with its count (R215, R223). -/
def State.cow (s : State) (x : Ctx) (word : Word) (die : Nat) (page : Word) : State :=
  let k := s.kv die
  (s.setKv die { k with cows := k.cows + 1 }).trapNow x word ⟨.kvcow, page, 0, none, 0xFF, 0xF, 0, false, []⟩

/-- Room for one more sequence (R215). -/
def Kv.room (k : Kv) : Bool := decide (k.seqs.length < k.seqMax.toNat)
/-- The lowest index that names no live sequence (R227). -/
def Kv.freeIdx (k : Kv) : Nat := ((List.range (k.seqs.length + 1)).find? fun i => (tabGet k.seqs i).isNone).getD 0
/-- A new sequence, with its slab and its handle's generation (R202, R213, R227): its entries are written by the caller. -/
def State.newSeq (s : State) (die : Nat) (slab : Nat) (q : Sequence) : State × BitVec 32 :=
  let k := s.kv die
  let i := k.freeIdx
  let g : BitVec 10 := match tabGet k.gens i with | some g => g + 1 | none => 0
  (s.setKv die { k with
    seqs := tabPut k.seqs i { q with gen := g, slab := slab }
    gens := tabPut k.gens i g
    slabs := k.slabs ++ [(slab, q.slabLog)] }, handleOf die g i)
/-- A slab with every entry V = 0. -/
def State.clearSlab (s : State) (die slab l : Nat) : State :=
  s.writeEngine (kvAgent die) ((s.kv die).entryAddr slab) (List.replicate (8 * 2 ^ l) 0)

/-- The slab of a sequence holds entry n, or can grow to (R249, R250): a wait, KVFULL, or the new slab and its size. -/
def Sequence.canHold (q : Sequence) (k : Kv) (w : Word) (n : Nat) : Res (Option (Nat × Nat)) :=
  if n < 2 ^ q.slabLog then .ok none
  else do
    await (q.reloc.isNone && decide (k.relocs.length < 16)) .busy
    let l := bitLen n
    match k.findSlab l with
    | none => trapWith .kvfull w
    | some o => .ok (some (o, l))
/-- A relocation starts: the new slab's entries from the old size upward are written, and the pair is loaded (R249). -/
def State.growTo (s : State) (die idx : Nat) (q : Sequence) (o l : Nat) : State × Sequence :=
  let t := s.clearSlab die o l
  let q' := { q with slab := o, slabLog := l, reloc := some (q.slab, q.slabLog, 0) }
  let k := t.kv die
  ((t.setKv die { k with slabs := k.slabs ++ [(o, l)], relocs := k.relocs ++ [idx] }).setSeq die idx q', q')

/-- SLAB_RELOCATION_STEP (R249, R250): one entry moves; behind the last the old slab is freed and the pair cleared. -/
def execSlabRelocationStep (die k : Nat) (s : State) : Out :=
  if !s.alive then .next s else
  let e := s.kv die
  match e.relocs[k]? with
  | none => .next s
  | some idx => match tabGet e.seqs idx with
    | none => .next s
    | some q => match q.reloc with
      | none => .next s
      | some (ob, ol, p) =>
        let src := e.entryAddr (ob + p)
        let dst := e.entryAddr (q.slab + p)
        let ag := compactor die
        let b := s.recallAll
        let t := b.writeEngine ag dst (b.seen src 8)
        let t := if b.sectorPoisoned src then t.poisonRange dst 8 else t
        match b.atOnce t ag [lineOf src] with
        | .error e => .next (s.askOutside e)
        | .ok t =>
          if p + 1 < 2 ^ ol then .next (t.setSeq die idx { q with reloc := some (ob, ol, p + 1) })
          else
            let e' := t.kv die
            .next ((t.setKv die { e' with slabs := e'.slabs.filter (·.1 != ob), relocs := setDel e'.relocs idx }).setSeq die idx
              { q with reloc := none })

/-- Frames named by the entries of a map, in order of entry. -/
def State.mapFrames (s : State) (die : Nat) (q : Sequence) : Res (List (Nat × Nat)) :=
  (List.range (2 ^ q.slabLog)).foldlM (fun acc n => do
    let e ← s.mapEntry die q n
    if entryLive e then s.frameOk die (frameOf e) else .ok ()
    .ok (if entryLive e then acc ++ [(n, frameOf e)] else acc)) []
/-- The frame of a page in use; its entry of the frame table is read too. -/
def State.pageFrame (s : State) (die : Nat) (q : Sequence) (g p : Nat) : Res Nat := do
  let e ← s.mapEntry die q (p * q.groups + g)
  if entryLive e then s.frameOk die (frameOf e) else .ok ()
  .ok (frameOf e)

/-- The lines that a KV operation reads: those of the map entries named and, with `table`, of the frame table's entries that they name. -/
def State.mapReads (s : State) (die : Nat) (q : Sequence) (table : Bool) (entries : List Nat) : List Nat :=
  entries.flatMap fun n => match q.place n with
    | none => []
    | some p => lineOf ((s.kv die).entryAddr p) :: (match s.mapEntry die q n with
      | .ok e => if table && entryLive e then [lineOf ((s.kv die).ftAddr (frameOf e))] else []
      | .error _ => [])
/-- The same for the sequence that a word names. -/
def State.kvReads (s : State) (w : Word) (table : Bool) (entries : Sequence → List Nat) : List Nat :=
  match tabGet (s.kv (handleDie w)).seqs (handleIdx w) with
  | none => []
  | some q => s.mapReads (handleDie w) q table (entries q)
/-- The entry of the page that a KV page word names. -/
def pageEntry (w : Word) (q : Sequence) : List Nat := [pageNum w * q.groups + pageGroup w]

/-! Pure tasks (R426): reading the engine's state marks the task uncacheable, and a write of frame bytes takes PURITY. -/

def Ctx.impure (x : Ctx) : Ctx := { x with job := x.job.map fun j => if j.pure then { j with uncacheable := true } else j }
def Ctx.isPure (x : Ctx) : Bool := match x.job with | some j => j.pure | none => false
/-- A KV write of a pure task, once every check of the instruction has passed (R426, log entry 33). -/
def Ctx.mayWrite (x : Ctx) (w : Word) : Res Unit := require (!x.isPure) .purity w

/-- A KV or prefix instruction (R222): one indivisible operation at the home, at one timestamp, which the issuing core's next access
follows. The home may evict any update-only copy first (R339). `reads` gives the lines of maps and frames that it reads. -/
def kvControl (i : Instr) (g : Guard) (home : Ctx → Nat) (reads : State → Ctx → List Nat) (s : State)
    (body : State → Ctx → Res (State × Flow)) : Out :=
  control i g false s fun s x => do
    let x := x.impure
    let ag := kvAgent (home x)
    let b := (s.setCtx x).recallAll.raiseClock ag (s.clock (s.me x))
    let (t, f) ← body b x
    let t ← b.atOnce t ag (reads b x)
    .ok (t.raiseClock (s.me x) (t.clock ag), f)

/-! Instructions (R215 to R218). -/

/-- KVMAP (R215): its descriptor is read by the control core. R477 has no row for what that read meets (PAGE, PROT, POISON): it comes before
orders 6 and 7, which judge what was read (log entry 33). -/
def execKvmap (g : Guard) (d a b : Reg) (s : State) : Out :=
  let word := encode (.kvmap g d a b)
  kvControl (.kvmap g d a b) g (fun _ => coreDie s.cur) (fun _ _ => []) s fun s x => do
    let die := coreDie s.cur
    let free := Config.freeWord s.tick
    require (s.kv die).en .kvfull free
    require ((x.g b).extractLsb' 16 48 == 0) .shape word
    let (t, bs) ← s.loadN (s.me x) (x.g a) 32
    let wd := fun k => leWord ((bs.drop (8 * k)).take 8)
    let q : Sequence := ⟨0, x.asid, #v[wd 0, wd 1, wd 2, wd 3], 0, 0, [], [], none⟩
    let k := t.kv die
    require (q.descOk k.frSz.toNat) .shape word
    require ((x.g a).toNat % 32 == 0) .align (x.g a)
    require k.room .kvfull free
    let l := ceilLog (q.groups * max 1 (x.g b).toNat)
    match k.findSlab l with
    | none => trapWith .kvfull free
    | some o => do
      x.mayWrite (x.g a)
      let (t, h) := t.newSeq die o { q with slabLog := l }
      let t := t.clearSlab die o l
      .ok (t.setCtx ((t.now x).setG d (h.setWidth 64)), .seq)

/-- Bytes of the parts of a slot read from the scratchpad. -/
def State.stagedSlot (s : State) (x : Ctx) (o : Nat) (parts : List (Nat × Nat)) : Res (List (List Byte)) :=
  parts.foldlM (fun acc (a, n) => do
    let bs ← s.readSpad s.cur x (BitVec.ofNat 64 (o + a)) n
    .ok (acc ++ [bs])) []
/-- The parts of a slot written into a frame. -/
def State.putSlot (s : State) (die base : Nat) (parts : List (Nat × Nat)) (data : List (List Byte)) : State :=
  (parts.zip data).foldl (fun t ((a, _), bs) => t.writeEngine (kvAgent die) (base + a) bs) s

/-- The first n slots staged from an offset of the scratchpad on (R216): each range of them within the claim, and then none poisoned. R477 has
no row for that POISON: it stands behind order 8, before orders 9 to 11 (log entry 33). -/
def State.stagedSlots (s : State) (x : Ctx) (o : Nat) (q : Sequence) (n : Nat) : Res (List (List (List Byte))) := do
  (List.range n).foldlM (fun _ k => (q.slotParts k).foldlM (fun _ (a, m) => claimSpad x (BitVec.ofNat 64 (o + a)) m) ()) ()
  (List.range n).foldlM (fun acc k => do
    let p ← s.stagedSlot x o (q.slotParts k)
    .ok (acc ++ [p])) []
/-- The page that holds the next token is in use and shared (R216). -/
def State.pageShared (s : State) (die : Nat) (q : Sequence) (grp first : Nat) : Res Bool :=
  if first < q.pages grp then (do
    let f ← s.pageFrame die q grp first
    .ok (decide (1 < (s.frame die f).count))) else .ok false
/-- The slab grown where an append needs it, and the frame taken for its new page with the map entry that names it (R216, R249). -/
def State.openPage (s : State) (die idx : Nat) (q : Sequence) (grp page : Nat) (room : Option (Nat × Nat)) (free : Option Nat) :
    State × Sequence :=
  let (t, q) := match room with | some (o', l) => s.growTo die idx q o' l | none => (s, q)
  (match free with
    | some f =>
      let e := t.frame die f
      (t.setFrame die f { e with count := 1, fill := 0, px := false, psn := false }).setMapEntry die q (page * q.groups + grp) (entryOf f)
    | none => t, q)
/-- The staged slots written into their frames as tokens from t0 on (R216). -/
def State.appendSlots (s : State) (die : Nat) (q : Sequence) (grp t0 : Nat) (data : List (List (List Byte))) : Res State :=
  data.zipIdx.foldlM (fun t (parts, k) => do
    let tok := t0 + k
    let f ← State.pageFrame t die q grp (tok / 16)
    let e := State.frame t die f
    let t := State.putSlot t die e.base (q.slotParts (tok % 16)) parts
    .ok (t.setFrame die f { t.frame die f with fill := tok % 16 + 1 })) s

/-- KVAPP (R216). -/
def execKvapp (g : Guard) (a b c : Reg) (s : State) : Out :=
  let word := encode (.kvapp g a b c)
  kvControl (.kvapp g a b c) g (fun x => handleDie (x.g a))
      (fun s x => s.kvReads (x.g a) true fun q => [q.t (pageGroup (x.g a)) / 16 * q.groups + pageGroup (x.g a)]) s fun s x => do
    let w := x.g a
    let die := handleDie w
    let idx := handleIdx w
    let q ← s.kvSeq x word w false true
    let n := ((x.g c).extractLsb' 0 5).toNat
    let o := (x.g b).toNat
    require ((x.g b).extractLsb' 32 32 == 0 && (x.g c).extractLsb' 5 59 == 0 && 1 ≤ n && n ≤ 16) .shape word
    require (o % 32 == 0) .align (x.g b)
    let data ← s.stagedSlots x o q n
    let grp := pageGroup w
    let t0 := q.t grp
    require (decide (t0 + n ≤ 2 ^ 20)) .kvfull w
    let first := t0 / 16
    let last := (t0 + n - 1) / 16
    let shared ← s.pageShared die q grp first
    if shared then .ok (s.cow x word die (pageWord w first), .gone)
    else do
      let fresh := q.pages grp ≤ last
      let free := if fresh then (s.freeFrames die).head? else none
      require (!fresh || free.isSome) .kvfull w
      let room ← (if fresh then q.canHold (s.kv die) w (last * q.groups + grp) else .ok none)
      x.mayWrite w
      let (t, q) := s.openPage die idx q grp last room free
      let t ← t.appendSlots die q grp t0 data
      .ok (t.setSeq die idx (q.setT grp (t0 + n)), .seq)

/-- A new sequence whose entries name the frames of an old one, each with one reference more (R215). -/
def State.forkSeq (s : State) (die : Nat) (q : Sequence) (o : Nat) (fs : List (Nat × Nat)) : State × BitVec 32 :=
  let q' := { q with slab := o, reloc := none }
  let (t, h) := s.newSeq die o q'
  let t := t.clearSlab die o q.slabLog
  (fs.foldl (fun t (n, f) => (t.setMapEntry die q' n (entryOf f)).addCount die f) t, h)
/-- KVFORK (R215). -/
def execKvfork (g : Guard) (d a : Reg) (s : State) : Out :=
  let word := encode (.kvfork g d a)
  kvControl (.kvfork g d a) g (fun x => handleDie (x.g a)) (fun s x => s.kvReads (x.g a) true fun q => List.range (2 ^ q.slabLog)) s fun s x => do
    let w := x.g a
    let die := handleDie w
    let q ← s.kvSeq x word w true false
    let fs ← s.mapFrames die q
    let named := fun f => (fs.filter (·.2 == f)).length
    let k := s.kv die
    require (fs.all (fun (_, f) => decide ((s.frame die f).count + named f ≤ 65535)) && k.room) .kvfull w
    match k.findSlab q.slabLog with
    | none => trapWith .kvfull w
    | some o => do
      x.mayWrite w
      let (t, h) := s.forkSeq die q o fs
      .ok (t.setCtx (x.setG d (h.setWidth 64)), .seq)

/-- KVFORK.cow (R217): the copy keeps each poisoned sector poisoned. -/
def State.copyFrame (s : State) (die src dst n : Nat) : State :=
  (List.range (n / 32)).foldl (fun t k =>
    let t' := State.writeEngine t (kvAgent die) (dst + 32 * k) (t.seen (src + 32 * k) 32)
    if t.sectorPoisoned (src + 32 * k) then t'.poisonRange (dst + 32 * k) 32 else t') s
/-- The lines of the frame that KVFORK.cow copies. -/
def State.cowReads (s : State) (w : Word) : List Nat :=
  let die := handleDie w
  match tabGet (s.kv die).seqs (handleIdx w) with
  | none => []
  | some q => match s.pageFrame die q (pageGroup w) (pageNum w) with
    | .ok f => let e := s.frame die f; if e.count ≤ 1 then [] else linesOf e.base (s.kv die).frSz.toNat
    | .error _ => []
/-- The page of a sequence moved to a frame of its own with a copy of the old one (R217). -/
def State.replaceFrame (s : State) (die : Nat) (q : Sequence) (grp page f f' : Nat) : State :=
  let e := s.frame die f
  let base := (s.frame die f').base
  let t := s.copyFrame die e.base base (s.kv die).frSz.toNat
  let t := t.setFrame die f' ⟨1, e.fill, false, e.psn, base⟩
  (t.setMapEntry die q (page * q.groups + grp) (entryOf f')).subCount die f
def execKvforkCow (g : Guard) (d a : Reg) (s : State) : Out :=
  let word := encode (.kvforkCow g d a)
  kvControl (.kvforkCow g d a) g (fun x => handleDie (x.g a))
      (fun s x => s.kvReads (x.g a) true (pageEntry (x.g a)) ++ s.cowReads (x.g a)) s fun s x => do
    let w := x.g a
    let die := handleDie w
    let q ← s.kvSeq x word w false false
    let grp := pageGroup w
    let page := pageNum w
    require (decide (page < q.pages grp)) .shape word
    let f ← s.pageFrame die q grp page
    let e := s.frame die f
    if e.count ≤ 1 then .ok (s.setG x d (BitVec.ofNat 64 f), .seq)
    else match (s.freeFrames die).head? with
      | none => trapWith .kvfull w
      | some f' => do
        x.mayWrite w
        .ok ((s.replaceFrame die q grp page f f').setG x d (BitVec.ofNat 64 f'), .seq)

/-- A sequence cut to a length in every layer group: entries behind it go, their frames lose a reference, and an unshared last frame
is filled to the length (R215). -/
def State.cutTo (s : State) (die : Nat) (q : Sequence) (len : Nat) : Res (State × Sequence) :=
  (List.range q.groups).foldlM (fun (t, q') grp => do
    if q.t grp ≤ len then .ok (t, q')
    else do
      let gone := (List.range (q.pages grp)).filter fun p => decide ((len + 15) / 16 ≤ p)
      let t ← gone.foldlM (fun t p => do
        let f ← State.pageFrame t die q grp p
        .ok ((State.setMapEntry t die q (p * q.groups + grp) 0).subCount die f)) t
      let t ← (if len % 16 == 0 then .ok t else (do
        let f ← State.pageFrame t die q grp (len / 16)
        let e := State.frame t die f
        .ok (if e.count == 1 then t.setFrame die f { e with fill := len % 16 } else t)) : Res State)
      .ok (t, Sequence.setT q' grp len)) (s, q)
/-- KVTRUNC (R215). -/
def execKvtrunc (g : Guard) (a b : Reg) (s : State) : Out :=
  let word := encode (.kvtrunc g a b)
  kvControl (.kvtrunc g a b) g (fun x => handleDie (x.g a)) 
      (fun s x => s.kvReads (x.g a) true fun q => (List.range q.groups).flatMap fun grp =>
        ((List.range (q.pages grp)).filter fun p => decide ((x.g b).toNat / 16 ≤ p)).map fun p => p * q.groups + grp) s fun s x => do
    let w := x.g a
    let die := handleDie w
    let q ← s.kvSeq x word w true false
    let len := (x.g b).toNat
    require (decide (len ≤ 2 ^ 20)) .shape word
    if (List.range q.groups).any fun g => decide (len < q.t g) then x.mayWrite w else .ok ()
    let (t, q') ← s.cutTo die q len
    .ok (t.setSeq die (handleIdx w) q', .seq)

/-- A sequence released: each frame its live entries name loses a reference, and its index and slabs are free; an entry written poisoned
keeps its frame's count (R215, R250). -/
def State.releaseSeq (s : State) (die idx : Nat) (q : Sequence) : State :=
  let t := (List.range (2 ^ q.slabLog)).foldl (fun t n => match State.mapEntry t die q n with
    | .ok e => if entryLive e && (State.frameOk t die (frameOf e)).isOk then t.subCount die (frameOf e) else t
    | .error _ => t) s
  let k := t.kv die
  let old := match q.reloc with | some (ob, _, _) => [q.slab, ob] | none => [q.slab]
  t.setKv die { k with
    seqs := tabDel k.seqs idx
    slabs := k.slabs.filter fun (o, _) => !old.contains o
    relocs := setDel k.relocs idx }
/-- KVREL (R215). -/
def execKvrel (g : Guard) (a : Reg) (s : State) : Out :=
  let word := encode (.kvrel g a)
  kvControl (.kvrel g a) g (fun x => handleDie (x.g a)) (fun s x => s.kvReads (x.g a) true fun q => List.range (2 ^ q.slabLog)) s fun s x => do
    let w := x.g a
    let q ← s.kvSeq x word w true false
    x.mayWrite w
    .ok (s.releaseSeq (handleDie w) (handleIdx w) q, .seq)

/-- Retention bytes written for n tokens of a frame, one for each head (R215). -/
def State.putRetention (s : State) (die base : Nat) (q : Sequence) (t0 n : Nat) (bs : List Byte) : State :=
  (List.range n).foldl (fun t k => (List.range q.heads).foldl (fun t h =>
    State.writeEngine t (kvAgent die) (base + q.retOff + 16 * h + (t0 + k) % 16) ((bs.drop (k * q.heads + h)).take 1)) t) s
/-- KVRET (R215). POISON of its retention bytes stands as for KVAPP (log entry 33). -/
def execKvret (g : Guard) (a b c : Reg) (s : State) : Out :=
  let word := encode (.kvret g a b c)
  kvControl (.kvret g a b c) g (fun x => handleDie (x.g a)) 
      (fun s x => s.kvReads (x.g a) true fun q => [((x.g b).extractLsb' 0 32).toNat / 16 * q.groups + pageGroup (x.g a)]) s fun s x => do
    let w := x.g a
    let die := handleDie w
    let q ← s.kvSeq x word w false true
    let t0 := ((x.g b).extractLsb' 0 32).toNat
    let n := ((x.g b).extractLsb' 32 16).toNat
    let o := x.g c
    let grp := pageGroup w
    require ((x.g b).extractLsb' 48 16 == 0 && 1 ≤ n && n ≤ 16 && o.extractLsb' 32 32 == 0) .shape word
    require (t0 / 16 == (t0 + n - 1) / 16 && decide (t0 + n ≤ q.t grp)) .shape word
    let bs ← s.readSpad s.cur x o (n * q.heads)
    let f ← s.pageFrame die q grp (t0 / 16)
    let e := s.frame die f
    if 1 < e.count then .ok (s.cow x word die (pageWord w (t0 / 16)), .gone)
    else do
      x.mayWrite w
      .ok (s.putRetention die e.base q t0 n bs, .seq)

/-- KVCOMPACT (R218). -/
def execKvcompact (g : Guard) (a b c : Reg) (s : State) : Out :=
  let word := encode (.kvcompact g a b c)
  kvControl (.kvcompact g a b c) g (fun x => handleDie (x.g a)) (fun _ _ => []) s fun s x => do
    let w := x.g a
    let die := handleDie w
    let q ← s.kvSeq x word w false true
    require ((x.g b).extractLsb' 8 56 == 0) .shape word
    let grp := pageGroup w
    require ((x.g c).toNat % 16 == 0) .align (x.g c)
    claimSpad x (x.g c) 16
    let (s, _) ← s.barChecked s.cur (s.me x) ⟨false, x.g c⟩
    require (decide (q.pages grp ≤ (s.freeFrames die).length)) .kvfull w
    x.mayWrite w
    let t := s.setSeq die (handleIdx w) { q with compacting := setAdd q.compacting grp }
    let k := t.kv die
    .ok (t.setKv die { k with
      compactions := k.compactions ++ [⟨handleIdx w, grp, ((x.g b).extractLsb' 0 8).toNat, s.cur, x.g c, x.id, x.asid⟩] }, .seq)

/-- A compaction writes the kept tokens to fresh frames and switches the map (R218). It waits for frames while too few are free. -/
def State.compact (s : State) (die : Nat) (c : Compaction) (q : Sequence) : Res State := do
  let g := c.group
  let ag := compactor die
  let old ← (List.range (q.pages g)).foldlM (fun acc p => do
    let f ← s.pageFrame die q g p
    .ok (acc ++ [f])) ([] : List Nat)
  let baseOf := fun p => (s.frame die ((old[p]?).getD 0)).base
  let kept ← (List.range (q.t g)).foldlM (fun acc t => do
    let at' := fun h => baseOf (t / 16) + q.retOff + 16 * h + t % 16
    match (List.range q.heads).find? fun h => s.sectorPoisoned (at' h) with
    | some h => trapWith .poison (BitVec.ofNat 64 (at' h))
    | none => .ok (if (List.range q.heads).any fun h => decide (c.theta ≤ leNat (s.seen (at' h) 1)) then acc ++ [t] else acc)) ([] : List Nat)
  let pages := (kept.length + 15) / 16
  let fresh := (s.freeFrames die).take pages
  await (fresh.length == pages) .busy
  let t := fresh.zipIdx.foldl (fun t (f, p) =>
    let e := State.frame t die f
    t.setFrame die f ⟨1, min 16 (kept.length - 16 * p), false, false, e.base⟩ ag) s
  let t := kept.zipIdx.foldl (fun t (tok, k) =>
    let f := (fresh[k / 16]?).getD 0
    let base := (State.frame t die f).base
    ((q.slotParts (tok % 16)).zip (q.slotParts (k % 16))).foldl (fun t ((a, n), (b, _)) =>
      let src := baseOf (tok / 16) + a
      let t' := State.writeEngine t ag (base + b) (s.seen src n)
      if s.rangePoisoned src n then
        (let t' := t'.poisonRange (base + b) n
         t'.setFrame die f { t'.frame die f with psn := true } ag)
      else t') t) t
  let t := (List.range (q.pages g)).foldl (fun t p =>
    State.setMapEntry t die q (p * q.groups + g) (match fresh[p]? with | some f => entryOf f | none => 0) ag) t
  let t := old.foldl (fun t f => State.subCount t die f ag) t
  let reads := s.mapReads die q true ((List.range (q.pages g)).map fun p => p * q.groups + g) ++
    (List.range (q.t g)).flatMap fun t =>
      ((List.range q.heads).map fun h => lineOf (baseOf (t / 16) + q.retOff + 16 * h + t % 16)) ++
      if kept.contains t then (q.slotParts (t % 16)).flatMap fun (a, n) => linesOf (baseOf (t / 16) + a) n else []
  s.atOnce (t.setSeq die c.index { q.setT g kept.length with compacting := setDel q.compacting g }) ag reads
/-- COMPACTION_DONE (R218): the oldest compaction of a die switches its map and arrives on its barrier; a fault is raised for the
task that asked (R253). -/
def execCompactionDone (die : Nat) (s : State) : Out :=
  if !s.alive then .next s else
  match (s.kv die).compactions with
  | [] => .next s
  | c :: r => match tabGet (s.kv die).seqs c.index with
    | none => let k := s.kv die; .next (s.setKv die { k with compactions := r })
    | some q => match s.recallAll.compact die c q with
      | .ok t =>
        let k := t.kv die
        let t := t.setKv die { k with compactions := r }
        let ag := { compactor die with core := c.core, task := c.task, asid := c.asid }
        match t.barUpdate c.core ag ⟨false, c.bar⟩ 1 0 with
        | .ok u => .next u
        | .error (.trap tr) => .next (t.raiseAsync c.core c.task { tr with src := 6 })
        | .error e => .next (s.askOutside e)
      | .error (.trap tr) =>
        let q' := { q with compacting := setDel q.compacting c.group }
        let t := s.setSeq die c.index q'
        let k := t.kv die
        .next ((t.setKv die { k with compactions := r }).raiseAsync c.core c.task { tr with src := 6 })
      | .error e => .next (s.askOutside e)

/-! KVQ (R215). -/

/-- KVQ.len: T of the layer group. -/
def execKvqLen (g : Guard) (d a : Reg) (s : State) : Out :=
  let word := encode (.kvqLen g d a)
  kvControl (.kvqLen g d a) g (fun x => handleDie (x.g a)) (fun _ _ => []) s fun s x => do
    let q ← s.kvSeq x word (x.g a) false true
    .ok (s.setG x d (BitVec.ofNat 64 (q.t (pageGroup (x.g a)))), .seq)
/-- KVQ.map: the map entry of the page. -/
def execKvqMap (g : Guard) (d a : Reg) (s : State) : Out :=
  let word := encode (.kvqMap g d a)
  kvControl (.kvqMap g d a) g (fun x => handleDie (x.g a)) (fun s x => s.kvReads (x.g a) false (pageEntry (x.g a))) s fun s x => do
    let w := x.g a
    let q ← s.kvSeq x word w false false
    let e ← s.mapEntry (handleDie w) q (pageNum w * q.groups + pageGroup w)
    .ok (s.setG x d e, .seq)
/-- KVQ.frame: the frame table entry that the page names. -/
def execKvqFrame (g : Guard) (d a : Reg) (s : State) : Out :=
  let word := encode (.kvqFrame g d a)
  kvControl (.kvqFrame g d a) g (fun x => handleDie (x.g a)) (fun s x => s.kvReads (x.g a) true (pageEntry (x.g a))) s fun s x => do
    let w := x.g a
    let q ← s.kvSeq x word w false false
    let e ← s.mapEntry (handleDie w) q (pageNum w * q.groups + pageGroup w)
    if entryLive e then s.frameOk (handleDie w) (frameOf e) else .ok ()
    .ok (s.setG x d (if entryLive e then s.frameWord (handleDie w) (frameOf e) else 0), .seq)
/-- KVQ.state: layer groups, compacting, relocating, and the size of the slab. -/
def execKvqState (g : Guard) (d a : Reg) (s : State) : Out :=
  let word := encode (.kvqState g d a)
  kvControl (.kvqState g d a) g (fun x => handleDie (x.g a)) (fun _ _ => []) s fun s x => do
    let q ← s.kvSeq x word (x.g a) false true
    .ok (s.setG x d (BitVec.ofNat 64 (q.groups + (!q.compacting.isEmpty).toNat * 2 ^ 16 + q.reloc.isSome.toNat * 2 ^ 17 +
      q.slabLog % 64 * 2 ^ 18)), .seq)

/-! The prefix index (R219 to R221). -/

def Ctx.pxKey (x : Ctx) (a : Reg) : BitVec 128 := x.g (pairHi a) ++ x.g a
def Kv.pxFind (k : Kv) (asid : BitVec 13) (key : BitVec 128) : Option Nat :=
  (k.px.find? fun (a, y, _) => a == asid && y == key).map fun (_, _, f) => f
/-- The line of the frame table's entry that a prefix instruction finds. -/
def State.pxReads (s : State) (x : Ctx) (a b : Reg) : List Nat :=
  let die := handleDie (x.g b)
  match (s.kv die).pxFind x.asid (x.pxKey a) with
  | some f => [lineOf ((s.kv die).ftAddr f)]
  | none => []
/-- The outcome word of R220 and R221. -/
def pxOutcome (o f : Nat) : Word := BitVec.ofNat 64 (o * 2 ^ 62 + f % 2 ^ 32)

def execPxlkp (g : Guard) (d a b : Reg) (s : State) : Out :=
  let word := encode (.pxlkp g d a b)
  kvControl (.pxlkp g d a b) g (fun x => handleDie (x.g b)) (fun s x => s.pxReads x a b) s fun s x => do
    let w := x.g b
    let die := handleDie w
    let idx := handleIdx w
    let q ← s.kvSeq x word w false false
    let grp := pageGroup w
    let page := pageNum w
    require (q.t grp == 16 * page) .shape word
    let k := s.kv die
    match k.pxFind x.asid (x.pxKey a) with
    | none => .ok (s.setG x d (pxOutcome 1 0), .seq)
    | some f => do
      let n := page * q.groups + grp
      let room ← q.canHold k w n
      s.frameOk die f
      require (decide ((s.frame die f).count < 65535)) .kvfull w
      x.mayWrite w
      let (t, q) := match room with | some (o, l) => s.growTo die idx q o l | none => (s, q)
      let t := (t.setMapEntry die q n (entryOf f)).addCount die f
      .ok ((t.setSeq die idx (q.setT grp (q.t grp + 16))).setG x d (pxOutcome 0 f), .seq)
def execPxlkpDrop (g : Guard) (d a b : Reg) (s : State) : Out :=
  let word := encode (.pxlkpDrop g d a b)
  kvControl (.pxlkpDrop g d a b) g (fun x => handleDie (x.g b)) (fun s x => s.pxReads x a b) s fun s x => do
    let w := x.g b
    let die := handleDie w
    let _ ← s.kvSeq x word w true true
    let k := s.kv die
    match k.pxFind x.asid (x.pxKey a) with
    | none => .ok (s.setG x d (pxOutcome 1 0), .seq)
    | some f => do
      s.frameOk die f
      x.mayWrite w
      let t := s.setKv die { k with px := k.px.filter fun (p, y, _) => !(p == x.asid && y == x.pxKey a) }
      let t := t.setFrame die f { t.frame die f with px := false }
      .ok ((t.subCount die f).setG x d (pxOutcome 0 0), .seq)
def execPxins (g : Guard) (d a b : Reg) (s : State) : Out :=
  let word := encode (.pxins g d a b)
  kvControl (.pxins g d a b) g (fun x => handleDie (x.g b)) (fun s x => s.kvReads (x.g b) true (pageEntry (x.g b)) ++ s.pxReads x a b) s fun s x => do
    let w := x.g b
    let die := handleDie w
    let q ← s.kvSeq x word w false false
    let grp := pageGroup w
    let page := pageNum w
    require (decide (page < q.t grp / 16)) .shape word
    let f ← s.pageFrame die q grp page
    let e := s.frame die f
    require (e.fill == 16) .shape word
    let k := s.kv die
    let ins := fun o f' (t : State) => (.ok (t.setG x d (pxOutcome o f'), .seq) : Res (State × Flow))
    match k.pxFind x.asid (x.pxKey a) with
    | none =>
      if e.px then ins 2 f s
      else if k.pxLen.toNat ≤ k.px.length then ins 3 f s
      else do
        require (decide (e.count < 65535)) .kvfull w
        x.mayWrite w
        let t := s.setKv die { k with px := k.px ++ [(x.asid, x.pxKey a, f)] }
        ins 0 f (t.setFrame die f { e with count := e.count + 1, px := true })
    | some f' =>
      if f' == f || e.px then ins 2 f s
      else do
        s.frameOk die f'
        require (decide ((s.frame die f').count < 65535)) .kvfull w
        x.mayWrite w
        ins 1 f' (((s.addCount die f').setMapEntry die q (page * q.groups + grp) (entryOf f')).subCount die f)

/-! Registers (R223). -/

/-- A write of a KV_ register; a table register is not writable while EN is 1 (none). Setting EN forgets the generations issued
(R227). -/
def Kv.write (k : Kv) (n : Nat) (v : Word) : Option Kv :=
  if n == 0x180 then
    some (if v.getLsbD 0 && !k.en then { k with en := true, gens := [] } else { k with en := v.getLsbD 0 })
  else if k.en && 0x181 ≤ n && n ≤ 0x186 then none
  else match n with
    | 0x181 => some { k with ftBase := v &&& 0xFFFFFFFFF000 }
    | 0x182 => some { k with ftLen := v &&& 0xFFFFFF }
    | 0x183 => some { k with frSz := v &&& 0xFFFF00 }
    | 0x184 => some { k with pxBase := v &&& 0xFFFFFFFFFFC0 }
    | 0x185 => some { k with pxLen := v &&& 0xFFFFFF }
    | 0x186 => some { k with seqMax := v &&& 0xFFFFF }
    | _ => some k

end Sys2Proof.Machine
end

