-- ==== Sys2Proof/Machine/Attn.lean ====
section
/-! DEFINITION. The attention unit: stage programs, ABIND, ATTN and TMERGE (R173 to R198, R200 to R209). -/

namespace Sys2Proof.Machine

/-! Stage programs (R177, R178, R204). -/

/-- An element word that a stage may hold, whose flag update names only flags below `flags` (R177, R180). -/
def stageWordOk (w : Word) (flags : Nat) : Bool :=
  match ElemWord.ofWord w with
  | none => false
  | some e =>
    w.extractLsb' 32 32 == 0 && e.op != .empty && e.op != .deq && e.op != .emit && e.srcA != 14 && e.srcB != 14 &&
    (e.dest.toNat ≤ 7 || e.dest == 13) && e.deq == 0 && e.outTag == 0 &&
    (if e.flagMode == 0 then e.flagIndex == 0 else decide (e.flagIndex.toNat < flags))

/-- A lane between two words of an invocation: d0 to d7 and f0 to f7. -/
structure Lane where
  d : Vector (BitVec 32) 8
  f : BitVec 8
  deriving DecidableEq, Repr

def laneSrc (l : Lane) (ins : List (BitVec 32)) (k : BitVec 32) (n : BitVec 4) : BitVec 32 :=
  if h : n.toNat < 8 then l.d[n.toNat]
  else if n.toNat < 12 then (ins[n.toNat - 8]?).getD 0
  else if n == 12 then k
  else if n == 15 then 1 else 0
/-- One word of an invocation (R178, R274). -/
def laneStep (ins : List (BitVec 32)) (k : BitVec 32) (l : Lane) (w : Word) : Lane :=
  match ElemWord.ofWord w with
  | none => l
  | some e =>
    let x := if h : e.dest.toNat < 8 then l.d[e.dest.toNat] else 0
    let res := elemEval e.op (laneSrc l ins k e.srcA) (laneSrc l ins k e.srcB) x (l.f.getLsbD 0)
    let bit : BitVec 8 := 1 <<< e.flagIndex.toNat
    { d := if h : e.dest.toNat < 8 then l.d.set e.dest.toNat res else l.d
      f := match e.flagMode.toNat with
        | 1 => l.f ||| bit
        | 2 => l.f &&& ~~~bit
        | 3 => if res != 0 then l.f ||| bit else l.f &&& ~~~bit
        | _ => l.f }
/-- An invocation: its constant row, declared inputs, K and words (R178). -/
def runStage (ws : List Word) (k : BitVec 32) (consts : List (BitVec 32)) (ins : List (BitVec 32)) : Lane :=
  ws.foldl (laneStep ins k) ⟨Vector.ofFn fun i => (consts[i.val]?).getD 0, 0⟩

/-- A stage object read and checked (R204, R206 orders 6 and 7): none when it breaks a rule. -/
def stageOf (kind : Nat) (h : Word) (ws : List Word) : Option Stage :=
  let l := (h.extractLsb' 0 8).toNat
  let pe := (h.extractLsb' 8 6).toNat
  let flags := fun i => if kind == 2 then (if i < pe then 2 else 1) else 0
  if h.extractLsb' 18 14 == 0 && h.extractLsb' 14 2 == 0 && (h.extractLsb' 16 2).toNat == kind && 1 ≤ l && l ≤ 32 && pe ≤ l &&
    (kind == 2 || pe == 0) && ws.zipIdx.all (fun (w, i) => stageWordOk w (flags i))
  then some ⟨ws, h.extractLsb' 32 32, pe⟩ else none
/-- The header and words of a stage object; the words of a length that breaks R204 are not read. -/
def State.readStage (s : State) (ag : Agent) (va : Word) : Res (State × Word × List Word) := do
  let (t, hb) ← s.loadN ag va 8
  let h := leWord hb
  let l := (h.extractLsb' 0 8).toNat
  if 1 ≤ l && l ≤ 32 then do
    let (t, bs) ← t.loadN ag (va + 8) (8 * l)
    .ok (t, h, (List.range l).map fun k => leWord ((bs.drop (8 * k)).take 8))
  else .ok (t, h, [])

/-- The default BLEND of R194: FRCP d0, in1 and FADD d1, in0, in2. -/
def defaultBlend : Stage := ⟨[0x50120000, 0x40314000], 0, 0⟩

/-- Word 3 of a binding descriptor (R169, R206). -/
def bindingShape (w3 : Word) : Bool :=
  let dim := (w3.extractLsb' 0 16).toNat
  let blk := (w3.extractLsb' 16 16).toNat
  let qt := (w3.extractLsb' 32 5).toNat
  dim % 4 == 0 && 4 ≤ dim && dim ≤ 256 && [4, 8, 16, 32, 64, 128].contains blk && 1 ≤ qt && qt ≤ 4 &&
  (w3.extractLsb' 37 5).toNat ≤ 2 && w3.extractLsb' 43 21 == 0

/-- The binding that 64 descriptor bytes and a cache word give (R204, R206). -/
def bindingOf (bs : List Byte) (cd : Word) (ty : Ty) (score : Stage) (mask blend : Option Stage) (lse : Bool) : Binding :=
  let wd := fun k => leWord ((bs.drop (8 * k)).take 8)
  let w3 := wd 3
  { score := score
    mask := mask
    blend := blend
    dim := (w3.extractLsb' 0 16).toNat
    block := (w3.extractLsb' 16 16).toNat
    ty := ty
    outTy := (Ty.ofCode (w3.extractLsb' 37 5)).getD .f32
    pE4m3 := w3.getLsbD 42
    consts := wd 4
    workspace := wd 5
    handle := cd.extractLsb' 0 32
    group := pageGroup cd
    lse := lse }
/-- ABIND (R205, R206), its checks in the order of R206. -/
def execAbind (g : Guard) (slot : BitVec 3) (a b : Reg) (lse : Bool) (s : State) : Out :=
  let word := encode (.abind g slot a b lse)
  control (.abind g slot a b lse) g false s fun s x => do
    let va := x.g a
    let cd := x.g b
    let ag := s.me x
    require (va.toNat % 64 == 0) .align va
    let (t, bs) ← s.loadN ag va 64
    let wd := fun k => leWord ((bs.drop (8 * k)).take 8)
    require (bindingShape (wd 3) && wd 6 == 0 && wd 7 == 0 && cd.extractLsb' 48 16 == 0) .shape word
    let _ ← colRange word (wd 5)
    require (wd 0 != 0) .bind va
    require ((wd 0).toNat % 8 == 0) .align (wd 0)
    require ((wd 1).toNat % 8 == 0) .align (wd 1)
    require ((wd 2).toNat % 8 == 0) .align (wd 2)
    let (t, h0, ws0) ← t.readStage ag (wd 0)
    let (t, h1, ws1) ← (if wd 1 == 0 then .ok (t, 0, []) else t.readStage ag (wd 1) : Res (State × Word × List Word))
    let (t, h2, ws2) ← (if wd 2 == 0 then .ok (t, 0, []) else t.readStage ag (wd 2) : Res (State × Word × List Word))
    match stageOf 1 h0 ws0, (if wd 1 == 0 then some none else (stageOf 2 h1 ws1).map some),
      (if wd 2 == 0 then some none else (stageOf 3 h2 ws2).map some) with
    | some score, some mask, some blend => do
      let q ← t.liveSeq x cd
      let w3 := wd 3
      let dim := (w3.extractLsb' 0 16).toNat
      require (decide (pageGroup cd < q.groups) && q.dim == dim && q.tyCode == w3.extractLsb' 32 5) .bind va
      let bnd := bindingOf bs cd q.ty score mask blend lse
      let y := t.now x
      .ok (t.setCtx { y with bindings := y.bindings.set slot.toNat (some bnd) }, .seq)
    | _, _, _ => trapWith .bind va

/-! Triples (R185 to R188). -/

def negInf : F32 := 0xFF800000
def Triple.identity (dim : Nat) : Triple := ⟨List.replicate dim 0, negInf, 0⟩
def f64Val (x : BitVec 64) : FVal := Fmt.f64.decode x.toNat
def f64Rne (v : FVal) : BitVec 64 := BitVec.ofNat 64 (Fmt.f64.rne v)

/-- Products in groups of 16 summed from +0 (R123, R176). -/
def sumGroups : Nat → List FVal → F32 → F32
  | 0, _, acc => acc
  | n + 1, ps, acc => if ps.isEmpty then acc else sumGroups n (ps.drop 16) (addGroup acc (ps.take 16))
def sumProducts (ps : List FVal) : F32 := sumGroups (ps.length + 1) ps 0

/-- The merge of two triples (R187). -/
def Triple.merge (a b : Triple) : Triple :=
  if b.m == negInf then a
  else if a.m == negInf then b
  else
    let m : F32 := if (F32.val a.m).isNan || (F32.val b.m).isNan then 0x7FC00000 else if 0 ≤ (F32.val a.m).cmp (F32.val b.m) then a.m else b.m
    let s1 := f32Exp2 (f32Sub a.m m)
    let s2 := f32Exp2 (f32Sub b.m m)
    { acc := (a.acc.zip b.acc).map fun (p, q) => f32Fma q s2 (f32Mul p s1)
      m := m
      l := f64Rne ((f64Val (f64Rne ((f64Val a.l).mul (F32.val s1)))).add (f64Val (f64Rne ((f64Val b.l).mul (F32.val s2))))) }
/-- The canonical tree over the block triples in order (R188). -/
def Triple.tree (dim : Nat) : Nat → List Triple → Triple
  | 0, _ => Triple.identity dim
  | fuel + 1, ts => match ts with
    | [] => Triple.identity dim
    | [t] => t
    | ts =>
      let k := 2 ^ (ceilLog ts.length - 1)
      (Triple.tree dim fuel (ts.take k)).merge (Triple.tree dim fuel (ts.drop k))

/-- The triples of the unfinished subtrees behind the block triples done so far: of the largest power of two first (R188, R191). -/
def pendingTrees (dim : Nat) : Nat → List Triple → List Triple
  | 0, _ => []
  | fuel + 1, ts =>
    if ts.isEmpty then []
    else
      let k := 2 ^ (bitLen ts.length - 1)
      Triple.tree dim (k + 1) (ts.take k) :: pendingTrees dim fuel (ts.drop k)

/-- The triple of one block and row (R186): slots in ascending order, each with keep, score and V vector. -/
def blockTriple (dim : Nat) (pt : Fmt) (slots : List (Bool × F32 × (Nat → FVal))) : Triple :=
  if slots.all (fun (keep, sc, _) => !keep || sc == negInf) then Triple.identity dim
  else
    let m := slots.foldl (fun m (keep, sc, _) => if keep then f32Max m sc else m) negInf
    let ps := slots.map fun (keep, sc, v) =>
      (keep, (if !keep || sc == negInf then FVal.fin false 0 0 else pt.decode (pt.rne (F32.val (f32Exp2 (f32Sub sc m))))), v)
    { acc := (List.range dim).map fun c => sumProducts (ps.map fun (keep, p, v) => if keep then p.mul (v c) else .fin false 0 0)
      m := m
      l := ps.foldl (fun l (_, p, _) => f64Rne ((f64Val l).add p)) 0 }

/-! The pass (R173 to R184, R207, R208). -/

/-- The agent of a core's attention unit for the moving task (R325). -/
def State.attnAgent (s : State) (x : Ctx) : Agent := coreAgent 3 s.cur 0 x.id x.asid
/-- A fault that the attention unit meets (R252). -/
def byUnit {α : Type} (r : Res α) : Res α :=
  match r with
  | .error (.trap t) => .error (.trap { t with src := 5 })
  | r => r

/-- The base of the frame that holds slot j, with the first page of the snapshot. -/
def Pass.base (p : Pass) (first j : Nat) : Nat := (p.bases[j / 16 - first]?).getD 0

/-- The snapshot at the sequence's home (R207, R208), one operation at one timestamp: the sequence, the frames of the pages that hold the
slots, and the state after its reads. Map entries are read before T is compared. -/
def State.snapshot (s : State) (x : Ctx) (b : Binding) (word : Word) (slot0 count : Nat) : Res (State × Sequence × List Nat) := do
  let w : Word := BitVec.ofNat 64 (b.group % 65536 * 2 ^ 32) ||| b.handle.setWidth 64
  let q ← s.liveSeq x w
  await q.compacting.isEmpty .busy
  let die := handleDie w
  let first := slot0 / 16
  let pages := if count == 0 then 0 else (slot0 + count - 1) / 16 - first + 1
  let frames ← (List.range (min pages (2 ^ q.slabLog - first))).foldlM (fun acc p => do
    let f ← s.pageFrame die q b.group (first + p)
    .ok (acc ++ [f])) []
  require (decide (slot0 + count ≤ q.t b.group)) .shape word
  let ag := s.attnAgent x
  let lines := s.mapReads die q true ((List.range frames.length).map fun p => (first + p) * q.groups + b.group)
  let ts := lines.foldl (fun m l => max m (s.lineTs l).1) (s.clock (s.me x))
  .ok (lines.foldl (fun t l => State.stampLoad t ag l) (s.raiseClock ag ts), q, frames)

/-- Bytes of a frame read by the attention unit: POISON with the physical address, source 5 (R183, R252, log entry 32). -/
def State.frameBytes (s : State) (pa n : Nat) : Res (List Byte) :=
  if s.rangePoisoned pa n then byUnit (trapWith .poison (BitVec.ofNat 64 pa)) else .ok (s.seen pa n)
/-- The elements of a K or V vector. -/
def vecOf (ty : Ty) (bs : List Byte) (e : Nat) : FVal := ty.value (leNat ((bs.drop (e * ty.bytes)).take ty.bytes))

/-- One key block of a pass (R174, R180 to R183, R186), by its number: the triples of the rows, and what has been invoked. How often the
stages run beyond what the result needs is open (R182, log entry 16). -/
def State.block (s : State) (p : Pass) (pos0 rows head slot0 count k : Nat) : Res (List Triple × Tally) := do
  let b := p.bind
  let q := p.seq
  let lo := k * b.block
  let len := min b.block (count - lo)
  let poss := (p.poss.drop lo).take len
  let more := fun j => Config.repeats s.tick (8 * k + j)
  let ofInt := fun (v : Int) => BitVec.ofInt 32 v
  let ps := poss.map BitVec.toInt
  let kLo := ps.foldl min ((ps.head?).getD 0)
  let kHi := ps.foldl max ((ps.head?).getD 0)
  let verdict : BitVec 2 := match b.mask with
    | none => 2
    | some m => (runStage (m.words.take m.pe) m.k p.consts
        [BitVec.ofNat 32 pos0, BitVec.ofNat 32 (pos0 + rows - 1), ofInt kLo, ofInt kHi]).f.extractLsb' 0 2
  let ta := { p.tally with blocks := p.tally.blocks + (if b.mask.isSome then 1 + more 0 else 0) }
  if verdict == 1 then
    -- culled, or scored and discarded: in both cases the identity, with no fault (R182, R183)
    let ta := if Config.culls s.tick k then { ta with culled := ta.culled + 1 }
      else { ta with scores := ta.scores + more 1, pairs := ta.pairs + more 2 }
    .ok (List.replicate rows (Triple.identity b.dim), ta)
  else do
    let kvs ← (List.range len).foldlM (fun acc j => do
      let slot := slot0 + lo + j
      let base := p.base (slot0 / 16) slot + q.kvOff + head * q.headStride + slot % 16 * q.vecBytes
      let kb ← s.frameBytes base q.vecBytes
      let vb ← s.frameBytes (base + q.tensorStride) q.vecBytes
      .ok (acc ++ [(kb, vb)])) ([] : List (List Byte × List Byte))
    let partialBlock := verdict != 2
    let row := fun i =>
      let codes := (p.query[i]?).getD []
      let slots := (kvs.zip poss).map fun ((kb, vb), pos) =>
        let dot := sumProducts ((List.range b.dim).map fun e => (b.ty.value ((codes[e]?).getD 0)).mul (vecOf b.ty kb e))
        let ins := [dot, BitVec.ofNat 32 (pos0 + i), pos, BitVec.ofNat 32 head]
        let sc := (runStage b.score.words b.score.k p.consts ins).d[0]
        let keep := match b.mask with
          | some m => if partialBlock then (runStage (m.words.drop m.pe) m.k p.consts ins).f.getLsbD 0 else true
          | none => true
        (keep, sc, vecOf b.ty vb)
      (blockTriple b.dim (if b.pE4m3 then Fmt.e4m3 else Fmt.bf16) slots, (slots.filter fun (keep, _) => keep).length)
    let rs := (List.range rows).map row
    let need := rs.foldl (fun n (_, k) => n + k) 0
    .ok (rs.map (·.1), { ta with
      scores := ta.scores + need + more 3
      pairs := ta.pairs + (if partialBlock then rows * len else 0) + (if b.mask.isSome then more 4 else 0) })

/-- The timestamps that reading the slots of a block takes, in every frame that holds one (R175, R326), with the recalls they cause. -/
def State.leaseBlock (s : State) (ag : Agent) (p : Pass) (frSz slot0 count k : Nat) : State :=
  let lo := slot0 + k * p.bind.block
  let hi := lo + min p.bind.block (count - k * p.bind.block)
  let pages := if hi ≤ lo then 0 else (hi - 1) / 16 - lo / 16 + 1
  (List.range pages).foldl (fun u j =>
    let base := p.base (slot0 / 16) (lo / 16 * 16 + 16 * j)
    (List.range (frSz / 128 + 1)).foldl (fun u k => (State.recall u (lineOf base + k)).stampLoad ag (lineOf base + k)) u) s

/-- Blocks of a pass in order, as many as are named, from the first that is left. -/
def State.blocks (ag : Agent) (frSz pos0 rows head slot0 count : Nat) : Nat → State → Pass → Res (State × Pass)
  | 0, s, p => .ok (s, p)
  | n + 1, s, p => do
    let k := p.done.length
    let (ts, ta) ← s.block p pos0 rows head slot0 count k
    State.blocks ag frSz pos0 rows head slot0 count n (s.leaseBlock ag p frSz slot0 count k) { p with done := p.done ++ [ts], tally := ta }

/-- The outcome of BLEND for one row: the row's codes and the export value (R192, R193). -/
def blendRow (b : Binding) (consts : List (BitVec 32)) (pos : Nat) (t : Triple) : List Nat × BitVec 32 :=
  let st := b.blend.getD defaultBlend
  let in1 := f32 (f64Val t.l)
  let r := runStage st.words st.k consts [t.m, in1, f32Log2 in1, BitVec.ofNat 32 pos]
  (t.acc.map fun a => if t.l == 0 then 0 else b.outTy.narrow .rne 0 false (F32.val (f32Mul a r.d[0])), r.d[1])

/-- A triple of one row in the layout of R185. -/
def Core.tripleAt (c : Core) (row first dim : Nat) : Triple :=
  ⟨(List.range dim).map fun j => c.accAt row (first + j), c.accAt row (first + dim),
    c.accAt row (first + dim + 2) ++ c.accAt row (first + dim + 1)⟩

/-- Triples written to the accumulator columns from a first one on, one row each (R185). -/
def Core.putTriples (c : Core) (first : Nat) (rows : List Triple) : Core :=
  rows.zipIdx.foldl (fun (k : Core) (tr, i) =>
    (tr.acc ++ [tr.m, tr.l.extractLsb' 0 32, tr.l.extractLsb' 32 32]).zipIdx.foldl (fun k (v, j) => k.setAcc i (first + j) v) k) c
/-- A pass that a marker interrupts leaves in its workspace the triples of the unfinished subtrees, as many as it holds beyond the merge
unit's, from its first column on in block order (R191, log entry 16). -/
def Core.putPending (c : Core) (p : Pass) (rows blocks : Nat) (ws : Cols) : Core :=
  let dim := p.bind.dim
  let of := fun i => pendingTrees dim (p.done.length + 1) (p.done.map fun r => (r[i]?).getD (Triple.identity dim))
  (List.range (min (of 0).length (ceilLog blocks - 1))).foldl (fun c j =>
    Core.putTriples c (ws.first + (dim + 3) * j) ((List.range rows).map fun i => ((of i)[j]?).getD (Triple.identity dim))) c
/-- Finished rows written to the output tile, each followed by its export value where a scale field asks for it (R192, R193, R206, R207). -/
def Core.putBlend (c : Core) (bd : Binding) (consts : List (BitVec 32)) (pos0 : Nat) (od : Desc) (finals : List Triple) : Core :=
  let rs := finals.zipIdx.map fun (tr, i) => blendRow bd consts (pos0 + i) tr
  let sp := rs.zipIdx.foldl (fun m ((codes, e), i) =>
    let m := codes.zipIdx.foldl (fun m (v, j) => putBits m (od.bit bd.outTy.bits i j) bd.outTy.bits v) m
    if od.sc then Memory.setBytes m (od.scale + 4 * i) (natLe 4 e.toNat) else m) c.spad
  let core := { c with spad := sp, poison := rowsClean od bd.outTy.bits finals.length bd.dim c.poison }
  -- the exports cover granules: the bytes that stand there are laid down once more
  if od.sc then core.putSpad od.scale (Memory.bytes sp od.scale (4 * finals.length)) else core
/-- The key positions of a pass, read from their frames (R177, R183). -/
def State.positions (s : State) (q : Sequence) (bases : List Nat) (slot0 count : Nat) : Res (List (BitVec 32)) :=
  (List.range count).foldlM (fun acc j => do
    let base := (bases[(slot0 + j) / 16 - slot0 / 16]?).getD 0
    let bs ← s.frameBytes (base + q.posOff + 4 * ((slot0 + j) % 16)) 4
    .ok (acc ++ [BitVec.ofNat 32 (leNat bs)])) []
/-- The counters of a pass added to the task's (R199). -/
def Ctx.tallied (x : Ctx) (ta : Tally) (blends : Nat) : Ctx :=
  let v := x.att
  { x with att := #v[v[0] + 1, v[1] + BitVec.ofNat 64 ta.blocks, v[2] + BitVec.ofNat 64 ta.culled,
    v[3] + BitVec.ofNat 64 ta.scores, v[4] + BitVec.ofNat 64 ta.pairs, v[5] + BitVec.ofNat 64 blends] }
/-- The checks of ATTN on registers, in the order of R207, with the ranges they give: Q, the output (a tile or columns) and the
workspace. -/
def State.attnChecks (s : State) (x : Ctx) (b : Binding) (word : Word) (d a : Reg) (tri : Bool) (pos0 rows head count : Nat) :
    Res (Desc × Desc × Cols × Cols) := do
  require (rows % 2 == 0 && 2 ≤ rows && rows ≤ 128 && decide (pos0 + rows ≤ 2 ^ 31)) .shape word
  let h : Word := b.handle.setWidth 64
  let fits := match tabGet (s.kv (handleDie h)).seqs (handleIdx h) with
    | some q => q.gen != handleGen h || decide (head < q.heads)
    | none => true
  require fits .shape word
  let qd ← x.desc word a
  require (!qd.sc) .shape word
  qd.aligned
  qd.claim x b.ty.bits rows b.dim
  let ws ← colRange word b.workspace
  let oc ← (if tri then colRange word (x.g d) else .ok ⟨0, 0⟩ : Res Cols)
  require (!tri || oc.n == b.dim + 3 && (oc.first + oc.n ≤ ws.first || ws.first + ws.n ≤ oc.first)) .shape word
  let od ← (if tri then .ok qd else x.desc word d : Res Desc)
  require (tri || od.sc == b.lse) .shape word
  if tri then .ok () else do
    od.aligned
    od.claim x b.outTy.bits rows b.dim
    if od.sc then claimOff x od.scale (4 * rows) else .ok ()
  require (decide ((b.dim + 3) * (ceilLog ((count + b.block - 1) / b.block) - 1) ≤ ws.n)) .shape word
  if tri then s.claimCols x oc.first oc.n else .ok ()
  s.claimCols x ws.first ws.n
  .ok (qd, od, oc, ws)

/-- The pass at the PC that a marker has interrupted. -/
def Ctx.passed (x : Ctx) : Option Pass := (tabGet x.attn x.th.toNat).filter fun p => p.pc == x.pc
/-- A pass begins (R207, R208): the snapshot, the constant row, every Q element and every position are read, the
positions at their timestamps (R175, R326); the home holds the frames. Update-only copies may be evicted first (R339). -/
def State.startPass (s : State) (x : Ctx) (bd : Binding) (word : Word) (qd : Desc) (rows head slot0 count : Nat) : Res (State × Pass) := do
  let (t, q, frames) ← s.recallAll.snapshot x bd word slot0 count
  let ag := s.attnAgent x
  let (t, cb) ← byUnit (t.loadN ag (bd.consts + BitVec.ofNat 64 (32 * head)) 32)
  let core := t.core t.cur
  await (core.spadReady 0 x.spadBytes) .claim
  core.tilePoison qd bd.ty.bits rows bd.dim
  let die := handleDie (bd.handle.setWidth 64)
  let bases := frames.map fun f => (t.frame die f).base
  let poss ← t.positions q bases slot0 count
  let t := (bases.flatMap fun base => linesOf (base + q.posOff) 64).foldl (fun t l => State.stampLoad t ag l) t
  let k := t.kv die
  .ok ({ (t.setKv die { k with holds := k.holds ++ frames.map fun f => (t.nextId, f) }) with nextId := t.nextId + 1 },
    { pc := x.pc
      id := t.nextId
      bind := bd
      seq := q
      bases := bases
      consts := (List.range 8).map fun k => BitVec.ofNat 32 (leNat ((cb.drop (4 * k)).take 4))
      query := (List.range rows).map fun i => (List.range bd.dim).map fun e => bitsAt core.spad (qd.bit bd.ty.bits i e) bd.ty.bits
      poss := poss
      done := []
      tally := {} })
/-- A pass ends (R184, R191, R207): its rows are written, its workspace is zero, the frames are let go, and the control core's next access
follows it. -/
def State.endPass (s : State) (x : Ctx) (p : Pass) (tri : Bool) (pos0 rows : Nat) (od : Desc) (oc ws : Cols) : State :=
  let bd := p.bind
  let finals := (List.range rows).map fun i =>
    Triple.tree bd.dim (p.done.length + 1) (p.done.map fun r => (r[i]?).getD (Triple.identity bd.dim))
  let c := s.core s.cur
  let c := (if tri then c.putTriples oc.first finals else c.putBlend bd p.consts pos0 od finals).mapCols ws.first ws.n fun _ _ => 0
  let u := (s.dropHolds (handleDie (bd.handle.setWidth 64)) p.id).setCore s.cur c
  (u.setCtx ((s.now x).impure.tallied p.tally (if tri then 0 else rows + Config.repeats s.tick 7))).raiseClock (s.me x) (s.clock (s.attnAgent x))
/-- ATTN (R207): the reference evaluation that R184 requires, block by block; a marker takes effect between blocks (R172, R437), and a fault
in the middle leaves nothing behind but the workspace of an earlier interruption. -/
def execAttn (g : Guard) (slot : BitVec 3) (d a b c : Reg) (tri : Bool) (s : State) : Out :=
  let word := encode (.attn g slot d a b c tri)
  control (.attn g slot d a b c tri) g false s fun s x => do
    let pos0 := ((x.g c).extractLsb' 0 32).toNat
    let rows := ((x.g c).extractLsb' 32 16).toNat
    let head := ((x.g c).extractLsb' 48 16).toNat
    let slot0 := ((x.g b).extractLsb' 0 32).toNat
    let count := ((x.g b).extractLsb' 32 32).toNat
    match (match x.passed with | some p => some p.bind | none => x.bindings[slot.toNat]) with
    | none => trapWith .bind 0
    | some bd => do
      let (qd, od, oc, ws) ← s.attnChecks x bd word d a tri pos0 rows head count
      let (t, p) ← (match x.passed with
        | some p => .ok (s, p)
        | none => s.startPass x bd word qd rows head slot0 count : Res (State × Pass))
      let die := handleDie (bd.handle.setWidth 64)
      let left := (count + bd.block - 1) / bd.block - p.done.length
      let n := s.before left
      match State.blocks (s.attnAgent x) (t.kv die).frSz.toNat pos0 rows head slot0 count n t p with
      | .error (.trap tr) =>
        .ok ((s.dropHolds die p.id).trapNow { x with attn := tabDel x.attn x.th.toNat } word tr, .gone)
      | .error e => .error e
      | .ok (u, p) =>
        if n == left then .ok (u.endPass x p tri pos0 rows od oc ws, .seq)
        else
          let u := u.setCore s.cur ((u.core s.cur).putPending p rows (p.done.length + left - n) ws)
          .ok (u.setCtx { (u.now x).impure with attn := tabPut x.attn x.th.toNat p, wait := .operand }, .gone)

/-- TMERGE (R209). -/
def execTmerge (g : Guard) (d a b : Reg) (s : State) : Out :=
  let word := encode (.tmerge g d a b)
  control (.tmerge g d a b) g false s fun s x => do
    let dc ← colRange word (x.g d)
    let ac ← rangeOf word (x.g a) dc.n
    let bc ← rangeOf word (x.g b) dc.n
    require (decide (4 ≤ dc.n)) .shape word
    s.claimCols x dc.first dc.n
    s.claimCols x ac.first ac.n
    s.claimCols x bc.first bc.n
    let c := s.core s.cur
    let dim := dc.n - 3
    let rows := (List.range 128).map fun i => (c.tripleAt i ac.first dim).merge (c.tripleAt i bc.first dim)
    .ok (s.setCore s.cur (c.putTriples dc.first rows), .seq)

/-- An ATT_ register (R199, R223). -/
def Ctx.attRead (x : Ctx) (n : Nat) : Word :=
  if h : 0x100 ≤ n ∧ n < 0x106 then x.att[n - 0x100]
  else if n == 0x106 then BitVec.ofNat 64 ((List.range 8).foldl (fun v k => v + ((x.bindings[k]?).getD none).isSome.toNat * 2 ^ k) 0)
  else 0

end Sys2Proof.Machine
end

