-- ==== Sys2Proof/Machine/Stream.lean ====
section
/-! DEFINITION. Memory ports and their streams (R240, R309 to R316), and the stream and fabric instructions STRM, SBAR, BTOK, ARGW,
TINJ, TPOP and FSTAT (R311 to R322). -/

namespace Sys2Proof.Machine

/-! Fields of a port block (R309). -/

def Port.done (q : Port) (k : Nat) : Bool := q.word.getLsbD (48 + k)
def Port.waits (q : Port) (k : Nat) : Bool := q.word.getLsbD (32 + k)
def Port.dscope (q : Port) : Scope :=
  match (q.word.extractLsb' 29 3).toNat with | 0 => .core | 1 => .part | 2 => .dev | 3 => .fab | _ => .sys
def Port.spec? (q : Port) : Bool := q.word.getLsbD 28
def Port.csense (q : Port) : Bool := q.word.getLsbD 27
def Port.cuse (q : Port) : Bool := q.word.getLsbD 26
/-- A condition is taken (R309, R314). -/
def Port.takes (q : Port) (t : Token) : Bool := t.taken != q.csense

def readMode (m : StrmMode) : Bool := m == .rd || m == .fib
def writeMode (m : StrmMode) : Bool := m == .wr || m == .scat || m == .sadd || m == .smin || m == .smax

def portAgent (c p : Nat) (x : Ctx) : Agent := coreAgent 1 c p x.id x.asid

/-- Translation of a port's access: through the latched slot that holds it, else by a walk (R240). -/
def State.latchedWalk (s : State) (ag : Agent) (latches : List Latch) (va : Word) (acc : Acc) : Res Walk :=
  match latches.find? (fun l => decide (l.vbase ≤ va.toNat) && decide (va.toNat < l.vbase + l.size)) with
  | some l => match l.pbase with
    | some pb => do
      let w : Walk := ⟨pb + (va.toNat - l.vbase), l.leaf, l.entry, l.vbase, l.size, [], l.part⟩
      w.permit (s.region w.pa == .view) acc va
      .ok w
    | none => trapWith l.code va l.sub
  | none => s.translate ag va acc

/-- The latched slot of a region: the leaf page that contains its address, or an invalid slot of the 64 KB around it (R240). A walk that
needs an answer from outside waits for it. -/
def State.latch (s : State) (ag : Agent) (va : Word) : Res (State × Latch) :=
  match s.walk ag va with
  | .ok w => .ok (s.stampWalk ag w, ⟨va, w.vbase, w.size, some (w.pa - va.toNat % w.size), w.leaf, w.entry, .page, 0, false, w.part⟩)
  | .error (.trap t) => .ok (s.stampReads ag t.reads, ⟨va, va.toNat / 65536 * 65536, 65536, none, 0, 0, t.code, t.sub, false, 0⟩)
  | .error e => .error e
/-- The slots of a list of regions. -/
def State.latchAll (s : State) (ag : Agent) (vas : List Word) : Res (State × List Latch) :=
  vas.foldlM (fun (t, ls) va => do
    let (u, l) ← State.latch t ag va
    .ok (u, ls ++ [l])) (s, [])
/-- The slots in the scope of an invalidation translated again (R240). -/
def State.relatch (s : State) (ag : Agent) (ls : List Latch) : Res (State × List Latch) :=
  ls.foldlM (fun (t, acc) l =>
    if l.stale then do
      let (u, l') ← State.latch t ag l.va
      .ok (u, acc ++ [l'])
    else .ok (t, acc ++ [l])) (s, [])

/-- Bytes read by a stream: from the scratchpad, or a global load (R312). -/
def State.streamLoad (s : State) (c : Nat) (x : Ctx) (ag : Agent) (q : List Latch) (sp : Bool) (va : Word) (n : Nat) :
    Res (State × List Byte) :=
  if sp then do
    let bs ← s.readSpad c x va n
    .ok (s, bs)
  else do
    let w ← s.latchedWalk ag q va .load
    s.loadVia ag va n w
/-- An 8-byte entry of a fibre (R312): one access where it is aligned, and else one for each half (R92). -/
def State.entryLoad (s : State) (c : Nat) (x : Ctx) (ag : Agent) (q : List Latch) (sp : Bool) (va : Word) : Res (State × List Byte) :=
  if va.toNat % 8 == 0 then s.streamLoad c x ag q sp va 8
  else do
    let (t, a) ← s.streamLoad c x ag q sp va 4
    let (t, b) ← t.streamLoad c x ag q sp (va + 4) 4
    .ok (t, a ++ b)
/-- Bytes written by a stream. -/
def State.streamStore (s : State) (c : Nat) (x : Ctx) (ag : Agent) (q : List Latch) (sp : Bool) (va : Word) (bs : List Byte) : Res State :=
  if sp then s.writeSpad c x va bs
  else do
    let w ← s.latchedWalk ag q va .store
    s.storeVia ag va bs w

/-- The payload of an element (R312). -/
def payloadOf (t : Ty) (v : Nat) : BitVec 32 := (extend t.signed t.bytes v).setWidth 32

/-- A stream that starts (R312): a read stream of count 0 emits its final EOF alone. -/
def Stream.started (st : Stream) : Stream :=
  if readMode st.mode && st.count == 0 then { st with emit := [Token.eof (if st.mode == .rd && st.rowLen != 0 then 1 else 0)] } else st
/-- The tokens that close a row and the stream behind element number `done` (R312). -/
def Stream.closing (st : Stream) (done : Word) : List Token :=
  let last := done == st.count
  if st.mode == .fib then (if last then [Token.eof 0] else [])
  else if st.mode == .rd then
    (if st.rowLen != 0 && (last || done.toNat % st.rowLen.toNat == 0) then [Token.eof 0] else []) ++
    (if last then [Token.eof (if st.rowLen != 0 then 1 else 0)] else [])
  else []

def PortItem.isStream : PortItem → Bool | .stream _ => true | .bar _ => false
/-- The streams that SBAR.ord asked a stream to wait for have ended (R318). -/
def Fabric.ordered (f : Fabric) (st : Stream) : Bool :=
  st.await.all fun (p, k) => match tabGet f.ports p with | some q => decide (k ≤ q.ended) | none => true

/-- The scope at which the accesses of a stream are performed: .core for one of the scratchpad (R332). -/
def Stream.scope (st : Stream) : Scope := if st.sp then .core else st.sc
/-- The port takes up the next entry of its queue: a stream that may start, or a BAR that has room (R313, R319). -/
def advancePort (site : Nat) : Nat → Fabric → Port → Fabric × Port
  | 0, f, q => (f, q)
  | n + 1, f, q =>
    if q.running.isSome then (f, q)
    else match q.queue with
      | [] => (f, q)
      | .stream st :: r => 
        if f.ordered st then (f, { q with running := some st.started, queue := r, reach := widerScope q.reach st.scope }) else (f, q)
      | .bar id :: r =>
        if 0 < f.space site 0 then advancePort site n (f.push site 0 (Token.bar id)) { q with queue := r } else (f, q)

/-- The running stream has ended (R313). -/
def Port.finish (q : Port) : Port := { q with running := none, ended := q.ended + 1 }
/-- An EOF that the port emits or consumes ends a segment (R310). -/
def Port.endSegment (q : Port) : Port := { q with segment := q.segment + 1, due := q.due + 1 }

/-- Pushes the formed tokens of the running stream that have room; a read stream ends with its last token. -/
def pushEmit (site : Nat) : Nat → Fabric → Port → Stream → Fabric × Port × Stream
  | 0, f, q, st => (f, q, st)
  | n + 1, f, q, st => match st.emit with
    | [] => (f, q, st)
    | t :: r =>
      if 0 < f.space site 0 then
        pushEmit site n (f.push site 0 t) (if t.isEof then q.endSegment else q) { st with emit := r }
      else (f, q, st)
def Port.settleStream (f : Fabric) (site : Nat) (q : Port) (st : Stream) : Fabric × Port :=
  let (g, q', st') := pushEmit site 8 f q st
  let over' := st'.emit.isEmpty && st'.count != 0 && st'.done == st'.count || (st'.emit.isEmpty && readMode st'.mode && st'.count == 0)
  let q'' := { q' with running := some st' }
  advancePort site 8 g (if over' then q''.finish else q'')

/-- No access of segment k before done token k of every port in WAIT (R310). -/
def Port.gate (q : Port) : Bool :=
  (List.range 16).all fun k => !q.waits k || decide (q.segment < (tabGet q.received k).getD 0)

/-- The issue of an access of a segment observes the done tokens that the port has awaited (R310, R333). -/
def State.gated (s : State) (c p : Nat) (x : Ctx) (q : Port) : State :=
  ((List.range 16).filter q.waits).foldl (fun t k => State.acquire t (portAgent c p x) (.done c k)) s

/-- The accesses of the streams that SBAR.ord asked a stream to wait for have been performed at their scopes (R318). -/
def State.awaited (s : State) (c : Nat) (x : Ctx) (f : Fabric) (st : Stream) : Bool :=
  st.await.all fun (k, _) => match tabGet f.ports k with
    | some q => s.performed (portAgent c (k - 64) x) q.reach
    | none => true

/-- Accesses to other devices that a port has just issued keep its position in the stream (R313). -/
def State.notePos (b t : State) (pos : Word) : State :=
  { t with remote := t.remote.map fun r => if b.nextId ≤ r.id then { r with pos := pos } else r }
/-- What a port that reads has issued and not yet emitted: formed tokens, or an access that waits for its answer (R432). -/
def Port.pending (q : Port) : Bool := q.asking || q.running.any fun st => !st.emit.isEmpty
/-- A port runs a read or gathering stream: an ingress of the marker (R432). -/
def Port.ingress (q : Port) : Bool := match q.running with | some st => readMode st.mode || st.mode == .gath | none => false
/-- The marker stands behind the tokens of an output's channel (R433): a channel within the core has it at its input, one that
crosses to another core at the output until the tokens ahead of it have left. -/
def Fabric.markOut (f : Fabric) (site ch : Nat) : Fabric :=
  (f.wiresFrom site ch).foldl (fun g w =>
    if w.localTo then
      (let k := chKey w.dstSite.toNat w.dstCh.toNat; Fabric.setIn g k { Fabric.inq g k with mark := true })
    else (let k := chKey site ch; Fabric.setOut g k { Fabric.outq g k with mark := true })) f
/-- Every output of a site. -/
def Fabric.markSite (f : Fabric) (site : Nat) : Fabric := (List.range 8).foldl (fun g ch => Fabric.markOut g site ch) f
def Fabric.setPassed (f : Fabric) (site : Nat) (b : Bool) : Fabric :=
  { f with
    elems := f.elems.map fun (k, e) => if k == site then (k, { e with passed := b }) else (k, e)
    ops := f.ops.map fun (k, o) => if k == site then (k, { o with passed := b }) else (k, o)
    ports := f.ports.map fun (k, p) => if k == site then (k, { p with passed := b }) else (k, p) }
/-- A site passes the marker. -/
def Fabric.pass (f : Fabric) (site : Nat) : Fabric := (f.setPassed site true).markSite site
/-- A port that reads passes the marker of a dusk once what it has issued is in its output (R432). -/
def Fabric.passRead (f : Fabric) (dusk : Bool) (site : Nat) : Fabric :=
  if dusk && (tabGet f.ports site).any fun q => q.ingress && !q.passed && !q.pending then f.pass site else f
/-- One step of port p of core c, which runs a stream of a mode the row names. An access that fails is withheld (R257): its trap
is raised, except after a quiet retry, with DRAIN set after a drain (R258). While a dusk drains, a port that reads puts what it has issued
into its output, ahead of the marker, and issues nothing else (R432). -/
def portStep (c p : Nat) (s : State) (ok : StrmMode → Bool)
    (body : State → Ctx → Fabric → Port → Stream → Res (Option (State × Fabric × Port × Stream))) : Out :=
  let site := 64 + p
  siteStep s c fun s x f =>
    match tabGet f.ports site with
    | none => none
    | some q0 =>
      let dusk := (s.core c).dusk.isSome
      let ends := dusk && q0.ingress && !q0.passed && q0.pending
      if (s.halted c f site || (dusk && q0.ingress)) && !ends || q0.withheld.isSome then none
      else
        let (f, q) := if ends then (f, q0) else advancePort site 8 f q0
        let moved := q != q0
        let put := fun (f : Fabric) (q : Port) => { f with ports := tabPut f.ports site q }.passRead dusk site
        let rest := if moved then some (s, put f q, []) else none
        match q.running with
        | none => rest
        | some st =>
          if !ok st.mode || !s.awaited c x f st then rest
          else if !st.emit.isEmpty then
            let (g, q') := Port.settleStream f site q st
            if q' == q then rest else some (s, put g q', [])
          else match body (if q.gate then s.gated c p x q else s) x f q st with
            | .ok none => rest
            | .ok (some (t, g, q', st')) =>
              let (g, q'') := Port.settleStream g site { q' with attempt := .first, blocked := false, asking := false } st'
              some ((s.notePos t st.done).consume (portAgent c p x), put g q'', [])
            | .error (.trap t) =>
              let tr := { f.siteTrap t.code t.val t.sub site t.chan.toNat with drain := q.attempt == .drained }
              some ((s.stampReads (portAgent c p x) t.reads).consume (portAgent c p x),
                put f { q with withheld := some tr, attempt := .first, asking := false },
                if q.attempt == .quiet then [] else [tr])
            | .error (.wait w) =>
              if w == .migration && !q.blocked then
                (let g := put f { q with blocked := true }; some ((s.setFabric c g).startLimit c, g, []))
              else rest
            | .error e => some (s.askOutside e, put f { q with asking := true }, [])

/-- A token at the port's data input that it does not take: SHAPE (R251, log entry 31). -/
def wrongToken {α : Type} (t : Token) : Res α := .error (.trap ⟨.shape, t.word, 0, none, 0xFF, 0, 0, false, []⟩)

/-- Whether the condition of the next element has arrived taken, with the fabric behind it (R314). -/
def condition (f : Fabric) (site : Nat) (q : Port) : Option Fabric :=
  if !q.cuse then some f
  else match f.head site 1 with
    | some t => if t.isData && q.takes t then some (f.pop site 1) else none
    | none => none

/-- PORT_READ_ACCESS (R312 .rd and .fib). -/
def execPortReadAccess (c p : Nat) (s : State) : Out :=
  portStep c p s readMode fun s x f q st =>
    let site := 64 + p
    if st.done == st.count || !q.gate then .ok none
    else match condition f site q with
      | none => .ok none
      | some g => do
        let ag := portAgent c p x
        if st.mode == .fib then do
          let (t, bs) ← s.entryLoad c x ag q.latches st.sp (st.base + 8 * st.done)
          .ok (some (t, g, { q with spec := none }, { st with
            done := st.done + 1
            emit := [Token.coordTok (BitVec.ofNat 32 (leNat (bs.take 4))), Token.data (BitVec.ofNat 32 (leNat (bs.drop 4)))] ++
              st.closing (st.done + 1) }))
        else do
          let (t, bs) ← s.streamLoad c x ag q.latches st.sp (st.base + st.done * st.stride.setWidth 64) st.ty.bytes
          .ok (some (t, g, { q with spec := none }, { st with
            done := st.done + 1
            emit := [Token.data (payloadOf st.ty (leNat bs))] ++ st.closing (st.done + 1) }))

/-- The XLAT operator whose output feeds an input of a port (R241, R312). -/
def Fabric.xlatSource (f : Fabric) (site : Nat) : Option Operator :=
  match f.wires.find? (fun w => w.localTo && w.dstSite.toNat == site && w.dstCh == 0) with
  | some w => match tabGet f.ops w.srcSite.toNat with
    | some o => if o.kind == 7 then some o else none
    | none => none
  | none => none
/-- The address and latched slots of a gather (R312). -/
def gatherAddr (f : Fabric) (site : Nat) (q : Port) (st : Stream) (v : BitVec 32) : Word × List Latch :=
  match f.xlatSource site with
  | some o => (((o.table[v.toNat / 2 ^ 26]?).getD 0) + BitVec.ofNat 64 (v.toNat % 2 ^ 26), o.latches)
  | none => (st.base + BitVec.ofNat 64 (v.toNat * st.ty.bytes), q.latches)

/-- PORT_GATHER_ACCESS (R312 .gath): one token of input 0. -/
def execPortGatherAccess (c p : Nat) (s : State) : Out :=
  portStep c p s (· == .gath) fun s x f q st =>
    let site := 64 + p
    match f.head site 0 with
    | none => .ok none
    | some t =>
      if t.isData then
        if !q.gate then .ok none
        else match condition f site q with
          | none => .ok none
          | some g => do
            let (va, ls) := gatherAddr f site q st t.payload
            let (u, bs) ← s.streamLoad c x (portAgent c p x) ls st.sp va st.ty.bytes
            .ok (some (u, g.pop site 0, { q with spec := none },
              { st with done := st.done + 1, emit := [Token.data (payloadOf st.ty (leNat bs))] }))
      else if t.cls == 6 then .ok (some (s, f.pop site 0, q, st))
      else if t.cls.toNat ≤ 3 then .ok (some (s, f.pop site 0, q, { st with emit := [t] }))
      else wrongToken t

/-- One token of input 0 of a write stream: a DATA performs the access, a COORD sets the index, an EOF is consumed (R312). -/
def writeToken (c p : Nat) (s : State) (ok : StrmMode → Bool)
    (access : State → Ctx → Port → Stream → Word → BitVec 32 → Res State) : Out :=
  portStep c p s ok fun s x f q st =>
    let site := 64 + p
    match f.head site 0 with
    | none => .ok none
    | some t =>
      if t.isData then
        if !q.gate then .ok none
        else match condition f site q with
          | none => .ok none
          | some g => do
            let step := if st.mode == .wr then st.stride.setWidth 64 else BitVec.ofNat 64 st.ty.bytes
            let u ← access s x q st (st.base + st.index * step) t.payload
            .ok (some (u, g.pop site 0, q, { st with done := st.done + 1, index := st.index + 1 }))
      else if t.isCoord then .ok (some (s, f.pop site 0, q, { st with index := t.payload.setWidth 64 }))
      else if t.isEof then .ok (some (s, f.pop site 0, q.endSegment, st))
      else if t.cls == 6 then .ok (some (s, f.pop site 0, q, st))
      else if t.isBar then .ok none
      else wrongToken t

/-- PORT_WRITE_ACCESS (R312 .wr and .scat). -/
def execPortWriteAccess (c p : Nat) (s : State) : Out :=
  writeToken c p s (fun m => m == .wr || m == .scat) fun s x q st va v =>
    s.streamStore c x (portAgent c p x) q.latches st.sp va (natLe st.ty.bytes v.toNat)

/-- The reduction of a mode and type (R312). -/
def redOf (m : StrmMode) (t : Ty) : AmoOp :=
  match m, t with
  | .sadd, .f32 => .fadd
  | .sadd, _ => .add
  | .smin, .f32 => .fmin
  | .smin, .z32 => .minz
  | .smin, _ => .min
  | _, .f32 => .fmax
  | _, .z32 => .maxz
  | _, _ => .max
/-- PORT_REDUCTION_ACCESS (R312 .sadd, .smin and .smax). -/
def execPortReductionAccess (c p : Nat) (s : State) : Out :=
  writeToken c p s (fun m => m == .sadd || m == .smin || m == .smax) fun s x q st va v => do
    let ag := portAgent c p x
    let w ← s.latchedWalk ag q.latches va .atomic
    s.reduceVia ag va (redOf st.mode st.ty) false (v.setWidth 64) st.sc w

/-- PORT_CONDITION (R314): a condition that is not taken passes its element with no access. An EOF, BAR or other token of the
condition input is consumed (R300, log entry 31). -/
def execPortCondition (c p : Nat) (s : State) : Out :=
  portStep c p s (fun _ => true) fun s _ f q st =>
    let site := 64 + p
    if !q.cuse then .ok none
    else match f.head site 1 with
      | none => .ok none
      | some t =>
        if !t.isData then .ok (some (s, f.pop site 1, q, st))
        else if q.takes t then .ok none
        else if readMode st.mode then
          (if st.done == st.count then .ok none
           else .ok (some (s, f.pop site 1, { q with spec := none },
             { st with done := st.done + 1, emit := [Token.data 0] ++ st.closing (st.done + 1) })))
        else match f.head site 0 with
          | none => .ok none
          | some u =>
            if !u.isData then .ok none
            else
              let g := (f.pop site 1).pop site 0
              if st.mode == .gath then
                .ok (some (s, g, { q with spec := none }, { st with done := st.done + 1, emit := [Token.data 0] }))
              else .ok (some (s, g, q, { st with done := st.done + 1, index := st.index + 1 }))

/-- SPECULATIVE_FETCH (R314, R316, R336): the next element is fetched before its condition arrives. The fetch takes no timestamp
and changes nothing else, and a fault of it is deferred to the ordinary read. -/
def execSpeculativeFetch (c p : Nat) (s : State) : Out :=
  siteStep s c fun s x f =>
    let site := 64 + p
    match tabGet f.ports site with
    | none => none
    | some q => match q.running with
      | none => none
      | some st =>
        if s.halted c f site || q.held || !q.spec? || q.spec.isSome || (f.head site 1).isSome || !(readMode st.mode || st.mode == .gath) then none
        else
          let place : Option (Word × List Latch × Nat) :=
            if st.mode == .gath then
              match f.head site 0 with
              | some t => if t.isData then (let (va, ls) := gatherAddr f site q st t.payload; some (va, ls, st.ty.bytes)) else none
              | none => none
            else if st.done == st.count then none
            else if st.mode == .fib then some (st.base + 8 * st.done, q.latches, 4)
            else some (st.base + st.done * st.stride.setWidth 64, q.latches, st.ty.bytes)
          match place with
          | none => none
          | some (va, ls, n) => match s.streamLoad c x (portAgent c p x) ls st.sp va n with
            | .ok (_, bs) => some (s, { f with ports := tabPut f.ports site { q with spec := some (st.done.toNat, bs) } }, [])
            | .error _ => none

/-- PORT_BAR_ARRIVAL (R319): a write port that consumes a BAR arrives on the barrier entered for its id, once its accesses have
been performed at the stream's scope; with no barrier entered it consumes the BAR. -/
def execPortBarArrival (c p : Nat) (s : State) : Out :=
  portStep c p s writeMode fun s x f q st =>
    let site := 64 + p
    match f.head site 0 with
    | none => .ok none
    | some t =>
      let ag := portAgent c p x
      if !t.isBar || !s.performed ag q.reach then .ok none
      else match tabGet x.btok t.aux.toNat with
        | none => .ok (some (s, f.pop site 0, q, st))
        | some r => do
          let u ← s.barUpdate c ag r 1 0
          .ok (some (u, f.pop site 0, q, st))

/-- PORT_DONE_TOKEN (R310, R333): the accesses of the oldest ended segment are performed at DSCOPE, and each port in DONE receives
a token. -/
def execPortDoneToken (c p : Nat) (s : State) : Out :=
  siteStep s c fun s x f =>
    let site := 64 + p
    match tabGet f.ports site with
    | none => none
    | some q =>
      if q.due == 0 || !s.performed (portAgent c p x) q.dscope then none
      else
        let ag := portAgent c p x
        let g := { f with ports := tabPut f.ports site { q with due := q.due - 1 } }
        let g := ((List.range 16).filter q.done).foldl (fun (g : Fabric) k => match tabGet g.ports (64 + k) with
          | some r => { g with ports := tabPut g.ports (64 + k) { r with received := tabPut r.received p ((tabGet r.received p).getD 0 + 1) } }
          | none => g) g
        some ((s.releaseAt ag (.done c p)).publish ag q.dscope, g, [])

/-- PORT_RETRY (R257): a withheld port for which a retry is due tries its access again. -/
def execPortRetry (c p : Nat) (s : State) : Out :=
  siteStep s c fun s _ f =>
    let site := 64 + p
    match tabGet f.ports site with
    | none => none
    | some q => match q.retry with
      | none => none
      | some a =>
        if q.withheld.isNone then none
        else some (s, { f with ports := tabPut f.ports site { q with withheld := none, retry := none, attempt := a } }, [])

/-- RELATCH_TOKEN (R240, R241): a node with a slot in an invalidation's scope retranslates those slots; an XLAT forwards the token to
its ports, and a withheld port or operator tries again. An operator's walks are the control core's (log entry 6). -/
def execRelatchToken (c site : Nat) (s : State) : Out :=
  siteStep s c fun s x f =>
    if site < 64 then
      match tabGet f.ops site with
      | none => none
      | some o =>
        if !o.relatch || f.space site 0 == 0 then none
        else match s.relatch (coreAgent 0 c 0 x.id x.asid) o.latches with
          | .error e => some (s.askOutside e, f, [])
          | .ok (t, ls) =>
            let again := o.withheld.isSome
            let o' := { o with
              relatch := false, latches := ls, withheld := none, emitted := o.emitted + 1, attempt := if again then .quiet else o.attempt }
            some (t, { (f.push site 0 ⟨0, 6, 0⟩) with ops := tabPut f.ops site o' }, [])
    else match tabGet f.ports site with
      | none => none
      | some q =>
        if !q.relatch then none
        else match s.relatch (portAgent c (site - 64) x) q.latches with
          | .error e => some (s.askOutside e, f, [])
          | .ok (t, ls) =>
            let q' := { q with relatch := false, latches := ls, retry := if q.withheld.isSome then some .quiet else q.retry }
            some (t, { f with ports := tabPut f.ports site q' }, [])

/-! Instructions. -/

/-- The active configuration and a port of it, or SHAPE with the word (R312, R321). -/
def Ctx.portOf (x : Ctx) (word : Word) (p : Nat) : Res (Fabric × Port) :=
  match x.fabric with
  | none => trapWith .shape word
  | some f => match tabGet f.ports (64 + p) with
    | none => trapWith .shape word
    | some q => .ok (f, q)

/-- STRM (R311 to R313). The stream's accesses follow the control core's earlier ones (R36, R335). -/
def execStrm (g : Guard) (port : BitVec 4) (a b c : Reg) (mode : StrmMode) (ty : Ty) (sc : Scope) (sp : Bool) (s : State) : Out :=
  let word := encode (.strm g port a b c mode ty sc sp)
  control (.strm g port a b c mode ty sc sp) g false s fun s x => do
    let p := port.toNat
    let (f, q) ← x.portOf word p
    require ((readMode mode || f.wiredIn (64 + p) 0) && (writeMode mode || f.wiredOut (64 + p) 0)) .shape word
    let w := ty.bytes
    let stride := (x.g c).extractLsb' 0 32
    require ((x.g a).toNat % w == 0) .align (x.g a)
    require (stride.toNat % w == 0) .align (stride.setWidth 64)
    let waiting := (q.queue.filter PortItem.isStream).length
    await (decide (waiting < 3)) .interlock
    let st : Stream := ⟨mode, ty, sc, sp, x.g a, x.g b, if stride == 0 then BitVec.ofNat 32 w else stride, (x.g c).extractLsb' 32 32,
      0, 0, [], f.order⟩
    let q := { q with queue := q.queue ++ [.stream st], latestRead := readMode mode, issued := q.issued + 1 }
    let (f', q') := advancePort (64 + p) 8 f q
    let t := s.setCtx { x with fabric := some { f' with ports := tabPut f'.ports (64 + p) q' } }
    .ok ((t.handOver (s.me x) (portAgent s.cur p x)).settle s.cur, .seq)

/-- A port has no stream running or queued and its accesses are performed at its streams' scopes (R318). -/
def State.portIdle (s : State) (x : Ctx) (p : Nat) (q : Port) : Bool :=
  q.running.isNone && !q.queue.any PortItem.isStream && s.performed (portAgent s.cur p x) q.reach
/-- The ports of the active configuration that a mask names (R318). A port absent from the configuration has no stream. -/
def Ctx.namedPorts (x : Ctx) (m : Word) : List (Nat × Port) :=
  match x.fabric with
  | none => []
  | some f => (List.range 16).filterMap fun p => if m.getLsbD p then (tabGet f.ports (64 + p)).map fun q => (p, q) else none
/-- SBAR (R318): the task's later instructions follow the accesses of the named ports. -/
def execSbar (g : Guard) (a : Reg) (s : State) : Out :=
  control (.sbar g a) g false s fun s x => do
    let m := x.g a
    require (m.extractLsb' 16 48 == 0) .shape (encode (.sbar g a))
    await ((x.namedPorts m).all fun (p, q) => s.portIdle x p q) .interlock
    .ok ((x.namedPorts m).foldl (fun t (p, _) => t.observe (s.me x) (t.release (portAgent s.cur p x))) s, .seq)
/-- SBAR.ord (R318): it completes at once, and later streams wait for the streams issued so far at the named ports. -/
def execSbarOrd (g : Guard) (a : Reg) (s : State) : Out :=
  control (.sbarOrd g a) g false s fun s x => do
    let m := x.g a
    require (m.extractLsb' 16 48 == 0) .shape (encode (.sbarOrd g a))
    match x.fabric with
    | none => .ok (s, .seq)
    | some f =>
      let order := (List.range 16).foldl (fun o p => if m.getLsbD p then
        (match tabGet f.ports (64 + p) with | some q => tabPut o (64 + p) q.issued | none => o) else o) f.order
      .ok (s.setCtx { x with fabric := some { f with order := order } }, .seq)

/-- BTOK (R319, R350). -/
def execBtok (g : Guard) (a : Reg) (id : BitVec 5) (gm : Bool) (s : State) : Out :=
  control (.btok g a id gm) g false s fun s x => do
    let r : BarRef := ⟨gm, x.g a⟩
    let (t, _) ← s.barChecked s.cur (s.me x) r
    let y := t.now x
    let y := { y with btok := tabPut y.btok id.toNat r }
    let y := match y.fabric with
      | none => y
      | some f =>
        let f' := f.ports.foldl (fun (h : Fabric) (k, q) =>
          if q.latestRead then
            let (h', q') := advancePort k 8 h { q with queue := q.queue ++ [.bar id] }
            { h' with ports := tabPut h'.ports k q' }
          else h) f
        { y with fabric := some f' }
    .ok ((t.setCtx y).settle s.cur, .seq)

/-- Kinds whose argument A the table of R299 does not mark zero. -/
def takesArgument (kind : Byte) : Bool := kind == 1 || kind == 2 || kind == 3 || kind == 8
/-- ARGW (R320). -/
def execArgw (g : Guard) (op : BitVec 4) (a : Reg) (s : State) : Out :=
  let word := encode (.argw g op a)
  control (.argw g op a) g false s fun s x => do
    require ((x.g a).extractLsb' 32 32 == 0) .shape word
    match x.fabric with
    | none => trapWith .shape word
    | some f => match tabGet f.ops (48 + op.toNat) with
      | none => trapWith .shape word
      | some o => do
        require (takesArgument o.kind) .shape word
        .ok (s.setCtx { x with fabric := some { f with ops := tabPut f.ops (48 + op.toNat) { o with a := (x.g a).extractLsb' 0 32 } } },
          .seq)

/-- TINJ (R321). -/
def execTinj (g : Guard) (ch : BitVec 2) (a : Reg) (s : State) : Out :=
  let word := encode (.tinj g ch a)
  control (.tinj g ch a) g false s fun s x => do
    let t := Token.ofWord (x.g a)
    require ((x.g a).extractLsb' 40 24 == 0 && t.cls != 4 && t.cls != 6 && t.cls != 7 && !t.bad) .shape word
    match x.fabric with
    | none => trapWith .shape word
    | some f => do
      require (f.wiredOut 82 ch.toNat) .shape word
      await (decide (0 < f.space 82 ch.toNat)) .channel
      .ok ((s.setCtx { x with fabric := some (f.push 82 ch.toNat t) }).settle s.cur, .seq)
/-- TPOP (R321). -/
def execTpop (g : Guard) (d : Reg) (ch : BitVec 2) (s : State) : Out :=
  let word := encode (.tpop g d ch)
  control (.tpop g d ch) g false s fun s x =>
    match x.fabric with
    | none => trapWith .shape word
    | some f => do
      require (f.wiredIn 82 ch.toNat) .shape word
      match f.head 82 ch.toNat with
      | none => .error (.wait .channel)
      | some t => .ok ((s.setCtx { x.setG d t.word with fabric := some (f.pop 82 ch.toNat) }).settle s.cur, .seq)

/-- The configuration is quiescent (R297): channels are empty, no operator holds a token, and each port is idle or runs a write
stream of count 0 (its input is empty with the channels). -/
def Operator.holds (o : Operator) : Bool :=
  !o.emit.isEmpty || !o.buf.isEmpty || o.rep != 0 || (o.kind == 11 && o.count != 0) || o.withheld.isSome
def Port.quiet (q : Port) : Bool :=
  q.queue.isEmpty && !q.held && (match q.running with
    | none => true
    | some st => writeMode st.mode && st.count == 0)
def Fabric.quiescent (f : Fabric) : Bool :=
  f.ins.all (fun (_, q) => q.toks.isEmpty) && f.outs.all (fun (_, q) => q.toks.isEmpty) &&
  f.ops.all (fun (_, o) => !o.holds) && f.ports.all (fun (_, q) => q.quiet)

/-- The status word of a port (R322). -/
def portStatus (f : Fabric) (site : Nat) (q : Port) : Word :=
  let queued := (q.queue.filter PortItem.isStream).length
  let done := match q.running with | some st => st.done.toNat % 2 ^ 32 | none => 0
  let awaiting := q.cuse && q.running.isSome && (f.head site 1).isNone
  BitVec.ofNat 64 (done + queued * 2 ^ 32 + q.running.isSome.toNat * 2 ^ 35 + (f.portHeld site q).toNat * 2 ^ 36 +
    awaiting.toNat * 2 ^ 37)
/-- FSTAT (R322). -/
def execFstat (g : Guard) (d : Reg) (site : BitVec 5) (s : State) : Out :=
  simple (.fstat g d site) g s fun x =>
    let v : Word := match x.fabric with
      | none => 0
      | some f =>
        let k := site.toNat
        if k < 16 then (match tabGet f.ports (64 + k) with | some q => portStatus f (64 + k) q | none => 0)
        else match tabGet f.ops (32 + k) with
          | some o => BitVec.ofNat 64 (o.emitted.toNat + (!o.buf.isEmpty).toNat * 2 ^ 32 + (f.opHeld (32 + k) o).toNat * 2 ^ 33)
          | none => 0
    x.setG d v
/-- FSTAT.all (R322). -/
def execFstatAll (g : Guard) (d : Reg) (s : State) : Out :=
  simple (.fstatAll g d) g s fun x =>
    let v : Word := match x.fabric with
      | none => bitWord true 48
      | some f =>
        let bits := fun (p : Nat → Bool) => (List.range 16).foldl (fun n k => n + (p k).toNat * 2 ^ k) 0
        let run := bits fun k => match tabGet f.ports (64 + k) with | some q => q.running.isSome | none => false
        let held := bits fun k => match tabGet f.ports (64 + k) with | some q => f.portHeld (64 + k) q | none => false
        let ops := bits fun k => match tabGet f.ops (48 + k) with | some o => f.opHeld (48 + k) o | none => false
        BitVec.ofNat 64 (run + held * 2 ^ 16 + ops * 2 ^ 32 + f.quiescent.toNat * 2 ^ 48)
    x.setG d v

end Sys2Proof.Machine
end

