-- ==== Sys2Proof/Machine/Cfg.lean ====
section
/-! DEFINITION. The configuration image: reading, checking and activating it (R240, R241, R268, R269, R288, R294 to R299, R309, R315),
and CFG and CFGSW. -/

namespace Sys2Proof.Machine

/-- An operator block with its table, and a port block with its regions (R298, R309). -/
structure OpBlock where
  site : Nat
  w0 : Word
  w1 : Word
  table : List Word
  deriving DecidableEq, Repr
structure PortBlock where
  site : Nat
  word : Word
  regions : List Word
  deriving DecidableEq, Repr
/-- An image taken apart (R294). -/
structure Image where
  elems : List (Nat × Word × List Word)
  ops : List OpBlock
  ports : List PortBlock
  wires : List Word
  deriving DecidableEq, Repr

def OpBlock.kind (b : OpBlock) : Nat := (b.w0.extractLsb' 0 8).toNat
def OpBlock.mode (b : OpBlock) : Nat := (b.w0.extractLsb' 8 8).toNat
def OpBlock.arg (b : OpBlock) : BitVec 32 := b.w0.extractLsb' 16 32
/-- Words of the table that follows an operator block (R299). -/
def tableWords (w0 w1 : Word) : Nat :=
  match (w0.extractLsb' 0 8).toNat with
  | 7 => (w1.extractLsb' 0 6).toNat + 1
  | 8 => 128
  | _ => 0

/-- ILLEGAL of an image, at a site, with the pool slot, or 0xFF where the rule lies outside any pool word (R68, R252). -/
def imageIllegal {α : Type} (word : Word) (site slot : Nat) : Res α :=
  .error (.trap ⟨.illegal, word, 0, some (BitVec.ofNat 64 slot), BitVec.ofNat 8 site, 0xF, 0, false, []⟩)
def imageRequire (b : Bool) (word : Word) (site : Nat) (slot : Nat := 0xFF) : Res Unit :=
  if b then .ok () else imageIllegal word site slot

/-- The set bits of a field, in ascending order. -/
def bitsOf (w : Word) (lo n : Nat) : List Nat := (List.range n).filter fun k => w.getLsbD (lo + k)

def wordsOfBytes : Nat → List Byte → List Word
  | 0, _ => []
  | n + 1, bs => leWord (bs.take 8) :: wordsOfBytes n (bs.drop 8)
/-- Words read by the control core. -/
def State.readWords (s : State) (ag : Agent) (va : Word) (n : Nat) : Res (State × List Word) := do
  let (t, bs) ← s.loadN ag va (8 * n)
  .ok (t, wordsOfBytes n bs)

/-- Reading an image whole (R294): its parts follow one another, and a part whose size cannot be told is refused. -/
def State.readImage (s : State) (ag : Agent) (va word : Word) : Res (State × Image) := do
  require (va.toNat % 64 == 0) .align va
  let (t, h) ← s.readWords ag va 2
  let w0 := (h[0]?).getD 0
  let w1 := (h[1]?).getD 0
  let nw := (w1.extractLsb' 16 16).toNat
  imageRequire (w1.extractLsb' 32 32 == 0 && 1 ≤ nw && nw ≤ 512) word 0xFF
  let (t, pos, es) ← (bitsOf w0 0 48).foldlM (fun (t, pos, es) k => do
    let (t, ws) ← State.readWords t ag pos 17
    .ok (t, pos + 136, es ++ [(k, (ws[0]?).getD 0, ws.drop 1)])) (t, va + 16, ([] : List (Nat × Word × List Word)))
  let (t, pos, os) ← (bitsOf w0 48 16).foldlM (fun (t, pos, os) k => do
    let (t, ws) ← State.readWords t ag pos 2
    let a := (ws[0]?).getD 0
    let b := (ws[1]?).getD 0
    imageRequire (1 ≤ (a.extractLsb' 0 8).toNat && (a.extractLsb' 0 8).toNat ≤ 12) word (48 + k)
    let n := tableWords a b
    let (t, tb) ← State.readWords t ag (pos + 16) n
    .ok (t, pos + BitVec.ofNat 64 (16 + 8 * n), os ++ [(⟨48 + k, a, b, tb⟩ : OpBlock)])) (t, pos, ([] : List OpBlock))
  let (t, pos, ps) ← (bitsOf w1 0 16).foldlM (fun (t, pos, ps) k => do
    let (t, ws) ← State.readWords t ag pos 1
    let a := (ws[0]?).getD 0
    let n := (a.extractLsb' 22 4).toNat
    imageRequire (n ≤ 8) word (64 + k)
    let (t, rs) ← State.readWords t ag (pos + 8) n
    .ok (t, pos + BitVec.ofNat 64 (8 + 8 * n), ps ++ [(⟨64 + k, a, rs⟩ : PortBlock)])) (t, pos, ([] : List PortBlock))
  let (t, ws) ← State.readWords t ag pos nw
  .ok (t, ⟨es, os, ps, ws⟩)

/-! Checks. -/

/-- Inputs and outputs of an operator (R299). -/
def OpBlock.ins (b : OpBlock) : Nat :=
  match b.kind with | 1 => 2 | 2 => (if b.mode == 2 then 1 else 2) | 4 => 2 | 5 => 3 | 8 => 2 | 9 => 2 | _ => 1
def OpBlock.outs (b : OpBlock) : Nat :=
  match b.kind with | 2 => (if b.mode == 2 then 1 else 2) | 3 => (if b.mode == 0 then 2 else 4) | _ => 1
/-- Mode, argument and word 1 of an operator (R241, R298, R299). -/
def OpBlock.ok (b : OpBlock) : Bool :=
  b.w0.extractLsb' 48 16 == 0 &&
  (match b.kind with
   | 1 => b.mode == 0 && b.w1 == 0
   | 2 => b.mode ≤ 2 && b.w1 == 0
   | 3 => b.mode ≤ 1 && b.arg.toNat < 32 && b.w1 == 0
   | 4 => b.mode ≤ 1 && b.arg == 0 && b.w1 == 0
   | 5 => b.mode == 0 && b.arg == 0 && b.w1 == 0
   | 6 => b.mode ≤ 1 && b.arg == 0 && b.w1 == 0
   | 7 => b.mode == 0 && b.arg == 0 && b.w1.extractLsb' 14 50 == 0 && (b.w1.extractLsb' 6 5).toNat ≤ 20 &&
       (b.w1.extractLsb' 6 5).toNat + (b.w1.extractLsb' 11 3).toNat ≤ 26
   | 8 => b.mode ≤ 1 && b.w1 == 0
   | 9 => b.mode ≤ 1 && b.arg == 0 && b.w1 == 0
   | 10 => b.arg == 0 && b.w1 == 0 && 0x30 ≤ b.mode && b.mode ≤ 0x3E && b.mode != 0x37
   | 11 => b.mode == 0 && b.arg == 0 && b.w1 == 0
   | 12 => b.mode == 0 && b.arg == 0 && b.w1 == 0
   | _ => false)

/-- The fields of a wiring word (R295). -/
def Wire.ofWord (w : Word) : Wire :=
  ⟨w.extractLsb' 54 10, w.extractLsb' 47 7, w.extractLsb' 44 3, w.extractLsb' 34 10, w.extractLsb' 27 7, w.extractLsb' 24 3, w.getLsbD 23⟩
/-- The core's own number written as 0x3FF (R295). -/
def Wire.own (w : Wire) (me : Nat) : Wire :=
  { w with
    srcCore := if w.srcCore.toNat == me then ownCore else w.srcCore
    dstCore := if w.dstCore.toNat == me then ownCore else w.dstCore }

/-- Channels that a site of the image offers as a source or a destination (R295, R299). -/
def Image.offers (m : Image) (out : Bool) (site ch : Nat) : Bool :=
  if site < 48 then m.elems.any (·.1 == site) && ch < 4
  else if site < 64 then (match m.ops.find? (·.site == site) with
    | some b => ch < (if out then b.outs else b.ins)
    | none => false)
  else if site < 80 then m.ports.any (·.site == site) && ch < (if out then 1 else 2)
  else if site < 82 then !out && ch < 2
  else site == 82 && ch < 4

/-- The channels that a site code offers on any core (R295); what the image there holds is that core's own. -/
def siteOffers (out : Bool) (site ch : Nat) : Bool :=
  if site < 48 then ch < 4
  else if site < 64 then ch < (if out then 4 else 3)
  else if site < 80 then ch < (if out then 1 else 2)
  else if site < 82 then !out && ch < 2
  else site == 82 && ch < 4
/-- The site that an ILLEGAL of a wiring word names (R324): that of the end at fault, where it is a fabric site of FR0, else 0xFF (R252,
log entry 30). -/
def faultSite (site : Nat) : Nat := if site < 80 then site else 0xFF
/-- The checks of one wiring word (R295, R324), given those before it. A word at fault as a whole names its end on this core. -/
def State.checkWire (s : State) (x : Ctx) (me : Nat) (m : Image) (word va : Word) (seen : List Wire) (raw : Word) : Res (List Wire) := do
  let w := (Wire.ofWord raw).own me
  let fine := fun (c : BitVec 10) => decide (c.toNat < 640) || c == ownCore
  let local' := faultSite (if w.dstCore == ownCore then w.dstSite.toNat else w.srcSite.toNat)
  imageRequire (raw.extractLsb' 0 23 == 0 && fine w.srcCore && fine w.dstCore && (w.srcCore == ownCore || w.dstCore == ownCore)) word local'
  let inPart := fun (c : BitVec 10) => c == ownCore || (s.physicalCore x.part c.toNat).isSome
  require (inPart w.srcCore && inPart w.dstCore) .prot va
  let offers := fun (c : BitVec 10) (out : Bool) (site ch : Nat) => if c == ownCore then m.offers out site ch else siteOffers out site ch
  imageRequire (offers w.srcCore true w.srcSite.toNat w.srcCh.toNat) word (faultSite w.srcSite.toNat)
  imageRequire (offers w.dstCore false w.dstSite.toNat w.dstCh.toNat) word (faultSite w.dstSite.toNat)
  imageRequire (seen.all fun u => !(u.srcCore == w.srcCore && u.srcSite == w.srcSite && u.srcCh == w.srcCh)) word
    (faultSite w.srcSite.toNat)
  imageRequire (seen.all fun u => !(u.dstCore == w.dstCore && u.dstSite == w.dstSite && u.dstCh == w.dstCh)) word
    (faultSite w.dstSite.toNat)
  .ok (seen ++ [w])

def wiredOutOf (ws : List Wire) (site ch : Nat) : Bool :=
  ws.any fun w => w.srcCore == ownCore && w.srcSite.toNat == site && w.srcCh.toNat == ch
def wiredInOf (ws : List Wire) (site ch : Nat) : Bool :=
  ws.any fun w => w.dstCore == ownCore && w.dstSite.toNat == site && w.dstCh.toNat == ch

/-- The checks of an element (R68, R269, R288). -/
def checkElement (word : Word) (ws : List Wire) (site : Nat) (header : Word) (pool : List Word) : Res Unit := do
  imageRequire (header.extractLsb' 8 24 == 0) word site
  pool.zipIdx.forM fun (w, k) =>
    match decodeElem w with
    | none => imageIllegal word site k
    | some e => imageRequire ((List.range 4).all fun c =>
        (!e.inputs.getLsbD c || wiredInOf ws site c) && (!e.outputs.getLsbD c || wiredOutOf ws site c)) word site k

/-- The sites an arm reaches from a site in one step (R315): it ends at a GATE, a SELECT and the data input of a port with CUSE. Of an arm
that leaves the core the word tells whether it ends at MA, MB or a TPOP channel; any other site there is left to that core's image (log
entry 30). -/
def Image.armNext (m : Image) (ws : List Wire) (site : Nat) : List (Nat × Nat) :=
  (ws.filter fun w => w.srcCore == ownCore && w.srcSite.toNat == site).filterMap fun w =>
    let d := w.dstSite.toNat
    if w.dstCore != ownCore then (if 80 ≤ d then some (d, w.dstCh.toNat) else none)
    else
      let stops : Bool := match m.ops.find? (·.site == d) with
        | some b => b.kind == 4 || b.kind == 5
        | none => match m.ports.find? (·.site == d) with
          | some p => p.word.getLsbD 26
          | none => false
      match stops with | true => none | false => some (d, w.dstCh.toNat)
/-- Sites reached within n steps. -/
def Image.armSites (m : Image) (ws : List Wire) : Nat → List Nat → List (Nat × Nat) → List (Nat × Nat)
  | 0, _, acc => acc
  | n + 1, front, acc =>
    let next := front.flatMap (m.armNext ws)
    let new := next.filter fun d => !acc.contains d
    if new.isEmpty then acc else m.armSites ws n (new.map (·.1)).dedup (acc ++ new).dedup
/-- No arm of the image contains what R315 refuses. -/
def Image.armOk (m : Image) (ws : List Wire) (site : Nat) : Bool :=
  (m.armSites ws 90 [site] []).all fun (d, ch) =>
    (match m.ops.find? (·.site == d) with
     | some b => !(b.kind == 2 || b.kind == 6 || b.kind == 7)
     | none => true) &&
    !(64 ≤ d && d < 80 && ch == 0) && !(80 ≤ d && d ≤ 82)

/-- The checks of a port (R309, R315). -/
def checkPort (word : Word) (m : Image) (ws : List Wire) (p : PortBlock) : Res Unit := do
  let w := p.word
  let k := p.site - 64
  imageRequire (w.extractLsb' 0 22 == 0 && (w.extractLsb' 29 3).toNat ≤ 4) word p.site
  imageRequire (!w.getLsbD 28 || w.getLsbD 26) word p.site
  imageRequire (!w.getLsbD 26 || wiredInOf ws p.site 1) word p.site
  imageRequire (!w.getLsbD (48 + k) && !w.getLsbD (32 + k)) word p.site
  imageRequire (!w.getLsbD 26 || m.armOk ws p.site) word p.site

/-- The checks of an operator: outputs wired, and XLAT's only to ports of its table (R241, R299). -/
def checkOperator (word : Word) (ws : List Wire) (b : OpBlock) : Res Unit := do
  imageRequire b.ok word b.site
  imageRequire ((List.range b.outs).all (wiredOutOf ws b.site)) word b.site
  imageRequire (b.kind != 7 || ws.all fun w => !(w.srcCore == ownCore && w.srcSite.toNat == b.site) ||
    (w.localTo && 64 ≤ w.dstSite.toNat && w.dstSite.toNat < 80 && w.dstCh == 0)) word b.site

/-- A region of an XLAT entry that spans two leaves fails with PAGE subcode 4 (R241). -/
def State.checkRegions (s : State) (x : Ctx) (b : OpBlock) : Res Unit :=
  if b.kind != 7 then .ok ()
  else
    let len := 2 ^ ((b.w1.extractLsb' 6 5).toNat + (b.w1.extractLsb' 11 3).toNat)
    b.table.forM fun va => match s.walk (s.me x) va with
      | .ok w => require (decide (va.toNat % w.size + len ≤ w.size)) .page va 4
      | .error (.trap _) => .ok ()
      | .error e => .error e

/-- All checks of an image; answers its wires (R297). Of several parts that break rules the fault record names the first in this order, which
no rule fixes: while the image is read, its header, operator kinds and region counts; then wiring words, elements by site and slot, operators,
ports and regions (DESIGN CHOICE, log entry 30). -/
def State.checkImage (s : State) (x : Ctx) (m : Image) (word va : Word) : Res (List Wire) := do
  let me := s.logicalCore x.part s.cur
  let ws ← m.wires.foldlM (fun seen raw => s.checkWire x me m word va seen raw) []
  m.elems.forM fun (site, h, pool) => checkElement word ws site h pool
  m.ops.forM (checkOperator word ws)
  m.ports.forM (checkPort word m ws)
  m.ops.forM (s.checkRegions x)
  .ok ws

/-! Activation. -/

def elementOf (header : Word) (pool : List Word) : Element where
  d := Vector.replicate 8 0
  f := header.extractLsb' 0 8
  k := header.extractLsb' 32 32
  pool := Vector.ofFn fun k => (pool[k.val]?).getD 0
  stall := 0
  passed := false

def operatorOf (latches : List Latch) (b : OpBlock) : Operator where
  kind := b.w0.extractLsb' 0 8
  mode := b.w0.extractLsb' 8 8
  a := b.arg
  w1 := b.w1
  table := b.table
  latches := latches
  emit := []
  buf := []
  rep := 0
  pos := 0
  prev0 := none
  prev1 := none
  sum := 0
  count := 0
  high := if b.kind == 6 then (if b.mode == 0 then 0x80000000 else 0xFF800000) else 0
  emitted := 0
  relatch := false
  attempt := .first
  withheld := none
  passed := false

def portOf (latches : List Latch) (p : PortBlock) : Port where
  word := p.word
  latches := latches
  running := none
  queue := []
  latestRead := false
  received := []
  segment := 0
  due := 0
  spec := none
  issued := 0
  ended := 0
  retry := none
  attempt := .first
  relatch := false
  withheld := none
  blocked := false
  asking := false
  passed := false
  saved := false
  reach := .core

/-- The configuration as it stands when it becomes active (R240, R269, R297): ports and XLAT operators latch their regions. -/
def State.fabricOf (s : State) (x : Ctx) (m : Staged) : Res (State × Fabric) := do
  let (t, ops) ← m.ops.foldlM (fun (t, os) (site, w0, w1, tb) => do
    let b : OpBlock := ⟨site, w0, w1, tb⟩
    let (u, ls) ← if b.kind == 7 then State.latchAll t (t.me x) tb else .ok (t, [])
    .ok (u, os ++ [(site, operatorOf ls b)])) (s, ([] : List (Nat × Operator)))
  let (t, ports) ← m.ports.foldlM (fun (t, ps) (site, w, rs) => do
    let (u, ls) ← State.latchAll t (portAgent s.cur (site - 64) x) rs
    .ok (u, ps ++ [(site, portOf ls ⟨site, w, rs⟩)])) (t, ([] : List (Nat × Port)))
  .ok (t, {
    elems := m.elems.map fun (site, h, pool) => (site, elementOf h pool)
    ops := ops
    ports := ports
    wires := m.wires
    ins := m.wires.foldl (fun t w => if w.dstCore == ownCore then tabPut t (chKey w.dstSite.toNat w.dstCh.toNat) InQ.empty else t) []
    outs := m.wires.foldl (fun t w => if w.srcCore == ownCore then tabPut t (chKey w.srcSite.toNat w.srcCh.toNat) ⟨[], false⟩ else t) []
    order := [] })

/-- The active configuration, if any, is quiescent (R297). -/
def Ctx.quiescent (x : Ctx) : Bool := match x.fabric with | none => true | some f => f.quiescent
/-- An image becomes active: the BTOK table and the staged slot are cleared (R297). -/
def State.activate (s : State) (x : Ctx) (m : Staged) : Res State := do
  let (t, f) ← s.fabricOf x m
  .ok ((t.setCtx { t.now x with fabric := some f, btok := [], staged := none }).settle s.cur)
/-- A checked image waits for quiescence, and for the answers that its latching needs; then it becomes active (R297). -/
def State.switch (s : State) (x : Ctx) (m : Staged) : Res (State × Flow) :=
  let kept := s.setCtx { s.now x with wait := .quiescence (some m) }
  if !x.quiescent then .ok (kept, .gone)
  else match s.activate x m with
    | .ok t => .ok (t, .seq)
    | .error (.trap t) => .error (.trap t)
    | .error e => .ok (kept.askOutside e, .gone)

/-- The image at an address, read and checked whole (R297). -/
def State.checkedImage (s : State) (x : Ctx) (va word : Word) : Res (State × Staged) := do
  let (t, m) ← s.readImage (s.me x) va word
  let ws ← t.checkImage x m word va
  .ok (t, ⟨m.elems, m.ops.map fun b => (b.site, b.w0, b.w1, b.table), m.ports.map fun p => (p.site, p.word, p.regions), ws⟩)

/-- CFG (R297): the image is checked whole, and becomes active once the active configuration is quiescent. While it waits it is the image
that was read; a wait that is abandoned has it read again when the CFG is issued again. -/
def execCfg (g : Guard) (a : Reg) (s : State) : Out :=
  control (.cfg g a) g false s fun s x =>
    match x.wait with
    | .quiescence (some m) => s.switch x m
    | _ => do
      let (t, m) ← s.checkedImage x (x.g a) (encode (.cfg g a))
      t.switch (t.now x) m
/-- CFG.stg (R297): the checked image becomes the staged configuration. -/
def execCfgStg (g : Guard) (a : Reg) (s : State) : Out :=
  control (.cfgStg g a) g false s fun s x => do
    let (t, m) ← s.checkedImage x (x.g a) (encode (.cfgStg g a))
    .ok (t.setCtx { t.now x with staged := some m }, .seq)
/-- CFGSW (R297): the staged configuration becomes active. -/
def execCfgsw (g : Guard) (s : State) : Out :=
  control (.cfgsw g) g false s fun s x =>
    match x.staged with
    | none => trapWith .shape (encode (.cfgsw g))
    | some m => s.switch x m

end Sys2Proof.Machine
end

