-- ==== Sys2Proof/Machine/Coll.lean ====
section
/-! DEFINITION. Collectives (R337, R368 to R370). -/

namespace Sys2Proof.Machine

/-- A collective as one participant asks for it. -/
structure CollOp where
  op : Nat
  ty : Ty
  n : Nat
  dst : Word
  src : Word
  gd : Word
  group : Nat
  p : Nat
  rank : Nat
  root : Nat
  deriving DecidableEq, Repr

/-- Bytes of the source that a rank gives, and of the destination (R368). -/
def CollOp.srcLen (c : CollOp) : Nat :=
  match c.op with
  | 3 => if c.rank == c.root then c.n * c.ty.bytes else 0
  | 5 => c.n * c.p * c.ty.bytes
  | _ => c.n * c.ty.bytes
def CollOp.dstLen (c : CollOp) : Nat := if c.op == 4 then c.n * c.p * c.ty.bytes else c.n * c.ty.bytes

/-- The agent of a die's collective engine, acting for a task (R325). -/
def collAgent (core task : Nat) (asid : BitVec 13) : Agent := { dieAgent (coreDie core) 3 asid with core := core, task := task }

/-- The checks of a collective and its group descriptor (R368, R370), and LINK in twilight mode (R459). `word` is what a SHAPE reports. -/
def State.collRead (s : State) (ag : Agent) (part core : Nat) (word : Word) (op : Nat) (ty : Ty) (dst src count gd : Word) :
    Res (State × CollOp) := do
  require (count.extractLsb' 32 32 == 0) .shape word
  require (gd.toNat % 16 == 0) .align gd
  let (t, bs) ← s.loadN ag gd 16
  let w0 := leWord (bs.take 8)
  let p := (w0.extractLsb' 16 16).toNat
  let root := (w0.extractLsb' 48 16).toNat
  let rank := (w0.extractLsb' 32 16).toNat
  require (leWord (bs.drop 8) == 0 && 2 ≤ p && p ≤ 1024 && rank < p && root < p) .shape word
  let c : CollOp := ⟨op, ty, count.toNat, dst, src, gd, (w0.extractLsb' 0 16).toNat, p, rank, root⟩
  let reads := op != 3 || rank == root
  require (dst.toNat % ty.bytes == 0) .align dst
  require (!reads || src.toNat % ty.bytes == 0) .align src
  require (c.srcLen == 0 || c.dstLen == 0 || decide (dst.toNat + c.dstLen ≤ src.toNat) || decide (src.toNat + c.srcLen ≤ dst.toNat)) .shape word
  let known := match tabGet t.groups c.group with
    | some g => g.members.length == p && g.members[rank]? == t.device.map (fun d => ⟨d, part, t.logicalCore part core⟩)
    | none => false
  require (t.power != .twilight) .link gd
  require known .sync gd
  .ok (t, c)

/-! The combination (R369). -/

/-- One step of the combination in an element type: floating steps round to nearest even, integer sums wrap. -/
def collStep (op : Nat) (ty : Ty) (a b : Nat) : Nat :=
  match ty.fmt with
  | some f =>
    let x := f.decode a
    let y := f.decode b
    f.rne (match op with | 1 => x.max y | 2 => x.min y | _ => x.add y)
  | none =>
    let m := 2 ^ ty.bits
    let sg := fun (v : Nat) => if ty.signed && m / 2 ≤ v then (v : Int) - m else (v : Int)
    match op with
    | 1 => if sg a < sg b then b else a
    | 2 => if sg b < sg a then b else a
    | _ => (a + b) % m

/-- Element k of a list of bytes. -/
def elemAt (w : Nat) (bs : List Byte) (k : Nat) : Nat := leNat ((bs.drop (k * w)).take w)
/-- The combination of element k over the ranks' sources, in ascending rank. -/
def collElem (op : Nat) (ty : Ty) (srcs : List (List Byte)) (k : Nat) : Nat :=
  match srcs with
  | [] => 0
  | a :: r => r.foldl (fun v b => collStep op ty v (elemAt ty.bytes b k)) (elemAt ty.bytes a k)

/-- What a rank's destination receives (R368). -/
def collResult (op : Nat) (ty : Ty) (n root rank : Nat) (srcs : List (List Byte)) : List Byte :=
  let w := ty.bytes
  match op with
  | 3 => (srcs[root]?).getD []
  | 4 => srcs.flatten
  | 5 => (List.range n).flatMap fun k => natLe w (collElem 0 ty srcs (rank * n + k))
  | o => (List.range n).flatMap fun k => natLe w (collElem o ty srcs k)

/-! Meeting (R369, R370). -/

def State.setGroup (s : State) (k : Nat) (g : Group) : State := { s with groups := tabPut s.groups k g }

/-- What a participant compares with the others (R370): op, type, n, P and ROOT. On another device it stands at the head of the stream of its
source (log entry 23). -/
def collHead (op : Nat) (ty : Ty) (n p root : Nat) : List Byte := natLe 4 n ++ natLe 2 p ++ natLe 2 root ++ natLe 2 (8 * ty.code.toNat + op)
def Party.head (q : Party) : List Byte := collHead q.op q.ty q.n q.p q.root
/-- Bytes of the source of a rank in a participant's collective. -/
def Party.need (q : Party) (rank : Nat) : Nat := (⟨q.op, q.ty, q.n, 0, 0, 0, 0, q.p, rank, q.root⟩ : CollOp).srcLen

/-- The source of each rank: a participant's on this device, or the stream of another device once it is whole. -/
def Group.source (g : Group) (me : Option (BitVec 12)) (q : Party) (rank : Nat) : Option (List Byte) :=
  match g.parties.find? (·.rank == rank) with
  | some p => some p.data
  | none =>
    if (g.members[rank]?).map (·.device) == me then none
    else match tabGet g.streams rank with
      | some bs => if 10 + q.need rank ≤ bs.length then some ((bs.drop 10).take (q.need rank)) else none
      | none => none

/-- Participants agree (R370), with those of other devices whose streams have begun. -/
def Group.agree (g : Group) (q : Party) : Bool :=
  g.parties.all (fun p => p.head == q.head) && g.streams.all fun (_, bs) => bs.length < 10 || bs.take 10 == q.head

/-- A destination in sectors, and behind them the end of the rank's part. -/
def collSectors (q : Party) : Nat → Word → List Byte → List CollStore
  | 0, _, _ => []
  | n + 1, a, bs =>
    if bs.isEmpty then [⟨q.rank, q.core, q.task, q.asid, a, []⟩]
    else
      let k := min bs.length (32 - a.toNat % 32)
      ⟨q.rank, q.core, q.task, q.asid, a, bs.take k⟩ :: collSectors q n (a + BitVec.ofNat 64 k) (bs.drop k)

/-- The physical lines of a buffer, as far as it translates. -/
def State.bufferLines (s : State) (ag : Agent) (va : Word) (n : Nat) : List Nat :=
  (List.range (if n == 0 then 0 else (va.toNat + n - 1) / 128 - va.toNat / 128 + 1)).filterMap fun k =>
    match s.walk ag (BitVec.ofNat 64 (128 * (va.toNat / 128 + k))) with
    | .ok w => some (lineOf w.pa)
    | .error _ => none
/-- Lines of a named buffer as the members of a group on this device find them from now on: copies under a lease at their cores and dies
are given up, and nothing else is ordered (R337, log entry 23). -/
def State.collFresh (s : State) (g : Group) (lines : List Nat) : State :=
  let cores := g.members.filterMap fun m => if some m.device == s.device then s.physicalCore m.part m.core else none
  let keys := lines.flatMap fun l => cores.flatMap fun c =>
    [coreCopy c l, rdcCopy (if s.region (128 * l) == .host then hostDie (128 * l) else coreDie c) l]
  { s with copies := s.copies.filter fun (k, _) => !keys.contains k }

/-- One sector of a collective that runs is written, as one indivisible write (R15, R327), and the members find it; behind the last of a rank,
once every write has been performed at .fab, its participant may return (R337). -/
def State.collStore (s : State) (k : Nat) (g : Group) : State :=
  match g.writes with
  | [] => s
  | w :: rest =>
    let ag := collAgent w.core w.task w.asid
    if w.bytes.isEmpty then
      if s.performed ag .fab then
        (s.releaseAt ag (.group k)).setGroup k { g with writes := rest, outcome := g.outcome ++ [(w.rank, w.task, none)] }
      else s.setGroup k { g with writes := rest ++ [w] }
    else match s.storeN ag w.dst w.bytes with
      | .ok t => (t.collFresh g (t.bufferLines ag w.dst w.bytes.length)).setGroup k { g with writes := rest }
      | .error (.trap tr) => (s.stampReads ag tr.reads).setGroup k { g with
          writes := rest.filter fun v => v.rank != w.rank
          outcome := g.outcome ++ [(w.rank, w.task, some { tr with reads := [] })] }
      | .error e => s.askOutside e

/-- A group goes on: the sectors that are left of a collective are written one by one, and one whose participants have all arrived
begins. A difference stands once every participant of this device has arrived (R370). -/
def State.collRun (s : State) (k : Nat) (gd : Word) : State :=
  match tabGet s.groups k with
  | none => s
  | some g =>
    if !g.writes.isEmpty then s.collStore k g
    else match g.parties with
    | [] => s
    | q :: _ =>
      if !g.agree q then
        if g.parties.length == (g.members.filter fun m => some m.device == s.device).length then
          s.setGroup k { g with
            parties := []
            streams := []
            outcome := g.outcome ++ g.parties.map fun p => (p.rank, p.task, some ⟨.sync, gd, 0, none, 0xFF, 0xF, 0, false, []⟩) }
        else s
      else
        let srcs := (List.range q.p).map fun r => g.source s.device q r
        if srcs.any (·.isNone) then s
        else
          let data := srcs.filterMap id
          let rest := g.streams.filterMap fun (r, bs) => if 10 + q.need r < bs.length then some (r, bs.drop (10 + q.need r)) else none
          let writes := g.parties.flatMap fun p =>
            let bs := collResult p.op p.ty p.n p.root p.rank data
            collSectors p (bs.length + 1) p.dst bs
          let g := { g with parties := [], streams := rest, writes := writes }
          (s.setGroup k g).collStore k g

/-- Stream flits of a source for the members on other devices, one stream to each device: 224 bytes a flit (R462, log entry 23). -/
def State.collSend (s : State) (g : Group) (group rank : Nat) (bs : List Byte) : State :=
  match s.portFor with
  | none => s
  | some p =>
    let others := (g.members.filterMap fun m => if some m.device == s.device then none else some m.device).eraseDups
    others.foldl (fun t dev => (List.range ((bs.length + 223) / 224)).foldl (fun t k =>
      State.send t p 6 dev (group * 2 ^ 16 + rank) (((bs.drop (224 * k)).take 224).zipIdx.map fun (b, i) => (i, b)) .store) t) s

/-- A participant arrives, unless it has arrived already: it reads its source after every earlier instruction of its task (R36), the members
find that source as it is, and the collective runs when all have arrived (R337). -/
def State.collJoin (s : State) (core task : Nat) (asid : BitVec 13) (by' : Agent) (c : CollOp) : Res State := do
  match tabGet s.groups c.group with
  | none => trapWith .sync c.gd
  | some g =>
    if g.parties.any (·.rank == c.rank) || g.writes.any (fun w => w.rank == c.rank && w.task == task) then .ok (s.collRun c.group c.gd)
    else do
      let ag := collAgent core task asid
      let (t, bs) ← (s.handOver by' ag).loadN ag c.src c.srcLen
      let q : Party := ⟨c.rank, core, task, asid, c.op, c.ty, c.n, c.p, c.root, c.dst, bs⟩
      let t := ((t.consume ag).collFresh g (t.bufferLines ag c.src c.srcLen)).setGroup c.group { g with parties := g.parties ++ [q] }
      .ok ((t.collSend g c.group c.rank (q.head ++ bs)).collRun c.group c.gd)

/-- The outcome of a rank, taken: none while the collective has not run. -/
def State.collTake (s : State) (task : Nat) (c : CollOp) : Option (State × Option Trap) :=
  match tabGet s.groups c.group with
  | none => none
  | some g => match g.outcome.find? (fun (r, k, _) => r == c.rank && k == task) with
    | none => none
    | some (_, _, o) => some (s.setGroup c.group { g with outcome := g.outcome.filter fun (r, k, _) => !(r == c.rank && k == task) }, o)

/-- The participant's accesses to the buffers that a collective names have been performed at .fab: its release covers no other (R337). -/
def State.collReady (s : State) (ag : Agent) (c : CollOp) : Bool :=
  (s.owed ag).all fun id => s.doneAt .fab id || !(s.remote.any fun r => r.id == id && r.asid == ag.asid &&
    (rangesMeet r.va.toNat r.len c.src.toNat c.srcLen || rangesMeet r.va.toNat r.len c.dst.toNat c.dstLen))

/-- COLL returns at a participant: what the participants' writes leave outstanding is visible to it. The named buffers alone are covered, and
no clock is raised (R333, R337). -/
def State.collReturn (s : State) (ag : Agent) (group : Nat) : State :=
  match lookupObj s.releases (.group group) with
  | some r => s.inherit ag r.covers
  | none => s
/-- The trap of a participant, taken at its instruction. -/
def State.collTrap (s : State) (x : Ctx) (word : Word) (t : Trap) : State :=
  (s.consume (s.me x)).takeTrap s.cur { s.now x with issued := x.issued + 1 } t word x.pc false

/-- COLL (R368 to R370): a release and acquire at .fab for its buffers (R337). -/
def collective (i : Instr) (g : Guard) (op : Nat) (d a b c : Reg) (ty : Ty) (s : State) : Out :=
  control i g false s fun s x => do
    let (t, q) ← s.collRead (s.me x) x.part s.cur (encode i) op ty (x.g d) (x.g a) (x.g b) (x.g c)
    match t.collTake x.id q with
    | some (u, some tr) => .ok (u.collTrap x (encode i) tr, .gone)
    | some (u, none) => .ok (u.collReturn (u.me x) q.group, .seq)
    | none => do
      await (t.collReady (t.me x) q) .collective
      let u ← t.collJoin s.cur x.id x.asid (t.me x) q
      match u.collTake x.id q with
      | some (v, some tr) => .ok (v.collTrap x (encode i) tr, .gone)
      | some (v, none) => .ok (v.collReturn (v.me x) q.group, .seq)
      | none => .ok (u.waitAt (u.now x) .collective, .gone)

def execCollSum (g : Guard) (d a b c : Reg) (ty : Ty) (s : State) : Out := collective (.collSum g d a b c ty) g 0 d a b c ty s
def execCollMax (g : Guard) (d a b c : Reg) (ty : Ty) (s : State) : Out := collective (.collMax g d a b c ty) g 1 d a b c ty s
def execCollMin (g : Guard) (d a b c : Reg) (ty : Ty) (s : State) : Out := collective (.collMin g d a b c ty) g 2 d a b c ty s
def execCollBcast (g : Guard) (d a b c : Reg) (ty : Ty) (s : State) : Out := collective (.collBcast g d a b c ty) g 3 d a b c ty s
def execCollAgath (g : Guard) (d a b c : Reg) (ty : Ty) (s : State) : Out := collective (.collAgath g d a b c ty) g 4 d a b c ty s
def execCollRscat (g : Guard) (d a b c : Reg) (ty : Ty) (s : State) : Out := collective (.collRscat g d a b c ty) g 5 d a b c ty s

end Sys2Proof.Machine
end

