-- ==== Sys2Proof/Machine/Control.lean ====
section
/-! DEFINITION. Branches, hardware loops, loads and stores, system instructions, and the words the machine does not accept
(R62, R63, R81 to R104). -/

namespace Sys2Proof.Machine

/-- BR: a taken transfer when its guard holds (R81, R88). -/
def execBr (g : Guard) (off : BitVec 40) (s : State) : Out :=
  control (.br g off) g false s fun s x => .ok (s, .jump (x.target off))
/-- JAL writes g63 and branches (R82). -/
def execJal (g : Guard) (off : BitVec 40) (s : State) : Out :=
  control (.jal g off) g false s fun s x => .ok (s.setG x 63 (x.pc + 8), .jump (x.target off))
/-- JR reads its target, links and jumps; a misaligned target takes ALIGN with nothing written (R46, R83). -/
def execJr (g : Guard) (d a : Reg) (s : State) : Out :=
  control (.jr g d a) g false s fun s x => do
    let t := x.g a
    require (t.extractLsb' 0 3 == 0) .align t
    .ok (s.setG x d (x.pc + 8), .jump t)
/-- BRC.l1 ends level 1, BRC.all both levels (R84). -/
def execBrcL1 (g : Guard) (off : BitVec 40) (s : State) : Out :=
  control (.brcL1 g off) g false s fun s x =>
    .ok (s.setCtx { x with loop1 := { x.loop1 with count := 0 } }, .jump (x.target off))
def execBrcAll (g : Guard) (off : BitVec 40) (s : State) : Out :=
  control (.brcAll g off) g false s fun s x =>
    .ok (s.setCtx { x with loop0 := { x.loop0 with count := 0 }, loop1 := { x.loop1 with count := 0 } }, .jump (x.target off))

/-- LOOP and LOOPI start a level; a count of zero is a taken transfer past the body (R86). -/
def startLoop (x : Ctx) (lvl1 : Bool) (len : BitVec 10) (cnt : BitVec 32) : Ctx × Flow :=
  let l : LoopLevel := ⟨x.pc + 8, x.pc + BitVec.ofNat 64 (8 * (len.toNat + 1)), cnt, cnt⟩
  (if lvl1 then { x with loop1 := l } else { x with loop0 := l }, if cnt == 0 then .jump (l.last + 8) else .seq)
def execLoop (g : Guard) (lvl1 : Bool) (a : Reg) (len : BitVec 10) (s : State) : Out :=
  control (.loop g lvl1 a len) g false s fun s x =>
    let (y, f) := startLoop x lvl1 len ((x.g a).extractLsb' 0 32)
    .ok (s.setCtx y, f)
def execLoopi (g : Guard) (lvl1 : Bool) (len : BitVec 10) (cnt : BitVec 22) (s : State) : Out :=
  control (.loopi g lvl1 len cnt) g false s fun s x =>
    let (y, f) := startLoop x lvl1 len (cnt.setWidth 32)
    .ok (s.setCtx y, f)

def execNop (g : Guard) (s : State) : Out := control (.nop g) g false s fun s _ => .ok (s, .seq)

/-- The value of LD in its registers (R91): a pair for .q, else one register extended. -/
def Ctx.setLoaded (x : Ctx) (d : Reg) (sx : Bool) (sz : Size) (bs : List Byte) : Ctx :=
  if sz == .q then (x.setG d (leWord (bs.take 8))).setG (pairHi d) (leWord (bs.drop 8))
  else x.setG d (extend sx (sizeBytes sz) (leNat bs))
/-- The bytes of ST (R91). -/
def Ctx.storeBytes (x : Ctx) (d : Reg) (sz : Size) : List Byte :=
  if sz == .q then natLe 8 (x.g d).toNat ++ natLe 8 (x.g (pairHi d)).toNat else natLe (sizeBytes sz) (x.g d).toNat

/-- LD (R90 to R93): ALIGN, then the claim or the translation, then POISON. -/
def execLd (g : Guard) (d : Reg) (m : MemOp) (sp sx : Bool) (sz : Size) (s : State) : Out :=
  control (.ld g d m sp sx sz) g false s fun s x => do
    let ea := x.ea m
    let n := sizeBytes sz
    require (ea.toNat % n == 0) .align ea
    if sp then do
      let bs ← s.readSpad s.cur x ea n
      .ok (s.setCtx (x.setLoaded d sx sz bs), .seq)
    else do
      let (t, bs) ← s.load (s.me x) ea n
      .ok (t.setCtx ((t.now x).setLoaded d sx sz bs), .seq)
/-- ST (R90 to R93). -/
def execSt (g : Guard) (d : Reg) (m : MemOp) (sp : Bool) (sz : Size) (s : State) : Out :=
  control (.st g d m sp sz) g false s fun s x => do
    let ea := x.ea m
    require (ea.toNat % sizeBytes sz == 0) .align ea
    if sp then do
      let t ← s.writeSpad s.cur x ea (x.storeBytes d sz)
      .ok (t, .seq)
    else do
      let t ← s.store (s.me x) ea (x.storeBytes d sz)
      .ok (t, .seq)

/-- TRAP completes, then traps: SWTRAP with its code, to the supervisor or to the supervisor's own handler (R88, R98). -/
def execTrap (g : Guard) (code : BitVec 16) (s : State) : Out :=
  control (.trap g code) g false s fun s _ =>
    .ok (s, .trapAfter ⟨.swtrap, code.setWidth 64, 0, none, 0xFF, 0xF, 0, false, []⟩)
/-- ERET (R99): privileged; SH ← 0 and PC ← CC_EPC. -/
def execEret (g : Guard) (s : State) : Out :=
  control (.eret g) g true s fun s x => do
    require (x.epc.extractLsb' 0 3 == 0) .align x.epc
    .ok (s.setCtx { x with sh := false }, .jump x.epc)
/-- ERET.task (R99): ILLEGAL while TH is 0; TH ← 0 and PC ← CC_TEPC. -/
def execEretTask (g : Guard) (s : State) : Out :=
  control (.eretTask g) g false s fun s x => do
    require x.th .illegal (encode (.eretTask g))
    require (x.tepc.extractLsb' 0 3 == 0) .align x.tepc
    .ok (s.setCtx { x with th := false }, .jump x.tepc)

/-- WFE waits for an event and consumes it (R101). -/
def execWfe (g : Guard) (limit : BitVec 40) (s : State) : Out :=
  control (.wfe g limit) g false s fun s x => do
    await x.ev (.event limit.toNat x.waitStart)
    .ok ((s.acquire (s.me x) (.event s.cur)).setCtx { x with ev := false }, .seq)
/-- The limit of a WFE has passed: it returns with EV clear (R101). An event that has come meanwhile is consumed, and its release observed
(R103). -/
def execWfeTimeout (c : Nat) (s : State) : Out :=
  match (s.core c).day with
  | none => .next s
  | some x => match x.wait with
    | .event limit since =>
      if s.alive && x.issues && x.limitPassed limit since then
        let t := if x.ev then s.acquire (coreAgent 0 c 0 x.id x.asid) (.event c) else s
        .next (t.setDay c (some ({ x with ev := false }.complete .seq)))
      else .next s
    | _ => .next s

/-- An event to a list of cores, on its way, as a release of the issuer (R102, R103). -/
def State.sendEvents (s : State) (x : Ctx) (cores : List Nat) : State :=
  { s with events := s.events ++ cores.map fun n => ⟨n, s.release (s.me x)⟩ }
/-- The physical cores of the issuer's partition. -/
def State.partCores (s : State) (x : Ctx) : List Nat := match s.part x.part with | some q => q.cores | none => []
def execSevAll (g : Guard) (s : State) : Out :=
  control (.sevAll g) g false s fun s x => .ok (s.sendEvents x ((s.partCores x).filter (· != s.cur)), .seq)
/-- SEV.one: PROT when the named core lies outside the partition (R102). R251 has PROT report an address, and the word names none: the trap
reports the core number (DESIGN CHOICE, log entry 32). -/
def execSevOne (g : Guard) (core : BitVec 10) (s : State) : Out :=
  control (.sevOne g core) g false s fun s x =>
    match s.physicalCore x.part core.toNat with
    | some n => .ok (s.sendEvents x [n], .seq)
    | none => trapWith .prot (core.setWidth 64)
def execSevClus (g : Guard) (s : State) : Out :=
  control (.sevClus g) g false s fun s x =>
    .ok (s.sendEvents x ([0, 1, 32, 33].map (coreIn (coreCluster s.cur)) |>.filter (· != s.cur)), .seq)
/-- The stores that an event follows have been performed at their homes (R103). -/
def State.eventReady (s : State) (e : Event) : Bool := e.rel.covers.all (s.doneAt .fab)
/-- The oldest event on its way whose issuer's stores have been performed reaches its core: EV for both tasks present, and the release
that the WFE observes (R101, R103). -/
def execSevDelivery (s : State) : Out :=
  if !s.alive then .next s else
  match s.events.find? s.eventReady with
  | none => .next s
  | some e => .next ((({ s with events := s.events.erase e }).noteRelease (.event e.core) e.rel).setEv e.core)

/-- Hints change nothing but PC (R104). -/
def execHintSpin (g : Guard) (s : State) : Out := control (.hintSpin g) g false s fun s _ => .ok (s, .seq)
def execHintPf (g : Guard) (off : BitVec 40) (s : State) : Out := control (.hintPf g off) g false s fun s _ => .ok (s, .seq)

/-! Fetching (R46, R47, R237). -/

/-- The instruction cache is not coherent (R47): a word of device memory is fetched as it stood when the task was dispatched, and one
that the task itself has stored to since as it was or as it is, whole (log entry 18). -/
def State.codeWord (s : State) (x : Ctx) (pa : Nat) : Word :=
  leWord (Memory.bytes (if setHas x.patched (pa / 8) && !Config.fetchesOld s.tick then s.mem else x.code) pa 8)
/-- Device memory as the instruction cache of a task has it: as at the dispatch, with the task's own stores since or without them. -/
def State.codePicture (s : State) (x : Ctx) : Memory :=
  if Config.fetchesOld s.tick then x.code
  else x.patched.foldl (fun (m : Memory) k => m.setBytes (8 * k) (Memory.bytes s.mem (8 * k) 8)) x.code
/-- A word of a view or of host memory as the instruction cache has it: what the view showed at the dispatch, and a line of host memory
that the P640 held then. Of what it held nowhere at the dispatch it has what it reads now (log entry 18). -/
def State.codeAway (s : State) (x : Ctx) (pa : Nat) (now : List Byte) : Word :=
  let was : Option (List Byte) := match s.region pa with
    | .view => (s.rangeAt pa).bind fun n => { s with mem := s.codePicture x }.viewLine n (lineOf pa)
    | .host => tabGet x.codeLines (lineOf pa)
    | .hbm | .aperture _ | .none => none
  wordOfBytes (match was with | some bs => (bs.drop (pa % 128)).take 8 | none => now)
/-- The fetch of the word at the PC of the moving core's task is translated and needs X. Its reads take their timestamps, its translation
may be held, and a line that it fills counts (R132, R236 to R238, R244, R326). -/
def State.fetch (s : State) (x : Ctx) : Res (State × Word) := do
  let ag := s.me x
  let w ← s.translate ag x.pc .fetch
  if s.region w.pa == .hbm then do
    w.refusing (require (!s.rangePoisoned w.pa 8) .poison x.pc)
    .ok ((((s.stampWalk ag w).stampLoad ag (lineOf w.pa)).countHot ag w).noteHeld ag x.pc w, s.codeWord x w.pa)
  else do
    let (t, bs) ← s.loadVia ag x.pc 8 w true
    let mine := fun (r : Remote) => r.agent == ag.num && r.task == ag.task && r.op == .load && r.pa == w.pa && r.len == 8
    .ok ({ t with remote := t.remote.filter fun r => !mine r }, s.codeAway x w.pa bs)

/-- A word that is not accepted takes ILLEGAL, whatever its guard (R51, R62). It does not count in CC_ISSUED, and a fetch that fails does
not either: no control word has issued (log entry 38). -/
def execIllegalWord (w : Word) (s : State) : Out :=
  match s.ctx with
  | some x => if x.issues then .next (s.takeTrap s.cur x ⟨.illegal, w, 0, none, 0xFF, 0xF, 0, false, []⟩ w x.pc false) else .next s
  | none => .next s
/-- The fetch of the word at PC failed: PAGE or PROT with PC as the value; no word stands in FR2 (R63, R252). -/
def execInstructionFetchFault (prot : Bool) (sub : Byte) (s : State) : Out :=
  match s.ctx with
  | some x =>
    if x.issues then
      .next (s.takeTrap s.cur x ⟨if prot then .prot else .page, x.pc, sub, none, 0xFF, 0xF, 0, false, []⟩ 0 x.pc false)
    else .next s
  | none => .next s

/-! The CC_ registers (R96). -/

/-- A CC_ register; CC_TIME and CC_ID come from the device and the core. -/
def ccRead (s : State) (x : Ctx) (n : Nat) : Word :=
  match n with
  | 0x000 => ccId x.asid x.part (s.logicalCore x.part s.cur)
  | 0x001 => x.status (s.core s.cur).night.isSome
  | 0x002 => x.cycle
  | 0x003 => x.issued
  | 0x004 => s.time
  | 0x008 => x.loop0.first
  | 0x009 => x.loop0.last
  | 0x00A => x.loop0.count.setWidth 64
  | 0x00B => x.loop0.reload.setWidth 64
  | 0x00C => x.loop1.first
  | 0x00D => x.loop1.last
  | 0x00E => x.loop1.count.setWidth 64
  | 0x00F => x.loop1.reload.setWidth 64
  | 0x010 => x.thv
  | 0x011 => x.tepc
  | 0x012 => x.tcause
  | 0x013 => x.tval
  | 0x020 => x.svec
  | 0x021 => x.epc
  | 0x022 => x.cause
  | 0x023 => x.stval
  | 0x024 => x.sword
  | 0x025 => x.sscr
  | _ => 0
/-- A write of a CC_ register; bits [2:0] of loop addresses read zero, and RO registers ignore it (R7, R94, R96, R97). -/
def ccWrite (x : Ctx) (n : Nat) (v : Word) : Ctx :=
  let a := v &&& ~~~7
  let c := v.extractLsb' 0 32
  match n with
  | 0x001 => if x.sup then { x with sh := v.getLsbD 6 } else x
  | 0x008 => { x with loop0 := { x.loop0 with first := a } }
  | 0x009 => { x with loop0 := { x.loop0 with last := a } }
  | 0x00A => { x with loop0 := { x.loop0 with count := c } }
  | 0x00B => { x with loop0 := { x.loop0 with reload := c } }
  | 0x00C => { x with loop1 := { x.loop1 with first := a } }
  | 0x00D => { x with loop1 := { x.loop1 with last := a } }
  | 0x00E => { x with loop1 := { x.loop1 with count := c } }
  | 0x00F => { x with loop1 := { x.loop1 with reload := c } }
  | 0x010 => { x with thv := v }
  | 0x011 => { x with tepc := v }
  | 0x020 => { x with svec := v }
  | 0x021 => { x with epc := v }
  | 0x025 => { x with sscr := v }
  | _ => x

end Sys2Proof.Machine
end

