-- ==== Sys2Proof/Machine/Sync.lean ====
section
/-! DEFINITION. Barriers, atomics, full-empty access, prefetch, fences, sequence words, register spills and update-only eviction
(R339, R341, R349 to R353, R359 to R364, R367, R371). -/

namespace Sys2Proof.Machine

/-! Barrier instructions (R352, R353). -/

/-- TBINIT writes the whole object. -/
def execTbinit (g : Guard) (a : Reg) (n : BitVec 32) (gm : Bool) (s : State) : Out :=
  control (.tbinit g a n gm) g false s fun s x => do
    let b : Bar := ⟨true, gm, x.asid, 0, n.toNat, n.toNat, 0⟩
    let t ← s.barWrite s.cur (s.me x) ⟨gm, x.g a⟩ b
    .ok (t, .seq)
/-- TBEXP: UPDATE(0, +g[b]). -/
def execTbexp (g : Guard) (a b : Reg) (gm : Bool) (s : State) : Out :=
  control (.tbexp g a b gm) g false s fun s x => do
    require (decide ((x.g b).toNat < 2 ^ 47)) .shape (encode (.tbexp g a b gm))
    let t ← s.barUpdate s.cur (s.me x) ⟨gm, x.g a⟩ 0 (x.g b).toNat
    .ok (t, .seq)
/-- TBARR: a release at its scope, then UPDATE(1, 0). -/
def execTbarr (g : Guard) (a : Reg) (gm : Bool) (sc : Scope) (s : State) : Out :=
  control (.tbarr g a gm sc) g false s fun s x => do
    await (s.performed (s.me x) sc) .interlock
    let t ← s.barUpdate s.cur (s.me x) ⟨gm, x.g a⟩ 1 0
    .ok (t.publish (s.me x) sc, .seq)
/-- TBWAIT waits until PHASE ≠ ph, then acquires. -/
def execTbwait (g : Guard) (a : Reg) (ph : BitVec 4) (gm : Bool) (sc : Scope) (s : State) : Out :=
  control (.tbwait g a ph gm sc) g false s fun s x => do
    let (t, b) ← s.barChecked s.cur (s.me x) ⟨gm, x.g a⟩
    await (b.phase != ph.toNat) .barrier
    .ok (t.acquire (s.me x) (t.barObj (s.me x) ⟨gm, x.g a⟩), .seq)
/-- TBTEST tells whether PHASE ≠ ph, and then acquires. -/
def execTbtest (g : Guard) (pd : Pred) (a : Reg) (ph : BitVec 4) (gm : Bool) (sc : Scope) (s : State) : Out :=
  control (.tbtest g pd a ph gm sc) g false s fun s x => do
    let (t, b) ← s.barChecked s.cur (s.me x) ⟨gm, x.g a⟩
    let on := b.phase != ph.toNat
    let t := if on then t.acquire (s.me x) (t.barObj (s.me x) ⟨gm, x.g a⟩) else t
    .ok (t.setCtx ((t.now x).setP pd on), .seq)

/-! Atomics (R359 to R361). -/

def atomBytes (dbl : Bool) : Nat := if dbl then 8 else 4
/-- The old value as AMO, AMOF and CAS return it: zero-extended. -/
def atomWord (bs : List Byte) : Word := leWord bs
/-- A read-modify-write of global memory that returns the old value. -/
def State.amoGlobal (s : State) (x : Ctx) (d : Reg) (ea : Word) (dbl : Bool) (op : RemoteOp) (v : Word) (f : Word → Word) :
    Res (State × Flow) := do
  let n := atomBytes dbl
  require (ea.toNat % n == 0) .align ea
  let (t, bs) ← s.update (s.me x) ea n op (natLe n v.toNat) fun bs => natLe n (f (leWord bs)).toNat
  .ok (t.setCtx ((t.now x).setG d (atomWord bs)), .seq)
/-- The same in the scratchpad. -/
def State.amoSpad (s : State) (x : Ctx) (d : Reg) (ea : Word) (dbl : Bool) (f : Word → Word) : Res (State × Flow) := do
  let n := atomBytes dbl
  require (ea.toNat % n == 0) .align ea
  let bs ← s.readSpad s.cur x ea n
  let t ← s.writeSpad s.cur x ea (natLe n (f (leWord bs)).toNat)
  .ok (t.setCtx ((t.now x).setG d (atomWord bs)), .seq)

def execAmo (g : Guard) (d : Reg) (m : MemOp) (op : AmoOp) (dbl : Bool) (s : State) : Out :=
  control (.amo g d m op dbl) g false s fun s x => s.amoGlobal x d (x.ea m) dbl (.reduce op dbl true) (x.g d) fun o =>
    op.apply dbl o (x.g d)
/-- RED returns nothing, and may gather in an update-only copy (R360, log entry 7). -/
def execRed (g : Guard) (d : Reg) (m : MemOp) (op : AmoOp) (dbl : Bool) (s : State) : Out :=
  control (.red g d m op dbl) g false s fun s x => do
    let ea := x.ea m
    require (ea.toNat % atomBytes dbl == 0) .align ea
    let t ← s.reduce (s.me x) ea op dbl (x.g d) .core
    .ok (t, .seq)
def execAmof (g : Guard) (d : Reg) (m : MemOp) (op : AmoOp) (sp dbl : Bool) (s : State) : Out :=
  control (.amof g d m op sp dbl) g false s fun s x =>
    let f := fun o => op.apply dbl o (x.g d)
    if sp then s.amoSpad x d (x.ea m) dbl f else s.amoGlobal x d (x.ea m) dbl (.reduce op dbl true) (x.g d) f
/-- CAS writes g[c] when memory equals g[b] in the width (R361). -/
def execCas (g : Guard) (d a b c : Reg) (sp dbl : Bool) (s : State) : Out :=
  control (.cas g d a b c sp dbl) g false s fun s x =>
    let w := 8 * atomBytes dbl
    let f := fun (o : Word) => if o.toNat % 2 ^ w == (x.g b).toNat % 2 ^ w then x.g c else o
    if sp then s.amoSpad x d (x.g a) dbl f else s.amoGlobal x d (x.g a) dbl (.cas dbl (x.g b)) (x.g c) f

/-! Full-empty access (R341, R362). -/

/-- The granule of an offset is full. -/
def Core.isFull (c : Core) (o : Word) : Bool := setHas c.full (o.toNat / 16)
def execLdfe (g : Guard) (d : Reg) (m : MemOp) (clr : Bool) (sz : Size) (s : State) : Out :=
  control (.ldfe g d m clr sz) g false s fun s x => do
    let ea := x.ea m
    let n := sizeBytes sz
    require (ea.toNat % n == 0) .align ea
    claimSpad x ea n
    await ((s.core s.cur).spadReady ea.toNat n) .claim
    await ((s.core s.cur).isFull ea) .granule
    let bs ← s.readSpad s.cur x ea n
    let c := s.core s.cur
    let t := if clr then s.setCore s.cur { c with full := setDel c.full (ea.toNat / 16) } else s
    .ok ((t.acquire (s.me x) (.granule x.id (ea.toNat / 16))).setCtx (x.setLoaded d false sz bs), .seq)
def execStfe (g : Guard) (d : Reg) (m : MemOp) (sz : Size) (s : State) : Out :=
  control (.stfe g d m sz) g false s fun s x => do
    let ea := x.ea m
    let n := sizeBytes sz
    require (ea.toNat % n == 0) .align ea
    claimSpad x ea n
    await ((s.core s.cur).spadReady ea.toNat n) .claim
    await (!(s.core s.cur).isFull ea) .granule
    let t ← s.writeSpad s.cur x ea (x.storeBytes d sz)
    let c := t.core t.cur
    .ok ((t.setCore t.cur { c with full := setAdd c.full (ea.toNat / 16) }).releaseAt (s.me x) (.granule x.id (ea.toNat / 16)), .seq)

/-- PREF changes nothing but PC (R363). -/
def execPref (g : Guard) (m : MemOp) (l2 : Bool) (sz : Size) (s : State) : Out :=
  control (.pref g m l2 sz) g false s fun s _ => .ok (s, .seq)
/-- FENCE (R333, R364): a release and an acquire at once. -/
def execFence (g : Guard) (sc : Scope) (s : State) : Out :=
  control (.fence g sc) g false s fun s x => do
    await (s.performed (s.me x) sc) .interlock
    .ok ((s.observe (s.me x) (s.release (s.me x))).publish (s.me x) sc, .seq)

/-! Sequence words (R367). -/

/-- The word that SEQW polls. -/
def State.seqLoad (s : State) (x : Ctx) (va : Word) (sp : Bool) : Res (State × Word) := do
  require (va.toNat % 8 == 0) .align va
  if sp then do
    let bs ← s.readSpad s.cur x va 8
    .ok (s, leWord bs)
  else s.loadWord (s.me x) va
/-- The object through which the release of a sequence word is observed. -/
def State.seqObj (s : State) (ag : Agent) (sp : Bool) (va : Word) : SyncObj :=
  if sp then .seq ag.task va.toNat else match s.walk ag va with
  | .ok w => .seqGm w.pa
  | .error _ => .seq ag.task va.toNat
/-- SEQW returns a value: an acquire when it has reached the target. -/
def State.seqReturn (s : State) (x : Ctx) (d : Reg) (va : Word) (sp : Bool) (v : Word) : State :=
  (if (x.g d).toNat ≤ v.toNat then s.acquire (s.me x) (s.seqObj (s.me x) sp va) else s).setCtx ((s.now x).setG d v)
/-- SEQW polls: the wait keeps the cycle at which it began, also while a poll's answer is on its way (R367). -/
def execSeqw (g : Guard) (d a : Reg) (limit : BitVec 32) (sp : Bool) (sc : Scope) (s : State) : Out :=
  control (.seqw g d a limit sp sc) g false s fun s x => do
    let wait := Wait.seqw limit.toNat x.waitStart
    match s.seqLoad x (x.g a) sp with
    | .error (.trap t) => .error (.trap t)
    | .error e => .ok ((s.askOutside e).waitAt x wait, .gone)
    | .ok (t, v) => do
      await (decide ((x.g d).toNat ≤ v.toNat)) wait
      .ok (t.seqReturn x d (x.g a) sp v, .seq)
/-- The limit of a polling SEQW has passed: it returns what its last load gives. The word that core c waits at names its operands. -/
def execSeqwTimeout (c : Nat) (s : State) : Out :=
  match (s.core c).day with
  | none => .next s
  | some x => match x.wait with
    | .seqw limit since =>
      if !(s.alive && x.issues && x.limitPassed limit since) then .next s
      else
        let t := { s with cur := c }
        (match t.fetch x with
        | .error _ => .next s
        | .ok (_, w) => match instrOf w with
          | .seqw _ d a _ sp _ => match t.seqLoad x (x.g a) sp with
            | .error e => .next { t.askOutside e with cur := s.cur }
            | .ok (u, v) =>
              let u := (u.seqReturn x d (x.g a) sp v).consume (t.me x)
              .next { u.setDay c (some ((u.now x).complete .seq)) with cur := s.cur }
          | _ => .next s)
    | _ => .next s

/-! Register spills (R371). -/

/-- The highest-numbered column that no task on the core claims and no slot holds; a parked task's share is taken from the top (log
entry 29). -/
def Core.spillColumn (c : Core) : Option Nat :=
  let lo := match c.day with | some x => x.cols | none => 0
  let hi := 1024 - (match c.night with | some y => y.cols | none => 0)
  ((List.range (hi - lo)).map fun k => hi - 1 - k).find? fun k => !c.spills.any fun (_, p) => p.column == some k
/-- SPL. A first register above the last takes SHAPE (log entry 31). -/
def execSpl (g : Guard) (slot : BitVec 4) (a b c : Reg) (s : State) : Out :=
  let word := encode (.spl g slot a b c)
  control (.spl g slot a b c) g true s fun s x => do
    require (decide (a.toNat ≤ b.toNat)) .shape word
    require ((x.g c).toNat % 512 == 0) .align (x.g c)
    let k := s.core s.cur
    let spills := tabDel k.spills slot.toNat
    let vals := (List.range (b.toNat - a.toNat + 1)).map fun i => x.g (BitVec.ofNat 6 (a.toNat + i))
    match ({ k with spills := spills }).spillColumn with
    | some col => .ok (s.setCore s.cur { k with spills := tabPut spills slot.toNat ⟨a.toNat, b.toNat, vals, some col, x.g c, x.asid⟩ }, .seq)
    | none => do
      let t ← s.storeN (s.me x) (x.g c) (vals.flatMap fun v => natLe 8 v.toNat)
      let k := t.core t.cur
      .ok (t.setCore t.cur { k with spills := tabPut spills slot.toNat ⟨a.toNat, b.toNat, [], none, x.g c, x.asid⟩ }, .seq)
/-- FIL restores the registers and frees the slot. -/
def execFil (g : Guard) (slot : BitVec 4) (a b : Reg) (s : State) : Out :=
  let word := encode (.fil g slot a b)
  control (.fil g slot a b) g true s fun s x =>
    match tabGet (s.core s.cur).spills slot.toNat with
    | none => trapWith .shape word
    | some p => do
      require (p.first == a.toNat && p.last == b.toNat) .shape word
      let n := p.last - p.first + 1
      let (t, vals) ← (match p.column with
        | some _ => .ok (s, p.vals)
        | none => do
          let (t, bs) ← s.loadN (s.me x) p.addr (8 * n)
          .ok (t, (List.range n).map fun i => leWord ((bs.drop (8 * i)).take 8)) : Res (State × List Word))
      let k := t.core t.cur
      let t := t.setCore t.cur { k with spills := tabDel k.spills slot.toNat }
      let y := vals.zipIdx.foldl (fun (y : Ctx) (v, i) => y.setG (BitVec.ofNat 6 (a.toNat + i)) v) (t.now x)
      .ok (t.setCtx y, .seq)

/-- UPDATE_ONLY_EVICT (R339): the copy of a line in core c combines its partials at the home. -/
def execUpdateOnlyEvict (c line : Nat) (s : State) : Out :=
  if !s.alive then .next s else
  match tabGet s.updates line with
  | none => .next s
  | some us => match tabGet us c with
    | none => .next s
    | some u =>
      .next (s.combine line [(c, u)] (tabDel us c))

end Sys2Proof.Machine
end

