-- ==== Sys2Proof/Machine/Copy.lean ====
section
/-! DEFINITION. The copy engine: copies, sectors and their countdown, rings, free-slot notices and command chains (R323, R354 to
R358, R365, R366). -/

namespace Sys2Proof.Machine

/-- The copy engine of a core, acting for a task (R325). -/
def copyAgent (core task : Nat) (asid : BitVec 13) : Agent := coreAgent 2 core 0 task asid
/-- Entries of the engine's queue in use: commands, rings and chains (R28, R358, R366). -/
def Core.copyQueue (c : Core) : Nat :=
  (c.copies.filter fun (_, p) => p.owner == .command).length + c.rings.length + (c.chains.filter fun (_, h) => !h.coll).length
def State.setCopy (s : State) (c k : Nat) (p : Copy) : State := s.setCore c { s.core c with copies := tabPut (s.core c).copies k p }
def State.setRing (s : State) (c k : Nat) (r : Ring) : State := s.setCore c { s.core c with rings := tabPut (s.core c).rings k r }
def State.setChain (s : State) (c k : Nat) (h : Chain) : State := s.setCore c { s.core c with chains := tabPut (s.core c).chains k h }

/-- The source, and the destination, of a direction lies in the scratchpad (R354). -/
def srcSpad (dir : BitVec 3) : Bool := dir == 1 || dir == 3
def dstSpad (dir : BitVec 3) : Bool := dir == 0 || dir == 3
/-- Ranges of n bytes meet. -/
def meet (a b n : Nat) : Bool := decide (a < b + n) && decide (b < a + n)

/-- The checks of R355 on addresses, length and ranges, with the claim's size. -/
def copyChecks (word : Word) (claim : Nat) (dir : BitVec 3) (dst src len : Word) : Res Unit := do
  require (dst.toNat % 32 == 0) .align dst
  require (src.toNat % 32 == 0) .align src
  require (len.toNat % 32 == 0) .align len
  require (decide (len.toNat ≤ 2 ^ 40)) .shape word
  require (srcSpad dir != dstSpad dir || !meet dst.toNat src.toNat len.toNat) .shape word
  require (!dstSpad dir || decide (dst.toNat + len.toNat ≤ claim)) .prot dst
  require (!srcSpad dir || decide (src.toNat + len.toNat ≤ claim)) .prot src

def Copy.fresh (o : Owner) (task : Nat) (asid : BitVec 13) (part : Nat) (dir : BitVec 3) (dst src : Word) (len : Nat) (fe : Bool)
    (bar : Option BarRef) (sc : Scope) : Copy :=
  ⟨o, task, asid, part, dir, dst, src, len / 32, fe, bar, sc, [], [], [], [], []⟩
/-- A copy entered; one of no bytes does nothing (R355). -/
def State.enqueue (s : State) (c : Nat) (p : Copy) : State :=
  { (if p.sectors == 0 then s else s.setCopy c s.nextId p) with nextId := s.nextId + 1 }

/-! Sectors (R355, R356). -/

def sectorAddr (base : Word) (k : Nat) : Word := base + BitVec.ofNat 64 (32 * k)
/-- A source sector, and whether it holds an uncorrectable error: it is written poisoned. -/
def State.copyRead (s : State) (c : Nat) (p : Copy) (k : Nat) : Res (State × List Byte × Bool) :=
  let a := sectorAddr p.src k
  let r := if srcSpad p.dir then (s.taskRead c p.task a 32).map fun bs => (s, bs) else s.load (copyAgent c p.task p.asid) a 32
  match r with
  | .ok (t, bs) => .ok (t, bs, false)
  | .error (.trap t) =>
    if t.code == .poison then .ok (s.stampReads (copyAgent c p.task p.asid) t.reads, List.replicate 32 0, true) else .error (.trap t)
  | .error e => .error e

/-- A destination sector written whole, poisoned when its source was, wherever it stands (R356). -/
def State.copyWrite (s : State) (c : Nat) (p : Copy) (k : Nat) (bs : List Byte) (bad : Bool) : Res State := do
  let a := sectorAddr p.dst k
  if dstSpad p.dir then do
    let t ← s.taskWrite c p.task a bs
    .ok (if bad then t.poisonTask c p.task a.toNat bs.length else t)
  else do
    let ag := copyAgent c p.task p.asid
    let w ← s.translate ag a .store
    match bad, s.region w.pa with
    | true, .aperture _ => do
      let t ← s.purity ag a bs.length true
      t.postRemote ag a w.pa .poisoned bs
    | _, _ => do
      let t ← s.storeVia ag a bs w
      if bad then do
        let w ← t.translate ag a .store
        .ok (t.addPoison (sectorOf w.pa))
      else .ok t

/-- One granule of a filling transfer: it waits for the granule to be empty, writes it and sets it full, a release at .core (R341, R356). -/
def State.fillGranule (s : State) (c : Nat) (p : Copy) (a : Word) (bs : List Byte) (bad : Bool) : Res State := do
  let full := s.taskFull c p.task
  await (!setHas full (a.toNat / 16)) .granule
  let t ← s.taskWrite c p.task a bs
  let t := if bad then t.poisonTask c p.task a.toNat 16 else t
  .ok ((t.setTaskFull c p.task (setAdd full (a.toNat / 16))).releaseAt (copyAgent c p.task p.asid) (.granule p.task (a.toNat / 16)))
/-- A filling sector: each granule is filled when it is empty. Answers the sector's state, none once both are full. -/
def State.fillSector (s : State) (c : Nat) (p : Copy) (k : Nat) : Res (State × Option Half) := do
  let (t, h) ← (match tabGet p.halves k with
    | some h => .ok (s, h)
    | none => do
      let (t, bs, bad) ← s.copyRead c p k
      .ok (t, ⟨false, false, bs, bad⟩) : Res (State × Half))
  let a := sectorAddr p.dst k
  let (t, lo) ← (if h.low then .ok (t, true) else match t.fillGranule c p a (h.bytes.take 16) h.bad with
    | .ok u => .ok (u, true)
    | .error (.wait .granule) => .ok (t, false)
    | .error e => .error e : Res (State × Bool))
  let (t, hi) ← (if h.high then .ok (t, true) else match t.fillGranule c p (a + 16) (h.bytes.drop 16) h.bad with
    | .ok u => .ok (u, true)
    | .error (.wait .granule) => .ok (t, false)
    | .error e => .error e : Res (State × Bool))
  .ok (t, if lo && hi then none else some { h with low := lo, high := hi })

/-- The sector written: the state and the copy behind it. -/
def State.sectorWrite (s : State) (c : Nat) (p : Copy) (k : Nat) : Res (State × Copy) :=
  if p.fe then do
    let (t, h) ← s.fillSector c p k
    .ok (t, match h with
      | none => { p with done := setAdd p.done k, halves := tabDel p.halves k }
      | some h => { p with halves := tabPut p.halves k h })
  else do
    let (t, bs, bad) ← s.copyRead c p k
    let t ← t.copyWrite c p k bs bad
    .ok (t, { p with done := setAdd p.done k })

/-- A written sector has been performed at its reach, which is wider than any scope below it (R331, R332, R355): at once in the scratchpad and
in device memory, at the home's acknowledgement on another device, at the host's completion in host memory. -/
def State.copyReach (s : State) (c : Nat) (p : Copy) (k : Nat) : Bool :=
  let ag := copyAgent c p.task p.asid
  dstSpad p.dir || (match s.walk ag (sectorAddr p.dst k) with
    | .ok w => s.sectorDone ag w.pa
    | .error _ => true)
/-- A written sector is counted down once it has been performed at the wider of the scope and the reach (R351, R355). -/
def State.sectorCount (s : State) (c : Nat) (p : Copy) (k : Nat) : Res (State × Copy) := do
  await (s.copyReach c p k) .interlock
  let t ← (match p.bar with | none => .ok s | some b => s.barUpdate c (copyAgent c p.task p.asid) b 0 (-1))
  .ok (t, { p with counted := setAdd p.counted k })

/-! Rings (R357, R358). -/

/-- A word of a descriptor in global memory changed at its home in one indivisible step, from the value read there to another (R358): not
when it has changed since, which only a word on another device can. -/
def State.swapWord (s : State) (ag : Agent) (va : Word) (v v' : Word) : Res (State × Bool) := do
  let w ← s.translate ag va .atomic
  if s.region w.pa == .host then do
    let t ← s.storeVia ag va (natLe 8 v'.toNat) w
    .ok (t, true)
  else do
    let (t, bs) ← s.updateVia ag va 8 (.cas true v) (natLe 8 v'.toNat) (fun bs => if leWord bs == v then natLe 8 v'.toNat else bs) w
    .ok (t, leWord bs == v)
/-- A word of a descriptor, read at its home and written by the copy engine. -/
def State.ringRead (s : State) (c : Nat) (r : Ring) (k : Nat) : Res (State × Word) :=
  let a := r.desc + BitVec.ofNat 64 (8 * k)
  if r.gm then s.loadWord (copyAgent c r.task r.asid) a true
  else (s.taskRead c r.task a 8).map fun bs => (s, leWord bs)
def State.ringWrite (s : State) (c : Nat) (r : Ring) (k : Nat) (v : Word) : Res State :=
  let a := r.desc + BitVec.ofNat 64 (8 * k)
  if r.gm then s.store (copyAgent c r.task r.asid) a (natLe 8 v.toNat) else s.taskWrite c r.task a (natLe 8 v.toNat)
/-- CREDIT − 1, when it still is what was read (R358). -/
def State.takeCredit (s : State) (c : Nat) (r : Ring) (credit : Word) : Res (State × Bool) :=
  if r.gm then s.swapWord (copyAgent c r.task r.asid) (r.desc + 32) credit (credit - 1)
  else (s.ringWrite c r 4 (credit - 1)).map fun t => (t, true)
/-- DONE rises over the slot copies that have landed, in order. -/
def raiseDone : Nat → Nat → List Nat → Nat
  | 0, d, _ => d
  | n + 1, d, l => if l.contains d then raiseDone n (d + 1) l else d
/-- DONE written, as a release at .core, or at .part for a global descriptor, and the ring's end once it reaches TOTAL. -/
def State.ringAdvance (s : State) (c k : Nat) (r : Ring) : Res State := do
  let (t, d) ← s.ringRead c r 5
  let d' := raiseDone r.landed.length d.toNat r.landed
  if d' == d.toNat then .ok (t.setRing c k r)
  else do
    let t ← t.ringWrite c r 5 (BitVec.ofNat 64 d')
    let ag := copyAgent c r.task r.asid
    let t := t.releaseAt ag (t.seqObj ag (!r.gm) (r.desc + 40))
    .ok (if d' == r.total then t.setCore c { t.core c with rings := tabDel (t.core c).rings k }
      else t.setRing c k { r with landed := r.landed.filter fun j => d' ≤ j })
/-- A fault of the copy engine: source 4 (R252, R356). -/
def copyFault (t : Trap) (a : Attempt) : Trap := { t with src := 4, drain := a == .drained, fr2 := none, reads := [] }
/-- A fault of a copy: its task takes it, and one that has retired leaves a record (R255, R333, R412). -/
def State.raiseCopy (s : State) (c : Nat) (p : Copy) (t : Trap) : State :=
  if ((s.core c).find p.task).isSome then s.raiseAsync c p.task t
  else (s.editJob c p.task fun j => j.noteFault t).leaveFault c p.part p.asid t
/-- A failed access to a descriptor is withheld. -/
def State.ringFail (s : State) (c k : Nat) (r : Ring) (a : Attempt) : Exc → State
  | .trap t =>
    let s := s.stampReads (copyAgent c r.task r.asid) t.reads
    let t := copyFault t a
    let u := s.setRing c k { r with withheld := some t, retry := none }
    if a == .quiet then u else u.raiseAsync c r.task t
  | e => (s.setRing c k r).askOutside e

/-- A copy whose sectors have all been counted leaves the engine; a slot copy of a ring lands. -/
def State.copyEnd (s : State) (c id : Nat) (p : Copy) : State :=
  if p.counted.length < p.sectors then s.setCopy c id p
  else
    let t := s.setCore c { s.core c with copies := tabDel (s.core c).copies id }
    match p.owner with
    | .ring k j => (match tabGet (t.core c).rings k with
      | some r =>
        let r := { r with landed := setAdd r.landed j }
        (match t.ringAdvance c k r with
         | .ok u => u
         | .error e => t.ringFail c k r .first e)
      | none => t)
    | .command | .chain _ => t

/-- One attempt at a sector of a copy (R355, R356): a failure withholds it and raises its trap, except after a quiet retry. A
barrier that is misused takes SYNC and counts nothing. -/
def State.sectorStep (s : State) (c id k : Nat) (a : Attempt) : State :=
  match tabGet (s.core c).copies id with
  | none => s
  | some p =>
    if p.sectors ≤ k || setHas p.counted k then s
    else
      let p := { p with withheld := p.withheld.filter (·.1 != k), retry := tabDel p.retry k }
      let r := if setHas p.done k then s.sectorCount c p k else (match s.sectorWrite c p k with
        | .ok (t, p') => if setHas p'.done k then (match t.sectorCount c p' k with
            | .ok v => .ok v
            | .error (.trap e) => (match e.code with
              | .sync => .ok (t.raiseCopy c p (copyFault e a), { p' with counted := setAdd p'.counted k })
              | _ => .ok (t.raiseCopy c p (copyFault e a), { p' with withheld := p'.withheld ++ [(k, copyFault e a)] }))
            | .error _ => .ok (t, p')) else .ok (t, p')
        | .error e => .error e)
      match r with
      | .ok (t, p') => (t.consume (copyAgent c p.task p.asid)).copyEnd c id p'
      | .error (.trap e) =>
        let s := s.stampReads (copyAgent c p.task p.asid) e.reads
        let e := copyFault e a
        if e.code == .sync then (s.raiseCopy c p e).copyEnd c id { p with counted := setAdd p.counted k }
        else
          let t := s.setCopy c id { p with withheld := p.withheld ++ [(k, e)] }
          if a == .quiet then t else t.raiseCopy c p e
      | .error e => s.askOutside e

/-- COPY_SECTOR_WRITE (R355): a sector that is not withheld. -/
def execCopySectorWrite (c k sector : Nat) (s : State) : Out :=
  if !s.alive then .next s else
  match tabGet (s.core c).copies k with
  | none => .next s
  | some p => if (tabGet p.withheld sector).isSome then .next s else .next (s.sectorStep c k sector .first)
/-- COPY_SECTOR_RETRY (R356): a withheld sector for which a retry is due. -/
def execCopySectorRetry (c k sector : Nat) (s : State) : Out :=
  if !s.alive then .next s else
  match tabGet (s.core c).copies k with
  | none => .next s
  | some p => match tabGet p.retry sector with
    | none => .next s
    | some a => .next (s.sectorStep c k sector a)

/-! CPY (R354, R355). -/

/-- CPY: the engine's accesses come after every earlier instruction of the task (R36, R345). -/
def copyInstr (i : Instr) (g : Guard) (dir : BitVec 3) (d a b c : Reg) (fe gm : Bool) (sc : Scope) (s : State) : Out :=
  control i g false s fun s x => do
    copyChecks (encode i) x.spadBytes dir (x.g d) (x.g a) (x.g b)
    let r : BarRef := ⟨gm, x.g c⟩
    let (t, _) ← s.barChecked s.cur (s.me x) r
    await (decide ((t.core t.cur).copyQueue < 16)) .busy
    .ok ((t.handOver (t.me x) (copyAgent t.cur x.id x.asid)).enqueue t.cur
      (Copy.fresh .command x.id x.asid x.part dir (x.g d) (x.g a) (x.g b).toNat fe (some r) sc), .seq)
def execCpyG2s (g : Guard) (d a b c : Reg) (fe gm : Bool) (sc : Scope) (s : State) : Out :=
  copyInstr (.cpyG2s g d a b c fe gm sc) g 0 d a b c fe gm sc s
def execCpyS2g (g : Guard) (d a b c : Reg) (gm : Bool) (sc : Scope) (s : State) : Out :=
  copyInstr (.cpyS2g g d a b c gm sc) g 1 d a b c false gm sc s
def execCpyG2g (g : Guard) (d a b c : Reg) (gm : Bool) (sc : Scope) (s : State) : Out :=
  copyInstr (.cpyG2g g d a b c gm sc) g 2 d a b c false gm sc s
def execCpyS2s (g : Guard) (d a b c : Reg) (fe gm : Bool) (sc : Scope) (s : State) : Out :=
  copyInstr (.cpyS2s g d a b c fe gm sc) g 3 d a b c fe gm sc s

/-- CPY.ring (R357, R358). -/
def execCpyRing (g : Guard) (a b : Reg) (gm : Bool) (s : State) : Out :=
  let word := encode (.cpyRing g a b gm)
  control (.cpyRing g a b gm) g false s fun s x => do
    let va := x.g a
    require (va.toNat % 64 == 0) .align va
    let (t, bs) ← (if gm then s.loadN (s.me x) va 64 else (s.readSpad s.cur x va 64).map fun bs => (s, bs))
    let wd := fun k => leWord ((bs.drop (8 * k)).take 8)
    let w2 := wd 2
    let slot := (w2.extractLsb' 0 32).toNat
    let nslot := (w2.extractLsb' 32 16).toNat
    let dsp := w2.getLsbD 48
    let fe := w2.getLsbD 49
    let total := (wd 3).toNat
    require ((wd 0).toNat % 32 == 0) .align (wd 0)
    require ((wd 1).toNat % 32 == 0) .align (wd 1)
    require (slot % 32 == 0) .align (BitVec.ofNat 64 slot)
    require (32 ≤ slot && decide (slot ≤ 2 ^ 20) && 1 ≤ nslot && (!fe || dsp) && w2.extractLsb' 50 14 == 0 && 1 ≤ total &&
      decide (total ≤ 2 ^ 40) && wd 6 == 0 && wd 7 == 0 && decide ((x.g b).toNat ≤ nslot)) .shape word
    require (dsp || decide ((wd 1).toNat + nslot * slot ≤ (wd 0).toNat) || decide ((wd 0).toNat + total * slot ≤ (wd 1).toNat)) .shape word
    require (!dsp || decide ((wd 1).toNat + nslot * slot ≤ x.spadBytes)) .prot (wd 1)
    let k := t.core t.cur
    await (decide (k.copyQueue < 16) && decide (k.rings.length < 4)) .busy
    let r : Ring := ⟨x.id, x.asid, x.part, gm, va, wd 0, wd 1, slot, nslot, dsp, fe, total, 0, [], none, none⟩
    let put := fun (t : State) (o : Word) (v : Word) =>
      if gm then t.store (t.me x) (va + o) (natLe 8 v.toNat) else t.writeSpad t.cur x (va + o) (natLe 8 v.toNat)
    let t ← put t 32 (x.g b)
    let t ← put t 40 0
    let t := t.handOver (t.me x) (copyAgent t.cur x.id x.asid)
    .ok ({ t.setRing t.cur t.nextId r with nextId := t.nextId + 1 }, .seq)

/-- RING_SLOT_COPY (R358): a slot copy starts when there is credit; its sectors land one by one (R355). -/
def execRingSlotCopy (c k : Nat) (s : State) : Out :=
  if !s.alive then .next s else
  match tabGet (s.core c).rings k with
  | none => .next s
  | some r0 =>
    if r0.withheld.isSome && r0.retry.isNone then .next s
    else
      let at' := r0.retry.getD .first
      let r := { r0 with withheld := none, retry := none }
      let go : Res State := do
        let t ← s.ringAdvance c k r
        match tabGet (t.core c).rings k with
        | none => .ok t
        | some r => do
          let (t, credit) ← t.ringRead c r 4
          if credit == 0 || r.total ≤ r.next then .ok t
          else do
            let (t, took) ← t.takeCredit c r credit
            let p := Copy.fresh (.ring k r.next) r.task r.asid r.part (if r.dsp then 0 else 2)
              (r.dst + BitVec.ofNat 64 (r.next % r.nslot * r.slot)) (r.src + BitVec.ofNat 64 (r.next * r.slot)) r.slot r.fe none .core
            .ok (if took then (t.setRing c k { r with next := r.next + 1 }).enqueue c p else t)
      match go with
      | .ok t => .next (t.consume (copyAgent c r.task r.asid))
      | .error e => .next (s.ringFail c k r at' e)

/-- SLOTF (R323, R358): free-slot notices are added to CREDIT at the descriptor's home; CREDIT above NSLOT takes SYNC. -/
def execSlotf (g : Guard) (a b : Reg) (sp : Bool) (s : State) : Out :=
  let word := encode (.slotf g a b sp)
  control (.slotf g a b sp) g false s fun s x => do
    let va := x.g a
    let n := (x.g b).toNat
    require (n != 0 && decide (n < 2 ^ 16)) .shape word
    require (va.toNat % 16 == 0) .align va
    if sp then do
      let w2 ← s.readSpad s.cur x (va + 16) 8
      let cr ← s.readSpad s.cur x (va + 32) 8
      require (decide (leNat cr + n ≤ ((leWord w2).extractLsb' 32 16).toNat)) .sync va
      let t ← s.writeSpad s.cur x (va + 32) (natLe 8 (leNat cr + n))
      .ok (t, .seq)
    else do
      let (t, w2) ← s.loadWord (s.me x) (va + 16) true
      let (t, cr) ← t.loadWord (t.me x) (va + 32) true
      require (decide (cr.toNat + n ≤ (w2.extractLsb' 32 16).toNat)) .sync va
      let (t, added) ← t.swapWord (t.me x) (va + 32) cr (cr + BitVec.ofNat 64 n)
      .ok (if added then (t, .seq) else (t.waitAt (t.now x) .remote, .gone))

/-! Command chains (R365, R366). -/

def chainAgent (c : Nat) (h : Chain) : Agent := if h.coll then collAgent c h.task h.asid else copyAgent c h.task h.asid
def State.dropChain (s : State) (c k : Nat) : State := s.setCore c { s.core c with chains := tabDel (s.core c).chains k }
/-- A stop of the walk: its trap is raised with the entry's address (R366). -/
def State.chainStop (s : State) (c k : Nat) (h : Chain) (t : Trap) : State :=
  ((s.stampReads (chainAgent c h) t.reads).dropChain c k).raiseAsync c h.task
    { t with val := h.entry, src := if h.coll then 8 else 4, fr2 := none, reads := [] }
def entryTrap {α : Type} (code : TrapCode) (h : Chain) : Res α := trapWith code h.entry
/-- The claim of a task in either set. -/
def State.claimOf (s : State) (c id : Nat) : Nat := match (s.core c).find id with | some (_, x) => x.spadBytes | none => 0

/-- The current entry of a chain starts: the walk ends at KIND 0. -/
def State.chainStart (s : State) (c k : Nat) (h : Chain) : Res State := do
  let ag := chainAgent c h
  require (h.entry.toNat % 64 == 0) .align h.entry
  let (t, bs) ← s.loadN ag h.entry 64
  let wd := fun j => leWord ((bs.drop (8 * j)).take 8)
  let w0 := wd 0
  let kind := (w0.extractLsb' 0 8).toNat
  if kind == 0 then .ok (t.dropChain c k)
  else do
    require (kind ≤ 2) .sync h.entry
    require (w0.extractLsb' 12 4 == 0 && w0.extractLsb' 24 40 == 0 && wd 7 == 0 && (kind == 2 || wd 4 == 0)) .illegal h.entry
    require (match h.last with | none => true | some l => decide (l.toNat < (wd 5).toNat)) .sync h.entry
    if kind == 1 then do
      require (!h.coll) .sync h.entry
      let dir := w0.extractLsb' 8 3
      let fe := w0.getLsbD 11
      require (decide (dir.toNat ≤ 3) && (!fe || dstSpad dir)) .illegal h.entry
      copyChecks h.entry (t.claimOf c h.task) dir (wd 1) (wd 2) (wd 3)
      let p := Copy.fresh (.chain k) h.task h.asid h.part dir (wd 1) (wd 2) (wd 3).toNat fe none h.sc
      .ok ((t.setChain c k { h with run := .copy t.nextId, seq := wd 5, next := wd 6 }).enqueue c p)
    else do
      let op := (w0.extractLsb' 21 3).toNat
      match Ty.ofCode (w0.extractLsb' 16 5) with
      | none => entryTrap .illegal h
      | some ty => do
        let comb := ty == .f32 || ty == .bf16 || ty == .s32 || ty == .z32
        require (op ≤ 5 && (if op == 3 || op == 4 then ty != .e2m1 && ty != .c2x8 else comb)) .illegal h.entry
        let (t, q) ← t.collRead ag h.part c h.entry op ty (wd 1) (wd 2) (wd 3) (wd 4)
        await (t.collReady ag q && t.collReady (coreAgent 0 c 0 h.task h.asid) q) .collective
        let t ← t.collJoin c h.task h.asid ag q
        .ok (t.setChain c k { h with run := .coll q.group q.rank, seq := wd 5, next := wd 6 })
/-- The start of an entry, with what a failure does. -/
def State.chainTry (s : State) (c k : Nat) (h : Chain) : State :=
  match s.chainStart c k h with
  | .ok t => t.consume (chainAgent c h)
  | .error (.trap t) => s.chainStop c k h t
  | .error e => s.askOutside e

/-- The running entry has completed: its copy has left the engine, or its collective has an outcome. -/
def State.chainDone (s : State) (c : Nat) (h : Chain) : Option (State × Option Trap) :=
  match h.run with
  | .idle => none
  | .copy id => if (tabGet (s.core c).copies id).isSome then none else some (s, none)
  | .coll g r =>
    -- the engine, as the participant, acquires: the release of SEQ covers what the others released (R333)
    (s.collTake h.task { op := 0, ty := .f32, n := 0, dst := 0, src := 0, gd := 0, group := g, p := 0, rank := r, root := 0 }).map
      fun (t, o) => (t.acquire (chainAgent c h) (.group g), o)

/-- CHAIN_ENTRY_COMPLETE (R366): the running entry has completed, SEQ is written as a release at the scope, and the next entry
starts. An entry whose start had to wait starts. -/
def execChainEntryComplete (c k : Nat) (s : State) : Out :=
  if !s.alive then .next s else
  match tabGet (s.core c).chains k with
  | none => .next s
  | some h =>
    if h.run == .idle then .next (s.chainTry c k h)
    else match s.chainDone c h with
      | none =>
        -- a collective that could not write yet is tried again
        (match h.run with
         | .coll g _ => .next (s.collRun g h.entry)
         | .idle | .copy _ => .next s)
      | some (t, some tr) => .next (t.chainStop c k h tr)
      | some (t, none) =>
        let ag := chainAgent c h
        if !t.performed ag h.sc then .next s
        else
          match t.store ag h.seqAddr (natLe 8 h.seq.toNat) with
          | .ok u =>
            let u := ((u.releaseAt ag (u.seqObj ag false h.seqAddr)).publish ag h.sc).consume ag
            if h.next == 0 then .next (u.dropChain c k)
            else
              let h' := { h with entry := h.next, last := some h.seq, run := .idle }
              .next ((u.setChain c k h').chainTry c k h')
          | .error (.trap tr) => .next (t.chainStop c k h tr)
          | .error e => .next (s.askOutside e)

/-- Entries of a die's collective engine in use: the chains of its cores (R20, R28, R366). A COLL instruction waits at its core and holds
none (log entry 23). -/
def State.collQueue (s : State) (die : Nat) : Nat :=
  (s.cores.flatMap fun (n, c) => if coreDie n == die then c.chains.filter fun (_, h) => h.coll else []).length
/-- CHAIN (R366): the walk starts at its first entry; the engine's reads come after every earlier instruction of the task (R36). -/
def chain (i : Instr) (g : Guard) (coll : Bool) (a b : Reg) (sc : Scope) (s : State) : Out :=
  control i g false s fun s x => do
    require ((x.g a).toNat % 64 == 0) .align (x.g a)
    require ((x.g b).toNat % 8 == 0) .align (x.g b)
    await (if coll then decide (s.collQueue (coreDie s.cur) < 16) else decide ((s.core s.cur).copyQueue < 16)) .busy
    let h : Chain := ⟨x.id, x.asid, x.part, coll, x.g a, none, x.g b, sc, .idle, 0, 0⟩
    let t := (s.handOver (s.me x) (chainAgent s.cur h)).setChain s.cur s.nextId h
    let t := { t with nextId := s.nextId + 1 }
    .ok (t.chainTry t.cur s.nextId h, .seq)
def execChainCpy (g : Guard) (a b : Reg) (sc : Scope) (s : State) : Out := chain (.chainCpy g a b sc) g false a b sc s
def execChainColl (g : Guard) (a b : Reg) (sc : Scope) (s : State) : Out := chain (.chainColl g a b sc) g true a b sc s

end Sys2Proof.Machine
end

