-- ==== Sys2Proof/Machine/Hash.lean ====
section
/-! DEFINITION. KMAC128 of NIST SP 800-185 over Keccak-f[1600] of FIPS 202, which R404, R420 and R450 name (log entry 12). A lane
(x, y) stands at 5y + x. -/

namespace Sys2Proof.Machine

/-- The bits that the round constants are made of, one step of their feedback register after another: the register of eight bits starts
at 1, and each step shifts it up by one place and folds what leaves it back under 0x71 (FIPS 202, 3.2.5). -/
def feedbackBits : Nat → Nat → List Bool
  | 0, _ => []
  | n + 1, r => r.testBit 0 :: feedbackBits n (if r < 128 then 2 * r else (2 * r - 256) ^^^ 0x71)
/-- A round constant: seven of these bits, at the places 0, 1, 3, 7, 15, 31 and 63. -/
def iotaWord (bits : List Bool) : Word :=
  (bits.zip [0, 1, 3, 7, 15, 31, 63]).foldl (fun (w : Word) (b, k) => if b then w ||| (1 <<< k) else w) 0
def iotaWords : Nat → List Bool → List Word
  | 0, _ => []
  | n + 1, bits => iotaWord bits :: iotaWords n (bits.drop 7)
/-- The lanes that rho and pi visit after lane (0, 0), each with its turn: lane number t of the walk turns by t(t + 1)/2 places
(FIPS 202, 3.2.2). -/
def rhoWalk : Nat → Nat → Nat → Nat → List (Nat × Nat)
  | 0, _, _, _ => []
  | n + 1, t, x, y => (5 * y + x, t * (t + 1) / 2 % 64) :: rhoWalk n (t + 1) y ((2 * x + 3 * y) % 5)

/-- A lane of a state kept as a list of 25. -/
def lane (st : List Word) (k : Nat) : Word := (st[k]?).getD 0
/-- Theta: to each lane the parity of the column on its left, and of the one on its right turned by one. -/
def theta (st : List Word) : List Word :=
  let parity (x : Nat) : Word := [0, 5, 10, 15, 20].foldl (fun w r => w ^^^ lane st (r + x % 5)) 0
  let mix := [0, 1, 2, 3, 4].map fun x => parity (x + 4) ^^^ (parity (x + 1)).rotateLeft 1
  st.zipIdx.map fun (w, k) => w ^^^ lane mix (k % 5)
/-- Rho and pi at once: along the walk each lane is turned and stands where the next lane of the walk stood. -/
def rhoPi (st : List Word) : List Word :=
  let walk := rhoWalk 24 1 1 0
  (walk.zip (walk.drop 1 ++ walk.take 1)).foldl (fun (out : List Word) (here, there) => out.set there.1 ((lane st here.1).rotateLeft here.2)) st
/-- Chi, row by row. -/
def chi (st : List Word) : List Word :=
  st.zipIdx.map fun (w, k) =>
    let row := k / 5 * 5
    w ^^^ (~~~(lane st (row + (k + 1) % 5)) &&& lane st (row + (k + 2) % 5))
/-- Keccak-f[1600]: 24 rounds, with the constant of each added to lane (0, 0). -/
def keccakF (st : List Word) : List Word :=
  (iotaWords 24 (feedbackBits 168 1)).foldl (fun st c => let r := chi (rhoPi (theta st)); r.set 0 (lane r 0 ^^^ c)) st

/-- Absorbs blocks of 168 bytes. -/
def absorb : Nat → List Word → List Byte → List Word
  | 0, a, _ => a
  | n + 1, a, bs =>
    let blk := (List.range 21).map fun i => leWord ((bs.drop (8 * i)).take 8)
    absorb n (keccakF ((List.range 25).map fun i => (a[i]?).getD 0 ^^^ (blk[i]?).getD 0)) (bs.drop 168)
/-- The first 16 bytes of cSHAKE128 over a message whose function name is not empty. -/
def cshake (msg : List Byte) : List Byte :=
  let n := msg.length / 168 + 1
  let z := 168 * n - msg.length - 1
  let pad := (if z == 0 then [0x84] else [0x04] ++ List.replicate (z - 1) 0 ++ [0x80] : List Byte)
  let a := absorb n (List.replicate 25 0) (msg ++ pad)
  natLe 8 (lane a 0).toNat ++ natLe 8 (lane a 1).toNat

/-- Bytes of a number, most significant first, at least one. -/
def bigEndian (x : Nat) : List Byte := (natLe (max 1 ((bitCount x + 7) / 8)) x).reverse
where bitCount (x : Nat) : Nat := if x == 0 then 0 else Nat.log2 x + 1
def leftEncode (x : Nat) : List Byte := let b := bigEndian x; BitVec.ofNat 8 b.length :: b
def rightEncode (x : Nat) : List Byte := let b := bigEndian x; b ++ [BitVec.ofNat 8 b.length]
def encodeString (s : List Byte) : List Byte := leftEncode (8 * s.length) ++ s
def bytepad (x : List Byte) : List Byte :=
  let z := leftEncode 168 ++ x
  z ++ List.replicate ((168 - z.length % 168) % 168) 0
def asciiBytes (s : List Nat) : List Byte := s.map (BitVec.ofNat 8)
/-- KMAC128(key, msg, 128, custom), byte k in bits [8k+7:8k] (R404, R420). -/
def kmac (key msg custom : List Byte) : BitVec 128 :=
  BitVec.ofNat 128 (leNat (cshake (bytepad (encodeString (asciiBytes [0x4B, 0x4D, 0x41, 0x43]) ++ encodeString custom) ++
    bytepad (encodeString key) ++ msg ++ rightEncode 128)))
/-- The customisation string "KRV-REUSE" of R420. -/
def reuseCustom : List Byte := asciiBytes [0x4B, 0x52, 0x56, 0x2D, 0x52, 0x45, 0x55, 0x53, 0x45]

end Sys2Proof.Machine
end

