-- ==== Sys2Proof/Machine/Lcf.lean ====
section
/-! DEFINITION. The lookup-cell fabric: the wire plane, layers, contexts and their table-load streams (R374, R377, R381 to R394). -/

namespace Sys2Proof.Machine

/-! The plane (R377, R381, R382, R386). -/

/-- The lookup-cell state of the parked task stands in the core (R377). -/
def Core.parkedPlane (c : Core) : Bool := c.night.any fun y => c.planeTask == some y.id
/-- A lookup-cell instruction of the day-set task takes the plane: it waits until the state of a parked task has been streamed out (R377);
the task's own comes back, and a plane last held under another ASID is zeroed (R386). -/
def State.takePlane (s : State) (x : Ctx) : Res State :=
  let c := s.core s.cur
  if c.planeTask == some x.id then .ok s
  else if c.parkedPlane then .error (.wait .plane)
  else
    let mine : Cells 256 := match x.plane with
      | some p => p
      | none => if c.planeAsid == some x.asid then c.plane else []
    .ok (s.setCore s.cur { c with day := some { x with plane := none }, plane := mine, planeTask := some x.id, planeAsid := some x.asid })

/-- A plane or constant wire: lane L is bit L (R381, R382). -/
def wireAt (plane : Cells 256) (lkc : Word) (w : Nat) : BitVec 256 :=
  let lanes := fun (f : Nat → Bool) => BitVec.ofNat 256 ((List.range 256).foldl (fun v l => if f l then v + 2 ^ l else v) 0)
  if w < 2048 then plane.get w
  else
    let k := w - 2048
    if k == 0 then 0
    else if k == 1 then lanes fun _ => true
    else if k < 10 then lanes fun l => l.testBit (k - 2)
    else if lkc.getLsbD (k - 10) then lanes fun _ => true else 0

/-- The output of a cell over every lane (R384). -/
def Cell.eval (c : Cell) (wire : Nat → BitVec 256) : BitVec 256 :=
  let ins := c.sel.map wire
  BitVec.ofNat 256 ((List.range 256).foldl (fun v l =>
    let i := ins.zipIdx.foldl (fun i (w, k) => if w.getLsbD l then i + 2 ^ k else i) 0
    if c.table.getLsbD i then v + 2 ^ l else v) 0)
/-- One layer: every cell reads the old plane (R385). -/
def runLayer (plane : Cells 256) (lkc : Word) (cells : List Cell) : Cells 256 :=
  cells.zipIdx.foldl (fun p (c, k) => p.set k (c.eval (wireAt plane lkc))) plane

/-! Operands (R387, R388). -/

/-- A wire range: its first wire and its count, with the limit its instruction sets. -/
def wireRange (word w : Word) (limit : Nat) : Res (Nat × Nat) := do
  let first := (w.extractLsb' 0 12).toNat
  let n := (w.extractLsb' 16 5).toNat + 1
  require (w.extractLsb' 12 4 == 0 && w.extractLsb' 21 43 == 0 && decide (first + n ≤ limit)) .shape word
  .ok (first, n)

/-- A lookup-cell instruction: the plane is taken, then the body runs. -/
def lookup (i : Instr) (g : Guard) (s : State) (body : State → Ctx → Res (State × Flow)) : Out :=
  control i g false s fun s x => do
    let t ← s.takePlane x
    body t (t.now x)

/-- The checks of BSLICE and BJOIN in order (R388): first wire, count and offset. -/
def State.sliceChecks (s : State) (x : Ctx) (word range off : Word) (w sh : Nat) : Res (Nat × Nat × Nat) := do
  let (first, n) ← wireRange word range 2048
  require (decide (sh + n ≤ w) && off.extractLsb' 32 32 == 0) .shape word
  require (off.toNat % 16 == 0) .align off
  claimSpad x off (32 * w)
  await ((s.core s.cur).spadReady off.toNat (32 * w)) .claim
  .ok (first, n, off.toNat)

/-- BSLICE (R388). -/
def execBslice (g : Guard) (d a : Reg) (ty : Ty) (sh : BitVec 6) (s : State) : Out :=
  let word := encode (.bslice g d a ty sh)
  lookup (.bslice g d a ty sh) g s fun s x => do
    let w := ty.bits
    let (first, n, _) ← s.sliceChecks x word (x.g d) (x.g a) w sh.toNat
    let bs ← s.readSpad s.cur x (x.g a) (32 * w)
    let elem := fun l => leNat ((bs.drop (l * (w / 8))).take (w / 8))
    let c := s.core s.cur
    let plane := (List.range n).foldl (fun (p : Cells 256) b =>
      p.set (first + b) (BitVec.ofNat 256 ((List.range 256).foldl (fun v l => if (elem l).testBit (sh.toNat + b) then v + 2 ^ l else v) 0))) c.plane
    .ok (s.setCore s.cur { c with plane := plane }, .seq)
/-- BJOIN (R388). -/
def execBjoin (g : Guard) (d a : Reg) (ty : Ty) (sh : BitVec 6) (s : State) : Out :=
  let word := encode (.bjoin g d a ty sh)
  lookup (.bjoin g d a ty sh) g s fun s x => do
    let w := ty.bits
    let (first, n, _) ← s.sliceChecks x word (x.g a) (x.g d) w sh.toNat
    let plane := (s.core s.cur).plane
    let elem := fun l =>
      let v := (List.range n).foldl (fun v b => if (plane.get (first + b)).getLsbD l then v + 2 ^ (sh.toNat + b) else v) 0
      if ty.signed && (plane.get (first + n - 1)).getLsbD l then v + (2 ^ w - 2 ^ (sh.toNat + n)) else v
    let t ← s.writeSpad s.cur x (x.g d) ((List.range 256).flatMap fun l => natLe (w / 8) (elem l))
    .ok (t, .seq)

/-! Contexts (R386, R389, R392, R393). -/

def Ctx.lcSlot (x : Ctx) (k : BitVec 2) : LcSlot := x.lcSlots[k.toNat]
/-- LCTX (R389). The stream's reads follow the control core's earlier accesses (R36, R335). -/
def execLctx (g : Guard) (slot : BitVec 2) (a : Reg) (s : State) : Out :=
  lookup (.lctx g slot a) g s fun s x => do
    require ((x.g a).toNat % 32 == 0) .align (x.g a)
    let busy := match x.lcSlot slot with | .loading _ _ _ _ _ => true | .empty _ | .resident _ => false
    await (!busy) .tableLoad
    let stream := coreAgent 1 s.cur (12 + slot.toNat) x.id x.asid
    .ok ((s.handOver (s.me x) stream).setCtx { x with lcSlots := x.lcSlots.set slot.toNat (.loading (x.g a) none [] none none) }, .seq)
/-- LSEL (R392). -/
def execLsel (g : Guard) (slot : BitVec 2) (s : State) : Out :=
  lookup (.lsel g slot) g s fun s x => .ok (s.setCtx { x with lcSel := some slot }, .seq)
/-- LRUN (R385, R392). -/
def execLrun (g : Guard) (s : State) : Out :=
  let word := encode (.lrun g)
  lookup (.lrun g) g s fun s x =>
    match x.lcSel with
    | none => trapWith .shape word
    | some k => match x.lcSlot k with
      | .empty _ => trapWith .shape word
      | .loading _ _ _ _ _ => .error (.wait .tableLoad)
      | .resident cells =>
        let c := s.core s.cur
        let t := s.setCore s.cur { c with plane := runLayer c.plane x.lkc cells }
        .ok (t.setCtx { x with runs := x.runs + 1 }, .seq)

/-- LSTAT.pop (R393). -/
def execLstatPop (g : Guard) (d a : Reg) (s : State) : Out :=
  let word := encode (.lstatPop g d a)
  lookup (.lstatPop g d a) g s fun s x => do
    let (first, n) ← wireRange word (x.g a) 2112
    let c := s.core s.cur
    let ones := fun w => (List.range 256).foldl (fun v l => if (wireAt c.plane x.lkc w).getLsbD l then v + 1 else v) 0
    .ok (s.setG x d (BitVec.ofNat 64 ((List.range n).foldl (fun v k => v + ones (first + k)) 0)), .seq)
/-- LSTAT.word (R393). -/
def execLstatWord (g : Guard) (d a : Reg) (q : BitVec 2) (s : State) : Out :=
  let word := encode (.lstatWord g d a q)
  lookup (.lstatWord g d a q) g s fun s x => do
    let (first, n) ← wireRange word (x.g a) 2112
    require (n == 1) .shape word
    let c := s.core s.cur
    .ok (s.setG x d ((wireAt c.plane x.lkc first).extractLsb' (64 * q.toNat) 64), .seq)
/-- LSTAT.slot (R393). -/
def execLstatSlot (g : Guard) (d : Reg) (slot : BitVec 2) (s : State) : Out :=
  lookup (.lstatSlot g d slot) g s fun s x =>
    let v : Nat := match x.lcSlot slot with
      | .empty f => f.toNat * 2 ^ 18
      | .loading _ n _ _ _ => n.getD 0 % 4096 + 2 ^ 17
      | .resident cs => cs.length % 4096 + 2 ^ 16
    .ok (s.setG x d (BitVec.ofNat 64 (v + (x.lcSel == some slot).toNat * 2 ^ 19)), .seq)
/-- LSTAT.runs (R393). -/
def execLstatRuns (g : Guard) (d : Reg) (s : State) : Out :=
  lookup (.lstatRuns g d) g s fun s x => .ok (s.setG x d x.runs, .seq)

/-! Table-load streams (R374, R390, R391). -/

/-- A cell entry: none when it breaks R374. -/
def cellOf (w0 w1 w2 w3 : Word) : Option Cell :=
  let sel := fun (w : Word) k => (w.extractLsb' (16 * k) 12).toNat
  let sels := [sel w1 0, sel w1 1, sel w1 2, sel w1 3, sel w2 0, sel w2 1]
  if w1 &&& 0xF000F000F000F000 == 0 && w2 &&& 0xFFFFFFFFF000F000 == 0 && w3 == 0 && sels.all (· < 2112) then some ⟨w0, sels⟩ else none

/-- The stream of a slot has entry k still to read, or its header when that has not been read; a withheld stream waits for its retry
(R390). -/
def LcSlot.reads (l : LcSlot) (k : Nat) : Bool :=
  match l with
  | .empty _ | .resident _ => false
  | .loading _ n cells withheld retry =>
    (withheld.isNone || retry.isSome) && match n with | none => true | some m => decide (k < m) && (tabGet cells k).isNone
/-- The task whose stream of a slot reads an entry next: the streams of the day-set task and of the parked one run beside each other (R377,
R391), and which of the two reads first is open (log entry 13). -/
def State.loader (s : State) (c slot entry : Nat) : Option Ctx :=
  let on := fun (x : Ctx) => ((x.lcSlots[slot]?).getD (.empty false)).reads entry
  match (s.core c).day.filter on, (s.core c).night.filter on with
  | some x, some y => if Config.loads s.tick then some x else some y
  | some x, none => some x
  | none, y => y
/-- A slot of a task, in either set. -/
def State.setLcSlot (s : State) (c id slot : Nat) (v : LcSlot) : State :=
  s.editTask c id fun x => { x with lcSlots := x.lcSlots.setIfInBounds slot v }
/-- The stream stops: the slot is empty with FAIL set, and the trap is raised (R390). -/
def State.loadFail (s : State) (c : Nat) (x : Ctx) (slot : Nat) (t : Trap) : State :=
  (s.setLcSlot c x.id slot (.empty true)).raiseAsync c x.id t false
/-- One read of a stream: the header, then an entry that has not been read. -/
def State.loadEntry (s : State) (c : Nat) (x : Ctx) (slot : Nat) (image : Word) (n : Option Nat) (cells : List (Nat × Cell))
    (entry : Nat) (a : Attempt) : State :=
  let ag := coreAgent 1 c (12 + slot) x.id x.asid
  let trap := fun code val sub drain => (⟨code, val, sub, some (BitVec.ofNat 64 cells.length), 0xFF, 0xF, 7, drain, []⟩ : Trap)
  let va := match n with | none => image | some _ => image + BitVec.ofNat 64 (32 + 32 * entry)
  match s.load ag va 32 with
  | .ok (t, bs) =>
    let t := t.consume ag
    let wd := fun k => leWord ((bs.drop (8 * k)).take 8)
    (match n with
     | none =>
       let m := ((wd 0).extractLsb' 0 12).toNat
       if 1 ≤ m && m ≤ 2048 && (wd 0).extractLsb' 12 52 == 0 && wd 1 == 0 && wd 2 == 0 && wd 3 == 0 then
         t.setLcSlot c x.id slot (.loading image (some m) [] none none)
       else t.loadFail c x slot (trap .shape va 0 false)
     | some m => match cellOf (wd 0) (wd 1) (wd 2) (wd 3) with
       | none => t.loadFail c x slot (trap .shape va 0 false)
       | some q =>
         let cells := tabPut cells entry q
         if cells.length == m then t.setLcSlot c x.id slot (.resident (cells.map (·.2)))
         else t.setLcSlot c x.id slot (.loading image n cells none none))
  | .error (.trap e) =>
    if e.code == .page || e.code == .prot || e.code == .link then
      let tr := trap e.code e.val e.sub (a == .drained)
      let t := (s.stampReads ag e.reads).setLcSlot c x.id slot (.loading image n cells (some tr) none)
      if a == .quiet then t else t.raiseAsync c x.id tr
    else s.loadFail c x slot (trap e.code e.val e.sub false)
  | .error e => s.askOutside e
/-- TABLE_LOAD_ENTRY (R390, R391). A withheld stream reads again when a retry is due. -/
def execTableLoadEntry (c slot entry : Nat) (s : State) : Out :=
  if !s.alive then .next s else
  match s.loader c slot entry with
  | none => .next s
  | some x => match (x.lcSlots[slot]?).getD (.empty false) with
    | .empty _ | .resident _ => .next s
    | .loading image n cells _ retry => .next (s.loadEntry c x slot image n cells entry (retry.getD .first))

end Sys2Proof.Machine
end

