-- ==== Sys2Proof/Machine/Task.lean ====
section
/-! DEFINITION. Nodes, signals and cascades, records, retirement and the reuse table, and the instructions TENQ, LAUNCH, GSIG, TEND, TYIELD,
RINV and RSTAT (R397, R398, R404 to R409, R411, R412, R419 to R428). -/

namespace Sys2Proof.Machine

/-! The scheduler of a partition (R21, R325, R441). -/

def State.schedAgent (s : State) (p : Nat) (asid : BitVec 13) : Agent := dieAgent (s.schedDie p) 6 asid
/-- A fault of the scheduler (R405, R409): source 10, core 0x3FF; a record that finds the fault queue full waits (R255). -/
def State.schedFault (s : State) (p : Nat) (asid : BitVec 13) (t : Trap) : State :=
  s.queueFault p (faultRecord { t with src := 10, site := 0xFF, chan := 0xF, fr2 := none } false true 0 s.time p 0x3FF asid)

/-! Nodes (R406). -/

/-- The sixteen words of a node. -/
structure Node where
  words : List Word
  deriving DecidableEq, Repr

def Node.w (n : Node) (k : Nat) : Word := (n.words[k]?).getD 0
def Node.kind (n : Node) : Nat := ((n.w 0).extractLsb' 0 4).toNat
def Node.cap (n : Node) : Nat := 2 ^ ((n.w 0).extractLsb' 4 4).toNat
def Node.reload (n : Node) : Nat := ((n.w 0).extractLsb' 16 16).toNat
def Node.cond (n : Node) : BitVec 8 := (n.w 0).extractLsb' 32 8
def Node.base (n : Node) : Word := n.w 1
def Node.head (n : Node) : BitVec 32 := (n.w 2).extractLsb' 0 32
def Node.tail (n : Node) : BitVec 32 := (n.w 2).extractLsb' 32 32
def Node.join (n : Node) : Nat := ((n.w 3).extractLsb' 0 16).toNat
def Node.pend (n : Node) : Nat := ((n.w 3).extractLsb' 16 16).toNat
def Node.iter (n : Node) : BitVec 32 := (n.w 3).extractLsb' 32 32
def Node.succs (n : Node) : List Word := [n.w 4, n.w 5, n.w 6, n.w 7]
def Node.opnd (n : Node) : Word := n.w 8
def Node.cval (n : Node) : Word := n.w 9
/-- Records in the queue, and whether it is full. -/
def Node.depth (n : Node) : Nat := (n.tail - n.head).toNat
def Node.full (n : Node) : Bool := decide (n.cap ≤ n.depth)
/-- The address of record k. -/
def Node.slot (n : Node) (k : BitVec 32) : Word := n.base + BitVec.ofNat 64 (256 * (k.toNat % n.cap))
def Node.setQueue (n : Node) (head tail : BitVec 32) : Node := ⟨n.words.set 2 (tail ++ head)⟩
def Node.setCounts (n : Node) (join pend : Nat) (iter : BitVec 32) : Node :=
  ⟨n.words.set 3 (iter ++ BitVec.ofNat 16 pend ++ BitVec.ofNat 16 join)⟩

/-- Words of a sector of a node, read together at the node's home. -/
def State.nodeSector (s : State) (ag : Agent) (va : Word) (k : Nat) (n : Node) : Res (State × Node) := do
  let (t, bs) ← s.load ag (va + BitVec.ofNat 64 (8 * k)) 32 .load true
  .ok (t, ⟨n.words.take k ++ wordsOfBytes 4 bs ++ n.words.drop (k + 4)⟩)
/-- Words 0 to 3 of a node: its kind, queue and counts. -/
def State.readHead (s : State) (ag : Agent) (va : Word) : Res (State × Node) := do
  require (va.toNat % 128 == 0) .align va
  s.nodeSector ag va 0 ⟨List.replicate 16 0⟩
/-- What a firing of a node reads of it besides: its operand, and its successors unless it enqueues a record. -/
def State.readFiring (s : State) (ag : Agent) (va : Word) (n : Node) : Res (State × Node) := do
  let (t, n) ← s.nodeSector ag va 8 n
  if n.kind == 1 && n.opnd != 0 then .ok (t, n) else t.nodeSector ag va 4 n
/-- Words 2 and 3 of a node written. -/
def State.writeNode (s : State) (ag : Agent) (va : Word) (n : Node) : Res State :=
  s.store ag (va + 16) (natLe 8 (n.w 2).toNat ++ natLe 8 (n.w 3).toNat)

/-- The scheduler notes a record that was enqueued, and when (R415). -/
def State.noteQueued (s : State) (p : Nat) (q : Queued) : State :=
  match s.part p with
  | none => s
  | some u =>
    let nodes := if u.nodes.contains (q.node, q.asid) then u.nodes else u.nodes ++ [(q.node, q.asid)]
    let old := u.queued.filter fun r => !(r.node == q.node && r.asid == q.asid && r.number == q.number)
    s.setPart p { u with nodes := nodes, queued := old ++ [q] }
/-- A record written into slot TAIL of a queue with room; the node is still to be written (R407). -/
def State.enqueueRecord (s : State) (ag : Agent) (p : Nat) (va : Word) (n : Node) (bs : List Byte) : Res (State × Node) := do
  let t ← s.storeN ag (n.slot n.tail) bs
  .ok (t.noteQueued p ⟨va, ag.asid, n.tail, s.time⟩, n.setQueue n.head (n.tail + 1))

/-! Signals and firings (R407, R409). -/

/-- What a firing reads at OPND (R407); the agent has acquired the release that carried the signal. A read that fails raises SHAPE with the
node's address (R409). -/
def State.operand (s : State) (ag : Agent) (va opnd : Word) (n : Nat) : Res (State × List Byte) :=
  match s.loadN ag opnd n with
  | .error (.trap _) => trapWith .shape va
  | r => r

/-- One firing of a node: the signals it passes on and what is left of the 64 firings that enqueue nothing; none for the 65th. -/
def State.fireOne (s : State) (ag : Agent) (p : Nat) (va : Word) (n : Node) (budget : Nat) : Res (Option (State × Node × List Word × Nat)) :=
  if n.kind == 1 && n.opnd != 0 then
    (if !n.full then do
      let (t, bs) ← s.operand ag va n.opnd 256
      let (t, n) ← t.enqueueRecord ag p va n bs
      .ok (some (t, n, [], budget))
    else do
      require (decide (n.pend < 65535)) .shape va
      .ok (some (s, n.setCounts n.join (n.pend + 1) n.iter, [], budget)))
  else if budget == 0 then .ok none
  else if n.kind == 1 then .ok (some (s, n, n.succs, budget - 1))
  else do
    require (n.opnd.toNat % 8 == 0) .shape va
    let (t, bs) ← s.operand ag va n.opnd 8
    let v := leWord bs
    if n.kind == 2 then
      let c := (Cond.ofCode (n.cond.setWidth 6)).getD .eq
      .ok (some (t, n, [if condHolds c v n.cval then n.w 4 else n.w 5], budget - 1))
    else if n.iter.toNat < (v.extractLsb' 0 32).toNat then
      .ok (some (t, n.setCounts n.join n.pend (n.iter + 1), [n.w 4], budget - 1))
    else .ok (some (t, n.setCounts n.join n.pend 0, [n.w 5], budget - 1))
/-- Firings of a node one after another, up to the limit of R409; the last part tells whether it was met. -/
def State.fireMany (ag : Agent) (p : Nat) (va : Word) : Nat → State → Node → List Word → Nat → Res (State × Node × List Word × Nat × Bool)
  | 0, s, n, out, b => .ok (s, n, out, b, false)
  | k + 1, s, n, out, b => do
    match ← s.fireOne ag p va n b with
    | none => .ok (s, n, out, b, true)
    | some (t, n, more, b) => State.fireMany ag p va k t n (out ++ more) b
/-- One operation at a node's home (R407), at one timestamp: k signals, or a plain firing. It is a release at .part of what its agent has
done (R408, R411). -/
def State.nodeOp (s : State) (ag : Agent) (p : Nat) (va : Word) (k : Option Nat) (budget : Nat) :
    Res (State × List Word × Nat × Bool) := do
  let (t, n) ← s.readHead ag va
  require (1 ≤ n.kind && n.kind ≤ 3 && decide (n.cond.toNat ≤ 11)) .shape va
  require (k.isNone || n.reload != 0) .shape va
  let fires := match k with | none => 1 | some k => if k < n.join then 0 else (k - n.join) / n.reload + 1
  let (t, n) ← (if fires == 0 then .ok (t, n) else t.readFiring ag va n : Res (State × Node))
  let (t, n', out, b, lim) ← State.fireMany ag p va fires t n [] budget
  let n' := match k with | none => n' | some k => n'.setCounts (n.join + fires * n.reload - k) n'.pend n'.iter
  let t ← (if n' == n then .ok t else t.writeNode ag va n' : Res State)
  let opnd := if fires == 0 || n.opnd == 0 then [] else s.bufferLines ag n.opnd (if n.kind == 1 then 256 else 8)
  let t ← s.atOnce t ag (s.bufferLines ag va 128 ++ opnd)
  .ok (t.releaseAt ag (.node ag.asid va), out, b, lim)

def shapeTrap (va : Word) : Trap := ⟨.shape, va, 0, none, 0xFF, 0xF, 10, false, []⟩
/-- The operations of a cascade in the order they arise (R407, log entry 31): failures go to the supervisor with the node's address
(R409). What remains when one has to wait is answered. -/
def State.runOps : Nat → State → Nat → BitVec 13 → List (Word × Option Nat) → Nat → State × List (Word × Option Nat) × Nat
  | 0, s, _, _, ops, b => (s, ops, b)
  | fuel + 1, s, p, asid, ops, b => match ops with
    | [] => (s, [], b)
    | (va, k) :: r =>
      if va == 0 && k.isSome then State.runOps fuel s p asid r b
      else
        let ag := s.schedAgent p asid
        match s.nodeOp ag p va k b with
        | .ok (t, out, b, lim) =>
          let t := t.consume ag
          let t := if lim then t.schedFault p asid (shapeTrap va) else t
          State.runOps fuel t p asid (r ++ out.map fun v => (v, some 1)) b
        | .error (.trap e) => State.runOps fuel (((s.stampReads ag e.reads).consume ag).schedFault p asid { e with val := va }) p asid r b
        | .error e => (s.askOutside e, ops, b)

/-! The reuse table (R419, R424, R425, R428). -/

def State.stat (s : State) (asid : BitVec 13) : ReuseStats := (tabGet s.stats asid.toNat).getD ⟨0, 0, 0, 0, 0⟩
def State.setStat (s : State) (asid : BitVec 13) (r : ReuseStats) : State := { s with stats := tabPut s.stats asid.toNat r }
def State.table (s : State) (die : Nat) : Reuse := (s.reuse[die]?).getD ⟨[], 0⟩
def State.setTable (s : State) (die : Nat) (r : Reuse) : State := { s with reuse := s.reuse.setIfInBounds die r }
/-- The set of a tag (R425). -/
def tagSet (t : BitVec 128) : Nat := (t.extractLsb' 2 12).toNat
def tagDie (t : BitVec 128) : Nat := (t.extractLsb' 0 2).toNat
/-- The oldest entry by order of insertion. -/
def Reuse.oldest (r : Reuse) (l : List ReuseEntry) : Option ReuseEntry :=
  l.foldl (fun m e => match m with
    | none => some e
    | some o => if (r.counter - o.seq).toNat < (r.counter - e.seq).toNat then some e else m) none
def Reuse.drop (r : Reuse) (e : Option ReuseEntry) : Reuse :=
  match e with | none => r | some e => { r with entries := r.entries.filter (· != e) }
/-- Placement of a new entry (R425). -/
def Reuse.place (r : Reuse) (quota : Nat) (e : ReuseEntry) : Reuse :=
  let same := fun (x : ReuseEntry) => x.asid == e.asid && x.tag == e.tag
  if r.entries.any same then { r with entries := r.entries.map fun x => if same x then e else x }
  else
    let own := r.entries.filter fun x => x.asid == e.asid
    let r := if own.length < quota then r else r.drop (r.oldest own)
    let set := r.entries.filter fun x => tagSet x.tag == tagSet e.tag
    let r := if set.length < 16 then r else r.drop (r.oldest set)
    { r with entries := r.entries ++ [e] }
/-- The insertion of a pure record that ran, unless it may not be reused (R424, R426, R427). A quota of 0 leaves no room (log entry 31). -/
def State.insertEntry (s : State) (asid : BitVec 13) (j : Job) : State :=
  if j.uncacheable || j.faulted || j.voided then s
  else match j.tag with
    | none => s
    | some tag =>
      let r := s.table (tagDie tag)
      let st := s.stat asid
      if st.quota == 0 then s
      else
        let r' := r.place st.quota.toNat ⟨asid, tag, j.resultLen, j.result, j.granules, r.counter⟩
        (s.setTable (tagDie tag) { r' with counter := r.counter + 1 }).setStat asid { st with inserts := st.inserts + 1 }
/-- Entries that meet a condition on ASID, tag, result and length leave every table; answers how many. -/
def State.removeEntries (s : State) (f : BitVec 13 → BitVec 128 → Word → Nat → Bool) : State × Nat :=
  (List.range 4).foldl (fun (t, n) d =>
    let r := State.table t d
    let keep := r.entries.filter fun e => !f e.asid e.tag e.result e.rlen
    (State.setTable t d { r with entries := keep }, n + (r.entries.length - keep.length))) (s, 0)
/-- A run whose entry an RINV removes, or would remove, inserts nothing (R427). -/
def Job.void (j : Job) (asid : BitVec 13) (f : BitVec 13 → BitVec 128 → Word → Nat → Bool) : Job :=
  match j.tag with
  | some t => if f asid t j.result j.resultLen then { j with voided := true } else j
  | none => j
/-- The same of every run that has been looked up, wherever its record stands: on a core, parked, in a ticket, ended with its insertion to
come, or taken and waiting for a core (R427). The ASID of an ended run's record is that of its errand. -/
def State.voidRuns (s : State) (f : BitVec 13 → BitVec 128 → Word → Nat → Bool) : State :=
  let ctx := fun (x : Ctx) => { x with job := x.job.map fun j => j.void x.asid f }
  let errands := s.parts.flatMap fun (_, q) => q.errands
  let ended := fun (n : Nat) (l : List (Nat × Job)) => l.map fun (k, j) =>
    match errands.find? fun e => e.insert == some (n, k) with
    | some e => (k, j.void e.asid f)
    | none => (k, j)
  let ready := fun (r : Ready) => match r.tag with
    | some t =>
      let w := fun k => leWord ((r.bytes.drop (8 * k)).take 8)
      if f r.asid t (w 28) (w 29).toNat then { r with tag := none } else r
    | none => r
  { s with
    cores := s.cores.map fun (n, c) => (n, { c with day := c.day.map ctx, night := c.night.map ctx, ended := ended n c.ended })
    tickets := s.tickets.map fun (k, x) => (k, ctx x)
    parts := s.parts.map fun (n, q) => (n, { q with ready := q.ready.map ready }) }

/-! Retirement (R398, R408, R424). -/

/-- A copy of an ended task still writes its result range (R424). -/
def State.resultBusy (s : State) (core task : Nat) (j : Job) : Bool :=
  (s.core core).copies.any fun (_, p) => p.task == task && !dstSpad p.dir && decide (p.done.length < p.sectors) &&
    decide (p.dst.toNat < j.result.toNat + j.resultLen) && decide (j.result.toNat < p.dst.toNat + 32 * p.sectors)
/-- The arrival on DONE, as TBARR.gm.part makes it (R352, R398). -/
def State.doneArrival (s : State) (p : Nat) (asid : BitVec 13) (done : Word) : Res State :=
  s.barUpdate 0 (s.schedAgent p asid) ⟨true, done⟩ 1 0

/-- A release of every engine and port of a core, and of its die's collective engine, which covers the bytes of a result that the task's
copies, streams and chains wrote (R333, R398). -/
def State.coreRelease (s : State) (n : Nat) : Release :=
  ((List.range 16).map (agentNum 1 n) ++ [agentNum 2 n 0, agentNum 3 n 0, (collAgent n 0 0).num]).foldl
    (fun r k => r.join (s.release ⟨k, coreDie n, n, 0, 0⟩)) ⟨0, []⟩
/-- An errand of the scheduler, as far as it can go: insertion, arrival, successors, then each cascade. -/
def State.runErrand : Nat → State → Nat → Errand → State × Option Errand
  | 0, s, _, e => (s, some e)
  | fuel + 1, s, p, e =>
    let ag := s.schedAgent p e.asid
    match e.insert with
    | some (core, task) => match tabGet (s.core core).ended task with
      | none => State.runErrand fuel s p { e with insert := none }
      | some j =>
        if s.resultBusy core task j then (s, some e)
        else
          let t := s.insertEntry e.asid j
          let c := t.core core
          let t := if c.copies.any fun (_, q) => q.task == task then t else t.setCore core { c with ended := tabDel c.ended task }
          State.runErrand fuel t p { e with insert := none, rel := e.rel.join (t.coreRelease core) }
    | none =>
      let s := s.observe ag e.rel
      if e.done != 0 then
        match s.doneArrival p e.asid e.done with
        | .ok t => State.runErrand fuel (t.consume ag) p { e with done := 0 }
        | .error (.trap t) => State.runErrand fuel (((s.stampReads ag t.reads).consume ag).schedFault p e.asid t) p { e with done := 0 }
        | .error x => (s.askOutside x, some e)
      else match e.node, e.ops, e.more with
        | some node, _, _ => (match s.nodeSector ag node 4 ⟨List.replicate 16 0⟩ with
          | .ok (t, n) => State.runErrand fuel (t.consume ag) p { e with node := none, more := n.succs.map fun v => (v, some 1) }
          | .error (.trap t) =>
            State.runErrand fuel (((s.stampReads ag t.reads).consume ag).schedFault p e.asid { t with val := node }) p { e with node := none }
          | .error x => (s.askOutside x, some e))
        | none, _ :: _, _ =>
          let (t, ops, b) := State.runOps 400 s p e.asid e.ops e.budget
          let e := { e with ops := ops, budget := b }
          if ops.isEmpty then State.runErrand fuel t p e else (t, some e)
        | none, [], [] => (s, none)
        | none, [], m :: r => State.runErrand fuel s p { e with ops := [m], budget := 64, more := r }
/-- An errand taken up; what has to wait is kept (log entry 35). -/
def State.errand (s : State) (p : Nat) (e : Errand) : State :=
  match State.runErrand 20 s p e with
  | (t, none) => t
  | (t, some e) => match t.part p with
    | some q => t.setPart p { q with errands := q.errands ++ [e] }
    | none => t
/-- The errands that wait are taken up again. -/
def State.resumeErrands (s : State) (p : Nat) : State :=
  match s.part p with
  | none => s
  | some q => q.errands.foldl (fun t e => State.errand t p e) (s.setPart p { q with errands := [] })
/-- The signals that follow the first operation of an instruction or command, with the release that it made. -/
def State.cascade (s : State) (p : Nat) (asid : BitVec 13) (rel : Release) (out : List Word) (budget : Nat) : State :=
  s.errand p ⟨asid, none, 0, none, out.map fun v => (v, some 1), budget, [], rel⟩

/-! TENQ, LAUNCH and GSIG (R411). -/

/-- Node word 0 of the node that an instruction names. -/
def State.nodeCheck (s : State) (x : Ctx) (va : Word) : Res (State × Node) := do
  require (va.toNat % 128 == 0) .align va
  let (t, w) ← s.loadWord (s.me x) va
  .ok (t, ⟨[w]⟩)
/-- A record enqueued when the queue has room: one operation at the node's home, and a release at .part. -/
def State.enqueueOp (s : State) (ag : Agent) (p : Nat) (va : Word) (bs : List Byte) : Res State := do
  let (t, n) ← s.readHead ag va
  await (!n.full) .queueFull
  let (t, n) ← t.enqueueRecord ag p va n bs
  let t ← t.writeNode ag va n
  let t ← s.atOnce t ag (s.bufferLines ag va 128)
  .ok (t.releaseAt ag (.node ag.asid va))
/-- The same by the control core of a task. -/
def State.enqueueAt (s : State) (x : Ctx) (va : Word) (bs : List Byte) : Res State := do
  let s ← s.purity (s.me x) va 128 true
  s.enqueueOp (s.me x) x.part va bs
/-- TENQ (R411). -/
def execTenq (g : Guard) (a b : Reg) (s : State) : Out :=
  let word := encode (.tenq g a b)
  control (.tenq g a b) g false s fun s x => do
    let va := x.g a
    require (va.toNat % 128 == 0) .align va
    require ((x.g b).toNat % 64 == 0) .align (x.g b)
    let (t, n) ← s.nodeCheck x va
    require (n.kind == 1) .shape word
    let (t, base) ← t.loadWord (t.me x) (va + 8)
    require (base != 0) .shape word
    let (t, bs) ← t.loadN (t.me x) (x.g b) 256
    let t ← t.enqueueAt x va bs
    .ok (t, .seq)
/-- The first operation of LAUNCH or GSIG is the task's; a bad node found by it is the scheduler's fault (R409, R411). -/
def State.firstOp (s : State) (x : Ctx) (va : Word) (k : Option Nat) : Res State := do
  let s ← s.purity (s.me x) va 128 true
  match s.nodeOp (s.me x) x.part va k 64 with
  | .ok (t, out, b, lim) =>
    let t := if lim then t.schedFault x.part x.asid (shapeTrap va) else t
    .ok (t.cascade x.part x.asid (t.release (t.me x)) out b)
  | .error (.trap e) => if e.code == .shape then .ok (s.schedFault x.part x.asid { e with val := va }) else .error (.trap e)
  | .error e => .error e
/-- LAUNCH without .arg (R411). -/
def execLaunch (g : Guard) (a : Reg) (s : State) : Out :=
  control (.launch g a) g false s fun s x => do
    let (t, _) ← s.nodeCheck x (x.g a)
    let t ← t.firstOp x (x.g a) none
    .ok (t, .seq)
/-- LAUNCH.arg (R411): the template with its argument in word 4. -/
def execLaunchArg (g : Guard) (a b : Reg) (s : State) : Out :=
  let word := encode (.launchArg g a b)
  control (.launchArg g a b) g false s fun s x => do
    let va := x.g a
    let (t, n) ← s.nodeCheck x va
    require (n.kind == 1) .shape word
    let (t, opnd) ← t.loadWord (t.me x) (va + 64)
    require (opnd != 0) .shape word
    let (t, bs) ← t.loadN (t.me x) opnd 256
    let t ← t.enqueueAt x va (bs.take 32 ++ natLe 8 (x.g b).toNat ++ bs.drop 40)
    .ok (t, .seq)
/-- GSIG (R411). A signal to node 0 returns at once (R407). -/
def execGsig (g : Guard) (a b : Reg) (s : State) : Out :=
  let word := encode (.gsig g a b)
  control (.gsig g a b) g false s fun s x => do
    let (t, _) ← s.nodeCheck x (x.g a)
    require (1 ≤ (x.g b).toNat && decide ((x.g b).toNat < 65536)) .shape word
    let t ← if x.g a == 0 then .ok t else t.firstOp x (x.g a) (some (x.g b).toNat)
    .ok (t, .seq)

/-! TEND and TYIELD (R412). -/

/-- A running write stream of count 0 that TEND counts as ended, and stops: its input is empty, and its accesses are performed at its
scope. -/
def State.streamIdle (s : State) (x : Ctx) (f : Fabric) (site : Nat) (q : Port) : Bool :=
  match q.running with
  | none => false
  | some st => writeMode st.mode && st.count == 0 && (f.inq (chKey site 0)).toks.isEmpty && s.performed (portAgent s.cur (site - 64) x) st.scope
/-- A port has no stream left that TEND waits for. -/
def State.streamEnded (s : State) (x : Ctx) (f : Fabric) (site : Nat) (q : Port) : Bool :=
  !q.queue.any PortItem.isStream && (q.running.isNone || s.streamIdle x f site q)
/-- The streams that TEND stops, for those queued behind them to run; none when there is nothing to stop. -/
def State.stopStreams (s : State) (x : Ctx) : Option Fabric :=
  match x.fabric with
  | none => none
  | some f =>
    let stop := f.ports.filter fun (site, q) => s.streamIdle x f site q && q.queue.any PortItem.isStream
    if stop.isEmpty then none
    else some (stop.foldl (fun g (site, q) =>
      let (h, q) := advancePort site 8 g q.finish
      { h with ports := tabPut h.ports site q }) f)
/-- A copy that still reads or writes the task's scratchpad, its barrier included. -/
def Copy.usesSpad (p : Copy) : Bool := p.dir != 2 || p.bar.any fun b => !b.gm
/-- Everything TEND waits for has ended. -/
def State.tendReady (s : State) (x : Ctx) : Bool :=
  let c := s.core s.cur
  (match x.fabric with | none => true | some f => f.ports.all fun (site, q) => s.streamEnded x f site q) &&
  !(c.rings.any fun (_, r) => r.task == x.id) && !(c.chains.any fun (_, h) => h.task == x.id) &&
  !(x.lcSlots.any fun l => match l with | .loading _ _ _ _ _ => true | .empty _ | .resident _ => false) &&
  !(c.copies.any fun (_, p) => p.task == x.id && p.usesSpad) &&
  !((List.range 4).any fun d => (s.kv d).compactions.any fun k => k.task == x.id)
/-- The day set becomes free; what the core keeps of the task's ASID decides the scrub (R41). -/
def State.freeDay (s : State) (n : Nat) (x : Ctx) : State :=
  let c := s.core n
  s.setCore n { c with day := none, lastAsid := some x.asid, dusk := none, asked := none, limit := none }
/-- TEND: the task retires (R398, R408, R424). -/
def execTend (g : Guard) (s : State) : Out :=
  control (.tend g) g false s fun s x => do
    require (!x.sup) .illegal (encode (.tend g))
    match s.stopStreams x with
    | some f => .ok ((s.waitAt { x with fabric := some f } .tend).settle s.cur, .gone)
    | none => do
      await (s.tendReady x) .tend
      -- faults that no boundary has taken leave their records (R255)
      let u := x.traps.foldl (fun t e => State.leaveFault t s.cur x.part x.asid e) s
      let t := u.freeDay s.cur x
      let c := t.core s.cur
      match x.job with
      | none => .ok (t.setCore s.cur { c with retired := some (x.complete .seq) }, .gone)
      | some j =>
        let t := t.setCore s.cur { c with
          retired := some (x.complete .seq), ended := if j.pure then tabPut c.ended x.id (x.traps.foldl Job.noteFault j) else c.ended }
        let e : Errand := ⟨x.asid, if j.pure then some (s.cur, x.id) else none, j.done, some x.node, [], 64, [], u.release (s.me x)⟩
        .ok (t.errand x.part e, .gone)

/-- The parts of a task that leaves the day set: its claim as the core holds it. -/
def Core.partsOf (c : Core) (x : Ctx) : Parts :=
  ⟨c.acc.filter fun (k, _) => decide (k < 128 * x.cols), c.spad.filter fun (k, _) => decide (k < x.spadBytes),
   c.full.filter fun k => decide (16 * k < x.spadBytes), c.poison.filter fun k => decide (16 * k < x.spadBytes)⟩
/-- A task parked in the night set (R38, R39). Parking counts as an event for a WFE (R101). -/
def State.park (s : State) (n : Nat) (x : Ctx) : State :=
  let c := s.core n
  let ev := match x.wait with | .event _ _ => true | _ => x.ev
  let y := { x with parts := some (c.partsOf x), residence := .resident, since := s.time, wait := .none, ev := ev }
  (s.freeDay n x).setNight n (some y)
/-- TYIELD parks the task when the night set is free; a task parked so waits for another to enter, or for its age. -/
def execTyield (g : Guard) (s : State) : Out :=
  control (.tyield g) g false s fun s x => do
    require (!x.sup) .illegal (encode (.tyield g))
    .ok (if (s.core s.cur).night.isSome then (s, .seq)
      else (s.park s.cur { x.complete .seq with yielded := true, eligible := false }, .gone))
/-- TYIELD_AGE_EXPIRY (R412): SCH_AGEQ nanoseconds have passed since the task of core c yielded. -/
def execTyieldAgeExpiry (c : Nat) (s : State) : Out :=
  if !s.alive then .next s else
  match (s.core c).night with
  | none => .next s
  | some y =>
    let q := match s.part y.part with | some q => max 1 q.ageq.toNat | none => 1
    if y.yielded && !y.eligible && decide (y.since.toNat + q ≤ s.time.toNat) then
      .next (s.setNight c (some { y with eligible := true, yielded := false, since := s.time }))
    else .next s

/-! RINV and RSTAT (R428). -/

def pairTag (x : Ctx) (a : Reg) : BitVec 128 := x.g (pairHi a) ++ x.g a
/-- An RINV: entries that meet the condition leave, and runs that would insert one are void. -/
def rinv (s : State) (x : Ctx) (d : Reg) (f : BitVec 13 → BitVec 128 → Word → Nat → Bool) : State × Flow :=
  let (t, n) := s.removeEntries f
  let t := t.voidRuns f
  (t.setG (t.now x) d (BitVec.ofNat 64 n), .seq)
/-- An odd register of a pair takes SHAPE (R430). -/
def execRinvTag (g : Guard) (d a : Reg) (s : State) : Out :=
  control (.rinvTag g d a) g false s fun s x => do
    require (!a.getLsbD 0) .shape (encode (.rinvTag g d a))
    .ok (rinv s x d fun as t _ _ => as == x.asid && t == pairTag x a)
def execRinvRange (g : Guard) (d a b : Reg) (s : State) : Out :=
  control (.rinvRange g d a b) g false s fun s x => do
    let n := (x.g b).toNat
    require (1 ≤ n && decide (n ≤ 2 ^ 40)) .shape (encode (.rinvRange g d a b))
    .ok (rinv s x d fun as _ r l => as == x.asid && decide (r.toNat < (x.g a).toNat + n) && decide ((x.g a).toNat < r.toNat + l))
def execRinvAll (g : Guard) (d : Reg) (s : State) : Out :=
  control (.rinvAll g d) g false s fun s x => .ok (rinv s x d fun as _ _ _ => as == x.asid)
/-- RINV.asid: an ASID of another partition takes PROT with the ASID. -/
def execRinvAsid (g : Guard) (d a : Reg) (s : State) : Out :=
  control (.rinvAsid g d a) g true s fun s x => do
    let k := (x.g a).extractLsb' 0 13
    let s ← s.ownAsid (s.me x) k x.part (x.g a)
    .ok (rinv s x d fun as _ _ _ => as == k)

def rstat (i : Instr) (g : Guard) (d : Reg) (s : State) (f : State → Ctx → Word) : Out :=
  control i g false s fun s x => .ok (s.setG x d (f s x), .seq)
def execRstatLkp (g : Guard) (d : Reg) (s : State) : Out := rstat (.rstatLkp g d) g d s fun s x => (s.stat x.asid).lookups
def execRstatHit (g : Guard) (d : Reg) (s : State) : Out := rstat (.rstatHit g d) g d s fun s x => (s.stat x.asid).hits
def execRstatMiss (g : Guard) (d : Reg) (s : State) : Out := rstat (.rstatMiss g d) g d s fun s x => (s.stat x.asid).misses
def execRstatIns (g : Guard) (d : Reg) (s : State) : Out := rstat (.rstatIns g d) g d s fun s x => (s.stat x.asid).inserts
/-- The generations an entry holds equal the current ones. -/
def State.freshEntry (s : State) (e : ReuseEntry) : Bool :=
  e.granules.all fun (g, v) => (match tabGet s.gens g with | some (n, _) => n | none => 0) == v
def State.findEntry (s : State) (asid : BitVec 13) (tag : BitVec 128) : Option ReuseEntry :=
  (s.table (tagDie tag)).entries.find? fun e => e.asid == asid && e.tag == tag
def execRstatProbe (g : Guard) (d a : Reg) (s : State) : Out :=
  control (.rstatProbe g d a) g false s fun s x => do
    require (!a.getLsbD 0) .shape (encode (.rstatProbe g d a))
    let v : Word := match s.findEntry x.asid (pairTag x a) with
      | none => 0
      | some e => BitVec.ofNat 64 (e.seq.toNat + 2 ^ 32 + (s.freshEntry e).toNat * 2 ^ 33)
    .ok (s.setG x d v, .seq)
def execRstatHeld (g : Guard) (d : Reg) (s : State) : Out :=
  rstat (.rstatHeld g d) g d s fun s x =>
    BitVec.ofNat 64 ((List.range 4).foldl (fun n k => n + ((s.table k).entries.filter fun e => e.asid == x.asid).length) 0)
def execRstatQuota (g : Guard) (d : Reg) (s : State) : Out :=
  rstat (.rstatQuota g d) g d s fun s x => (s.stat x.asid).quota.setWidth 64

end Sys2Proof.Machine
end

