-- ==== Sys2Proof/Machine/Ticket.lean ====
section
/-! DEFINITION. The ticket of a parked task, and its export (R448, R450). -/

namespace Sys2Proof.Machine

def ticketSize : Nat := 0x181000
/-- The header of a ticket. -/
def ticketHeader (asid : BitVec 13) (cols spad : Nat) : List Byte :=
  natLe 8 (0x4B54 + Config.ticketVer.toNat * 2 ^ 16) ++ natLe 8 ticketSize ++ natLe 8 asid.toNat ++
  natLe 8 (cols / 32 + spad / 16384 * 2 ^ 8) ++ natLe 32 0
/-- What stands between header and MAC in the ticket written at a step. -/
def ticketBody (tick : Nat) : List Byte := (List.range (ticketSize - 80)).map fun k => Config.opaqueByte (tick + k)
def State.ticketMac (s : State) (bs : List Byte) : List Byte := natLe 16 (kmac (natLe 32 s.ticketKey.toNat) bs Config.ticketCustom).toNat
/-- The outcome of a resize, move or ticket command in its status register: SEQ rises, FAIL and REASON are set, BUSY is clear. -/
def rszDone (st : Word) (reason : Nat) : Word :=
  BitVec.ofNat 64 ((st.extractLsb' 32 32 + 1 : BitVec 32).toNat * 2 ^ 32 + reason * 16 + (reason != 0).toNat * 2)
/-- The outcome of a ticket command in PRT_TKST. -/
def State.endTicket (s : State) (p : Nat) (q : Partition) (reason : Nat) : State := s.setPart p { q with tkSt := rszDone q.tkSt reason }
/-- A parked task that may not be exported (R448). -/
def State.ticketHeld (s : State) (n : Nat) (y : Ctx) : Bool :=
  let c := s.core n
  let cross := fun (ws : List Wire) => ws.any fun w => !w.localTo
  y.cond != .run || y.bindings.any (·.isSome) ||
  (match y.fabric with
   | some f => cross f.wires || f.ports.any (fun (_, q) => q.running.isSome || q.queue.any PortItem.isStream)
   | none => false) ||
  (match y.staged with | some f => cross f.wires | none => false) ||
  c.copies.any (fun (_, p) => p.task == y.id) || c.rings.any (fun (_, r) => r.task == y.id) || c.chains.any (fun (_, h) => h.task == y.id) ||
  y.lcSlots.any (fun l => match l with | .loading _ _ _ _ _ => true | .empty _ | .resident _ => false)
/-- The parked task of a core as an image whole in itself: its wire plane with it (R377, R438). -/
def Core.imageOf (c : Core) (y : Ctx) : Ctx := if c.planeTask == some y.id then { y with plane := some c.plane } else y
/-- A ticket's place: whole in HBM, in host memory, or in one aperture (R44). -/
def State.ticketPlace (s : State) (a : Nat) : Bool :=
  decide (a + ticketSize ≤ 2 ^ 48) && (match s.region a with | .none | .view => false | r => s.region (a + ticketSize - 1) == r)
/-- The export of the parked task of a core: refused, or written by the migration engine with the task gone from the core; a wait
while something withholds the write. -/
def State.exportNow (s : State) (p : Nat) (q : Partition) (n : Nat) (y : Ctx) : Res State :=
  let q := { q with ticket := none }
  if s.ticketHeld n y then .ok (s.endTicket p q 2)
  else
    let c := s.core n
    let bs := ticketHeader y.asid y.cols y.spadBytes ++ ticketBody s.tick
    (s.putRange (dieAgent (coreDie n) 4 0) q.tkAddr.toNat (bs ++ s.ticketMac bs)).map fun t =>
      let t := { t with tickets := t.tickets ++ [(s.tick, c.imageOf y)] }
      (t.setCore n { t.core n with night := none, planeTask := if c.planeTask == some y.id then none else c.planeTask }).endTicket p
        { (t.part p).getD q with ticket := none } 0
/-- A task that has parked for an export is exported (R431). -/
def State.exportParked (s : State) (n : Nat) (y : Ctx) : Res State :=
  match s.part y.part with
  | none => .ok s
  | some q => if q.ticket == some n then s.exportNow y.part q n y else .ok s

end Sys2Proof.Machine
end

