-- ==== Sys2Proof/Machine/Dusk.lean ====
section
/-! DEFINITION. The dusk: requests, the marker's passage, the swap of the sets and the resumption of a parked task (R37 to R40, R101,
R253, R257 to R260, R431 to R440). -/

namespace Sys2Proof.Machine

/-! Where a control core may stop (R253, R437). -/

/-- The control core stands at an instruction boundary, or waits at an instruction that R437 parks at. -/
def Ctx.atBoundary (x : Ctx) : Bool :=
  match x.wait with
  | .none | .barrier | .event _ _ | .granule | .seqw _ _ | .queueFull | .quiescence _ | .operand | .tableLoad | .collective => true
  | .interlock | .channel | .plane | .remote | .migration | .busy | .claim | .tend => false
/-- While a dusk drains, the control core stops at its boundary (R437). -/
def Core.stopped (c : Core) (x : Ctx) : Bool := c.dusk.isSome && x.atBoundary

/-- ASYNC_TRAP (R253 to R255): the oldest fault of another block is taken at a boundary. A task that is held already takes a further
record (R259). -/
def execAsyncTrap (c : Nat) (s : State) : Out :=
  if !s.alive then .next s else
  match (s.core c).day with
  | none => .next s
  | some x => match x.traps with
    | [] => .next s
    | t :: r =>
      let y := { x with traps := r }
      if x.halted then .next s
      else if x.cond == .run then
        (if x.atBoundary then .next ((s.setDay c (some y)).takeTrap c y t 0 x.pc false) else .next s)
      else if x.cond == .held then
        let fr := faultRecord t false (t.src != 0) 0 s.time x.part (s.logicalCore x.part c) x.asid
        let y := { y with fr := fr }.noteFault t
        (match (s.setDay c (some y)).pushFault x.part fr with
         | .ok u => .next u
         | .error e => .next ((s.askOutside e).setDay c (some { y with cond := .slotWait fr })))
      else .next s

/-! Requests and the start (R40, R431, R432, R440). -/

/-- A dusk asked for: one that is asked for or draining already is joined. -/
def State.askDusk (s : State) (n : Nat) (d : Dusk) : State :=
  let c := s.core n
  if c.dusk.isSome || c.asked.isSome then s else s.setCore n { c with asked := some d }
/-- The supervisor's core of a partition runs no task and takes no dusk (R418, R431). -/
def State.supervised (s : State) (n : Nat) : Bool :=
  match (s.core n).day with | some x => x.sup | none => false

/-- The marker injected at every ingress (R432): a port that reads stops issuing, and passes once what it has issued is in its output;
speculative fetches are discarded (R435). -/
def Fabric.inject (f : Fabric) : Fabric :=
  let g := { f with ports := f.ports.map fun (k, q) => (k, { q with spec := none, passed := false }) }
  let g := f.ports.foldl (fun g (k, _) => Fabric.passRead g true k) g
  let g := Fabric.markSite g 82
  (f.wires.filter fun w => w.dstCore == ownCore && !w.localTo).foldl (fun g w =>
    let k := chKey w.dstSite.toNat w.dstCh.toNat
    Fabric.setIn g k { Fabric.inq g k with mark := true }) g

/-- A parked task may return to its core: it is eligible, and its claim and its lookup-cell state stand in the core (R39, R377). -/
def Ctx.returns (y : Ctx) : Bool := y.eligible && y.residence == .resident && y.plane.isNone
/-- A dusk of a core does not start: the core runs its partition's supervisor, or its night set is occupied and the dusk is no return
dusk for the task there (R431). -/
def State.duskRefused (s : State) (n : Nat) (d : Dusk) : Bool :=
  s.supervised n || (s.core n).night.any fun y => !(d.ret && y.returns)
/-- DUSK_START (R431, R432): with no task in the day set, or one that a supervisor trap holds or is about to hold, the marker has no effect
(R40, R440), but for the drain of R258. A task that waits for a slot of the fault queue when its limit expires is drained once it has
one: no rule says when (DESIGN CHOICE, log entry 49). -/
def execDuskStart (c : Nat) (s : State) : Out :=
  if !s.alive then .next s else
  let k := s.core c
  match k.asked with
  | none => .next s
  | some d => match k.day with
    | none => .next (s.setCore c { k with asked := none })
    | some x =>
      let waits := match x.cond with | .slotWait _ => d.drain | _ => false
      let held := x.cond != .run || x.traps.any fun t => !x.taskRoute t
      if waits then .next s
      else if k.dusk.isSome || (if d.drain then x.cond != .run && x.cond != .held else held) then .next (s.setCore c { k with asked := none })
      else if s.duskRefused c d then
        (if d.drain then .next s else .next (s.setCore c { k with asked := none, refused := true }))
      else
        let y := { x with fabric := x.fabric.map Fabric.inject }
        .next (s.setCore c { k with
          asked := none, dusk := some { d with since := s.time }, epoch := k.epoch + 1, limit := none, refused := false, day := some y })

/-! The passage (R434, R435). -/

/-- The sites of a configuration. -/
def Fabric.sites (f : Fabric) : List Nat := f.elems.map (·.1) ++ f.ops.map (·.1) ++ f.ports.map (·.1)
/-- A step of the passage in a core that drains. -/
def drainStep (c : Nat) (s : State) (body : State → Ctx → Fabric → Option Fabric) : Out :=
  if !s.alive || (s.core c).dusk.isNone then .next s else
  match s.dayFabric c with
  | none => .next s
  | some (x, f) => match body s x f with
    | none => .next s
    | some g => .next (s.setFabric c g)
/-- MARKER_PASS (R434). -/
def execMarkerPass (c site : Nat) (s : State) : Out :=
  drainStep c s fun _ _ f =>
    let reads := (tabGet f.ports site).any fun q => q.ingress && q.pending
    if f.sites.contains site && !f.passed site && f.mayPass site && !reads then some (f.pass site) else none
/-- A port whose image is complete only once what it has issued has been performed (R435): one that runs a write or reduction stream, or
whose streams have ended at a scope beyond the core. -/
def Port.drains (q : Port) : Bool := match q.running with | some st => writeMode st.mode | none => q.reach != .core
/-- WRITE_PORT_DRAIN (R435): the port has the marker on every wired input, and its accesses have been performed at their streams' scopes. -/
def execWritePortDrain (c p : Nat) (s : State) : Out :=
  drainStep c s fun s x f =>
    let site := 64 + p
    match tabGet f.ports site with
    | none => none
    | some q =>
      if q.passed && q.drains && !q.saved && (f.wiresInto site).all f.marked && s.performed (portAgent c p x) q.reach then
        some { f with ports := tabPut f.ports site { q with saved := true } }
      else none
/-- Every image is complete (R434, R435, R437): each site has passed, each input has the marker, and each port that writes has drained. -/
def Fabric.complete (f : Fabric) : Bool :=
  f.sites.all f.passed && ((f.wires.filter fun w => w.dstCore == ownCore).all f.marked) && f.ports.all fun (_, q) => !q.drains || q.saved

/-! The swap and the resumption (R38, R39, R437, R439). -/

/-- A token left in an input by an epoch that has passed is discarded, and the channel's record is cleared (R436, R439). -/
def InQ.cleared (q : InQ) : InQ := { q with toks := q.toks.filter (·.cls != 4), mark := false }
/-- The image of a fabric reloaded (R439): marks are cleared, and a slot that an invalidation has met in the meantime is latched again
(R240). -/
def Fabric.reload (f : Fabric) : Fabric :=
  let g := f.unmark
  { g with
    ins := g.ins.map fun (k, q) => (k, q.cleared)
    ops := g.ops.map fun (k, o) => (k, { o with relatch := o.latches.any (·.stale) })
    ports := g.ports.map fun (k, p) => (k, { p with blocked := false, asking := false, relatch := p.latches.any (·.stale) }) }
/-- Everything that a fabric withholds is tried again (R257): the faults of bad tokens that still stand in an input are answered. -/
def Fabric.retry (f : Fabric) (how : Attempt) : Fabric × List Trap :=
  let ins := f.ins.map fun (k, q) => (k, if q.withheld.isSome then InQ.arrive f (k / 8) (k % 8) { q with withheld := none } else (q, []))
  ({ f with
    ins := ins.map fun (k, (q, _)) => (k, q)
    ops := f.ops.map fun (k, o) => (k, if o.withheld.isSome then { o with withheld := none, attempt := how } else o)
    ports := f.ports.map fun (k, p) => (k, if p.withheld.isSome then { p with retry := some how } else p) },
   (ins.flatMap fun (_, (_, ts)) => ts).map fun t => { t with drain := how == .drained })
/-- A task goes on after a hold or a park (R257, R356, R390, R439): everything it has withheld is tried again. -/
def State.continueTask (s : State) (n id : Nat) (how : Attempt) : State :=
  match (s.core n).find id with
  | none => s
  | some (_, x) =>
    let (fab, bad) : Option Fabric × List Trap := match x.fabric with | some f => let (g, ts) := f.retry how; (some g, ts) | none => (none, [])
    let slots := x.lcSlots.map fun l => match l with
      | .loading a m cs (some w) _ => .loading a m cs (some w) (some how)
      | l => l
    let t := s.editTask n id fun y => { y with fabric := fab, lcSlots := slots, afterDrain := false }
    let t := bad.foldl (fun u e => u.raiseAsync n id e) t
    let c := t.core n
    let copies := c.copies.map fun (k, p) =>
      if p.task == id then (k, { p with retry := p.withheld.foldl (fun r (j, _) => tabPut r j how) p.retry }) else (k, p)
    let rings := c.rings.map fun (k, r) => if r.task == id && r.withheld.isSome then (k, { r with retry := some how }) else (k, r)
    t.setCore n { c with copies := copies, rings := rings }
/-- How the retries of a task that resumes count (R258). -/
def Ctx.how (x : Ctx) : Attempt := if x.afterDrain then .drained else .resumed

/-- A parked task enters the free day set of its core, with its claim in place; resumption counts as an event (R101). -/
def State.enter (s : State) (n : Nat) (y : Ctx) : State :=
  let c := s.core n
  let q := y.parts.getD ⟨[], [], [], []⟩
  let z := { y with
    parts := none, residence := .resident, yielded := false, eligible := false, ev := true, fabric := y.fabric.map Fabric.reload }
  let t := s.setCore n { c with day := some z, acc := q.acc, spad := q.spad, full := q.full, poison := q.poison }
  (t.continueTask n z.id y.how).settle n

/-- The claims of two tasks do not fit side by side (R39). -/
def claimsMeet (x y : Ctx) : Bool := decide (1024 < x.cols + y.cols) || decide (spadSize < x.spadBytes + y.spadBytes)
/-- A task that has just entered the day set beside a parked one: overlapped parts start to leave (R39), and a yielded task becomes
eligible (R412). -/
def State.besideNight (s : State) (n : Nat) : State :=
  match (s.core n).day, (s.core n).night with
  | some x, some y =>
    let y := if claimsMeet x y && y.residence == .resident then { y with residence := .leaving } else y
    s.setNight n (some (if y.yielded then { y with yielded := false, eligible := true, since := s.time } else y))
  | _, _ => s

/-- The condition of a task that parks: one that the drain of R258 parks, or a node of which withholds, is drained (R258, R259). -/
def Ctx.parkCond (x : Ctx) (d : Dusk) : TaskCond := if d.drain || x.heldNodes != 0 then .drained else x.cond
/-- SET_SWAP (R437): every image is complete and the control core stands at a boundary, with no fault still to be taken there. A task that
is held is parked by the drain of R258 alone (R440). -/
def execSetSwap (c : Nat) (s : State) : Out :=
  if !s.alive then .next s else
  match (s.core c).dusk, (s.core c).day with
  | some d, some x =>
    let done := match x.fabric with | some f => f.complete | none => true
    let free := if x.cond == .run then x.traps.isEmpty else d.drain && x.cond == .held
    if !(done && x.atBoundary && free) then .next s
    else
      let cond := x.parkCond d
      let x' := { x with cond := cond, eligible := cond != .drained, yielded := false }
      (match (s.core c).night with
       | none => (match (s.park c x').exportParked c ((((s.park c x').core c).night).getD x') with
         | .error e => .next (s.askOutside e)
         | .ok t => .next t)
       | some y =>
         if !(d.ret && y.returns) then .next s
         else
           let parked := s.park c x'
           .next ((parked.enter c y).besideNight c))
  | _, _ => .next s

/-- What a save slot receives is the P640's own (R438, log entry 24): the slot of a core in its partition's save area, in whatever range of
R44 it lies; a wait while something withholds the write. -/
def State.saveParts (s : State) (n : Nat) (y : Ctx) : Res State :=
  match s.part y.part with
  | none => .ok s
  | some q =>
    let slot := q.saveBase.toNat + 0x180000 * s.logicalCore y.part n
    s.putRange (dieAgent (coreDie n) 6 y.asid) slot ((List.range 0x180000).map fun k => Config.opaqueByte (s.tick + k))
/-- A task's wait since it became eligible begins when its state is back in place (R415). -/
def Ctx.backSince (y : Ctx) (now : Word) : Ctx := { y with since := if y.eligible then now else y.since }
/-- The lookup-cell state of the parked task y (R377): it is streamed out for a lookup-cell instruction of the day-set task, and comes back
once no task of the day set holds the plane, or, before a return dusk swaps the sets, in exchange for that task's. -/
def State.streamPlane (s : State) (n : Nat) (y : Ctx) : State :=
  let k := s.core n
  let back := fun (p : Cells 256) =>
    { k with plane := p, planeTask := some y.id, planeAsid := some y.asid, night := some ({ y with plane := none }.backSince s.time) }
  match k.day, y.plane with
  | some x, none =>
    if x.wait == .plane && k.planeTask == some y.id then
      match s.saveParts n y with
      | .error e => s.askOutside e
      | .ok t => t.setCore n { k with planeTask := none, night := some { y with plane := some k.plane } }
    else s
  | some x, some p =>
    if k.planeTask != some x.id then (if x.wait == .plane then s else s.setCore n (back p))
    else if k.stopped x && k.dusk.any (·.ret) then
      match s.saveParts n x with
      | .error e => s.askOutside e
      | .ok t => t.setCore n { back p with day := some { x with plane := some k.plane } }
    else s
  | none, some p => s.setCore n (back p)
  | none, none => s
/-- CLAIM_STREAM_DONE (R39, R377): the overlapped parts have been streamed out, or, once the claims no longer meet, are back; the same of the
lookup-cell state. -/
def execClaimStreamDone (c : Nat) (s : State) : Out :=
  if !s.alive then .next s else
  match (s.core c).night with
  | none => .next s
  | some y =>
    let meets := match (s.core c).day with | some x => claimsMeet x y | none => false
    match y.residence, meets with
    | .leaving, true => .next (match s.saveParts c y with | .error e => s.askOutside e | .ok t => t.setNight c (some { y with residence := .out }))
    | .leaving, false | .out, false => .next (s.setNight c (some ({ y with residence := .resident }.backSince s.time)))
    | .out, true | .resident, _ => .next (s.streamPlane c y)

/-! The timed drain (R258 to R260). -/

def State.drainLimit (s : State) (p : Nat) : Nat := match s.part p with | some q => max 1 q.draint.toNat | none => 1
/-- DRAIN_TIMER_EXPIRY (R258): a node of the day-set task withheld for PRT_DRAINT nanoseconds. -/
def execDrainTimerExpiry (c : Nat) (s : State) : Out :=
  if !s.alive then .next s else
  match (s.core c).limit, (s.core c).day with
  | some t0, some x =>
    if x.heldNodes == 0 then .next (s.setCore c { s.core c with limit := none })
    else if decide (t0.toNat + s.drainLimit x.part ≤ s.time.toNat) && (s.core c).dusk.isNone && (s.core c).asked.isNone then
      .next (s.setCore c { s.core c with asked := some ⟨false, true, s.time, none⟩, limit := none })
    else .next s
  | _, _ => .next s
/-- DRAIN_TIMEOUT (R260, R440): a dusk that has drained for PRT_DRAINT raises TIMEOUT; no image of the fabric is saved. No rule names the
block that raises it: the record has the control core's source, ASYNC 0 and FR2 0 (DESIGN CHOICE, log entry 32). -/
def execDrainTimeout (c : Nat) (s : State) : Out :=
  if !s.alive then .next s else
  match (s.core c).dusk, (s.core c).day with
  | some d, some x =>
    if decide (d.since.toNat + s.drainLimit x.part ≤ s.time.toNat) then
      let fr := faultRecord ⟨.timeout, 0, 0, none, 0xFF, 0xF, 0, false, []⟩ false false 0 s.time x.part (s.logicalCore x.part c) x.asid
      let y := { x with cond := .timedOut, fr := fr, wait := .none, fabric := none }
      let t := s.setCore c { s.core c with dusk := none, day := some y }
      (match t.pushFault x.part fr with
       | .ok u => .next u
       | .error e => .next ((t.askOutside e).setDay c (some { y with cond := .slotWait fr })))
    else .next s
  | _, _ => .next s

end Sys2Proof.Machine
end

