-- ==== Sys2Proof/Machine/Sched.lean ====
section
/-! DEFINITION. The task scheduler of a partition: the checks of a record, reuse lookups and hits, the choice of work for cores, dispatch,
returns and the dusks it sends (R32, R33, R39, R41, R404, R405, R414 to R418, R420 to R423, R439). -/

namespace Sys2Proof.Machine

/-! Records (R397, R404, R405). -/

/-- A record that has passed its checks, with what its code header adds. -/
structure Record where
  bytes : List Byte
  cols : Nat
  spad : Nat
  hash : List Byte
  deriving DecidableEq, Repr

def recWord (bs : List Byte) (k : Nat) : Word := leWord ((bs.drop (8 * k)).take 8)
def recNarg (bs : List Byte) : Nat := ((recWord bs 1).extractLsb' 0 4).toNat
def recNtile (bs : List Byte) : Nat := ((recWord bs 1).extractLsb' 4 4).toNat
def recPure (bs : List Byte) : Bool := (recWord bs 1).getLsbD 8
def recPrio (bs : List Byte) : Nat := ((recWord bs 1).extractLsb' 16 8).toNat
def recDone (bs : List Byte) : Word := recWord bs 2
def recTiles (bs : List Byte) : List (Word × Nat) :=
  (List.range (min 8 (recNtile bs))).map fun k => (recWord bs (12 + 2 * k), (recWord bs (13 + 2 * k)).toNat)
def recResult (bs : List Byte) : Word := recWord bs 28
def recResultLen (bs : List Byte) : Nat := (recWord bs 29).toNat

/-- The fields of a record keep R397. -/
def recFieldsOk (bs : List Byte) : Bool :=
  let w := recWord bs
  let zero := fun (ks : List Nat) => ks.all fun k => w k == 0
  let pu := recPure bs
  (w 1).extractLsb' 9 7 == 0 && (w 1).extractLsb' 24 40 == 0 && w 3 == 0 && w 30 == 0 && w 31 == 0 &&
  decide (recNarg bs ≤ 8) && decide (recNtile bs ≤ 8) && (pu || recNtile bs == 0) &&
  zero ((List.range (8 - min 8 (recNarg bs))).map fun i => 4 + recNarg bs + i) &&
  zero ((List.range (16 - 2 * min 8 (recNtile bs))).map fun i => 12 + 2 * recNtile bs + i) &&
  (if pu then
    decide (1 ≤ recNtile bs) && decide (32 ≤ recResultLen bs) && decide (recResultLen bs ≤ 2 ^ 20) && recResultLen bs % 32 == 0 &&
    (recTiles bs).all fun (_, n) => decide (32 ≤ n) && decide (n ≤ 65536) && n % 32 == 0
   else w 28 == 0 && w 29 == 0)
/-- A code header keeps R404. -/
def headerOk (h : List Byte) : Bool :=
  let w := recWord h
  let pu := (w 0).getLsbD 16
  let len := ((w 1).extractLsb' 0 32).toNat
  decide (((w 0).extractLsb' 0 6).toNat ≤ 32) && decide (((w 0).extractLsb' 8 6).toNat ≤ 32) && (w 0).extractLsb' 6 2 == 0 &&
  (w 0).extractLsb' 14 2 == 0 && (w 0).extractLsb' 17 47 == 0 && (w 1).extractLsb' 32 32 == 0 && len % 8 == 0 && decide (8 ≤ len) &&
  decide (len ≤ 2 ^ 31 - 8) && (pu || (w 2 == 0 && w 3 == 0)) && w 4 == 0 && w 5 == 0 && w 6 == 0 && w 7 == 0

/-- The virtual pages of 64 KB that a range touches, each by an address in it. -/
def pagesOf (va : Word) (n : Nat) : List Word :=
  let a := va.toNat / 65536
  let b := (va.toNat + (n - 1)) / 65536
  (List.range (b - a + 1)).map fun k => if k == 0 then va else BitVec.ofNat 64 (65536 * (a + k))
/-- The checks of R405 in its reading order; every failure reports the slot's address. -/
def State.recordCheck (s : State) (ag : Agent) (slot : Word) : Res (State × Record) :=
  let r : Res (State × Record) := do
    let (t, bs) ← s.loadN ag slot 256
    require ((recWord bs 0).toNat % 64 == 0 && (recDone bs).toNat % 16 == 0 && (recTiles bs).all (fun (a, _) => a.toNat % 32 == 0) &&
      (recResult bs).toNat % 32 == 0) .align slot
    require (recFieldsOk bs) .shape slot
    let (t, h) ← t.loadN ag (recWord bs 0) 64
    require (headerOk h && (!recPure bs || (recWord h 0).getLsbD 16)) .shape slot
    let t ← (recTiles bs).foldlM (fun t (a, n) => (pagesOf a n).foldlM (fun t v => do
      let w ← State.translate t ag v .load
      .ok (State.stampWalk t ag w)) t) t
    .ok (t, ⟨bs, 32 * ((recWord h 0).extractLsb' 0 6).toNat, 16384 * ((recWord h 0).extractLsb' 8 6).toNat, (h.drop 16).take 16⟩)
  match r with
  | .error (.trap e) => .error (.trap { e with val := slot })
  | r => r

/-- The scheduler takes the head record of a node (R407, R409): HEAD advances, and a deferred firing is enqueued when its template can
be read, in the same operation. -/
def State.takeRecord (s : State) (p : Nat) (asid : BitVec 13) (node : Word) : Res State := do
  let ag := s.schedAgent p asid
  let (t, n) ← s.readHead ag node
  let t := match t.part p with
    | some q => t.setPart p { q with queued := q.queued.filter fun r => !(r.node == node && r.asid == asid && r.number == n.head) }
    | none => t
  let n := n.setQueue (n.head + 1) n.tail
  let t ← (if n.pend == 0 then t.writeNode ag node n
    else
      let r : Res (State × Node) := do
        let (u, n) ← t.nodeSector ag node 8 n
        let (u, bs) ← u.loadN ag n.opnd 256
        u.enqueueRecord ag p node n bs
      match r with
      | .ok (u, n) => u.writeNode ag node (n.setCounts n.join (n.pend - 1) n.iter)
      | .error (.trap _) => (t.writeNode ag node n).map fun u => u.schedFault p asid (shapeTrap node)
      | .error e => .error e : Res State)
  s.atOnce t ag (s.bufferLines ag node 128)
/-- A node that the scheduler can no longer read or write is forgotten, with a fault that names it (log entry 35). -/
def State.forgetNode (s : State) (p : Nat) (asid : BitVec 13) (node : Word) (e : Trap) : State :=
  let t := s.schedFault p asid { e with val := node }
  match t.part p with
  | some q => t.setPart p { q with nodes := q.nodes.filter fun (a, b) => !(a == node && b == asid) }
  | none => t
/-- A record that fails its checks is dropped (R405), with one fault record once HEAD has advanced. -/
def State.dropRecord (s : State) (p : Nat) (asid : BitVec 13) (node : Word) (e : Trap) : State :=
  match s.takeRecord p asid node with
  | .ok u => u.schedFault p asid e
  | .error (.trap e') => (s.schedFault p asid e).forgetNode p asid node e'
  | .error x => s.askOutside x

/-! Reuse lookups (R420 to R423). -/

/-- The granules of the tiles, in order and each once; none when a byte lies outside HBM or does not translate (R422). -/
def State.tileGranules (s : State) (ag : Agent) (tiles : List (Word × Nat)) : Res (State × Option (List Nat)) :=
  (tiles.flatMap fun (a, n) => pagesOf a n).foldlM (fun (t, acc) v =>
    match acc with
    | none => .ok (t, none)
    | some gs => match State.walk t ag v with
      | .ok w =>
        let u := State.stampWalk t ag w
        if u.region w.pa == .hbm then .ok (u, some (if gs.contains (granuleOf w.pa) then gs else gs ++ [granuleOf w.pa])) else .ok (u, none)
      | .error (.trap e) => .ok (t.stampReads ag e.reads, none)
      | .error e => .error e) (s, some [])
/-- Generations read at their homes while their watch bits are set, by an agent whose next reads follow every write that they count (R326,
R421, R422). -/
def State.watch (s : State) (ag : Agent) (gs : List Nat) : State × List (Nat × BitVec 32) :=
  let s := s.raiseClock ag (s.lines.foldl (fun m (l, (w, _)) => if gs.contains (granuleOf (128 * l)) then max m w else m) 0)
  gs.foldl (fun (t, out) g =>
    let v := match tabGet (State.gens t) g with | some (n, _) => n | none => 0
    ({ t with gens := tabPut t.gens g (v, true) }, out ++ [(g, v)])) (s, [])
/-- The bytes of the tiles as M lays them out (R420); none for a tile that cannot be read. -/
def State.tileBytes (s : State) (ag : Agent) (tiles : List (Word × Nat)) : Res (State × Option (List Byte)) :=
  tiles.foldlM (fun (t, acc) (a, n) => match acc with
    | none => .ok (t, none)
    | some bs => match State.loadN t ag a n with
      | .ok (u, r) => .ok (u, some (bs ++ natLe 8 n ++ r))
      | .error (.trap e) => .ok (t.stampReads ag e.reads, none)
      | .error e => .error e) (s, some [])
/-- The key of an ASID, as the hash engine reads it (R326, R419); none when it holds an uncorrectable error (log entry 44). -/
def State.reuseKey (s : State) (ag : Agent) (asid : BitVec 13) : State × Option (List Byte) :=
  let a := s.keyBase.toNat + 32 * asid.toNat
  let t := (linesOf a 32).foldl (fun t l => (State.recall t l).stampLoad ag l) s
  (t, if t.rangePoisoned a 32 then none else some (Memory.bytes t.mem a 32))
/-- The sectors of a hit (R423): done, a failed read, or a failed write. -/
def hitSectors (ag : Agent) (src dst : Word) : Nat → Nat → State → Res (State × Nat)
  | 0, _, s => .ok (s, 0)
  | n + 1, k, s =>
    let a := sectorAddr src k
    let b := sectorAddr dst k
    match s.load ag a 32 with
    | .error (.trap t) =>
      if t.code == .poison then
        (match s.store ag b (List.replicate 32 0) with
         | .ok u => (match u.walk ag b with
           | .ok w => hitSectors ag src dst n (k + 1) (if u.region w.pa == .hbm then u.addPoison (sectorOf w.pa) else u)
           | .error _ => .ok (u, 2))
         | .error (.trap e) => .ok (s.stampReads ag e.reads, 2)
         | .error e => .error e)
      else .ok (s.stampReads ag t.reads, 1)
    | .error e => .error e
    | .ok (t, bs) => (match t.store ag b bs with
      | .ok u => hitSectors ag src dst n (k + 1) u
      | .error (.trap e) => .ok (t.stampReads ag e.reads, 2)
      | .error e => .error e)

/-- What a lookup finds: the record retires, or runs with what is remembered for its insertion. -/
inductive Found where
  | hit
  | run (tag : Option (BitVec 128)) (granules : List (Nat × BitVec 32))
  deriving DecidableEq, Repr

def State.countLookup (s : State) (asid : BitVec 13) (hit : Bool) : State :=
  let r := s.stat asid
  s.setStat asid (if hit then { r with lookups := r.lookups + 1, hits := r.hits + 1 }
    else { r with lookups := r.lookups + 1, misses := r.misses + 1 })
/-- The lookup of R422, with the hit of R423; its reads follow the release that enqueued the record. -/
def State.lookupRecord (s : State) (p : Nat) (asid : BitVec 13) (node : Word) (r : Record) : Res (State × Found) := do
  let ag := s.schedAgent p asid
  let hash := dieAgent (s.schedDie p) 2 asid
  let (s, flags) ← s.asidWord ag asid 1
  if !(flags.any fun w => w.getLsbD 20) || (s.stat asid).quota == 0 then .ok (s, .run none [])
  else do
    let tiles := recTiles r.bytes
    let res := recResult r.bytes
    let len := recResultLen r.bytes
    let noEntry := fun (t : State) => (t.countLookup asid false, Found.run none [])
    let (s, gs) ← s.tileGranules ag tiles
    let (s, own) ← s.tileGranules ag [(res, len)]
    match gs, own with
    | some gs, some _ => do
      let (t, g) := s.watch ag gs
      let (t, m) ← ((t.acquire hash (.node asid node)).handOver ag hash).tileBytes hash tiles
      let (t, key) := t.reuseKey hash asid
      match m, key with
      | none, _ | some _, none => .ok (noEntry t)
      | some m, some key =>
        let tag := kmac key (r.hash ++ natLe 1 (recNtile r.bytes) ++ m ++ natLe 8 len) reuseCustom
        match t.findEntry asid tag with
        | none => .ok (t.countLookup asid false, .run (some tag) g)
        | some e =>
          let out := fun (u : State) => u.setTable (tagDie tag) ((u.table (tagDie tag)).drop (some e))
          if e.rlen == len && e.granules == g then
            if e.result == res then .ok (t.countLookup asid true, .hit)
            else do
              let (u, how) ← hitSectors ag e.result res (e.rlen / 32) 0 t
              match how with
              | 0 => .ok (u.countLookup asid true, .hit)
              | 1 => .ok (noEntry (out u))
              | _ => .ok (noEntry u)
          else .ok ((out t).countLookup asid false, .run (some tag) g)
    | _, _ => .ok (noEntry s)

/-- When a record was enqueued (R415). -/
def Partition.sinceOf (q : Partition) (node : Word) (asid : BitVec 13) (k : BitVec 32) (now : Word) : Word :=
  match q.queued.find? (fun r => r.node == node && r.asid == asid && r.number == k) with | some r => r.since | none => now
/-- A record of a node waits: an enqueue put it there and the scheduler has not taken it (R409, R415). -/
def Partition.waiting (q : Partition) (node : Word) (asid : BitVec 13) : Bool := q.queued.any fun r => r.node == node && r.asid == asid
/-- The head of a node of an ASID that the partition owns (R232, R414), as the scheduler reads it: none of another's. -/
def State.ownNode (s : State) (ag : Agent) (p : Nat) (asid : BitVec 13) (node : Word) : Res (State × Option Node) := do
  let (s, own) ← s.asidOf ag asid p
  if own then do
    let (s, n) ← s.readHead ag node
    .ok (s, some n)
  else .ok (s, none)
/-- REUSE_LOOKUP (R422): the scheduler takes the pure head record of a node, whether or not a core is free. -/
def execReuseLookup (p : Nat) (node : Word) (asid : BitVec 13) (s : State) : Out :=
  if !s.alive then .next s else
  match s.part p with
  | none => .next s
  | some q =>
    let ag := s.schedAgent p asid
    let s := s.acquire ag (.node asid node)
    if !q.waiting node asid then .next s
    else match s.ownNode ag p asid node with
      | .error (.trap e) => .next (s.forgetNode p asid node e)
      | .error x => .next (s.askOutside x)
      | .ok (s, none) => .next s
      | .ok (s, some n) =>
        if n.kind != 1 || n.depth == 0 then .next s
        else
          let slot := n.slot n.head
          match s.loadN ag slot 16 with
          | .error x => .next (s.askOutside x)
          | .ok (s, w) =>
            if !(recWord w 1).getLsbD 8 then .next s
            else match s.recordCheck ag slot with
              | .error (.trap e) => .next (s.dropRecord p asid node e)
              | .error x => .next (s.askOutside x)
              | .ok (t, r) => match t.lookupRecord p asid node r with
                | .error (.trap e) => .next (t.dropRecord p asid node e)
                | .error x => .next (s.askOutside x)
                | .ok (t, f) => match t.takeRecord p asid node with
                  | .error (.trap e) => .next (t.forgetNode p asid node e)
                  | .error x => .next (s.askOutside x)
                  | .ok t =>
                    let t := t.consume ag
                    match f with
                    | .hit => .next (t.errand p ⟨asid, none, recDone r.bytes, some node, [], 64, [], t.release ag⟩)
                    | .run tag g =>
                      let rd : Ready := ⟨node, asid, n.head, slot, q.sinceOf node asid n.head s.time, r.bytes, r.cols, r.spad, tag, g⟩
                      .next (match t.part p with | some q => t.setPart p { q with ready := q.ready ++ [rd] } | none => t)

/-! Candidates (R414 to R417). -/

/-- What may enter a day set: the head record of a node, a pure record taken, or a parked task of a core. -/
inductive Work where
  | head (node : Word) (asid : BitVec 13)
  | ready (r : Ready)
  | parked (core : Nat)
  deriving DecidableEq, Repr

/-- A candidate with the keys of R416. -/
structure Cand where
  work : Work
  cls : Nat
  eff : Nat
  wait : Nat
  node : Nat
  asid : BitVec 13
  number : BitVec 32
  held : Bool
  deriving DecidableEq, Repr

def effective (prio wait ageq : Nat) : Nat := min 255 (prio + wait / max 1 ageq)
/-- a goes before b (R416): a parked task before records when the first three keys tie. -/
def Cand.before (a b : Cand) : Bool :=
  let park := fun (c : Cand) => match c.work with | .parked _ => 0 | _ => 1
  if a.cls != b.cls then b.cls < a.cls
  else if a.eff != b.eff then b.eff < a.eff
  else if a.wait != b.wait then b.wait < a.wait
  else if park a != park b then park a < park b
  else a.node < b.node
/-- A task-node successor of a node has deferred firings (R416). -/
def State.heldNode (s : State) (ag : Agent) (node : Word) : Bool :=
  match s.nodeSector ag node 4 ⟨List.replicate 16 0⟩ with
  | .error _ => false
  | .ok (_, n) => n.succs.any fun v => v != 0 && (match s.readHead ag v with | .ok (_, m) => m.kind == 1 && m.pend != 0 | .error _ => false)

/-- A core that a pending resize or move takes from its partition (R444, R445). -/
def Partition.leaves (q : Partition) (n : Nat) : Bool :=
  match q.resize with
  | none => false
  | some (.shrink _ cs _) => (match q.logical (coreCluster n) with | some l => cs.contains l | none => false)
  | some (.move l _ _) => q.logical (coreCluster n) == some l
/-- A core that a pending resize has added: the scheduler dispatches to it from the completion onward (R443). -/
def Partition.joins (q : Partition) (n : Nat) : Bool :=
  match q.resize with
  | some (.shrink _ _ add) => (match q.logical (coreCluster n) with | some l => add.contains l | none => false)
  | some (.move _ _ _) | none => false
/-- A record's candidate: its queue decides its class. -/
def State.recordCand (s : State) (p : Nat) (q : Partition) (w : Work) (node : Word) (asid : BitVec 13) (k : BitVec 32) (prio : Nat)
    (since : Word) (n : Node) : Cand :=
  let wait := s.time.toNat - since.toNat
  ⟨w, if n.full || n.pend != 0 then 1 else 0, effective prio wait q.ageq.toNat, wait, node.toNat, asid, k, s.heldNode (s.schedAgent p asid) node⟩
/-- The candidates of a partition that may be dispatched or return. A pure head record is only looked up (R414). -/
def State.cands (s : State) (p : Nat) (q : Partition) : List Cand :=
  let heads := q.nodes.filterMap fun (node, asid) =>
    let ag := s.schedAgent p asid
    if !q.waiting node asid then none
    else match s.ownNode ag p asid node with
      | .error _ | .ok (_, none) => none
      | .ok (_, some n) =>
        if n.kind != 1 || n.depth == 0 then none
        else
          let cand := fun (prio : Nat) => some (s.recordCand p q (.head node asid) node asid n.head prio (q.sinceOf node asid n.head s.time) n)
          match s.loadN ag (n.slot n.head) 16 with
          | .ok (_, w) => if (recWord w 1).getLsbD 8 then none else cand (recPrio w)
          | .error _ => cand 0
  let ready := q.ready.map fun r =>
    let n := match s.readHead (s.schedAgent p r.asid) r.node with | .ok (_, n) => n | .error _ => ⟨List.replicate 16 0⟩
    s.recordCand p q (.ready r) r.node r.asid r.number (recPrio r.bytes) r.since n
  let parked := q.cores.filterMap fun n => match (s.core n).night with
    | none => none
    | some y =>
      if y.returns then
        (let wait := s.time.toNat - y.since.toNat
         some ⟨.parked n, if q.leaves n then 1 else 0, effective y.prio.toNat wait q.ageq.toNat, wait, y.node.toNat, y.asid, 0, false⟩)
      else none
  heads ++ ready ++ parked
/-- The scheduler reads the heads of its partition's nodes, and of each the record that stands first: it asks for what is not at hand. -/
def State.lookHeads (s : State) (p : Nat) : State :=
  match s.part p with
  | none => s
  | some q => q.nodes.foldl (fun s (node, asid) =>
    let ag := State.schedAgent s p asid
    if !q.waiting node asid then s
    else
      let r : Res State := do
        match ← State.ownNode s ag p asid node with
        | (t, none) => .ok t
        | (t, some n) => if n.depth == 0 then .ok t else (t.loadN ag (n.slot n.head) 16).map (·.1)
      match r with
      | .ok t => t
      | .error (.trap e) => State.stampReads s ag e.reads
      | .error e => State.askOutside s e) s
/-- The candidates that may go now, best first: a held record only when every candidate is held (R416). -/
def orderCands (l : List Cand) : List Cand :=
  let m := if l.all (·.held) then l else l.filter fun c => !c.held
  m.foldl (fun acc c => acc.takeWhile (fun d => !c.before d) ++ [c] ++ acc.dropWhile (fun d => !c.before d)) []

/-- A core of the partition that may take a record now (R32). -/
def State.freeCore (s : State) (q : Partition) (n : Nat) : Bool := (s.core n).day.isNone && !q.leaves n && !q.joins n
/-- The core that takes a record (R417): one whose last task had its ASID, then one with a free night set, then the lowest number. -/
def State.coreFor (s : State) (p : Nat) (q : Partition) (asid : BitVec 13) : Option Nat :=
  let key := fun n => (if (s.core n).lastAsid == some asid then 0 else 2048) + (if (s.core n).night.isNone then 0 else 1024) + s.logicalCore p n
  (q.cores.filter (s.freeCore q)).foldl (fun m n => match m with
    | none => some n
    | some k => if key n < key k then some n else some k) none
/-- The core a candidate could enter now. -/
def State.placeFor (s : State) (p : Nat) (q : Partition) (c : Cand) : Option Nat :=
  match c.work with
  | .parked n => if (s.core n).day.isNone then some n else none
  | .head _ _ | .ready _ => s.coreFor p q c.asid
/-- The scheduler's next choice: the first candidate that has a core. -/
def State.choice (s : State) (p : Nat) : Option (Cand × Nat) :=
  match s.part p with
  | none => none
  | some q => (orderCands (s.cands p q)).findSome? fun c => (s.placeFor p q c).map fun n => (c, n)

/-! Dispatch (R31 to R33, R41). -/

/-- Spill slots whose column a claim takes are written to their addresses and recorded there, before the claim is made (R371). What an
address that takes no write should have received is lost, and FIL meets what the address raises (log entry 31). -/
def State.evictSpills (s : State) (n : Nat) (first last : Nat) : Res State :=
  (s.core n).spills.foldlM (fun t (k, p) => match p.column with
    | some col =>
      if first ≤ col && col < last then do
        let ag := coreAgent 0 n 0 0 p.asid
        let u ← (match State.storeN t ag p.addr (p.vals.flatMap fun v => natLe 8 v.toNat) with
          | .error (.trap e) => .ok (State.stampReads t ag e.reads)
          | r => r : Res State)
        .ok (u.setCore n { u.core n with spills := tabPut (u.core n).spills k { p with vals := [], column := none } })
      else .ok t
    | none => .ok t) s
/-- The task of a record enters the free day set of a core with the state of R33: what another ASID left there is zeroed (R41), every
full-empty bit of the claim is empty (R362), and the dispatch acquires what released the record (R333). -/
def State.startTask (s : State) (p n : Nat) (asid : BitVec 13) (node slot : Word) (r : Record) (tag : Option (BitVec 128))
    (granules : List (Nat × BitVec 32)) : State :=
  let c := s.core n
  let job : Job := ⟨recDone r.bytes, recPure r.bytes, recTiles r.bytes, recResult r.bytes, recResultLen r.bytes, tag, granules, false, false, false⟩
  let x := { Ctx.entry s.nextId asid p false (recWord r.bytes 0 + 64) with
    code := s.recallAll.mem, codeLines := s.hostLines, cols := r.cols, spadBytes := r.spad, node := node, rslot := slot,
    prio := BitVec.ofNat 8 (recPrio r.bytes), job := some job }
  let x := (List.range 8).foldl (fun (y : Ctx) k => y.setG (BitVec.ofNat 6 (k + 1)) (recWord r.bytes (4 + k))) x
  let same := c.lastAsid == some asid
  let t := s.setCore n { c with
    day := some x
    acc := if same then c.acc else []
    spad := if same then c.spad else []
    poison := if same then c.poison else []
    full := []
    retired := none
    lastAsid := some asid }
  (({ t with nextId := s.nextId + 1 }).besideNight n).acquire (coreAgent 0 n 0 x.id asid) (.node asid node)

/-- A parked task returns to its core (R439). -/
def State.resumeParked (s : State) (n : Nat) : State :=
  match (s.core n).night, (s.core n).day with
  | some y, none => (s.setNight n none).enter n y
  | _, _ => s
/-- The head record of a node is taken and starts on a core, or is dropped (R405). -/
def State.dispatchHead (s : State) (p n : Nat) (node : Word) (asid : BitVec 13) : State :=
  let ag := s.schedAgent p asid
  let s := s.acquire ag (.node asid node)
  match s.readHead ag node with
  | .error (.trap e) => s.forgetNode p asid node e
  | .error x => s.askOutside x
  | .ok (s, nd) =>
    let slot := nd.slot nd.head
    match s.recordCheck ag slot with
    | .error (.trap e) => s.dropRecord p asid node e
    | .error x => s.askOutside x
    | .ok (t, r) => match t.evictSpills n 0 r.cols with
      | .error x => s.askOutside x
      | .ok t => match t.takeRecord p asid node with
        | .error (.trap e) => t.forgetNode p asid node e
        | .error x => s.askOutside x
        | .ok t => (t.consume ag).startTask p n asid node slot r none []
/-- DISPATCH (R414 to R417): what the scheduler still has to do goes on, and one free day set is filled. -/
def execDispatch (p : Nat) (s : State) : Out :=
  if !s.alive then .next s else
  let s := (s.resumeErrands p).lookHeads p
  match s.choice p with
  | none => .next s
  | some (c, n) => match c.work with
    | .parked k => .next (s.resumeParked k)
    | .head node asid => .next (s.dispatchHead p n node asid)
    | .ready r => match s.evictSpills n 0 r.cols with
      | .error e => .next (s.askOutside e)
      | .ok t =>
        let t := match t.part p with | some q => t.setPart p { q with ready := q.ready.filter (· != r) } | none => t
        .next (t.startTask p n r.asid r.node r.slot ⟨r.bytes, r.cols, r.spad, []⟩ r.tag r.granules)
/-- TASK_RESUME (R439): the parked task of core c is the scheduler's next choice, and returns. -/
def execTaskResume (c : Nat) (s : State) : Out :=
  if !s.alive then .next s else
  match (s.core c).night with
  | none => .next s
  | some y => match s.choice y.part with
    | some (k, _) => if k.work == .parked c then .next (s.resumeParked c) else .next s
    | none => .next s

/-! Dusks of the scheduler (R418). -/

/-- The core that a record's candidate may pre-empt: the lowest effective priority of its day-set task, then the lowest number,
among cores of the partition with a free night set. -/
def State.victim (s : State) (p : Nat) (q : Partition) : Option (Nat × Nat) :=
  q.cores.foldl (fun m n =>
    let c := s.core n
    match c.day with
    | none => m
    | some x =>
      if x.sup || c.night.isSome || q.leaves n || c.dusk.isSome || c.asked.isSome then m
      else match m with
        | none => some (n, x.prio.toNat)
        | some (k, e) => if x.prio.toNat < e || (x.prio.toNat == e && s.logicalCore p n < s.logicalCore p k) then some (n, x.prio.toNat) else m) none
/-- A marker for a record's candidate is on its way already. -/
def State.onItsWay (s : State) (q : Partition) (c : Cand) : Bool :=
  q.cores.any fun n => ((s.core n).dusk.toList ++ (s.core n).asked.toList).any fun d =>
    d.cand == some (BitVec.ofNat 64 c.node, c.asid, c.number)
/-- The core that a candidate sends a marker to, and whether its parked task is to return there. -/
def State.target (s : State) (p : Nat) (q : Partition) (c : Cand) : Option (Nat × Bool) :=
  let beats := fun (e : Nat) => decide (e + q.preempt.toNat ≤ c.eff)
  if (s.placeFor p q c).isSome then none
  else match c.work with
    | .parked n => (match (s.core n).day with
      | some x => if !x.sup && (s.core n).dusk.isNone && (s.core n).asked.isNone && beats x.prio.toNat then some (n, true) else none
      | none => none)
    | .head _ _ | .ready _ =>
      if s.onItsWay q c then none
      else match s.victim p q with
        | some (n, e) => if beats e then some (n, false) else none
        | none => none
/-- SCHEDULER_DUSK (R418): the first candidate that outranks a running task by SCH_PREEMPT has a dusk asked for. -/
def execSchedulerDusk (p : Nat) (s : State) : Out :=
  if !s.alive then .next s else
  match s.part p with
  | none => .next s
  | some q =>
    if q.preempt == 0 then .next s
    else match (orderCands (s.cands p q)).findSome? fun c => (s.target p q c).map fun t => (c, t) with
      | none => .next s
      | some (c, (n, ret)) =>
        .next (s.askDusk n ⟨ret, false, s.time, if ret then none else some (BitVec.ofNat 64 c.node, c.asid, c.number)⟩)

end Sys2Proof.Machine
end

