-- ==== Sys2Proof/Machine/Super.lean ====
section
/-! DEFINITION. What a supervisor does: held tasks, the fault queue, invalidation, page operations, hotness counters, format ranges and reuse
quotas (R129, R130, R238 to R247, R254 to R256, R419, R425). Each effect of a register write is one operation, which CSRW shares. -/

namespace Sys2Proof.Machine

/-- An effect that the moving core's supervisor has through a register: the effect alone, with the word of the write open. -/
def effect (s : State) (body : State → Ctx → Res State) : Out :=
  match s.ctx with
  | none => .next s
  | some x =>
    if !x.issues then .next s
    else if !x.sup then .next (s.interrupt x 0 (.trap ⟨.priv, 0, 0, none, 0xFF, 0xF, 0, false, []⟩))
    else match body s x with
      | .ok t => .next t
      | .error e => .next (s.interrupt x 0 e)
/-- The partition of a supervisor. -/
def State.own (s : State) (x : Ctx) : Res Partition :=
  match s.part x.part with
  | some q => .ok q
  | none => trapWith .prot 0

/-- The trap record stored while a task waited for a slot decides how it is held (R255, R260). -/
def heldCond (r : FaultRecord) : TaskCond := if r.fr0.extractLsb' 0 8 == 0x0E then .timedOut else .held

/-! The fault queue (R255). -/

/-- Records that wait for a slot: the scheduler's first, then those of tasks in ascending core number. -/
def State.drainFaults (s : State) (p : Nat) : Nat → State
  | 0 => s
  | fuel + 1 => match s.part p with
    | none => s
    | some q =>
      if !q.fqFree then s
      else match q.faults with
        | r :: rest => (match (s.setPart p { q with faults := rest }).pushFault p r with
          | .ok t => t.drainFaults p fuel
          | .error e => s.askOutside e)
        | [] =>
          let waiting := fun (x : Ctx) => x.part == p && (match x.cond with | .slotWait _ => true | _ => false)
          match s.cores.find? fun (_, c) => c.day.any waiting with
          | none => s
          | some (n, c) => match c.day with
            | none => s
            | some x => match x.cond with
              | .slotWait r => (match (s.setDay n (some { x with cond := heldCond r })).pushFault p r with
                | .ok t => t.drainFaults p fuel
                | .error e => s.askOutside e)
              | _ => s
/-- A write of PRT_FQHEAD frees slots. -/
def State.writeFqHead (s : State) (x : Ctx) (v : Word) : Res State := do
  let q ← s.own x
  .ok ((s.setPart x.part { q with fqHead := v.extractLsb' 0 16 }).drainFaults x.part 1024)
def execPrtFqheadWrite (v : Word) (s : State) : Out := effect s fun s x => s.writeFqHead x v

/-! Invalidation (R239, R240). -/

def invScope (v : Word) : Nat := (v.extractLsb' 1 2).toNat
def invAsid (v : Word) : BitVec 13 := v.extractLsb' 3 13
def invPage (v : Word) : Nat := (v.extractLsb' 16 36).toNat * 65536
/-- An ASID of a partition, as its translations found it, lies in the scope of an invalidation of partition p. -/
def invCovers (p : Nat) (v : Word) (asid : BitVec 13) (part : Nat) : Bool := if invScope v == 2 then part == p else asid == invAsid v
/-- A latched slot lies in the scope. -/
def invLatch (p : Nat) (v : Word) (asid : BitVec 13) (l : Latch) : Bool :=
  invCovers p v asid l.part && (invScope v != 0 || (decide (l.vbase ≤ invPage v) && decide (invPage v < l.vbase + l.size)))
/-- A page of an ASID of a partition, by an address in it, lies in the scope. -/
def State.invAddr (s : State) (p : Nat) (v : Word) (die : Nat) (asid : BitVec 13) (part : Nat) (va : Word) : Bool :=
  invCovers p v asid part && (invScope v != 0 || va.toNat / 65536 * 65536 == invPage v ||
    (match s.walk (dieAgent die 0 asid) va with | .ok w => decide (w.vbase ≤ invPage v) && decide (invPage v < w.vbase + w.size) | .error _ => false))
/-- The fabric of every task, changed; the flag tells the day set. -/
def State.mapFabrics (s : State) (f : Bool → Ctx → Fabric → Fabric) : State :=
  let g := fun (b : Bool) (x : Ctx) => { x with fabric := x.fabric.map (f b x) }
  { s with cores := s.cores.map fun (n, c) => (n, { c with day := c.day.map (g true), night := c.night.map (g false) }) }
/-- The latched slots of a fabric, changed. -/
def Fabric.mapLatches (f : Fabric) (g : Latch → Latch) : Fabric :=
  { f with
    ops := f.ops.map fun (k, o) => (k, { o with latches := o.latches.map g })
    ports := f.ports.map fun (k, q) => (k, { q with latches := q.latches.map g }) }
/-- The slots in the scope of an invalidation are to be translated again, and their nodes in the day set are due a re-latch token (R240). -/
def State.markNodes (s : State) (p : Nat) (v : Word) : State :=
  s.mapFabrics fun day x f =>
    let hit := fun (ls : List Latch) => day && ls.any (invLatch p v x.asid)
    let op := fun (o : Operator) => let r := o.relatch || hit o.latches; { o with relatch := r }
    let port := fun (q : Port) => let r := q.relatch || hit q.latches; { q with relatch := r }
    let g := { f with ops := f.ops.map fun (k, o) => (k, op o), ports := f.ports.map fun (k, q) => (k, port q) }
    g.mapLatches fun l => if invLatch p v x.asid l then { l with stale := true } else l
/-- A node in the scope has still to emit its token. -/
def State.nodesDue (s : State) (p : Nat) (v : Word) : Bool :=
  s.cores.any fun (_, c) => c.day.any fun x => invCovers p v x.asid x.part && x.fabric.any fun f =>
    f.ops.any (fun (_, o) => o.relatch) || f.ports.any (fun (_, q) => q.relatch)
/-- Held translations in the scope are gone, and a parked task's latched slots serve no access until they are translated again (R238 to
R240). -/
def State.dropHeld (s : State) (p : Nat) (v : Word) : State :=
  let t := { s with held := s.held.filter fun h =>
      !(invCovers p v h.asid h.part && (invScope v != 0 || (decide (h.vbase ≤ invPage v) && decide (invPage v < h.vbase + h.size)))) }
  t.mapFabrics fun day x f => if day then f else f.mapLatches fun l => if invLatch p v x.asid l then { l with size := 0 } else l
/-- ROOT and V that PRT_AROOT has written come into force for translations with an invalidation that covers the ASID (R233): what the
invalidation translates again is translated so. -/
def State.applyRoots (s : State) (p : Nat) (v : Word) : Res State := do
  let ag := s.schedAgent p 0
  let (s, now) ← s.rootsNext.foldlM (fun (t, l) (a, r) => do
    let (t, own) ← (if invScope v == 2 then State.asidOf t ag (BitVec.ofNat 13 a) p else .ok (t, BitVec.ofNat 13 a == invAsid v) :
      Res (State × Bool))
    .ok (t, if own then l ++ [(a, r)] else l)) (s, ([] : List (Nat × Word)))
  .ok { s with roots := now.foldl (fun l (a, r) => tabPut l a r) s.roots, rootsNext := s.rootsNext.filter fun e => !now.contains e }
/-- An invalidation starts (R233, R239, R240). -/
def State.startInv (s : State) (p : Nat) (v : Word) : Res State := do
  let t ← s.applyRoots p v
  .ok (t.markNodes p v)
/-- Retries that the completion of an invalidation brings about: quiet ones (R356, R390). -/
def State.quietRetries (s : State) (p : Nat) (v : Word) : State :=
  { s with cores := s.cores.map fun (n, c) =>
      let die := coreDie n
      let copy := fun (k : Copy) => { k with retry := k.withheld.foldl (fun r (j, t) =>
        if s.invAddr p v die k.asid k.part t.val && (tabGet r j).isNone then tabPut r j .quiet else r) k.retry }
      let ring := fun (r : Ring) => match r.withheld with
        | some t => if s.invAddr p v die r.asid r.part t.val && r.retry.isNone then { r with retry := some .quiet } else r
        | none => r
      let slots := fun (x : Ctx) => { x with lcSlots := x.lcSlots.map fun l => match l with
        | .loading a m cs (some t) none => if s.invAddr p v die x.asid x.part t.val then .loading a m cs (some t) (some .quiet) else l
        | l => l }
      (n, { c with
        copies := c.copies.map fun (k, q) => (k, copy q)
        rings := c.rings.map fun (k, r) => (k, ring r)
        day := c.day.map slots
        night := c.night.map slots }) }
/-- A write of PRT_INV. R251 has PROT report an address, and a foreign ASID names none: the trap reports the value written (DESIGN CHOICE, log
entry 32). -/
def State.writeInv (s : State) (x : Ctx) (word v : Word) : Res State := do
  require (invScope v != 3 && v.extractLsb' 52 12 == 0 && !v.getLsbD 0) .illegal word
  let q ← s.own x
  let s ← if invScope v == 2 then .ok s else s.ownAsid (s.me x) (invAsid v) x.part v
  await (!q.invBusy) .busy
  (s.setPart x.part { q with inv := v, invBusy := true }).startInv x.part v
def execPrtInv (v : Word) (s : State) : Out := effect s fun s x => s.writeInv x 0 v
/-- The owner of an ASID is the partition, as far as the entry can be read now. -/
def State.mayOwn (s : State) (p : Nat) (asid : BitVec 13) : Bool :=
  match s.asidOf (s.schedAgent p 0) asid p with | .ok (_, own) => own | .error _ => true
/-- An access to another device that may have used a translation in the scope is not yet answered: a page is within 1 GB of an address in
it. -/
def State.remoteDue (s : State) (p : Nat) (v : Word) : Bool :=
  s.remote.any fun r => !r.answered && !r.failed && (if invScope v == 2 then s.mayOwn p r.asid else r.asid == invAsid v) &&
    (invScope v != 0 || r.va.toNat / 2 ^ 30 == invPage v / 2 ^ 30)
/-- Nothing that an invalidation waits for is left (R239). -/
def State.invDone (s : State) (p : Nat) (v : Word) : Bool := !s.nodesDue p v && !s.remoteDue p v
/-- What the completion of an invalidation does. -/
def State.invalidate (s : State) (p : Nat) (v : Word) : State := (s.dropHeld p v).quietRetries p v
/-- INVALIDATION_COMPLETE (R239): every affected node has emitted its token and every access is performed; BUSY clears. -/
def execInvalidationComplete (p : Nat) (s : State) : Out :=
  if !s.alive then .next s else
  match s.part p with
  | none => .next s
  | some q =>
    if q.invBusy && s.invDone p q.inv then .next ((s.setPart p { q with invBusy := false }).invalidate p q.inv) else .next s

/-! Page operations (R243 to R247). -/

/-- The migration engine of a die (R325). -/
def migAgent (die : Nat) : Agent := dieAgent die 4 0
def popDone (st : Word) (reason : Nat) : Word :=
  BitVec.ofNat 64 ((st.extractLsb' 32 32 + 1 : BitVec 32).toNat * 2 ^ 32 + reason * 16 + (reason != 0).toNat * 2)
def State.endPop (s : State) (p reason : Nat) : State :=
  match s.part p with
  | none => s
  | some q => s.setPart p { q with pop := none, popSt := popDone q.popSt reason }
/-- The invalidation of its page that a page operation makes, as PRT_INV would name it. -/
def PageOp.scope (o : PageOp) : Word := BitVec.ofNat 64 (o.va.toNat / 65536 * 65536 + o.asid.toNat * 8)
/-- A write of a page operation's engine: it waits while the migration of another partition withholds it (R245), or the host may hold the
line (R343). -/
def State.popWrite (s : State) (ag : Agent) (o : PageOp) (pa : Nat) (bs : List Byte) : Res State := do
  let others : State := { s with parts := s.parts.map fun (k, q) => (k, { q with pop := q.pop.filter (· != o) }) }
  await (!others.moving pa bs.length) .migration
  let t ← s.forPhysical ag pa bs.length
  t.writeAt ag (BitVec.ofNat 64 pa) pa bs
/-- Sectors of a page copied, poison with them, each read and write at its timestamp (R245, R246, R326). -/
def copyPage (ag : Agent) (o : PageOp) (src dst : Nat) : Nat → State → Res State
  | 0, s => .ok s
  | n + 1, s => do
    let t ← copyPage ag o src dst n s
    let a := src + 32 * n
    let b := dst + 32 * n
    let (u, bs) := t.readHbm (ag.atHome (hbmDie a)) a 32
    let u ← u.popWrite ag o b bs
    .ok (if u.sectorPoisoned a then u.addPoison (sectorOf b) else u)
/-- An agent's next write comes after every read of a page (R245). -/
def State.afterReads (s : State) (ag : Agent) (page size : Nat) : State :=
  s.raiseClock ag (s.lines.foldl (fun m (k, (_, r)) => if page ≤ 128 * k && 128 * k < page + size then max m (r + 1) else m) 0)
/-- A page of HBM with the size and alignment of a leaf. -/
def hbmPage (a size : Nat) : Bool := decide (a % size = 0) && decide (a + size ≤ hbmEnd)
/-- The leaf of an operation written at its home, in whatever range of R44 it stands. -/
def State.writeLeaf (s : State) (ag : Agent) (o : PageOp) (v : Word) : Res State := s.popWrite ag o o.entry (natLe 8 v.toNat)
def migBit : Word := 0x80
/-- The REASON with which an operation ends at once, or none (R243, R245 to R247, log entry 31), and the page that it reads: the leaf's,
or the primary of a duplicated one. -/
def State.popRefused (s : State) (ag : Agent) (op : Nat) (asid : BitVec 13) (p : Nat) (dst : Nat) (w : Walk) : Res (State × Option Nat × Nat) := do
  let (s, own) ← s.asidOf ag asid p
  let page := entryAddr w.leaf
  if op == 0 || 3 < op || !own || s.region w.entry == .view then .ok (s, some 1, page)
  else if op == 3 then
    (if entryDup w.leaf then do
      let (s, prim, _) ← s.descriptor ag 0 page
      .ok (s, none, prim)
    else .ok (s, some 6, page))
  else if entryDup w.leaf then .ok (s, some 5, page)
  else if entryMig w.leaf || s.region w.pa != .hbm then .ok (s, some 1, page)
  else if op == 1 then .ok (s, if hbmPage dst w.size then none else some 1, page)
  else if s.region dst != .hbm then .ok (s, some 1, page)
  else do
    let (s, prim, copies) ← s.descriptor ag 0 dst
    .ok (s, if prim == page && copies.all (hbmPage · w.size) then none else some 1, page)
/-- A write of PRT_POPCMD. The engine of the die that homes the source page carries the operation out. An operand that cannot be read is a
bad one: an operation never traps (R243, log entry 31). -/
def State.writePop (s : State) (x : Ctx) (op : Nat) (asid : BitVec 13) : Res State := do
  let q ← s.own x
  await q.pop.isNone .busy
  let q := { q with popCmd := BitVec.ofNat 64 (asid.toNat * 8 + op) }
  let reader := dieAgent (s.schedDie x.part) 4 asid
  let bad := fun (t : State) (reason : Nat) => (t.setPart x.part q).endPop x.part reason
  let go : Res State := do
    let w ← s.walk reader q.popVa
    let (t, refused, page) ← (s.stampWalk reader w).popRefused reader op asid x.part q.popDst.toNat w
    match refused with
    | some r => .ok (bad t r)
    | none => do
      let ag := migAgent (hbmDie page)
      let o : PageOp := ⟨op, asid, q.popVa, q.popDst, w.entry, w.leaf, w.size, false, none⟩
      let t := (t.handOver (t.me x) ag).setPart x.part { q with pop := some o, popSt := (q.popSt &&& ~~~0xFF) ||| 1 }
      if op == 1 then do
        let t ← t.writeLeaf ag o (w.leaf ||| migBit)
        t.startInv x.part o.scope
      else .ok t
  match go with
  | .ok t => .ok (t.consume reader)
  | .error (.trap e) => .ok (bad ((s.stampReads reader e.reads).consume reader) 1)
  | .error e => .error e
def execPopMigrate (asid : BitVec 13) (s : State) : Out := effect s fun s x => s.writePop x 1 asid
def execPopDuplicate (asid : BitVec 13) (s : State) : Out := effect s fun s x => s.writePop x 2 asid
def execPopCollapse (asid : BitVec 13) (s : State) : Out := effect s fun s x => s.writePop x 3 asid

/-- A page that a copy can be written to. -/
def State.copyFits (s : State) (page size : Nat) : Bool := s.region page == .hbm && s.region (page + size - 1) == .hbm
/-- The operation carried out: the state, the REASON it ends with, and whether it has written the leaf, which an invalidation follows. -/
def State.popFinish (s : State) (o : PageOp) : Res (State × Nat × Bool) := do
  let size := o.size
  let val : Word := BitVec.ofNat 64 o.entry
  let reader := dieAgent 0 4 o.asid
  let (s, src) ← (if entryDup o.leaf then do
      let (t, prim, _) ← s.descriptor reader val (entryAddr o.leaf)
      .ok (t, prim)
    else .ok (s, entryAddr o.leaf) : Res (State × Nat))
  let ag := migAgent (hbmDie src)
  let (s, bs) ← s.readAt ag val o.entry 8 true
  let now := leWord bs
  let toDst : Word := (o.leaf &&& ~~~(0xFFFFFFFFFF00 : Word)) ||| BitVec.ofNat 64 (o.dst.toNat / 256 * 256)
  if o.op == 1 then do
    let fits := s.copyFits o.dst.toNat size
    let t ← if fits then copyPage ag o src o.dst.toNat (size / 32) s else .ok s
    let cancel := fun (r : Nat) => (t.writeLeaf ag o (now &&& ~~~migBit)).map fun u => (u, r, true)
    if now &&& ~~~migBit != o.leaf then cancel 2
    else if !fits then cancel 3
    else ((t.afterReads ag src size).writeLeaf ag o toDst).map fun u => (u, 0, true)
  else if o.op == 2 then do
    let (s, _, copies) ← s.descriptor ag val o.dst.toNat
    if o.written then .ok (s, 4, false)
    else if now != o.leaf then .ok (s, 2, false)
    else if !copies.all (s.copyFits · size) then .ok (s, 3, false)
    else do
      let t ← copies.foldlM (fun u c => copyPage ag o src c (size / 32) u) s
      let u ← t.writeLeaf ag o (toDst ||| 0x20)
      .ok ({ u with dups := u.dups ++ [⟨o.entry, src, size⟩] }, 0, true)
  else if now != o.leaf then .ok (s, 2, false)
  else do
    let t ← s.collapse ag val o.entry now size
    .ok (t, 0, true)
def State.setPop (s : State) (p : Nat) (o : PageOp) : State :=
  match s.part p with
  | none => s
  | some q => s.setPart p { q with pop := some o }
/-- PAGE_OPERATION_COMPLETE (R243): the operation goes on once an invalidation of its own has completed, and ends once its last one has;
writes that it withheld then go on. A leaf or descriptor that it can no longer read or write, POISON among the causes, has changed: REASON 2
(log entry 31). -/
def execPageOperationComplete (p : Nat) (s : State) : Out :=
  if !s.alive then .next s else
  match s.part p with
  | none => .next s
  | some q => match q.pop with
    | none => .next s
    | some o =>
      let invs := o.op == 1 || o.ending.isSome
      if invs && !s.invDone p o.scope then .next s
      else
        let s := if invs then s.invalidate p o.scope else s
        match o.ending with
        | some r => .next ((s.endPop p r).drainFaults p 1024)
        | none =>
          let go : Res (State × Nat × Bool) := do
            let (t, r, inv) ← s.popFinish o
            let t ← if inv then t.startInv p o.scope else .ok t
            .ok ((List.range 4).foldl (fun t d => State.consume t (migAgent d)) t, r, inv)
          match go with
          | .error (.trap _) => .next ((s.endPop p 2).drainFaults p 1024)
          | .error e => .next (s.askOutside e)
          | .ok (t, r, inv) =>
            if inv then .next (t.setPop p { o with ending := some r }) else .next ((t.endPop p r).drainFaults p 1024)

/-! Held tasks (R256). -/

/-- The task that PRT_TSEL names: its core, its set and it. A core outside the partition, or a set with no held or drained task, takes
PROT with the register's value. -/
def State.selected (s : State) (x : Ctx) (q : Partition) : Res (Nat × Bool × Ctx) :=
  let bad : Word := q.tsel.setWidth 64
  match s.physicalCore x.part (q.tsel.extractLsb' 0 10).toNat with
  | none => trapWith .prot bad
  | some n =>
    let night := q.tsel.getLsbD 10
    match (if night then (s.core n).night else (s.core n).day) with
    | none => trapWith .prot bad
    | some y => if y.cond == .held || y.cond == .drained || y.cond == .timedOut then .ok (n, night, y) else trapWith .prot bad
/-- The task ends without retiring: its streams, rings, chains and loads stop, the writes that its transfers have begun stand and the
others are abandoned, what a pass of it holds is free again, and so is its set (R208, R256). What it still has on its way to other devices
is awaited as before (R239). -/
def State.kill (s : State) (n : Nat) (night : Bool) (y : Ctx) : State :=
  let t := if night then s.setNight n none else s.freeDay n y
  let c := t.core n
  let t := t.setCore n { c with
    copies := c.copies.filter fun (_, p) => p.task != y.id
    rings := c.rings.filter fun (_, r) => r.task != y.id
    chains := c.chains.filter fun (_, h) => h.task != y.id }
  let t := y.attn.foldl (fun u (_, p) => u.dropHolds (handleDie (p.bind.handle.setWidth 64)) p.id) t
  { t with groups := t.groups.map fun (k, g) => (k, { g with
      parties := g.parties.filter fun q => q.task != y.id, outcome := g.outcome.filter fun (_, k, _) => k != y.id }) }
/-- PRT_TCMD 1: the selected task goes on at PRT_TRES. A task held by TIMEOUT takes only 2 (R260). -/
def State.tcmdResume (s : State) (x : Ctx) (word : Word) : Res State := do
  let q ← s.own x
  let (n, night, y) ← s.selected x q
  require (y.cond != .timedOut) .illegal word
  if night then
    .ok (s.setNight n (some (if y.cond == .drained then { y with cond := .run, eligible := true, since := s.time, afterDrain := true }
      else { y with cond := .run })))
  else .ok (((s.setDay n (some { y with cond := .run })).continueTask n y.id .resumed).settle n)
/-- PRT_TCMD 2. -/
def State.tcmdEnd (s : State) (x : Ctx) : Res State := do
  let q ← s.own x
  let (n, night, y) ← s.selected x q
  .ok (s.kill n night y)
def execTcmdResume (s : State) : Out := effect s fun s x => s.tcmdResume x 0
def execTcmdEnd (s : State) : Out := effect s fun s x => s.tcmdEnd x

/-! Hotness counters (R244). -/

def Partition.hotKey (q : Partition) (p : Nat) : Nat := 4096 * (q.hotsel.extractLsb' 8 2).toNat + 64 * (p % 64) + (q.hotsel.extractLsb' 0 6).toNat
/-- The selected counter, cleared when PRT_HOTSEL asks for it. -/
def State.readHot (s : State) (x : Ctx) : Res (State × Word) := do
  let q ← s.own x
  let k := q.hotKey x.part
  .ok (if q.hotsel.getLsbD 12 then { s with hot := s.hot.set k 0 } else s, (s.hot.get k).setWidth 64)
def execHotvalRead (d : Reg) (s : State) : Out :=
  effect s fun s x => do
    let (t, v) ← s.readHot x
    .ok (t.setG x d v)

/-! Format ranges (R127 to R131). -/

def FormatRange.owner (r : FormatRange) : Nat := (r.ctl.extractLsb' 52 6).toNat
/-- The selected range, which another partition's supervisor may not touch (R129). -/
def State.ownRange (s : State) (x : Ctx) (num : Nat) : Res (Nat × FormatRange) := do
  let n := s.frrSel.toNat
  require ((s.range n).owner == x.part % 64) .prot (BitVec.ofNat 64 num)
  .ok (n, s.range n)
def State.setRange (s : State) (n : Nat) (r : FormatRange) : State := { s with ranges := tabPut s.ranges n r }
/-- A write of a format-range register waits for the core's earlier global accesses (R130): those of its control core, performed at .fab
(log entry 51). -/
def State.frrReady (s : State) (x : Ctx) : Res Unit := await (s.performed (s.me x) .fab) .interlock
/-- A line of a range's view. -/
def FormatRange.shows (r : FormatRange) (line : Nat) : Bool :=
  decide (r.vbase.toNat ≤ 128 * line) && decide (128 * line < r.vbase.toNat + r.viewBytes)
/-- A write of a range's EN is a write of its view: it takes its timestamp after every read of a view line, and what the view shows from now
on is no older (R130, R326). -/
def State.stampView (s : State) (ag : Agent) (n : Nat) (r : FormatRange) : State :=
  let ts := s.lines.foldl (fun m (l, (_, e)) => if r.shows l then max m (e + 1) else m) (s.clock ag)
  { s with
    clocks := tabPut s.clocks ag.num ts
    lines := s.lines.map fun (l, st) => if r.shows l then (l, (ts, ts)) else (l, st)
    ranges := tabPut s.ranges n { r with ts := ts } }
/-- Every line of a view is gone from its home, and every copy of one (R130). -/
def State.dropView (s : State) (r : FormatRange) : State :=
  ({ s with viewLines := s.viewLines.filter fun v => !r.shows v.line }).dropCopies r.shows
/-- Bits of FRR_CTL that a write changes. -/
def ctlFields : Word := 0x01FFE000
def withCtl (old v : Word) (en err : Bool) : Word :=
  (old &&& 0x03F0000000000000) ||| (v &&& ctlFields) ||| (if en then 0x80000000 else 0) ||| (if err then 0x40000000 else 0)
/-- A range of bytes lies in a die's quarter of HBM. -/
def inQuarter (die a n : Nat) : Bool := decide (die * quarter ≤ a) && decide (a + n ≤ (die + 1) * quarter)
/-- Bytes of the delta: its directory and the records that the directory names (R131). -/
def State.deltaBytes (s : State) (r : FormatRange) : Nat :=
  let blocks := r.plen.toNat / 64
  let recs := (r.dbase.toNat + 4 * blocks + 7) / 8 * 8
  (List.range blocks).foldl (fun m k =>
    let d := leNat (s.seen (r.dbase.toNat + 4 * k) 4)
    if d % 128 == 0 then m else max m (recs - r.dbase.toNat + 4 * (d / 128 + d % 128))) (4 * blocks)
/-- The conditions of R129. -/
def State.rangeOk (s : State) (n : Nat) (r : FormatRange) : Bool :=
  let die := n / 16
  let len := r.plen.toNat
  let packed := match r.pfmt with | 5 => len / 2 | 7 => len / 4 | _ => len
  (r.pfmt == 3 || r.pfmt == 4 || r.pfmt == 5 || r.pfmt == 7) && decide (r.vfmt ≤ 2) && len != 0 && len % 64 == 0 &&
  decide (viewBase ≤ r.vbase.toNat) && decide (r.vbase.toNat + r.viewBytes ≤ viewEnd) &&
  ((List.range 64).all fun k => k == n || !(s.range k).en ||
    decide ((s.range k).vbase.toNat + (s.range k).viewBytes ≤ r.vbase.toNat) || decide (r.vbase.toNat + r.viewBytes ≤ (s.range k).vbase.toNat)) &&
  inQuarter die r.pbase.toNat packed && (!r.scaled || inQuarter die r.sbase.toNat (len / (if r.pfmt == 7 then 64 else 32))) &&
  (!r.delta || inQuarter die r.dbase.toNat (s.deltaBytes r))
/-- A write of FRR_CTL (R129, R130): while EN is 1 no field but EN may change. A write that sets EN checks the range; one that leaves
EN clear clears CFGERR only when the last refusal is undone by a later success, so it keeps it. -/
def State.writeCtl (s : State) (x : Ctx) (v : Word) : Res State := do
  let (n, r) ← s.ownRange x 0x301
  let en := v.getLsbD 31
  require (!r.en || (v ^^^ r.ctl) &&& ctlFields == 0) .prot 0x301
  if r.en then
    .ok (if en then s else ((s.dropView r).stampView (s.me x) n { r with ctl := withCtl r.ctl v false (r.ctl.getLsbD 30) }))
  else if !en then .ok (s.setRange n { r with ctl := withCtl r.ctl v false (r.ctl.getLsbD 30) })
  else
    let r' := { r with ctl := withCtl r.ctl v true false }
    -- the directory of a delta is read for the check: update-only copies may be evicted first (R339)
    let s := if r'.delta then (linesOf r'.dbase.toNat (4 * (r'.plen.toNat / 64))).foldl (fun t l => State.stampLoad t (s.me x) l) s.recallAll else s
    .ok (if s.rangeOk n r' then s.stampView (s.me x) n r' else s.setRange n { r with ctl := withCtl r.ctl v false true })
def execFrrEnable (v : Word) (s : State) : Out := effect s fun s x => do
  s.frrReady x
  s.writeCtl x (v ||| 0x80000000)
def execFrrDisable (v : Word) (s : State) : Out := effect s fun s x => do
  s.frrReady x
  s.writeCtl x (v &&& ~~~0x80000000)

/-! Reuse quotas (R419, R425, R429). -/

/-- Entries of an ASID removed, oldest first, down to a number. -/
def Reuse.shrink (asid : BitVec 13) (quota : Nat) : Nat → Reuse → Reuse
  | 0, r => r
  | fuel + 1, r =>
    let own := r.entries.filter fun e => e.asid == asid
    if own.length ≤ quota then r else Reuse.shrink asid quota fuel (r.drop (r.oldest own))
/-- A write of SCH_QUOTA: a value above QMAX stores QMAX, and a lower quota removes entries on every die. -/
def State.writeQuota (s : State) (x : Ctx) (v : Word) : Res State := do
  let q ← s.own x
  let s ← s.ownAsid (s.me x) q.asel x.part 0x205
  let (s, w1) ← s.asidWord (s.me x) q.asel 1
  let qmax := (w1.getD 0).extractLsb' 0 20
  let n := v.extractLsb' 0 20
  let n := if qmax.toNat < n.toNat then qmax else n
  let t := s.setStat q.asel { s.stat q.asel with quota := n }
  .ok ((List.range 4).foldl (fun u d =>
    let r := State.table u d
    State.setTable u d (r.shrink q.asel n.toNat r.entries.length)) t)
def execSchQuotaWrite (v : Word) (s : State) : Out := effect s fun s x => s.writeQuota x v

end Sys2Proof.Machine
end

