-- ==== Sys2Proof/Machine/Part.lean ====
section
/-! DEFINITION. Dusks a supervisor asks for, resizes and moves of a partition, and tickets imported (R431, R441 to R446, R449, R451). -/

namespace Sys2Proof

/-- The image that a ticket of another P640 of this version holds between its header and its MAC (R450, log entry 24). -/
opaque Config.ticketImage : List Byte → Option Machine.Ctx

namespace Machine

/-! PRT_DUSK (R431, R451). -/

/-- The core that PRT_TSEL names. -/
def State.tselCore (s : State) (x : Ctx) (q : Partition) : Res Nat :=
  match s.physicalCore x.part (q.tsel.extractLsb' 0 10).toNat with
  | some n => .ok n
  | none => trapWith .prot (q.tsel.setWidth 64)
/-- A dusk asked for through PRT_DUSK: one that drains is joined; an occupied night set, or the supervisor's own core, refuses it; with
no task in the day set it has no effect. -/
def State.writeDusk (s : State) (x : Ctx) : Res State := do
  let q ← s.own x
  let n ← s.tselCore x q
  let c := s.core n
  let bad := c.dusk.isNone && (s.supervised n || c.night.isSome)
  let t := s.setCore n { c with refused := bad }
  .ok (if bad || c.day.isNone then t else t.askDusk n ⟨false, false, s.time, none⟩)
def execPrtDusk (s : State) : Out := effect s fun s x => s.writeDusk x
/-- PRT_DUSKST of the core that PRT_TSEL names. -/
def State.duskStatus (s : State) (n : Nat) : Word :=
  let c := s.core n
  BitVec.ofNat 64 (c.epoch.toNat + c.dusk.isSome.toNat * 2 ^ 8 + c.refused.toNat * 2 ^ 9 + c.day.isSome.toNat * 2 ^ 10)

/-! Resizes and moves (R441 to R446). -/

def geomX (g : Word) : Nat := (g.extractLsb' 0 4).toNat
def geomW (g : Word) : Nat := (g.extractLsb' 4 4).toNat + 1
def geomY (g : Word) : Nat := (g.extractLsb' 8 4).toNat
def geomH (g : Word) : Nat := (g.extractLsb' 12 4).toNat + 1
def geomPart (g : Word) : Nat := (g.extractLsb' 16 6).toNat
/-- The rectangle lies in the grid (R441). -/
def geomOk (g : Word) : Bool := decide (geomX g + geomW g ≤ 16) && decide (geomY g + geomH g ≤ 10)
/-- The logical clusters of a rectangle, in ascending number. -/
def geomClusters (g : Word) : List Nat :=
  (List.range (geomH g)).flatMap fun y => (List.range (geomW g)).map fun x => 16 * (geomY g + y) + geomX g + x
/-- Clusters that the device has in its present mode (R459). -/
def State.present (s : State) (c : Nat) : Bool := s.power != .twilight || clusterDie c == 0
/-- Physical clusters that are not free: those that partitions hold, the targets of moves that are under way (R445), and those that are not
present (R459). -/
def State.heldClusters (s : State) : List Nat :=
  (List.range 160).filter (!s.present ·) ++ s.parts.flatMap fun (_, q) =>
    q.cit.map (·.2) ++ (match q.resize with | some (.move _ d _) => [d] | some (.shrink _ _ _) | none => [])
/-- The lowest-numbered free physical cluster of a die. -/
def freeCluster (held : List Nat) (die : Nat) : Option Nat :=
  (List.range 160).find? fun c => clusterDie c == die && !held.contains c
/-- Places for added logical clusters, in ascending number; none when one finds no place (R443). -/
def placeClusters : List Nat → List Nat → Option (List (Nat × Nat))
  | _, [] => some []
  | held, l :: r => match freeCluster held (clusterDie l) with
    | none => none
    | some c => (placeClusters (c :: held) r).map fun t => (l, c) :: t
def Partition.rszStatus (q : Partition) : Word := (q.rszSt &&& ~~~1) ||| bitWord q.resize.isSome 0
/-- The logical cluster of the supervisor's core. -/
def Partition.supCluster (q : Partition) : Option Nat := q.logical (coreCluster q.supCore)
/-- The four cores of a physical cluster. -/
def clusterCores (c : Nat) : List Nat := [coreIn c 0, coreIn c 1, coreIn c 32, coreIn c 33]

/-- PRT_RSZ (R443, R444, R446). -/
def State.writeRsz (s : State) (x : Ctx) (v : Word) : Res State := do
  let q ← s.own x
  await q.resize.isNone .busy
  let g := v.extractLsb' 0 22
  let g : Word := g.setWidth 64
  let q := { q with rsz := g }
  let fail := fun (r : Nat) => s.setPart x.part { q with rszSt := rszDone q.rszSt r }
  let want := geomClusters g
  let now := q.cit.map (·.1)
  let gone := now.filter fun l => !want.contains l
  if geomX g != geomX q.geom || geomY g != geomY q.geom || geomPart g != geomPart q.geom || !geomOk g then .ok (fail 1)
  else if q.cmax < want.length then .ok (fail 2)
  else match placeClusters s.heldClusters (want.filter fun l => !now.contains l) with
    | none => .ok (fail 3)
    | some add =>
      if gone.any (q.supCluster == some ·) then .ok (fail 4)
      else
        let q := { q with cit := add.foldl (fun t (l, c) => tabPut t l c) q.cit }
        if gone.isEmpty then .ok (s.setPart x.part { q with geom := g, rszSt := rszDone q.rszSt 0 })
        else .ok (s.setPart x.part { q with resize := some (.shrink g gone (add.map (·.1))) })
def execPrtRsz (v : Word) (s : State) : Out := effect s fun s x => s.writeRsz x v

/-- The REASON with which a move is refused, or none (R445, R446). -/
def State.moveRefused (s : State) (q : Partition) (l c : Nat) : Option Nat :=
  if (q.physical l).isNone || 160 ≤ c || s.heldClusters.contains c || clusterDie l != clusterDie c then some 1
  else if q.supCluster == some l then some 4
  else none
/-- PRT_MOVE (R445). -/
def State.writeMove (s : State) (x : Ctx) (v : Word) : Res State := do
  let q ← s.own x
  await q.resize.isNone .busy
  let l := (v.extractLsb' 0 8).toNat
  let c := (v.extractLsb' 8 8).toNat
  let q := { q with move := (v.extractLsb' 0 16).setWidth 64 }
  match s.moveRefused q l c with
  | some r => .ok (s.setPart x.part { q with rszSt := rszDone q.rszSt r })
  | none => .ok (s.setPart x.part { q with resize := some (.move l c false) })
def execPrtMove (v : Word) (s : State) : Out := effect s fun s x => s.writeMove x v

/-- A core holds no task in either set and no spill slot (R444). -/
def Core.vacant (c : Core) : Bool := c.day.isNone && c.night.isNone && c.spills.isEmpty
/-- What a core that leaves its partition keeps: stores, full-empty bits and wires are zeroed (R444). -/
def Core.zeroed (c : Core) : Core := { c with acc := [], spad := [], full := [], poison := [], plane := [], planeTask := none, lastAsid := none }
def State.zeroCluster (s : State) (c : Nat) : State := (clusterCores c).foldl (fun t n => State.setCore t n (State.core t n).zeroed) s
/-- The move of an empty logical cluster from one physical cluster to another (R445). -/
def State.moveCluster (s : State) (p : Nat) (q : Partition) (l c d : Nat) : State :=
  (s.zeroCluster c).setPart p { q with cit := tabPut q.cit l d, rszSt := rszDone q.rszSt 0, resize := none }
/-- A logical cluster of a pending request has emptied: it is zeroed and freed, and the request completes with its last one. -/
def State.removeCluster (s : State) (p l : Nat) (q : Partition) : State :=
  match q.physical l with
  | none => s
  | some c =>
    if !((clusterCores c).all fun n => (s.core n).vacant) then s
    else match q.resize with
      | none => s
      | some (.shrink g cs add) =>
        if !cs.contains l then s
        else
          let rest := cs.filter (· != l)
          let q := { q with cit := tabDel q.cit l }
          (s.zeroCluster c).setPart p (if rest.isEmpty then { q with geom := g, rszSt := rszDone q.rszSt 0, resize := none }
            else { q with resize := some (.shrink g rest add) })
      | some (.move k d host) =>
        if k != l || host then s else s.moveCluster p q l c d
/-- CLUSTER_REMOVAL_COMPLETE (R444, R445). -/
def execClusterRemovalComplete (p cl : Nat) (s : State) : Out :=
  if !s.alive then .next s else
  match s.part p with
  | none => .next s
  | some q => .next (s.removeCluster p cl q)

/-! Tickets (R448 to R450). -/

/-- An export whose dusk has ended without parking its task ends with REASON 2; a supervisor sees it when it looks (log entry 24). -/
def State.settleTicket (s : State) (p : Nat) (q : Partition) : State × Partition :=
  match q.ticket with
  | none => (s, q)
  | some n =>
    if (s.core n).dusk.isSome || (s.core n).asked.isSome then (s, q)
    else
      let q := { q with ticket := none, tkSt := rszDone q.tkSt 2 }
      (s.setPart p q, q)
/-- PRT_TKCMD OP 1, with PRT_TSEL naming a night set: its task is exported, and where it is free the day-set task is parked first (R431). A
set that holds no task for it, or an address in no range that can be written, is a bad operand. -/
def State.exportTicket (s : State) (x : Ctx) : Res State := do
  let q ← s.own x
  let n ← s.tselCore x q
  let (s, q) := s.settleTicket x.part q
  await q.ticket.isNone .busy
  let c := s.core n
  if !q.tsel.getLsbD 10 || !s.ticketPlace q.tkAddr.toNat then .ok (s.endTicket x.part q 1)
  else match c.night, c.day with
    | some y, _ => s.exportNow x.part q n y
    | none, none => .ok (s.endTicket x.part q 1)
    | none, some d =>
      if d.sup then .ok (s.endTicket x.part q 1)
      else if d.cond != .run then .ok (s.endTicket x.part q 2)
      else
        let t := s.setPart x.part { q with ticket := some n, tkSt := q.tkSt ||| 1 }
        .ok (t.askDusk n ⟨false, false, s.time, none⟩)
/-- The image that a ticket's bytes hold. -/
def State.ticketImage (s : State) (p : Nat) (asid : BitVec 13) (body : List Byte) : Ctx :=
  match s.tickets.find? fun (t, _) => ticketBody t == body with
  | some (_, y) => y
  | none => (Config.ticketImage body).getD (Ctx.entry 0 asid p false 0)
/-- The REASON with which an import is refused, or none (R449): the checks in the order of their numbers. `ours` tells that the ASID is live
and the partition's. -/
def State.importRefused (s : State) (n : Nat) (ours : Bool) (bs : List Byte) : Option Nat :=
  let w := fun k => leWord ((bs.drop (8 * k)).take 8)
  let ccol := ((w 3).extractLsb' 0 6).toNat
  let csp := ((w 3).extractLsb' 8 6).toNat
  if !ours || (s.core n).night.isSome || (w 0).extractLsb' 0 16 != 0x4B54 || (w 0).extractLsb' 32 32 != 0 ||
    (w 1).toNat != ticketSize || (w 2).extractLsb' 13 51 != 0 || (w 3).extractLsb' 6 2 != 0 || (w 3).extractLsb' 14 50 != 0 ||
    w 4 != 0 || w 5 != 0 || w 6 != 0 || w 7 != 0 || 32 < ccol || 32 < csp then some 1
  else if bs.drop (ticketSize - 16) != s.ticketMac (bs.take (ticketSize - 16)) then some 3
  else if (match (s.core n).day with | some d => 1024 < d.cols + 32 * ccol || spadSize < d.spadBytes + 16384 * csp | none => false) then some 4
  else if (w 0).extractLsb' 16 16 != Config.ticketVer then some 5
  else none
/-- Parts that a ticket brings, in their canonical form. -/
def Parts.norm (p : Parts) : Parts :=
  { acc := p.acc.norm, spad := Cells.norm (w := 8) p.spad, full := p.full.foldl setAdd [], poison := p.poison.foldl setAdd [] }
/-- An image as a task of another address space takes it: PC and loop addresses are addresses of words (R26), and no latched slot serves an
access until it is translated again (R240, R449). -/
def Ctx.taken (y : Ctx) (part : Nat) : Ctx :=
  let lp := fun (l : LoopLevel) => { l with first := vectorPc l.first, last := vectorPc l.last }
  { y with
    pc := vectorPc y.pc, loop0 := lp y.loop0, loop1 := lp y.loop1, attn := []
    fabric := y.fabric.map fun f => f.mapLatches fun l => { l with stale := true, size := 0, part := part } }
/-- PRT_TKCMD OP 2: a new task, parked and eligible to return to the core. -/
def State.importTicket (s : State) (x : Ctx) (asid : BitVec 13) : Res State := do
  let q ← s.own x
  let n ← s.tselCore x q
  let (s, q) := s.settleTicket x.part q
  await q.ticket.isNone .busy
  let ag := dieAgent (coreDie n) 4 0
  if !s.ticketPlace q.tkAddr.toNat then .ok (s.endTicket x.part q 1)
  else match s.getRange ag q.tkAddr.toNat ticketSize with
  | .error (.trap _) => .ok ((s.consume ag).endTicket x.part q 1)
  | .error e => .error e
  | .ok (s, bs) => do
    let (s, e) ← (s.consume ag).asidWord ag asid 0
    match s.importRefused n (e.any fun w => entryV w && entryPart w == x.part) bs with
    | some r => .ok (s.endTicket x.part q r)
    | none =>
      let w3 := leWord ((bs.drop 24).take 8)
      let im := s.ticketImage x.part asid ((bs.drop 64).take (ticketSize - 80))
      let y := { im.taken x.part with
        id := s.nextId, asid := asid, part := x.part, sup := false, cond := .run, wait := .none, halted := false
        code := s.recallAll.mem, codeLines := s.hostLines, patched := []
        cols := 32 * (w3.extractLsb' 0 6).toNat, spadBytes := 16384 * (w3.extractLsb' 8 6).toNat
        residence := .resident, yielded := false, eligible := true, since := s.time, parts := some (im.parts.getD ⟨[], [], [], []⟩).norm }
      let t ← s.evictSpills n (1024 - y.cols) 1024
      .ok (({ t with nextId := t.nextId + 1 }.setNight n (some y)).endTicket x.part q 0)
def execTicketExport (s : State) : Out := effect s fun s x => s.exportTicket x
def execTicketImport (asid : BitVec 13) (s : State) : Out := effect s fun s x => s.importTicket x asid

end Machine

end Sys2Proof
end

