-- ==== Sys2Proof/Machine/Csr.lean ====
section
/-! DEFINITION. The register space: CSRR, CSRW with its actions, and writes of registers that have no behaviour of their own (R94 to R97,
R127, R199, R223, R233, R261, R383, R429, R451, R465). -/

namespace Sys2Proof.Machine

/-- Registers marked privileged: a dash in the task-mode column (R94). -/
def csrPriv (n : Nat) : Bool :=
  (0x020 ≤ n && n ≤ 0x025) || (0x180 ≤ n && n ≤ 0x182) || (0x184 ≤ n && n ≤ 0x186) || (0x203 ≤ n && n ≤ 0x206) ||
  (0x284 ≤ n && n ≤ 0x2AF) || (0x300 ≤ n && n ≤ 0x309) || (0x380 ≤ n && n ≤ 0x383) || (0x400 ≤ n && n ≤ 0x402)

/-! Device registers (R465). -/

def State.hifStatus (s : State) : Word :=
  let tw := s.power == .twilight || s.power == .twilightStarting || s.power == .hold
  BitVec.ofNat 64 (tw.toNat + s.reason.toNat * 2 ^ 4 + s.failedStarts.toNat * 2 ^ 8 + (s.power == .hold).toNat * 2 ^ 12)
/-- DRL_STATE of a port (R462). -/
def DruatPort.word (p : DruatPort) : Word :=
  BitVec.ofNat 64 (p.state.toNat + p.lanes.toNat * 2 ^ 8 + p.retrains.toNat * 2 ^ 32)
def State.druat (s : State) (n : Nat) : DruatPort := (tabGet s.ports n).getD DruatPort.down
/-- HIF_ and DRL_ registers, as the supervisor and the host window read them (R453). -/
def State.hifRead (s : State) (n : Nat) : Word :=
  match n with
  | 0x380 => s.hifStatus
  | 0x381 => s.hifErr.setWidth 64
  | 0x382 => s.pwrLim.setWidth 64
  | 0x383 => s.pwr.setWidth 64
  | 0x400 => s.drlSel.setWidth 64
  | 0x401 => (s.druat s.drlSel.toNat).word
  | 0x402 => (s.device.getD 0).setWidth 64
  | _ => 0

/-! KV registers (R223), of the issuing core's die. -/

def State.kvRead (s : State) (n : Nat) : Word :=
  let die := coreDie s.cur
  let k := s.kv die
  match n with
  | 0x180 => bitWord k.en 0
  | 0x181 => k.ftBase
  | 0x182 => k.ftLen
  | 0x183 => k.frSz
  | 0x184 => k.pxBase
  | 0x185 => k.pxLen
  | 0x186 => k.seqMax
  | 0x187 => BitVec.ofNat 64 (s.freeFrames die).length
  | 0x188 => BitVec.ofNat 64 k.seqs.length
  | 0x189 => k.cows
  | _ => 0
/-- Only KV_FRSZ can be named by a task for a write, and it is read-only there (R223). -/
def State.kvWrite (s : State) (x : Ctx) (n : Nat) (v : Word) : Res State := do
  let die := coreDie s.cur
  let k := s.kv die
  if !x.sup then .ok s
  else match k.write n v with
    | some k' => .ok (s.setKv die k')
    | none => trapWith .prot (BitVec.ofNat 64 n)

/-! Format-range registers (R127 to R129). -/

/-- The magnitude table entry that FRR_MIDX selects (R122, R127). -/
def FormatRange.entry (r : FormatRange) : BitVec 32 := (tabGet r.table r.midx.toNat).getD (defaultMagnitudes r.midx.toNat)

def State.frrRead (s : State) (x : Ctx) (n : Nat) : Res Word := do
  if n == 0x300 then .ok (s.frrSel.setWidth 64)
  else do
    let (_, r) ← s.ownRange x n
    .ok (match n with
      | 0x301 => r.ctl
      | 0x302 => r.pbase
      | 0x303 => r.plen
      | 0x304 => r.vbase
      | 0x305 => r.sbase
      | 0x306 => r.dbase
      | 0x307 => r.midx.setWidth 64
      | 0x308 => r.entry.setWidth 64
      | _ => r.fills)
/-- A write waits for the core's earlier accesses (R130); one that would change a register of an enabled range takes PROT (R129). FRR_SEL is
one register, shared by every supervisor of the device (log entry 51). -/
def State.frrWrite (s : State) (x : Ctx) (n : Nat) (v : Word) : Res State := do
  s.frrReady x
  if n == 0x300 then .ok { s with frrSel := v.extractLsb' 0 6 }
  else if n == 0x301 then s.writeCtl x v
  else do
    let (k, r) ← s.ownRange x n
    let r' : FormatRange := match n with
      | 0x302 => { r with pbase := v &&& 0xFFFFFFFFFF00 }
      | 0x303 => { r with plen := v &&& 0xFFFFFFFFFF }
      | 0x304 => { r with vbase := v &&& 0xFFFFFFFF0000 }
      | 0x305 => { r with sbase := v &&& 0xFFFFFFFFFFC0 }
      | 0x306 => { r with dbase := v &&& 0xFFFFFFFFFFF8 }
      | 0x307 => { r with midx := v.extractLsb' 0 8 }
      | 0x308 => if r.entry == v.extractLsb' 0 32 then r else { r with table := tabPut r.table r.midx.toNat (v.extractLsb' 0 32) }
      | _ => r
    require (!r.en || r' == r) .prot (BitVec.ofNat 64 n)
    .ok (s.setRange k r')

/-! Scheduler and partition registers (R261, R429, R451). -/

/-- PRT_AROOT of the selected ASID (R233): what was written last. -/
def State.readRoot (s : State) (x : Ctx) (q : Partition) : Res (State × Word) := do
  let s ← s.ownAsid (s.me x) q.asel x.part 0x286
  let (s, e) ← s.asidWord (s.me x) q.asel 0
  .ok (s, e.getD 0 &&& rootMask)
/-- A write of ROOT and V: for translations it takes effect with the invalidation that covers the ASID, and the table in memory stands as it
is (R232, R233). Statistics are zero from the moment V goes from 0 to 1 (R419). -/
def State.writeRoot (s : State) (x : Ctx) (q : Partition) (v : Word) : Res State := do
  let s ← s.ownAsid (s.me x) q.asel x.part 0x286
  let (s, e) ← s.asidWord (s.me x) q.asel 0
  let t := { s with rootsNext := tabPut s.rootsNext q.asel.toNat (v &&& rootMask) }
  .ok (if !e.any entryV && entryV v then
    t.setStat q.asel { quota := (s.stat q.asel).quota, lookups := 0, hits := 0, misses := 0, inserts := 0 } else t)
def atLeastOne (v : BitVec 32) : Word := (if v == 0 then 1 else v).setWidth 64
/-- PRT_BWSHARE as it reads: a weight of 0 is read as 1. -/
def shareWord (v : BitVec 32) : Word :=
  BitVec.ofNat 64 ((List.range 4).foldl (fun n d => n + max 1 (v.extractLsb' (8 * d) 8).toNat * 2 ^ (8 * d)) 0)

/-- A read of a register of the issuing supervisor's partition. -/
def State.prtRead (s : State) (x : Ctx) (q : Partition) (n : Nat) : Res (State × Word) :=
  match n with
  | 0x203 => .ok (s, atLeastOne q.ageq)
  | 0x204 => .ok (s, q.preempt.setWidth 64)
  | 0x205 => do
    let s ← s.ownAsid (s.me x) q.asel x.part 0x205
    .ok (s, (s.stat q.asel).quota.setWidth 64)
  | 0x206 => .ok (s, s.keyBase)
  | 0x284 => .ok (s, s.atBase)
  | 0x285 => .ok (s, q.asel.setWidth 64)
  | 0x286 => s.readRoot x q
  | 0x287 => .ok (s, q.inv)
  | 0x288 => .ok (s, bitWord q.invBusy 0)
  | 0x289 => .ok (s, atLeastOne q.draint)
  | 0x28A => .ok (s, q.fqBase)
  | 0x28B => .ok (s, q.fqLen.setWidth 64)
  | 0x28C => .ok (s, q.fqHead.setWidth 64)
  | 0x28D => .ok (s, q.fqTail.setWidth 64)
  | 0x28E => .ok (s, q.tsel.setWidth 64)
  | 0x28F => (s.selected x q).map fun (_, _, y) => (s, y.pc)
  | 0x291 => .ok (s, q.hotsel.setWidth 64)
  | 0x292 => s.readHot x
  | 0x293 => .ok (s, q.popVa)
  | 0x294 => .ok (s, q.popDst)
  | 0x295 => .ok (s, q.popCmd)
  | 0x296 => .ok (s, q.popSt)
  | 0x2A0 => .ok (s, q.geom)
  | 0x2A1 => .ok (s, BitVec.ofNat 64 (q.cmax % 256))
  | 0x2A2 => .ok (s, q.saveBase)
  | 0x2A3 => .ok (s, 0x180000)
  | 0x2A5 => (s.tselCore x q).map fun n => (s, s.duskStatus n)
  | 0x2A6 => .ok (s, q.rsz)
  | 0x2A7 => .ok (s, q.rszStatus)
  | 0x2A8 => .ok (s, q.move)
  | 0x2A9 => .ok (s, q.citSel.setWidth 64)
  | 0x2AA => .ok (s, match q.physical q.citSel.toNat with | some c => BitVec.ofNat 64 (2 ^ 8 + c) | none => 0)
  | 0x2AB => .ok (s, shareWord q.bwShare)
  | 0x2AC => .ok (s, q.tkAddr)
  | 0x2AE => let (t, q) := s.settleTicket x.part q; .ok (t, q.tkSt)
  | 0x2AF => .ok (s, 0x181000)
  | _ => .ok (s, 0)
/-- The night set of a core of the partition is occupied. -/
def State.anyNight (s : State) (q : Partition) : Bool := q.cores.any fun n => (s.core n).night.isSome
/-- A write of a register of the issuing supervisor's partition; `word` is what ILLEGAL reports. -/
def State.prtWrite (s : State) (x : Ctx) (q : Partition) (word : Word) (n : Nat) (v : Word) : Res State :=
  let p := x.part
  match n with
  | 0x203 => .ok (s.setPart p { q with ageq := v.extractLsb' 0 32 })
  | 0x204 => .ok (s.setPart p { q with preempt := v.extractLsb' 0 8 })
  | 0x205 => s.writeQuota x v
  | 0x285 => .ok (s.setPart p { q with asel := v.extractLsb' 0 13 })
  | 0x286 => s.writeRoot x q v
  | 0x287 => s.writeInv x word v
  | 0x289 => .ok (s.setPart p { q with draint := v.extractLsb' 0 32 })
  | 0x28A => do
    require (q.fqHead == q.fqTail) .prot 0x28A
    .ok (s.setPart p { q with fqBase := v &&& 0xFFFFFFFFFFE0 })
  | 0x28B => do
    require (q.fqHead == q.fqTail) .prot 0x28B
    .ok ((s.setPart p { q with fqLen := v.extractLsb' 0 16 }).drainFaults p 1024)
  | 0x28C => s.writeFqHead x v
  | 0x28E => .ok (s.setPart p { q with tsel := v.extractLsb' 0 11 })
  | 0x28F => do
    let (k, night, y) ← s.selected x q
    let y := { y with pc := vectorPc v }
    .ok (if night then s.setNight k (some y) else s.setDay k (some y))
  | 0x290 => if v == 1 then s.tcmdResume x word else if v == 2 then s.tcmdEnd x else trapWith .illegal word
  | 0x291 => .ok (s.setPart p { q with hotsel := v.extractLsb' 0 13 &&& 0x133F })
  | 0x293 => .ok (s.setPart p { q with popVa := v &&& 0xFFFFFFFFF0000 })
  | 0x294 => .ok (s.setPart p { q with popDst := v &&& 0xFFFFFFFFFF00 })
  | 0x295 => s.writePop x (v.extractLsb' 0 3).toNat (v.extractLsb' 3 13)
  | 0x2A2 => do
    require (!s.anyNight q) .prot 0x2A2
    .ok (s.setPart p { q with saveBase := v &&& 0xFFFFFFFFF000 })
  | 0x2A4 => if v == 1 then s.writeDusk x else trapWith .illegal word
  | 0x2A6 => s.writeRsz x v
  | 0x2A8 => s.writeMove x v
  | 0x2A9 => .ok (s.setPart p { q with citSel := v.extractLsb' 0 8 })
  | 0x2AC => .ok (s.setPart p { q with tkAddr := v &&& 0xFFFFFFFFF000 })
  | 0x2AD =>
    let op := (v.extractLsb' 0 3).toNat
    if op == 1 then s.exportTicket x else if op == 2 then s.importTicket x (v.extractLsb' 3 13) else trapWith .illegal word
  | _ => .ok s

/-! The whole space. -/

/-- A register as CSRR reads it. -/
def State.csrRead (s : State) (x : Ctx) (n : Nat) : Res (State × Word) :=
  if n < 0x040 then .ok (s, ccRead s x n)
  else if n == 0x0F0 then .ok (s, x.lkc)
  else if 0x100 ≤ n && n < 0x180 then .ok (s, x.attRead n)
  else if 0x180 ≤ n && n < 0x200 then .ok (s, s.kvRead n)
  else if n == 0x200 then .ok (s, x.node)
  else if n == 0x201 then .ok (s, x.rslot)
  else if n == 0x202 then .ok (s, x.prio.setWidth 64)
  else if n == 0x280 then .ok (s, x.fr.fr0)
  else if n == 0x281 then .ok (s, x.fr.fr1)
  else if n == 0x282 then .ok (s, x.fr.fr2)
  else if n == 0x283 then .ok (s, x.fr.fr3)
  else if n < 0x300 then do
    let q ← s.own x
    s.prtRead x q n
  else if n < 0x380 then (s.frrRead x n).map fun v => (s, v)
  else .ok (s, s.hifRead n)
/-- A register written; read-only registers and fields ignore it (R7). -/
def State.csrWrite (s : State) (x : Ctx) (word : Word) (n : Nat) (v : Word) : Res State :=
  if n < 0x040 then .ok (s.setCtx (ccWrite x n v))
  else if n == 0x0F0 then .ok (s.setCtx { x with lkc := v &&& 0x003FFFFFFFFFFFFF })
  else if n < 0x180 then .ok s
  else if n < 0x200 then s.kvWrite x n v
  else if n < 0x203 || (0x280 ≤ n && n ≤ 0x283) then .ok s
  else if n < 0x300 then do
    let q ← s.own x
    s.prtWrite x q word n v
  else if n < 0x380 then s.frrWrite x n v
  else if n == 0x400 then .ok { s with drlSel := v.extractLsb' 0 6 }
  else .ok s

/-- CSRR (R94): the loop and status registers show the state before the instruction. -/
def execCsrr (g : Guard) (d : Reg) (n : BitVec 12) (s : State) : Out :=
  control (.csrr g d n) g (csrPriv n.toNat) s fun s x => do
    require (Csr.assigned n) .illegal (encode (.csrr g d n))
    let (t, v) ← s.csrRead x n.toNat
    .ok (t.setCtx ((t.now x).setG d v), .seq)
/-- The value that .set and .clr combine with: what the register reads as, without the side effect of a read. -/
def State.csrOld (s : State) (x : Ctx) (n : Nat) : Res Word := (s.csrRead x n).map fun (_, v) => v
/-- A CSRW with its action (R94). -/
def csrw (i : Instr) (g : Guard) (n : BitVec 12) (s : State) (f : State → Ctx → Res Word) : Out :=
  control i g (csrPriv n.toNat) s fun s x => do
    require (Csr.assigned n) .illegal (encode i)
    let v ← f s x
    let t ← s.csrWrite x (encode i) n.toNat v
    .ok (t, .seq)
def execCsrw (g : Guard) (n : BitVec 12) (a : Reg) (s : State) : Out :=
  csrw (.csrw g n a) g n s fun _ x => .ok (x.g a)
def execCsrwSet (g : Guard) (n : BitVec 12) (a : Reg) (s : State) : Out :=
  csrw (.csrwSet g n a) g n s fun s x => (s.csrOld x n.toNat).map fun v => v ||| x.g a
def execCsrwClr (g : Guard) (n : BitVec 12) (a : Reg) (s : State) : Out :=
  csrw (.csrwClr g n a) g n s fun s x => (s.csrOld x n.toNat).map fun v => v &&& ~~~(x.g a)

/-- REGISTER_WRITE (R94): the effect alone of a write by the moving core, with its privilege. -/
def execRegisterWrite (n : BitVec 12) (v : Word) (s : State) : Out :=
  match s.ctx with
  | none => .next s
  | some x =>
    if !x.issues then .next s
    else if csrPriv n.toNat && !x.sup then .next (s.interrupt x 0 (.trap ⟨.priv, 0, 0, none, 0xFF, 0xF, 0, false, []⟩))
    else match s.csrWrite x 0 n.toNat v with
      | .ok t => .next t
      | .error e => .next (s.interrupt x 0 e)

end Sys2Proof.Machine
end

