-- ==== Sys2Proof/Machine/HostIf.lean ====
section
/-! DEFINITION. The host: its window, doorbells and command rings, the mailbox, and its accesses to device memory and to its own (R343, R344,
R410, R452 to R457). -/

namespace Sys2Proof

/-- The number that the first GROUP_REG or APERTURE gives this device: no field of either names it (R461; log entry 22). -/
opaque Config.deviceNumber : Nat → BitVec 12

namespace Machine

/-- BAR0 answers (R458, R460). -/
def State.listening (s : State) : Bool := s.alive || (s.power == .hold && s.trained)
/-- A bit of HIF_ERR set, with its vector (R453, R464). -/
def State.setErr (s : State) (bit : BitVec 4) : State := { s with hifErr := s.hifErr ||| bit, hostOut := s.hostOut ++ [.msix 1] }

/-! Doorbells and rings (R454, R455). -/

/-- A doorbell moves the tail forward within the ring. -/
def Partition.accepts (q : Partition) (t : BitVec 32) : Bool :=
  decide ((q.tail - q.head).toNat < (t - q.head).toNat) && decide ((t - q.head).toNat ≤ 2 ^ q.ringLog)
def execDoorbell (p : Nat) (t : BitVec 32) (s : State) : Out :=
  if !s.listening then .next s
  else match s.part p with
    | none => .next (s.setErr 1)
    | some q => if s.alive && q.accepts t then .next (s.setPart p { q with tail := t }) else .next (s.setErr 1)

/-- The command processor of a partition, in an address space (R21, R325). -/
def State.cmdAgent (s : State) (p : Nat) (asid : BitVec 13) : Agent := dieAgent (s.schedDie p) 5 asid
/-- The physical address of the entry that is next. -/
def Partition.entryAt (q : Partition) : Nat := q.ringBase.toNat + 64 * (q.head.toNat % 2 ^ q.ringLog)
/-- The SEQ that is due goes to the completion word once the effect of its entry has been performed: a release at .sys (R331, R333). -/
def State.writeSeq (s : State) (p : Nat) : State :=
  match s.part p with
  | none => s
  | some q => match q.seqDue with
    | none => s
    | some seq =>
      let ag := s.cmdAgent p 0
      if s.performed ag .sys then
        (match ((s.setPart p { q with seqDue := none, lastSeq := seq }).publish ag .sys).putPhys ag q.completion.toNat (natLe 8 seq.toNat) with
         | .ok t => t
         | .error e => s.askOutside e)
      else s
/-- The entry counts as taken and its SEQ is due. -/
def State.endEntry (s : State) (p : Nat) (seq : Word) : State :=
  match s.part p with
  | none => s
  | some q => (s.setPart p { q with head := q.head + 1, seqDue := some seq }).writeSeq p
/-- A skipped entry: its SEQ is still written, and the fault queue has a record with the entry's address. -/
def State.skipEntry (s : State) (p : Nat) (asid : BitVec 13) (at' : Nat) (code : TrapCode) (sub : Byte) (seq : Word) : State :=
  (s.schedFault p asid ⟨code, BitVec.ofNat 64 at', sub, none, 0xFF, 0xF, 10, false, []⟩).endEntry p seq

/-- The bits that the layout names are the only ones set (R454). -/
def entryShape (w : Nat → Word) : Bool :=
  let kind := ((w 0).extractLsb' 0 8).toNat
  kind ≤ 2 && (w 0).extractLsb' 21 43 == 0 && w 4 == 0 && w 5 == 0 && w 6 == 0 && w 7 == 0 &&
  (kind != 0 || w 1 == 0) && (kind == 2 || w 2 == 0)
/-- A root fired as LAUNCH does without .arg, in the entry's ASID (R410). -/
def State.fireRoot (ag : Agent) (p : Nat) (s : State) (va : Word) : Res State :=
  match s.nodeOp ag p va none 64 with
  | .ok (t, out, b, lim) =>
    let t := if lim then t.schedFault p ag.asid (shapeTrap va) else t
    .ok (t.cascade p ag.asid (t.release ag) out b)
  | .error (.trap e) => .ok ((s.stampReads ag e.reads).schedFault p ag.asid { e with val := va })
  | .error e => .error e
/-- KIND 1: the header and its roots are checked, and then each root fires in word order. -/
def State.runGraph (s : State) (p : Nat) (ag : Agent) (header : Word) : Res State := do
  require (header.toNat % 64 == 0) .align header
  let (t, bs) ← s.load ag header 64
  let w := fun k => leWord ((bs.drop (8 * k)).take 8)
  require (w 4 == 0 && w 5 == 0 && w 6 == 0 && w 7 == 0) .shape header
  let roots := [w 0, w 1, w 2, w 3].filter (· != 0)
  let t ← roots.foldlM (fun u va => do
    let (u, _) ← State.readHead u ag va
    .ok u) t
  roots.foldlM (State.fireRoot ag p) t
/-- KIND 2: the record is enqueued as a TENQ does (R411), and waits while the queue is full. -/
def State.runRecord (s : State) (p : Nat) (ag : Agent) (node record : Word) : Res State := do
  require (node.toNat % 128 == 0) .align node
  require (record.toNat % 64 == 0) .align record
  let (t, n) ← s.readHead ag node
  require (n.kind == 1 && n.base != 0) .shape node
  let (t, bs) ← t.loadN ag record 256
  t.enqueueOp ag p node bs
/-- The command processor writes the SEQ that is due, or else takes the next entry, when it is of a kind that the step asks for (R455). It
reads the ring at its home, where the host's writes before the doorbell stand. An entry that cannot be read is skipped, with a free SEQ. -/
def State.takeEntry (s : State) (p : Nat) (want : Nat → Bool) : State :=
  match s.part p with
  | none => s
  | some q =>
    if q.seqDue.isSome then s.writeSeq p
    else if q.head == q.tail || s.moving q.completion.toNat 8 then s
    else
      let e := q.entryAt
      match s.readAt (s.cmdAgent p 0) (BitVec.ofNat 64 e) e 64 true with
      | .error (.trap t) => if want 3 then s.skipEntry p 0 e t.code t.sub (Config.freeWord s.tick) else s
      | .error x => s.askOutside x
      | .ok (t, bs) =>
        let w := fun k => leWord ((bs.drop (8 * k)).take 8)
        let kind := ((w 0).extractLsb' 0 8).toNat
        let asid := (w 0).extractLsb' 8 13
        let ag := s.cmdAgent p asid
        if !want kind then s
        else if !entryShape w then t.skipEntry p asid e .shape 0 (w 3)
        else match t.asidOf ag asid p with
          | .error x => s.askOutside x
          | .ok (t, false) => t.skipEntry p asid e .prot 0 (w 3)
          | .ok (t, true) =>
            let r : Res State := if kind == 1 then t.runGraph p ag (w 1) else if kind == 2 then t.runRecord p ag (w 1) (w 2) else .ok t
            match r with
            | .ok u => (u.consume ag).endEntry p (w 3)
            | .error (.trap x) => ((t.stampReads ag x.reads).consume ag).skipEntry p asid e x.code x.sub (w 3)
            | .error x => s.askOutside x
/-- RING_ENTRY_NOP takes an entry of KIND 0, and one whose KIND is reserved or that cannot be read. -/
def execRingEntryNop (p : Nat) (s : State) : Out :=
  if !s.alive then .next s else .next (s.takeEntry p fun k => k != 1 && k != 2)
def execRingEntryGraph (p : Nat) (s : State) : Out :=
  if !s.alive then .next s else .next (s.takeEntry p fun k => k == 1)
def execRingEntryRecord (p : Nat) (s : State) : Out :=
  if !s.alive then .next s else .next (s.takeEntry p fun k => k == 2)

/-! The mailbox (R456). -/

/-- A result posted: MB_STAT shows it, BUSY clears, and vector 0 is raised. -/
def State.postResult (s : State) (tag result : Byte) : State :=
  { s with mbPending := none, mbTag := tag, mbResult := result, hostOut := s.hostOut ++ [.msix 0] }
/-- A command that the host has written: it is in progress until its result is posted. One written while BUSY is 1 is ignored. -/
def State.mailbox (s : State) (tag : Byte) (c : Command) : Out :=
  if !s.listening then .next s
  else if s.mbPending.isSome then .next (s.setErr 2)
  else .next { s with mbPending := some (tag, c) }
/-- The invalidations that are under way: those of PRT_INV and of page operations. -/
def State.pendingInvs (s : State) : List (Nat × Word) :=
  s.parts.flatMap fun (p, q) => (if q.invBusy then [(p, q.inv)] else []) ++
    (match q.pop with | some o => if o.op == 1 || o.ending.isSome then [(p, o.scope)] else [] | none => [])
/-- The invalidation of an ASID_SYNC that has not ended has no effect: a slot in its scope serves as before, unless another invalidation has
met it too. -/
def State.abandonSync (s : State) (v : Word) : State :=
  let due := fun (x : Ctx) (l : Latch) => l.size == 0 || s.pendingInvs.any fun (p, w) => invLatch p w x.asid l
  s.mapFabrics fun _ x f =>
    let g := f.mapLatches fun l => if invLatch 0 v x.asid l then { l with stale := l.stale && due x l } else l
    if x.asid != invAsid v then g
    else { g with
      ops := g.ops.map fun (k, o) => (k, { o with relatch := o.relatch && o.latches.any (·.stale) })
      ports := g.ports.map fun (k, q) => (k, { q with relatch := q.relatch && q.latches.any (·.stale) }) }
/-- ASID_SYNC's invalidation, as PRT_INV would name it with SCOPE 1. -/
def syncScope (asid : BitVec 13) : Word := BitVec.ofNat 64 (2 + asid.toNat * 8)
/-- A command that has begun and has not ended yet has no effect (R456). -/
def State.abandon (s : State) (c : Command) : State :=
  match c with
  | .asidSync asid true => s.abandonSync (syncScope asid)
  | .clusterMove p _ _ => match s.part p with
    | some q => match q.resize with
      | some (.move _ _ true) => s.setPart p { q with resize := none }
      | some (.move _ _ false) | some (.shrink _ _ _) | none => s
    | none => s
  | .daybreak _ | .partCreate _ | .partDestroy _ | .setTables _ _ | .asidSync _ false | .frrOwner _ _ | .groupReg _ _ | .aperture _ _ _
  | .ticketKey _ | .reset _ | .unknown _ => s
/-- DAYBREAK ends a command in progress with result 5 and no effect. -/
def execDaybreak (tag : Byte) (s : State) : Out :=
  if !s.listening then .next s
  else match s.mbPending with
    | none => .next { s with mbPending := some (tag, .daybreak false) }
    | some (old, c) => .next { (s.abandon c).postResult old 5 with mbPending := some (tag, .daybreak false) }
def execPartCreate (tag : Byte) (args : PartArgs) (s : State) : Out := s.mailbox tag (.partCreate args)
def execPartDestroy (tag : Byte) (p : Nat) (s : State) : Out := s.mailbox tag (.partDestroy p)
def execSetTables (tag : Byte) (atBase keyBase : Word) (s : State) : Out := s.mailbox tag (.setTables atBase keyBase)
def execAsidSync (tag : Byte) (asid : BitVec 13) (s : State) : Out := s.mailbox tag (.asidSync asid false)
def execFrrOwner (tag : Byte) (range p : Nat) (s : State) : Out := s.mailbox tag (.frrOwner range p)
def execGroupReg (tag : Byte) (group : BitVec 16) (members : List Member) (s : State) : Out := s.mailbox tag (.groupReg group members)
def execAperture (tag : Byte) (n : Nat) (device : BitVec 12) (enable : Bool) (s : State) : Out := s.mailbox tag (.aperture n device enable)
def execTicketKey (tag : Byte) (key : BitVec 256) (s : State) : Out := s.mailbox tag (.ticketKey key)
def execClusterMove (tag : Byte) (p logical physical : Nat) (s : State) : Out := s.mailbox tag (.clusterMove p logical physical)
def execReset (tag : Byte) (clearCount : Bool) (s : State) : Out := s.mailbox tag (.reset clearCount)
def execMailboxUnknown (tag code : Byte) (s : State) : Out := s.mailbox tag (.unknown code)

/-! Partitions. -/

/-- A partition as it is created: every register at its reset value (R261, R429, R451). -/
def Partition.fresh (geom : Word) (cmax : Nat) (cit : List (Nat × Nat)) (supCore : Nat) : Partition where
  geom := geom
  cmax := cmax
  cit := cit
  supCore := supCore
  supAsid := 0
  asel := 0
  inv := 0
  invBusy := false
  draint := 20000
  fqBase := 0
  fqLen := 0
  fqHead := 0
  fqTail := 0
  tsel := 0
  hotsel := 0
  popVa := 0
  popDst := 0
  popCmd := 0
  popSt := 0
  pop := none
  ageq := 10000
  preempt := 1
  saveBase := 0
  rsz := geom
  rszSt := 0
  move := 0
  resize := none
  citSel := 0
  bwShare := 0x01010101
  tkAddr := 0
  tkSt := 0
  ticket := none
  ringBase := 0
  ringLog := 4
  head := 0
  tail := 0
  completion := 0
  seqDue := none
  lastSeq := 0
  supHalted := false
  queued := []
  nodes := []
  ready := []
  errands := []
  faults := []
/-- The claim that a supervisor's code header gives; none when it cannot be read or breaks R404 (log entry 9). -/
def State.supClaim (s : State) (die : Nat) (asid : BitVec 13) (code : Word) : Res (State × Option (Nat × Nat)) :=
  let ag := dieAgent die 5 asid
  if code.toNat % 64 != 0 then .ok (s, none)
  else match s.load ag code 64 with
    | .ok (t, h) => .ok (t,
      if headerOk h then some (32 * ((recWord h 0).extractLsb' 0 6).toNat, 16384 * ((recWord h 0).extractLsb' 8 6).toNat) else none)
    | .error (.trap e) => .ok (s.stampReads ag e.reads, none)
    | .error e => .error e
/-- An address in device or host memory. -/
def State.inMemory (s : State) (pa : Nat) : Bool := s.region pa == .hbm || s.region pa == .host
/-- The arguments of PART_CREATE keep the rules of their fields (log entry 23). -/
def State.partArgsOk (s : State) (a : PartArgs) : Bool :=
  decide (a.number < 64) && a.geom.extractLsb' 22 42 == 0 && geomPart a.geom == a.number && geomOk a.geom &&
  (geomClusters a.geom).all s.present && decide ((geomClusters a.geom).length ≤ a.cmax) && decide (a.cmax ≤ 160) && 4 ≤ a.ringLog &&
  decide (a.ringLog ≤ 16) &&
  a.ringBase.toNat % 64 == 0 && s.inMemory a.ringBase.toNat && s.inMemory (a.ringBase.toNat + 64 * 2 ^ a.ringLog - 1) &&
  a.completion.toNat % 8 == 0 && s.inMemory a.completion.toNat
/-- An entry of the ASID table is live and the partition's (R232). -/
def liveEntry (e : Option Word) (p : Nat) : Bool := e.any fun w => entryV w && entryPart w == p
/-- Partitions served by a die (R21). -/
def State.served (s : State) (die : Nat) : Nat := (s.parts.filter fun (p, _) => s.schedDie p == die).length
/-- A partition created on the physical rectangle of its geometry, its supervisor at the entry of its code object on the first core of
the north-west cluster. -/
def State.createPart (s : State) (a : PartArgs) (cols spad : Nat) : State :=
  let nw := 16 * geomY a.geom + geomX a.geom
  let n := coreIn nw 0
  let q := { Partition.fresh a.geom a.cmax ((geomClusters a.geom).map fun c => (c, c)) n with
    supAsid := a.supAsid, ringBase := a.ringBase, ringLog := a.ringLog, completion := a.completion, bwShare := a.bwShare }
  let x := { Ctx.entry s.nextId a.supAsid a.number true (a.supCode + 64) with
    cols := cols, spadBytes := spad, code := s.recallAll.mem, codeLines := s.hostLines }
  let t := s.setCore n { s.core n with day := some x, lastAsid := some a.supAsid }
  { t.setPart a.number q with nextId := s.nextId + 1 }
/-- A core of the partition holds a task: a supervisor is none (R28). -/
def State.anyTask (s : State) (q : Partition) : Bool :=
  q.cores.any fun n => ((s.core n).day.toList ++ (s.core n).night.toList).any fun x => !x.sup
def State.destroyPart (s : State) (p : Nat) (q : Partition) : State :=
  let t := q.cores.foldl (fun t n => State.setCore t n
    { (State.core t n).zeroed with day := none, night := none, spills := [], asked := none, dusk := none }) s
  { t with parts := tabDel t.parts p }

/-! Daybreak (R457). -/

/-- Words 0 to 3 of a partition's part of the summary. -/
def Partition.summary (q : Partition) : List Word :=
  [q.geom, q.tail ++ q.head, q.lastSeq,
   BitVec.ofNat 64 (1 + q.supHalted.toNat * 2 + q.fqHead.toNat * 2 ^ 16 + q.fqTail.toNat * 2 ^ 32)]
/-- A die's word: in twilight mode one stack of die 0 alone; in the hold what the failed start left is open, up to the three stacks that a die
has (R17). -/
def State.dieWord (s : State) (d : Nat) : Word :=
  let sense := fun k => (Config.sensor (16 * s.tick + 3 * d + k)).toNat
  let trained := if s.power == .normal then 3 + 8 else if s.power == .twilight then (if d == 0 then 1 + 8 else 0)
    else min (sense 0 % 8) 3 + sense 0 / 8 % 2 * 8
  BitVec.ofNat 64 (trained + sense 1 % 256 * 2 ^ 8 + sense 2 * 2 ^ 16)
/-- Islands that run below their nominal clock. -/
def State.slowIslands (s : State) : Nat := s.islands.foldl (fun m (i, k) => if k == 0 then m else m + 2 ^ i) 0
/-- Watts that the package draws: a free number up to its rating (R2, R463). -/
def packageWatts (seed : Nat) : Nat := min (Config.sensor seed).toNat 2200
/-- The summary from 0x000 up to 0xA40. -/
def State.summary (s : State) : List Byte :=
  let w : Word → List Byte := fun v => natLe 8 v.toNat
  let head : List Byte := List.replicate 40 0
  let gap : List Byte := List.replicate 32 0
  w 0x14B44 ++ w (s.hifStatus ||| BitVec.ofNat 64 (s.daybreaks.toNat * 2 ^ 32)) ++ w s.starts ++ head ++
  (List.range 4).flatMap (fun d => w (s.dieWord d)) ++ gap ++
  (List.range 64).flatMap (fun p => match s.part p with | some q => q.summary.flatMap w | none => gap) ++
  (List.range 48).flatMap (fun n => w (s.druat n).word) ++
  (s.errors.toList).flatMap w ++ natLe 8 (packageWatts (16 * s.tick + 15)) ++ natLe 24 s.slowIslands
/-- Bytes written to host memory, line by line, through the device-side homes (R344). -/
def writeLines (ag : Agent) : Nat → State → Nat → List Byte → State
  | 0, s, _, _ => s
  | k + 1, s, pa, bs => if bs.isEmpty then s else writeLines ag k (s.writeHost ag pa (bs.take 128)) (pa + 128) (bs.drop 128)
/-- The argument page lies in host memory (R453). -/
def State.argOk (s : State) : Bool := decide (viewEnd ≤ s.mbArg.toNat)
/-- The command processor that serves the mailbox. -/
def mailAgent : Agent := dieAgent 0 5 0
/-- DAYBREAK: the summary goes to the argument page, and the command ends once its lines have been written. -/
def State.runDaybreak (s : State) (tag : Byte) (begun : Bool) : State :=
  if !s.argOk then s.postResult tag 2
  else
    let t := if begun then s else
      { writeLines mailAgent 32 s s.mbArg.toNat { s with daybreaks := s.daybreaks + 1 }.summary with mbPending := some (tag, .daybreak true) }
    if t.performed mailAgent .sys then { t with daybreaks := t.daybreaks + 1 }.postResult tag 0 else t

/-! Starting again (R458 to R460). -/

/-- A start begins: normal, or in twilight mode when the failed-start count is 3. What the package holds is kept, and what the host or
the tray has been told; all else is as after a reset (log entry 21). -/
def State.begin (s : State) (count : BitVec 4) : State :=
  { State.reset with
    agenda := s.agenda, tick := s.tick, nextId := s.nextId, hostOut := s.hostOut, starts := s.starts + 1, failedStarts := count
    reason := s.reason, mbTag := s.mbTag, mbResult := s.mbResult, trained := false
    power := if count == 3 then .twilightStarting else .starting }

/-! Groups and apertures (R456, R461). -/

/-- The device number, set by the first of these commands. -/
def State.numbered (s : State) : State := if s.device.isSome then s else { s with device := some (Config.deviceNumber s.tick) }
def State.registerGroup (s : State) (k : Nat) (ms : List Member) : State := (s.numbered).setGroup k ⟨ms, [], [], [], []⟩
/-- A group whose collective some participant waits for. -/
def State.groupBusy (s : State) (k : Nat) : Bool := match tabGet s.groups k with | some g => !g.parties.isEmpty | none => false
/-- ASID_SYNC: the invalidation of R239 with SCOPE 1, and the command ends with it. -/
def State.syncAsid (s : State) (tag : Byte) (asid : BitVec 13) (begun : Bool) : State :=
  let v := syncScope asid
  let begin : Res State := if begun then .ok s else (s.startInv 0 v).map fun t => { t with mbPending := some (tag, .asidSync asid true) }
  match begin with
  | .error e => s.askOutside e
  | .ok t => if t.invDone 0 v then (t.invalidate 0 v).postResult tag 0 else t

/-- CLUSTER_MOVE as PRT_MOVE (R445, R446): it waits for an earlier request, then for its cluster to empty. -/
def State.hostMove (s : State) (tag : Byte) (p l c : Nat) : State :=
  match s.part p with
  | none => s.postResult tag 2
  | some q => match q.resize with
    | some (.move k d true) => match q.physical k with
      | none => s
      | some f => if (clusterCores f).all fun n => (s.core n).vacant then (s.moveCluster p q k f d).postResult tag 0 else s
    | some (.move _ _ false) | some (.shrink _ _ _) => s
    | none => match s.moveRefused q l c with
      | some r => (s.setPart p { q with rszSt := rszDone q.rszSt r }).postResult tag (if r == 4 then 3 else 2)
      | none => s.setPart p { q with resize := some (.move l c true) }

/-- The command has an argument page (R456). -/
def Command.hasArg : Command → Bool
  | .daybreak _ | .unknown _ => false
  | .partCreate _ | .partDestroy _ | .setTables _ _ | .asidSync _ _ | .frrOwner _ _ | .groupReg _ _ | .aperture _ _ _ | .ticketKey _
  | .clusterMove _ _ _ | .reset _ => true
/-- Commands that the twilight hold answers with result 4 (R460). -/
def Command.notHeld : Command → Bool
  | .daybreak _ | .reset _ => false
  | .partCreate _ | .partDestroy _ | .setTables _ _ | .asidSync _ _ | .frrOwner _ _ | .groupReg _ _ | .aperture _ _ _ | .ticketKey _
  | .clusterMove _ _ _ | .unknown _ => true
/-- The effect, response and result of a command whose arguments have been read (R456). One that has to wait stays in progress. -/
def State.runArgs (s : State) (tag : Byte) (c : Command) : State :=
  let tw := s.power == .twilight
  match c with
  | .daybreak begun => s.runDaybreak tag begun
  | .reset clear => (s.postResult tag 0).begin (if clear then 0 else s.failedStarts)
  | .unknown _ => s.postResult tag 1
  | .partCreate a =>
    let die := clusterDie (16 * geomY a.geom + geomX a.geom)
    if tw && !s.parts.isEmpty then s.postResult tag 4
    else if !s.partArgsOk a then s.postResult tag 2
    else match s.asidWord mailAgent a.supAsid 0 with
    | .error e => s.askOutside e
    | .ok (s, e) =>
    if !liveEntry e a.number then s.postResult tag 2
    else if (s.part a.number).isSome || 16 ≤ s.served die || (geomClusters a.geom).any (s.heldClusters.contains ·) then s.postResult tag 3
    else match s.supClaim die a.supAsid a.supCode with
      | .error e => s.askOutside e
      | .ok (t, none) => t.postResult tag 2
      | .ok (t, some (cols, spad)) => (t.createPart a cols spad).postResult tag 0
  | .partDestroy p => match s.part p with
    | none => s.postResult tag 2
    | some q => if s.anyTask q || q.head != q.tail then s.postResult tag 3 else (s.destroyPart p q).postResult tag 0
  | .setTables a k =>
    if a &&& ~~~0xFFFFFFFF0000 != 0 || k &&& ~~~0xFFFFFFFFFFE0 != 0 then s.postResult tag 2
    else if !s.parts.isEmpty then s.postResult tag 3
    else { s with atBase := a, keyBase := k }.postResult tag 0
  | .asidSync asid begun => s.syncAsid tag asid begun
  | .frrOwner n p =>
    if 64 ≤ n || 64 ≤ p then s.postResult tag 2
    else if (s.range n).en then s.postResult tag 3
    else
      let r := s.range n
      (s.setRange n { r with ctl := (r.ctl &&& ~~~0x03F0000000000000) ||| BitVec.ofNat 64 (p * 2 ^ 52) }).postResult tag 0
  | .groupReg k ms =>
    if tw then s.postResult tag 4
    else if ms.length < 2 || 1024 < ms.length || ms.any (fun m => 64 ≤ m.part || Config.cores ≤ m.core) then s.postResult tag 2
    else if s.groupBusy k.toNat then s.postResult tag 3
    else (s.registerGroup k.toNat ms).postResult tag 0
  | .aperture n d en =>
    if tw then s.postResult tag 4
    else if n == 0 || 16 ≤ n then s.postResult tag 2
    else { s.numbered with apertures := tabPut s.apertures n ⟨d, en⟩ }.postResult tag 0
  | .ticketKey key => { s with ticketKey := key }.postResult tag 0
  | .clusterMove p l c => s.hostMove tag p l c
/-- The command has begun: its arguments have been read. -/
def State.begun (s : State) (c : Command) : Bool :=
  match c with
  | .daybreak b | .asidSync _ b => b
  | .clusterMove p _ _ => (match s.part p with
    | some q => (match q.resize with | some (.move _ _ true) => true | some (.move _ _ false) | some (.shrink _ _ _) | none => false)
    | none => false)
  | .partCreate _ | .partDestroy _ | .setTables _ _ | .frrOwner _ _ | .groupReg _ _ | .aperture _ _ _ | .ticketKey _ | .reset _
  | .unknown _ => false
/-- The command in progress goes on: its argument page, which has to lie in host memory, is read over CXL first (R453, R456). -/
def State.runCommand (s : State) (tag : Byte) (c : Command) : State :=
  if s.power == .hold && c.notHeld then s.postResult tag 4
  else if !c.hasArg || s.begun c then s.runArgs tag c
  else if !s.argOk then s.postResult tag 2
  else match s.hostLine (lineOf s.mbArg.toNat) with
    | .ok _ => (s.stampLoad mailAgent (lineOf s.mbArg.toNat)).runArgs tag c
    | .error e => s.askOutside e
def execMailboxResultPosted (s : State) : Out :=
  if !s.listening then .next s
  else match s.mbPending with
    | none => .next s
    | some (tag, c) => .next (s.runCommand tag c)
def execHifErrClear (v : Word) (s : State) : Out :=
  if !s.listening then .next s else .next { s with hifErr := s.hifErr &&& ~~~(v.extractLsb' 0 4) }

/-! Host accesses (R343, R344, R453). -/

/-- What the host window answers at an offset (R453). -/
def State.windowRead (s : State) (o : Nat) : Word :=
  if o == 0x1008 then s.mbArg
  else if o == 0x1010 then BitVec.ofNat 64 (s.mbPending.isSome.toNat + s.mbTag.toNat * 2 ^ 8 + s.mbResult.toNat * 2 ^ 16)
  else if 0x2000 ≤ o && o ≤ 0x27F8 then s.hifRead (0x380 + (o - 0x2000) / 8)
  else 0
/-- Pieces of a range that lie in one line each. -/
def linePieces : Nat → Nat → Nat → List (Nat × Nat)
  | 0, _, _ => []
  | k + 1, a, n => if n == 0 then [] else
    let m := min n (128 - a % 128)
    (a, m) :: linePieces k (a + m) (n - m)
/-- Device memory that the host may reach: HBM, in twilight mode one stack of it (R452, R459). -/
def State.hostMay (s : State) (a n : Nat) : Bool := n != 0 && s.region a == .hbm && s.region (a + n - 1) == .hbm
/-- A read of the host, at each line's home. -/
def State.hostRead (s : State) (a n : Nat) : State :=
  let (t, bs) := (linePieces (n + 1) a n).foldl (fun (t, bs) (a, m) =>
    let (u, cs) := State.readHbm t (hostAgent.atHome (hbmDie a)) a m
    ({ u with hostCopies := setAdd u.hostCopies (lineOf a) }, bs ++ cs)) (s, [])
  { t with hostOut := t.hostOut ++ [.read a bs] }
/-- V of an ASID's entry, as far as it can be read. -/
def State.asidLive (s : State) (asid : BitVec 13) : Bool :=
  match s.asidWord mailAgent asid 0 with | .ok (_, e) => e.any entryV | .error _ => false
/-- Reuse statistics of ASIDs whose V goes from 0 to 1 start at zero (R419). -/
def State.noteLive (old new : State) (a n : Nat) : State :=
  let base := old.atBase.toNat
  if a + n ≤ base || base + 16 * Config.asids ≤ a then new
  else
    let first := (a - base) / 16
    (List.range (n / 16 + 2)).foldl (fun t k =>
      let asid := BitVec.ofNat 13 (first + k)
      if first + k < Config.asids && !State.asidLive old asid && State.asidLive new asid then
        State.setStat t asid ⟨(State.stat t asid).quota, 0, 0, 0, 0⟩
      else t) new
/-- What PRT_AROOT has set of an ASID gives way to an entry that the host writes (R232, R233; log entry 6). -/
def State.hostEntries (s : State) (a n : Nat) : State :=
  let keep := fun (l : List (Nat × Word)) => l.filter fun (k, _) => !rangesMeet a n (s.atBase.toNat + 16 * k) 8
  { s with roots := keep s.roots, rootsNext := keep s.rootsNext }
/-- A write of the host, behind the collapses that it causes (R247). -/
def State.hostWrite (s : State) (a : Nat) (bs : List Byte) : Res State := do
  let u ← s.forPhysical hostAgent a bs.length
  let t := (linePieces (bs.length + 1) a bs.length).foldl (fun t (b, m) => State.writeHbm t hostAgent b ((bs.drop (b - a)).take m)) u
  let t := State.noteLive s (t.hostEntries a bs.length) a bs.length
  .ok { t with hostOut := t.hostOut ++ [.written a] }
/-- HOST_MEM_REQUEST (R343), and the accesses to the window that no other step makes (R453). -/
def execHostMemRequest (req : HostReq) (s : State) : Out :=
  match req with
  | .read a n => if s.alive && s.hostMay a n then .next (s.hostRead a n) else .next s
  | .write a bs =>
    if s.alive && s.hostMay a bs.length && !s.moving a bs.length then (match s.hostWrite a bs with
      | .ok t => .next t
      | .error e => .next (s.askOutside e))
    else .next s
  | .window o => if s.listening && o % 8 == 0 then .next { s with hostOut := s.hostOut ++ [.read o (natLe 8 (s.windowRead o).toNat)] } else .next s
  | .mailboxArg v => if s.listening then .next { s with mbArg := v &&& 0xFFFFFFFFF000 } else .next s
/-- HOST_WRITE_SNOOP (R344): the line leaves its RDC, at a timestamp of the host's write, which clears the poison of sectors that it covers
whole (R356). -/
def execHostWriteSnoop (addr : Nat) (bytes : List Byte) (s : State) : Out :=
  if !s.listening then .next s
  else .next (((linePieces (bytes.length + 1) addr bytes.length).foldl (fun t (a, m) =>
    State.stampWrite { State.cleanPoison t a m with hostLines := tabDel t.hostLines (lineOf a) } hostAgent (lineOf a)) s).hostEntries addr
      bytes.length)
/-- The oldest write of a line is performed at .sys. -/
def firstDone (line : Nat) : List HostWrite → List HostWrite
  | [] => []
  | w :: l => if w.line == line then l else w :: firstDone line l
/-- HOST_CXL_RESPONSE (R343, R344): a line that was asked for arrives, with the writes on their way laid over it; the oldest write of a line
is complete; a copy of device memory has been given back. -/
def execHostCxlResponse (r : CxlResp) (s : State) : Out :=
  if !s.listening then .next s
  else match r with
    | .data line bs =>
      if setHas s.hostAsked line && bs.length == 128 then
        let now := (s.hostWrites.filter fun w => w.line == line).foldl (fun (l : List Byte) w =>
          w.cells.foldl (fun (l : List Byte) (i, b) => l.set i b) l) bs
        .next { s with hostAsked := setDel s.hostAsked line, hostLines := tabPut s.hostLines line now }
      else .next s
    | .writeDone line => .next { s with hostWrites := firstDone line s.hostWrites }
    | .backInvalidate line => .next { s with hostCopies := setDel s.hostCopies line, hostSnooped := setDel s.hostSnooped line }

end Machine

end Sys2Proof
end

