-- ==== Sys2Proof/Machine/Druat.lean ====
section
/-! DEFINITION. Druat ports: flits received, accesses of other devices performed here, answers to accesses made there, and failures of a port
(R342, R370, R461, R462). -/

namespace Sys2Proof.Machine

/-! Flits (R462). -/

/-- CRC-64 with the polynomial of ECMA-182, most significant bit first from zero (log entry 22). -/
def crcStep (c : BitVec 64) : BitVec 64 := if c.msb then (c <<< 1) ^^^ 0x42F0E1EBA9EA3693 else c <<< 1
def crcBits : Nat → BitVec 64 → BitVec 64
  | 0, c => c
  | n + 1, c => crcBits n (crcStep c)
def crc64 (bs : List Byte) : BitVec 64 := bs.foldl (fun c b => crcBits 8 (c ^^^ (BitVec.setWidth 64 b <<< (56 : Nat)))) 0
/-- Bytes and mask of a line, and stream data. -/
def payloadLine (cells : List (Nat × Byte)) : List Byte :=
  let line := cells.foldl (fun (l : List Byte) (i, b) => l.set i b) (List.replicate 128 (0 : Byte))
  line ++ natLe 16 (cells.foldl (fun m (i, _) => m ||| 2 ^ i) 0) ++ List.replicate 80 0
def payloadStream (cells : List (Nat × Byte)) : List Byte :=
  cells.foldl (fun (l : List Byte) (i, b) => l.set i b) (List.replicate 224 (0 : Byte))
/-- Bytes 0 to 239 of a flit. -/
def Sent.body (f : Sent) : List Byte :=
  natLe 1 f.kind ++ natLe 3 (f.source.toNat + f.dest.toNat * 2 ^ 12) ++ natLe 4 f.seq ++ natLe 8 f.addr ++
  (if f.kind == 6 || f.kind == 7 then payloadStream f.bytes else payloadLine f.bytes)
/-- The 256 bytes of a flit as a port sends it: the CRC, and the highest sequence number that the port has received in order. -/
def DruatPort.wire (p : DruatPort) (f : Sent) : List Byte := f.body ++ natLe 8 (crc64 f.body).toNat ++ natLe 8 p.received

def State.setPort (s : State) (n : Nat) (p : DruatPort) : State := { s with ports := tabPut s.ports n p }
/-- A flit is discarded and its replay requested. -/
def State.askReplay (s : State) (n : Nat) : State :=
  match tabGet s.ports n with
  | some p => if p.state == 2 then s.setPort n { p with replayAsked := true } else s
  | none => s
/-- A flit that arrives in sequence is received, and what it acknowledges leaves the port's store. One out of sequence is discarded. One whose
effect has to wait is received once it can be performed. -/
def State.receive (s : State) (n : Nat) (f : Flit) (body : State → Res State) : Out :=
  if !s.alive then .next s
  else match tabGet s.ports n with
    | none => .next s
    | some p =>
      if p.state != 2 then .next s
      else if f.seq != BitVec.ofNat 32 (p.received + 1) then .next (s.askReplay n)
      else
        let t := s.setPort n { p with received := p.received + 1, replayAsked := false, sent := p.sent.filter fun x => f.ack < x.seq }
        match body t with
        | .ok u => .next u
        | .error (.trap _) => .next t
        | .error e => .next (s.askOutside e)

/-- Runs of consecutive bytes, each from its first offset. -/
def byteRuns : List (Nat × Byte) → List (Nat × List Byte)
  | [] => []
  | (o, b) :: r => match byteRuns r with
    | [] => [(o, [b])]
    | (q, bs) :: t => if q == o + 1 then (o, b :: bs) :: t else (o, [b]) :: (q, bs) :: t
/-- Bytes of a flit written to this device's memory, from a base address; bytes outside it are dropped, and those
of a duplicated page whose descriptor cannot be read (log entry 22). -/
def State.writeFlit (s : State) (port base : Nat) (bytes : List (Nat × Byte)) : Res State :=
  (byteRuns bytes).foldlM (fun t (o, bs) =>
    let ag := portDevice port
    if State.region t (base + o) == .hbm && State.region t (base + o + bs.length - 1) == .hbm then
      (match State.forPhysical t ag (base + o) bs.length with
       | .ok u => .ok (u.writeEngine ag (base + o) bs)
       | .error (.trap _) => .ok t
       | .error e => .error e)
    else .ok t) s

/-- DRUAT_LOAD: the marked bytes of the line are read at their home and sent back (R462); those of a poisoned sector are left out (R356, log
entry 22). -/
def execDruatLoad (port : Nat) (f : Flit) (s : State) : Out :=
  s.receive port f fun t =>
    if t.region f.addr == .hbm then
      let line := f.addr / 128 * 128
      let (u, bs) := t.readHbm ((portDevice port).atHome (hbmDie line)) line 128
      let good := f.bytes.filter fun (o, _) => !u.sectorPoisoned (line + o)
      .ok (u.send port 2 f.src f.addr (good.map fun (o, _) => (o, (bs[o]?).getD 0)) .load)
    else .ok t
/-- The operation gives its issuer a value, for which it waits. -/
def RemoteOp.returns : RemoteOp → Bool
  | .load => true
  | .store | .poisoned => false
  | .reduce _ _ r => r
  | .cas _ _ => true
/-- The oldest outstanding access that meets a condition is answered: one that gives a value keeps it for its issuer, another is over. -/
def answerFirst (c : Remote → Bool) (bytes : List Byte) : List Remote → List Remote
  | [] => []
  | r :: l =>
    if c r && !r.answered && !r.failed then (if r.op.returns then { r with answered := true, bytes := bytes } :: l else l)
    else r :: answerFirst c bytes l
/-- DRUAT_LOAD_RESPONSE completes the oldest load of the address at its device. -/
def execDruatLoadResponse (port : Nat) (f : Flit) (s : State) : Out :=
  s.receive port f fun t =>
    let mine := fun (r : Remote) => r.port == port && r.device == f.src && r.op == .load && r.addr == f.addr && f.bytes.length ≤ r.len
    .ok { t with remote := answerFirst mine (f.bytes.map (·.2)) t.remote }
/-- A write of another device waits while a page that it meets migrates (R245) or the host may hold its line, which is asked for (R343). -/
def State.forDevice (s : State) (pa n : Nat) (go : Out) : Out :=
  if s.moving pa n then .next s
  else match (linesOf pa n).find? fun l => s.alive && setHas s.hostCopies l with
    | some l => .next (s.askOutside (.snoop l))
    | none => go
/-- DRUAT_STORE is performed at the home and acknowledged. -/
def execDruatStore (port : Nat) (f : Flit) (s : State) : Out :=
  s.forDevice (f.addr / 128 * 128) 128
    (s.receive port f fun t => (t.writeFlit port (f.addr / 128 * 128) f.bytes).map fun u => u.send port 5 f.src f.addr [] .store)
/-- DRUAT_REDUCTION is performed at the home, at one timestamp, and acknowledged with the value it replaced. Twice the bytes of the operand
are a compare and swap: the new value, then the one it expects; a poisoned operand is left as it is and acknowledged with no bytes (log
entry 22). -/
def execDruatReduction (port : Nat) (f : Flit) (op : AmoOp) (dbl : Bool) (s : State) : Out :=
  let n := if dbl then 8 else 4
  s.forDevice f.addr n
    (s.receive port f fun t =>
      if t.region f.addr == .hbm && f.addr % n == 0 then
        let ag := portDevice port
        if t.rangePoisoned f.addr n then .ok (t.send port 5 f.src f.addr [] .store) else do
        let t ← (t.recall (lineOf f.addr)).forPhysical ag f.addr n
        let old := Memory.bytes t.mem f.addr n
        let v := f.bytes.map (·.2)
        let swap := v.length == 2 * n
        let new := if swap then (if v.drop n == old then v.take n else old) else natLe n (op.apply dbl (leWord old) (leWord v)).toNat
        .ok ((t.writeHbm ag f.addr new).send port 5 f.src f.addr (lineCells f.addr old) .store)
      else .ok t)
/-- DRUAT_ACKNOWLEDGE completes the oldest store or reduction of the address at its device. -/
def execDruatAcknowledge (port : Nat) (f : Flit) (s : State) : Out :=
  s.receive port f fun t =>
    let mine := fun (r : Remote) => r.port == port && r.device == f.src && r.op != .load && r.addr == f.addr
    .ok { t with remote := answerFirst mine (f.bytes.map (·.2)) t.remote }
/-- DRUAT_COLLECTIVE_STREAM: the data of a rank on another device, which may complete the group's collective. -/
def execDruatCollectiveStream (port : Nat) (f : Flit) (group : BitVec 16) (rank : Nat) (s : State) : Out :=
  s.receive port f fun t => match tabGet t.groups group.toNat with
    | none => .ok t
    | some g =>
      let old := (tabGet g.streams rank).getD []
      .ok ((t.setGroup group.toNat { g with streams := tabPut g.streams rank (old ++ f.bytes.map (·.2)) }).collRun group.toNat 0)
/-- DRUAT_MIGRATION_STREAM: data of a ticket or page, up to 224 bytes, written where the stream says. -/
def execDruatMigrationStream (port : Nat) (f : Flit) (s : State) : Out :=
  s.forDevice f.addr 224 (s.receive port f fun t => t.writeFlit port f.addr f.bytes)
/-- DRUAT_IDLE carries its acknowledgement alone. -/
def execDruatIdle (port : Nat) (f : Flit) (s : State) : Out := s.receive port f fun t => .ok t
/-- FLIT_CRC_FAIL: the flit is discarded and its replay requested. -/
def execFlitCrcFail (port : Nat) (s : State) : Out := if !s.alive then .next s else .next (s.askReplay port)

/-! Retraining and failure. -/

/-- A port in use retrains, and counts it. -/
def State.retrain (s : State) (port : Nat) (p : DruatPort) : State :=
  { s.setPort port { p with state := 3, retrains := p.retrains + 1 } with errors := s.errors.set 3 (s.errors[3] + 1) }
/-- PORT_RETRAIN: the other end has asked for a replay. The port replays its oldest unacknowledged flit, and the eighth replay of one flit
makes it retrain. -/
def execPortRetrain (port : Nat) (s : State) : Out :=
  if !s.alive then .next s
  else match tabGet s.ports port with
    | none => .next s
    | some p =>
      if p.state != 2 then .next s
      else match p.sent with
        | [] => .next s
        | f :: rest =>
          if f.replays + 1 < 8 then .next (s.setPort port { p with sent := { f with replays := f.replays + 1 } :: rest })
          else .next (s.retrain port { p with sent := { f with replays := 0 } :: rest })
/-- RETRAIN_COMPLETE: the port is ACTIVE again, or has one more failed retrain in a row. -/
def execRetrainComplete (port : Nat) (ok : Bool) (s : State) : Out :=
  if !s.alive then .next s
  else match tabGet s.ports port with
    | none => .next s
    | some p =>
      if p.state != 3 || 3 ≤ p.failedRetrains then .next s
      else if ok then .next (s.setPort port { p with state := 2, failedRetrains := 0 })
      else .next (s.setPort port { p with failedRetrains := p.failedRetrains + 1 })
/-- The core and the kind of block of an agent that made a remote access (R252, R325). -/
def agentSource (num : Nat) : BitVec 4 :=
  match num / 2 ^ 20 with
  | 0 => 0 | 1 => 1 | 2 => 4 | 3 => 5
  | 4 => (match num % 2 ^ 10 with | 0 => 6 | 3 => 8 | 4 => 9 | _ => 10)
  | _ => 10
/-- The partition that owns an address space, as far as its entry can be read; else that of a core. -/
def State.ownerOf (s : State) (asid : BitVec 13) (core : Nat) : Nat :=
  match s.asidWord mailAgent asid 0 with
  | .ok (_, some e) => entryPart e
  | .ok (_, none) | .error _ => ((s.parts.find? fun (_, q) => q.cores.contains core).map (·.1)).getD 64
/-- A store or reduction that its issuer has left behind fails: LINK at the task, or a record where no task is left (R462). Nothing is
withheld. -/
def State.failRemote (s : State) (r : Remote) : State :=
  let src := agentSource r.agent
  let port := src == 1
  let site : BitVec 8 := if port then BitVec.ofNat 8 (64 + r.agent % 2 ^ 10) else 0xFF
  let t : Trap := ⟨.link, r.va, 0, if port then some r.pos else none, site, 0xF, src, false, []⟩
  match s.cores.find? fun (_, c) => (c.find r.task).isSome with
  | some (n, _) => s.raiseAsync n r.task t false
  | none =>
    let p := s.ownerOf r.asid (r.agent / 2 ^ 10 % 2 ^ 10)
    if r.task == 0 then s.queueFault p (faultRecord t false (src != 0) 0 s.time p 0x3FF r.asid)
    else s.leaveFault (r.agent / 2 ^ 10 % 2 ^ 10) p r.asid t
/-- The ranks that wait in a group: those that have arrived, and those of a collective that runs. -/
def Group.waiting (g : Group) : List (Nat × Nat × Word) :=
  (g.parties.map fun p => (p.rank, p.task, p.dst)) ++ (g.writes.map fun w => (w.rank, w.task, w.dst)).foldl
    (fun l (r, k, d) => if l.any (fun (q, _, _) => q == r) then l else l ++ [(r, k, d)]) []
/-- A collective with members on other devices ends with LINK at its participants here (R370, log entry 22). -/
def State.failGroups (s : State) : State :=
  { s with groups := s.groups.map fun (k, g) =>
      if g.members.all fun m => some m.device == s.device then (k, g)
      else (k, { g with
        parties := [], streams := [], writes := []
        outcome := g.outcome ++ g.waiting.map fun (r, k, d) => (r, k, some ⟨.link, d, 0, none, 0xFF, 0xF, 0, false, []⟩) }) }
/-- PORT_FAILED: after three failed retrains in a row. Each access outstanding through the port takes LINK, and each collective through
it. -/
def execPortFailed (port : Nat) (s : State) : Out :=
  if !s.alive then .next s
  else match tabGet s.ports port with
    | none => .next s
    | some p =>
      if p.state != 3 || p.failedRetrains < 3 then .next s
      else
        let lost := fun (r : Remote) => r.port == port && !r.answered && !r.failed
        let due := s.remote.filter fun r => lost r && !r.op.returns
        let rest := s.remote.filterMap fun r => if lost r then (if r.op.returns then some { r with failed := true } else none) else some r
        let t := { s.setPort port { p with state := 4, sent := [] } with remote := rest }
        let t := due.foldl State.failRemote t
        .next ((if s.portFor == some port then t.failGroups else t).setErr 8)

end Sys2Proof.Machine
end

