-- ==== Sys2Proof/Machine/Integer.lean ====
section
/-! DEFINITION. Integer and address instructions, compare, select and predicates (R72 to R80). -/

namespace Sys2Proof.Machine

/-- Quotient and remainder of R74. -/
def divS (a b : Word) : Word := if b == 0 then 0xFFFFFFFFFFFFFFFF else a.sdiv b
def divU (a b : Word) : Word := if b == 0 then 0xFFFFFFFFFFFFFFFF else a / b
def remS (a b : Word) : Word := if b == 0 then a else a.srem b
def remU (a b : Word) : Word := if b == 0 then a else a % b

/-- High halves of the 128-bit products (R73). -/
def mulHiS (a b : Word) : Word := (a.signExtend 128 * b.signExtend 128).extractLsb' 64 64
def mulHiU (a b : Word) : Word := (a.setWidth 128 * b.setWidth 128).extractLsb' 64 64

/-- A rotation to the right by n below 64 (R75). -/
def rotR (a : Word) (n : Nat) : Word := if n == 0 then a else (a >>> n) ||| (a <<< (64 - n))

/-- The shift amount of the register form: g[b][5:0] (R75). -/
def amount (b : Word) : Nat := b.toNat % 64

/-- Leading zeros and ones of a word (R73). -/
def clz64 (a : Word) : Nat := 64 - bitLenAux 64 a.toNat
def popAux : Nat → Nat → Nat
  | 0, _ => 0
  | k + 1, n => n % 2 + popAux k (n / 2)
def pop64 (a : Word) : Nat := popAux 64 a.toNat

/-- MASK(w): w low ones, a w above 64 counting as 64 (R76). -/
def mask (w : Nat) : Word := BitVec.ofNat 64 (2 ^ min w 64 - 1)

/-- BFX (R76): the field of w bits from bit p, zero- or sign-extended from its top bit. -/
def bfxField (sx : Bool) (a b c : Word) : Word :=
  let p := b.toNat % 64
  let w := min (c.toNat % 128) 64
  if w == 0 then 0
  else
    let f := (a >>> p) &&& mask w
    if sx && f.getLsbD (w - 1) then f ||| ~~~mask w else f
/-- BFI (R76): the old destination with the field of w bits from bit p replaced. -/
def bfiField (d a b c : Word) : Word :=
  let p := b.toNat % 64
  let w := min (c.toNat % 128) 64
  let m := mask w <<< p
  (d &&& ~~~m) ||| ((a <<< p) &&& m)

def minS (a b : Word) : Word := if b.slt a then b else a
def maxS (a b : Word) : Word := if a.slt b then b else a
def minU (a b : Word) : Word := if b.ult a then b else a
def maxU (a b : Word) : Word := if a.ult b then b else a

/-- An instruction that writes g[d] from the task's registers (R73: every source is read before the write). -/
def writes (i : Instr) (g : Guard) (d : Reg) (f : Ctx → Word) (s : State) : Out := simple i g s fun x => x.setG d (f x)
/-- An instruction of two register sources. -/
def binary (i : Instr) (g : Guard) (d a b : Reg) (f : Word → Word → Word) (s : State) : Out :=
  writes i g d (fun x => f (x.g a) (x.g b)) s

def execAdd (g : Guard) (d a b : Reg) (s : State) : Out := binary (.add g d a b) g d a b (· + ·) s
def execSub (g : Guard) (d a b : Reg) (s : State) : Out := binary (.sub g d a b) g d a b (· - ·) s
def execMul (g : Guard) (d a b : Reg) (s : State) : Out := binary (.mul g d a b) g d a b (· * ·) s
def execMulh (g : Guard) (d a b : Reg) (s : State) : Out := binary (.mulh g d a b) g d a b mulHiS s
def execMulhz (g : Guard) (d a b : Reg) (s : State) : Out := binary (.mulhz g d a b) g d a b mulHiU s
def execDiv (g : Guard) (d a b : Reg) (s : State) : Out := binary (.div g d a b) g d a b divS s
def execDivz (g : Guard) (d a b : Reg) (s : State) : Out := binary (.divz g d a b) g d a b divU s
def execRem (g : Guard) (d a b : Reg) (s : State) : Out := binary (.rem g d a b) g d a b remS s
def execRemz (g : Guard) (d a b : Reg) (s : State) : Out := binary (.remz g d a b) g d a b remU s
def execAnd (g : Guard) (d a b : Reg) (s : State) : Out := binary (.and g d a b) g d a b (· &&& ·) s
def execOr (g : Guard) (d a b : Reg) (s : State) : Out := binary (.or g d a b) g d a b (· ||| ·) s
def execXor (g : Guard) (d a b : Reg) (s : State) : Out := binary (.xor g d a b) g d a b (· ^^^ ·) s
def execAndn (g : Guard) (d a b : Reg) (s : State) : Out := binary (.andn g d a b) g d a b (fun p q => p &&& ~~~q) s
def execShlReg (g : Guard) (d a b : Reg) (s : State) : Out := binary (.shlReg g d a b) g d a b (fun p q => p <<< amount q) s
def execShlImm (g : Guard) (d a : Reg) (n : BitVec 6) (s : State) : Out :=
  writes (.shlImm g d a n) g d (fun x => x.g a <<< n.toNat) s
def execShrReg (g : Guard) (d a b : Reg) (s : State) : Out := binary (.shrReg g d a b) g d a b (fun p q => p >>> amount q) s
def execShrImm (g : Guard) (d a : Reg) (n : BitVec 6) (s : State) : Out :=
  writes (.shrImm g d a n) g d (fun x => x.g a >>> n.toNat) s
def execShaReg (g : Guard) (d a b : Reg) (s : State) : Out :=
  binary (.shaReg g d a b) g d a b (fun p q => p.sshiftRight (amount q)) s
def execShaImm (g : Guard) (d a : Reg) (n : BitVec 6) (s : State) : Out :=
  writes (.shaImm g d a n) g d (fun x => (x.g a).sshiftRight n.toNat) s
def execRotReg (g : Guard) (d a b : Reg) (s : State) : Out := binary (.rotReg g d a b) g d a b (fun p q => rotR p (amount q)) s
def execRotImm (g : Guard) (d a : Reg) (n : BitVec 6) (s : State) : Out :=
  writes (.rotImm g d a n) g d (fun x => rotR (x.g a) n.toNat) s
def execMin (g : Guard) (d a b : Reg) (s : State) : Out := binary (.min g d a b) g d a b minS s
def execMax (g : Guard) (d a b : Reg) (s : State) : Out := binary (.max g d a b) g d a b maxS s
def execMinz (g : Guard) (d a b : Reg) (s : State) : Out := binary (.minz g d a b) g d a b minU s
def execMaxz (g : Guard) (d a b : Reg) (s : State) : Out := binary (.maxz g d a b) g d a b maxU s
def execClz (g : Guard) (d a : Reg) (s : State) : Out := writes (.clz g d a) g d (fun x => BitVec.ofNat 64 (clz64 (x.g a))) s
def execPopc (g : Guard) (d a : Reg) (s : State) : Out := writes (.popc g d a) g d (fun x => BitVec.ofNat 64 (pop64 (x.g a))) s
def execBfx (g : Guard) (d a b c : Reg) (s : State) : Out :=
  writes (.bfx g d a b c) g d (fun x => bfxField false (x.g a) (x.g b) (x.g c)) s
def execBfxS (g : Guard) (d a b c : Reg) (s : State) : Out :=
  writes (.bfxS g d a b c) g d (fun x => bfxField true (x.g a) (x.g b) (x.g c)) s
def execBfi (g : Guard) (d a b c : Reg) (s : State) : Out :=
  writes (.bfi g d a b c) g d (fun x => bfiField (x.g d) (x.g a) (x.g b) (x.g c)) s
def execAddsh (g : Guard) (d a b : Reg) (n : BitVec 6) (s : State) : Out :=
  writes (.addsh g d a b n) g d (fun x => x.g a + (x.g b <<< n.toNat)) s
def execMad (g : Guard) (d a b c : Reg) (s : State) : Out :=
  writes (.mad g d a b c) g d (fun x => x.g a * x.g b + x.g c) s
def execSel (g : Guard) (d : Reg) (pc : Pred) (a b : Reg) (s : State) : Out :=
  writes (.sel g d pc a b) g d (fun x => if x.p pc then x.g a else x.g b) s
/-- MOVI, MOVHI and ADDI (R77). -/
def execMovi (g : Guard) (d : Reg) (imm : BitVec 32) (s : State) : Out := writes (.movi g d imm) g d (fun _ => imm.signExtend 64) s
def execMovhi (g : Guard) (d : Reg) (imm : BitVec 32) (s : State) : Out :=
  writes (.movhi g d imm) g d (fun x => imm ++ (x.g d).extractLsb' 0 32) s
def execAddi (g : Guard) (d a : Reg) (imm : BitVec 32) (s : State) : Out :=
  writes (.addi g d a imm) g d (fun x => x.g a + imm.signExtend 64) s
/-- CMP writes a predicate (R78); a write to p0 is discarded. -/
def execCmp (g : Guard) (pd : Pred) (a b : Reg) (cond : Cond) (s : State) : Out :=
  simple (.cmp g pd a b cond) g s fun x => x.setP pd (condHolds cond (x.g a) (x.g b))
/-- PAND, POR and PNOT (R80). -/
def execPand (g : Guard) (pd pa pb : Pred) (na nb : Bool) (s : State) : Out :=
  simple (.pand g pd pa pb na nb) g s fun x => x.setP pd ((x.p pa ^^ na) && (x.p pb ^^ nb))
def execPor (g : Guard) (pd pa pb : Pred) (na nb : Bool) (s : State) : Out :=
  simple (.por g pd pa pb na nb) g s fun x => x.setP pd ((x.p pa ^^ na) || (x.p pb ^^ nb))
def execPnot (g : Guard) (pd pa : Pred) (s : State) : Out := simple (.pnot g pd pa) g s fun x => x.setP pd (!x.p pa)

end Sys2Proof.Machine
end

