-- ==== Sys2Proof/Machine/Power.lean ====
section
/-! DEFINITION. Start-up, twilight mode, power and islands (R22, R458 to R460, R463). -/

namespace Sys2Proof

/-- The voltage of an island at a clock, in mV: no rule gives one (R22; log entry 26). -/
opaque Config.voltage : Nat → Nat → Nat

namespace Machine

/-! Islands (R22). Which number names which island is the model's choice: cluster k has island k, and the uncore and the memory interface
of die d have islands 160 + d and 164 + d (log entry 26). -/

/-- The 168 voltage and frequency islands. -/
inductive Island where
  | cluster (c : Nat)
  | uncore (die : Nat)
  | memory (die : Nat)
  deriving DecidableEq, Repr

def Island.ofNumber (n : Nat) : Option Island :=
  if n < 160 then some (.cluster n) else if n < 164 then some (.uncore (n - 160)) else if n < 168 then some (.memory (n - 164)) else none
def Island.die : Island → Nat
  | .cluster c => clusterDie c
  | .uncore d => d
  | .memory d => d
/-- The nominal clock in MHz: 700 for a cluster and 1,400 for the memory network of an uncore (R2); for a memory interface no rule gives
one, and the model takes 1,400 (log entry 26). -/
def Island.nominal : Island → Nat
  | .cluster _ => 700
  | .uncore _ | .memory _ => 1400
/-- Steps of 50 MHz between the nominal clock and 350 MHz. -/
def Island.steps (i : Island) : Nat := (i.nominal - 350) / 50
/-- The clock of an island in MHz, and its voltage. -/
def State.clockOf (s : State) (n : Nat) : Nat :=
  match Island.ofNumber n with
  | some i => i.nominal - 50 * (tabGet s.islands n).getD 0
  | none => 0
def State.voltageOf (s : State) (n : Nat) : Nat := Config.voltage n ((tabGet s.islands n).getD 0)

/-- A start has failed at a step: the count rises and the P640 starts again (R458). -/
def State.startFailed (s : State) (step : BitVec 4) : State := { s with reason := step }.begin (s.failedStarts + 1)
/-- A twilight start has failed: the hold, with no partition (R460). -/
def State.hold (s : State) (step : BitVec 4) (ucie0 : Bool) : State :=
  { s with power := .hold, reason := step, trained := ucie0, parts := [], cores := [] }

/-- POWER_ON_START (R458): power has come to a device that was off. -/
def execPowerOnStart (s : State) : Out := if s.power == .off then .next (s.begin s.failedStarts) else .next s
/-- START_TIMEOUT: 2 s have passed; reason 8. -/
def execStartTimeout (s : State) : Out :=
  match s.power with
  | .starting => .next (s.startFailed 8)
  | .twilightStarting => .next (s.hold 8 false)
  | .off | .normal | .twilight | .hold => .next s
/-- A port after Druat training: ACTIVE with its lanes, of which it has 4 (R2), or DOWN. -/
def trainedPort (lanes : BitVec 8) : DruatPort :=
  if lanes == 0 then DruatPort.down else { DruatPort.down with state := 2, lanes := if 4 < lanes then 4 else lanes }
/-- START_COMPLETE (R458): a normal start succeeds, which sets the count to 0, or fails at a step. -/
def execStartComplete (failed : Option (BitVec 4)) (lanes : List (BitVec 8)) (s : State) : Out :=
  if s.power != .starting then .next s
  else match failed with
    | some step => .next (s.startFailed step)
    | none => .next { s with
        power := .normal, trained := true, failedStarts := 0
        ports := (List.range 48).foldl (fun t k => tabPut t k (trainedPort ((lanes[k]?).getD 0))) s.ports }
/-- TWILIGHT_START (R459, R460): die 0 alone, every port DISABLED; or the hold. -/
def execTwilightStart (ok : Bool) (step : BitVec 4) (ucie0 : Bool) (s : State) : Out :=
  if s.power != .twilightStarting then .next s
  else if !(ok && ucie0) then .next (s.hold step ucie0)
  else .next { s with
    power := .twilight, trained := true
    ports := (List.range 48).foldl (fun t k => tabPut t k { DruatPort.down with state := 5 }) s.ports
    islands := (List.range 160).foldl (fun t k => if clusterDie k == 0 then tabPut t k (Island.cluster k).steps else t) s.islands }
/-- TWILIGHT_RETRY (R460): in a hold that no module serves, the twilight start is tried again. -/
def execTwilightRetry (s : State) : Out :=
  if s.power == .hold && !s.trained then .next { s with power := .twilightStarting, starts := s.starts + 1 } else .next s
/-- The power controller may move the clock of an island: in twilight mode the arithmetic clock stays at 350 MHz, and only die 0 is present
(R459). -/
def State.mayStep (s : State) (i : Island) : Bool :=
  s.power != .twilight || (i.die == 0 && match i with | .cluster _ => false | .uncore _ | .memory _ => true)
/-- POWER_STEP (R463): one step of 50 MHz down, no lower than 350 MHz, or up, no higher than the nominal clock. -/
def execPowerStep (island : Nat) (up : Bool) (s : State) : Out :=
  if !s.alive then .next s
  else match Island.ofNumber island with
    | none => .next s
    | some i =>
      if !s.mayStep i then .next s
      else
        let k := (tabGet s.islands island).getD 0
        let k' := if up then k - 1 else if k < i.steps then k + 1 else k
        .next { s with islands := if k' == 0 then tabDel s.islands island else tabPut s.islands island k' }
/-- POWER_LOSS (R458): the device stops; the package keeps the failed-start count and the count of starts. -/
def execPowerLoss (s : State) : Out :=
  .next { State.reset with
    agenda := s.agenda, tick := s.tick, nextId := s.nextId, hostOut := s.hostOut, starts := s.starts, failedStarts := s.failedStarts
    reason := s.reason, power := .off, trained := false }
/-- TRAY_POWER_LIMIT (R463, R465). -/
def execTrayPowerLimit (w : BitVec 16) (s : State) : Out := .next { s with pwrLim := w }

end Machine

end Sys2Proof
end

