-- ==== Sys2Proof/Machine/Dispatch.lean ====
section
/-! DEFINITION. One arm per instruction: its meaning. -/

namespace Sys2Proof.Machine

/-- The effect of one instruction. -/
def exec (i : Instr) (s : State) : Host.Outcome State Fault Refusal :=
  match i with
  | .add g d a b => Sys2Proof.Machine.execAdd g d a b s
  | .sub g d a b => Sys2Proof.Machine.execSub g d a b s
  | .mul g d a b => Sys2Proof.Machine.execMul g d a b s
  | .mulh g d a b => Sys2Proof.Machine.execMulh g d a b s
  | .mulhz g d a b => Sys2Proof.Machine.execMulhz g d a b s
  | .div g d a b => Sys2Proof.Machine.execDiv g d a b s
  | .divz g d a b => Sys2Proof.Machine.execDivz g d a b s
  | .rem g d a b => Sys2Proof.Machine.execRem g d a b s
  | .remz g d a b => Sys2Proof.Machine.execRemz g d a b s
  | .and g d a b => Sys2Proof.Machine.execAnd g d a b s
  | .or g d a b => Sys2Proof.Machine.execOr g d a b s
  | .xor g d a b => Sys2Proof.Machine.execXor g d a b s
  | .andn g d a b => Sys2Proof.Machine.execAndn g d a b s
  | .shlReg g d a b => Sys2Proof.Machine.execShlReg g d a b s
  | .shlImm g d a n => Sys2Proof.Machine.execShlImm g d a n s
  | .shrReg g d a b => Sys2Proof.Machine.execShrReg g d a b s
  | .shrImm g d a n => Sys2Proof.Machine.execShrImm g d a n s
  | .shaReg g d a b => Sys2Proof.Machine.execShaReg g d a b s
  | .shaImm g d a n => Sys2Proof.Machine.execShaImm g d a n s
  | .rotReg g d a b => Sys2Proof.Machine.execRotReg g d a b s
  | .rotImm g d a n => Sys2Proof.Machine.execRotImm g d a n s
  | .min g d a b => Sys2Proof.Machine.execMin g d a b s
  | .max g d a b => Sys2Proof.Machine.execMax g d a b s
  | .minz g d a b => Sys2Proof.Machine.execMinz g d a b s
  | .maxz g d a b => Sys2Proof.Machine.execMaxz g d a b s
  | .clz g d a => Sys2Proof.Machine.execClz g d a s
  | .popc g d a => Sys2Proof.Machine.execPopc g d a s
  | .bfx g d a b c => Sys2Proof.Machine.execBfx g d a b c s
  | .bfxS g d a b c => Sys2Proof.Machine.execBfxS g d a b c s
  | .bfi g d a b c => Sys2Proof.Machine.execBfi g d a b c s
  | .addsh g d a b n => Sys2Proof.Machine.execAddsh g d a b n s
  | .mad g d a b c => Sys2Proof.Machine.execMad g d a b c s
  | .cmp g pd a b cond => Sys2Proof.Machine.execCmp g pd a b cond s
  | .sel g d pc a b => Sys2Proof.Machine.execSel g d pc a b s
  | .movi g d imm => Sys2Proof.Machine.execMovi g d imm s
  | .movhi g d imm => Sys2Proof.Machine.execMovhi g d imm s
  | .addi g d a imm => Sys2Proof.Machine.execAddi g d a imm s
  | .pand g pd pa pb na nb => Sys2Proof.Machine.execPand g pd pa pb na nb s
  | .por g pd pa pb na nb => Sys2Proof.Machine.execPor g pd pa pb na nb s
  | .pnot g pd pa => Sys2Proof.Machine.execPnot g pd pa s
  | .br g off => Sys2Proof.Machine.execBr g off s
  | .jal g off => Sys2Proof.Machine.execJal g off s
  | .jr g d a => Sys2Proof.Machine.execJr g d a s
  | .brcL1 g off => Sys2Proof.Machine.execBrcL1 g off s
  | .brcAll g off => Sys2Proof.Machine.execBrcAll g off s
  | .loop g lvl1 a len => Sys2Proof.Machine.execLoop g lvl1 a len s
  | .loopi g lvl1 len cnt => Sys2Proof.Machine.execLoopi g lvl1 len cnt s
  | .nop g => Sys2Proof.Machine.execNop g s
  | .ld g d m sp sx sz => Sys2Proof.Machine.execLd g d m sp sx sz s
  | .st g d m sp sz => Sys2Proof.Machine.execSt g d m sp sz s
  | .csrr g d n => Sys2Proof.Machine.execCsrr g d n s
  | .csrw g n a => Sys2Proof.Machine.execCsrw g n a s
  | .csrwSet g n a => Sys2Proof.Machine.execCsrwSet g n a s
  | .csrwClr g n a => Sys2Proof.Machine.execCsrwClr g n a s
  | .trap g code => Sys2Proof.Machine.execTrap g code s
  | .eret g => Sys2Proof.Machine.execEret g s
  | .eretTask g => Sys2Proof.Machine.execEretTask g s
  | .wfe g limit => Sys2Proof.Machine.execWfe g limit s
  | .sevAll g => Sys2Proof.Machine.execSevAll g s
  | .sevOne g core => Sys2Proof.Machine.execSevOne g core s
  | .sevClus g => Sys2Proof.Machine.execSevClus g s
  | .hintSpin g => Sys2Proof.Machine.execHintSpin g s
  | .hintPf g off => Sys2Proof.Machine.execHintPf g off s
  | .mma g d a b c ty bt => Sys2Proof.Machine.execMma g d a b c ty bt s
  | .mmas g d a b c ty bt => Sys2Proof.Machine.execMmas g d a b c ty bt s
  | .prune g d a b c ty bt => Sys2Proof.Machine.execPrune g d a b c ty bt s
  | .mzero g d => Sys2Proof.Machine.execMzero g d s
  | .mld g d a ty rnd => Sys2Proof.Machine.execMld g d a ty rnd s
  | .mst g d a ty rnd sat => Sys2Proof.Machine.execMst g d a ty rnd sat s
  | .aadd g d a b form rnd sat => Sys2Proof.Machine.execAadd g d a b form rnd sat s
  | .amul g d a b form rnd sat => Sys2Proof.Machine.execAmul g d a b form rnd sat s
  | .afma g d a b c form rnd sat => Sys2Proof.Machine.execAfma g d a b c form rnd sat s
  | .amax g d a b form => Sys2Proof.Machine.execAmax g d a b form s
  | .amin g d a b form => Sys2Proof.Machine.execAmin g d a b form s
  | .aexp2 g d a sat => Sys2Proof.Machine.execAexp2 g d a sat s
  | .alog2 g d a sat => Sys2Proof.Machine.execAlog2 g d a sat s
  | .arcp g d a sat => Sys2Proof.Machine.execArcp g d a sat s
  | .arsq g d a sat => Sys2Proof.Machine.execArsq g d a sat s
  | .asig g d a sat => Sys2Proof.Machine.execAsig g d a sat s
  | .asigTanh g d a sat => Sys2Proof.Machine.execAsigTanh g d a sat s
  | .asigSilu g d a sat => Sys2Proof.Machine.execAsigSilu g d a sat s
  | .asigExpe g d a sat => Sys2Proof.Machine.execAsigExpe g d a sat s
  | .aredSum g d a rnd sat => Sys2Proof.Machine.execAredSum g d a rnd sat s
  | .aredMax g d a => Sys2Proof.Machine.execAredMax g d a s
  | .aredMin g d a => Sys2Proof.Machine.execAredMin g d a s
  | .abcast g d a => Sys2Proof.Machine.execAbcast g d a s
  | .abcastRow g d a ty => Sys2Proof.Machine.execAbcastRow g d a ty s
  | .abcastColv g d a ty => Sys2Proof.Machine.execAbcastColv g d a ty s
  | .amov g d a => Sys2Proof.Machine.execAmov g d a s
  | .acvt g d a b ty rnd sat => Sys2Proof.Machine.execAcvt g d a b ty rnd sat s
  | .acvtB32 g d a b ty rnd sat => Sys2Proof.Machine.execAcvtB32 g d a b ty rnd sat s
  | .rngld g a b => Sys2Proof.Machine.execRngld g a b s
  | .rngst g d b => Sys2Proof.Machine.execRngst g d b s
  | .rand g d => Sys2Proof.Machine.execRand g d s
  | .abind g slot a b lse => Sys2Proof.Machine.execAbind g slot a b lse s
  | .attn g slot d a b c tri => Sys2Proof.Machine.execAttn g slot d a b c tri s
  | .tmerge g d a b => Sys2Proof.Machine.execTmerge g d a b s
  | .kvmap g d a b => Sys2Proof.Machine.execKvmap g d a b s
  | .kvapp g a b c => Sys2Proof.Machine.execKvapp g a b c s
  | .kvfork g d a => Sys2Proof.Machine.execKvfork g d a s
  | .kvforkCow g d a => Sys2Proof.Machine.execKvforkCow g d a s
  | .kvtrunc g a b => Sys2Proof.Machine.execKvtrunc g a b s
  | .kvrel g a => Sys2Proof.Machine.execKvrel g a s
  | .kvret g a b c => Sys2Proof.Machine.execKvret g a b c s
  | .kvcompact g a b c => Sys2Proof.Machine.execKvcompact g a b c s
  | .kvqLen g d a => Sys2Proof.Machine.execKvqLen g d a s
  | .kvqMap g d a => Sys2Proof.Machine.execKvqMap g d a s
  | .kvqFrame g d a => Sys2Proof.Machine.execKvqFrame g d a s
  | .kvqState g d a => Sys2Proof.Machine.execKvqState g d a s
  | .pxlkp g d a b => Sys2Proof.Machine.execPxlkp g d a b s
  | .pxlkpDrop g d a b => Sys2Proof.Machine.execPxlkpDrop g d a b s
  | .pxins g d a b => Sys2Proof.Machine.execPxins g d a b s
  | .cfg g a => Sys2Proof.Machine.execCfg g a s
  | .cfgStg g a => Sys2Proof.Machine.execCfgStg g a s
  | .cfgsw g => Sys2Proof.Machine.execCfgsw g s
  | .strm g port a b c mode ty sc sp => Sys2Proof.Machine.execStrm g port a b c mode ty sc sp s
  | .sbar g a => Sys2Proof.Machine.execSbar g a s
  | .sbarOrd g a => Sys2Proof.Machine.execSbarOrd g a s
  | .btok g a id gm => Sys2Proof.Machine.execBtok g a id gm s
  | .argw g op a => Sys2Proof.Machine.execArgw g op a s
  | .tinj g ch a => Sys2Proof.Machine.execTinj g ch a s
  | .tpop g d ch => Sys2Proof.Machine.execTpop g d ch s
  | .fstat g d site => Sys2Proof.Machine.execFstat g d site s
  | .fstatAll g d => Sys2Proof.Machine.execFstatAll g d s
  | .slotf g a b sp => Sys2Proof.Machine.execSlotf g a b sp s
  | .cpyG2s g d a b c fe gm sc => Sys2Proof.Machine.execCpyG2s g d a b c fe gm sc s
  | .cpyS2g g d a b c gm sc => Sys2Proof.Machine.execCpyS2g g d a b c gm sc s
  | .cpyG2g g d a b c gm sc => Sys2Proof.Machine.execCpyG2g g d a b c gm sc s
  | .cpyS2s g d a b c fe gm sc => Sys2Proof.Machine.execCpyS2s g d a b c fe gm sc s
  | .cpyRing g a b gm => Sys2Proof.Machine.execCpyRing g a b gm s
  | .tbinit g a n gm => Sys2Proof.Machine.execTbinit g a n gm s
  | .tbexp g a b gm => Sys2Proof.Machine.execTbexp g a b gm s
  | .tbarr g a gm sc => Sys2Proof.Machine.execTbarr g a gm sc s
  | .tbwait g a ph gm sc => Sys2Proof.Machine.execTbwait g a ph gm sc s
  | .tbtest g pd a ph gm sc => Sys2Proof.Machine.execTbtest g pd a ph gm sc s
  | .amo g d m op dbl => Sys2Proof.Machine.execAmo g d m op dbl s
  | .red g d m op dbl => Sys2Proof.Machine.execRed g d m op dbl s
  | .amof g d m op sp dbl => Sys2Proof.Machine.execAmof g d m op sp dbl s
  | .cas g d a b c sp dbl => Sys2Proof.Machine.execCas g d a b c sp dbl s
  | .ldfe g d m clr sz => Sys2Proof.Machine.execLdfe g d m clr sz s
  | .stfe g d m sz => Sys2Proof.Machine.execStfe g d m sz s
  | .pref g m l2 sz => Sys2Proof.Machine.execPref g m l2 sz s
  | .fence g sc => Sys2Proof.Machine.execFence g sc s
  | .chainCpy g a b sc => Sys2Proof.Machine.execChainCpy g a b sc s
  | .chainColl g a b sc => Sys2Proof.Machine.execChainColl g a b sc s
  | .seqw g d a limit sp sc => Sys2Proof.Machine.execSeqw g d a limit sp sc s
  | .collSum g d a b c ty => Sys2Proof.Machine.execCollSum g d a b c ty s
  | .collMax g d a b c ty => Sys2Proof.Machine.execCollMax g d a b c ty s
  | .collMin g d a b c ty => Sys2Proof.Machine.execCollMin g d a b c ty s
  | .collBcast g d a b c ty => Sys2Proof.Machine.execCollBcast g d a b c ty s
  | .collAgath g d a b c ty => Sys2Proof.Machine.execCollAgath g d a b c ty s
  | .collRscat g d a b c ty => Sys2Proof.Machine.execCollRscat g d a b c ty s
  | .spl g slot a b c => Sys2Proof.Machine.execSpl g slot a b c s
  | .fil g slot a b => Sys2Proof.Machine.execFil g slot a b s
  | .bslice g d a ty e => Sys2Proof.Machine.execBslice g d a ty e s
  | .bjoin g d a ty e => Sys2Proof.Machine.execBjoin g d a ty e s
  | .lctx g slot a => Sys2Proof.Machine.execLctx g slot a s
  | .lsel g slot => Sys2Proof.Machine.execLsel g slot s
  | .lrun g => Sys2Proof.Machine.execLrun g s
  | .lstatPop g d a => Sys2Proof.Machine.execLstatPop g d a s
  | .lstatWord g d a q => Sys2Proof.Machine.execLstatWord g d a q s
  | .lstatSlot g d slot => Sys2Proof.Machine.execLstatSlot g d slot s
  | .lstatRuns g d => Sys2Proof.Machine.execLstatRuns g d s
  | .tenq g a b => Sys2Proof.Machine.execTenq g a b s
  | .launch g a => Sys2Proof.Machine.execLaunch g a s
  | .launchArg g a b => Sys2Proof.Machine.execLaunchArg g a b s
  | .gsig g a b => Sys2Proof.Machine.execGsig g a b s
  | .tend g => Sys2Proof.Machine.execTend g s
  | .tyield g => Sys2Proof.Machine.execTyield g s
  | .rinvTag g d a => Sys2Proof.Machine.execRinvTag g d a s
  | .rinvRange g d a b => Sys2Proof.Machine.execRinvRange g d a b s
  | .rinvAll g d => Sys2Proof.Machine.execRinvAll g d s
  | .rinvAsid g d a => Sys2Proof.Machine.execRinvAsid g d a s
  | .rstatLkp g d => Sys2Proof.Machine.execRstatLkp g d s
  | .rstatHit g d => Sys2Proof.Machine.execRstatHit g d s
  | .rstatMiss g d => Sys2Proof.Machine.execRstatMiss g d s
  | .rstatIns g d => Sys2Proof.Machine.execRstatIns g d s
  | .rstatProbe g d a => Sys2Proof.Machine.execRstatProbe g d a s
  | .rstatHeld g d => Sys2Proof.Machine.execRstatHeld g d s
  | .rstatQuota g d => Sys2Proof.Machine.execRstatQuota g d s
  | .illegalWord w => Sys2Proof.Machine.execIllegalWord w s
  | .instructionFetchFault prot sub => Sys2Proof.Machine.execInstructionFetchFault prot sub s
  | .registerWrite n v => Sys2Proof.Machine.execRegisterWrite n v s
  | .wfeTimeout c => Sys2Proof.Machine.execWfeTimeout c s
  | .sevDelivery => Sys2Proof.Machine.execSevDelivery s
  | .compactionDone die => Sys2Proof.Machine.execCompactionDone die s
  | .slabRelocationStep die k => Sys2Proof.Machine.execSlabRelocationStep die k s
  | .portReadAccess c p => Sys2Proof.Machine.execPortReadAccess c p s
  | .portGatherAccess c p => Sys2Proof.Machine.execPortGatherAccess c p s
  | .portWriteAccess c p => Sys2Proof.Machine.execPortWriteAccess c p s
  | .portReductionAccess c p => Sys2Proof.Machine.execPortReductionAccess c p s
  | .portCondition c p => Sys2Proof.Machine.execPortCondition c p s
  | .speculativeFetch c p => Sys2Proof.Machine.execSpeculativeFetch c p s
  | .portBarArrival c p => Sys2Proof.Machine.execPortBarArrival c p s
  | .portDoneToken c p => Sys2Proof.Machine.execPortDoneToken c p s
  | .portRetry c p => Sys2Proof.Machine.execPortRetry c p s
  | .relatchToken c site => Sys2Proof.Machine.execRelatchToken c site s
  | .inputPacketExpand c site ch => Sys2Proof.Machine.execInputPacketExpand c site ch s
  | .cfgkConsume c e ch => Sys2Proof.Machine.execCfgkConsume c e ch s
  | .repeatBlock c o => Sys2Proof.Machine.execRepeatBlock c o s
  | .mergeIsect c o => Sys2Proof.Machine.execMergeIsect c o s
  | .mergeUnion c o => Sys2Proof.Machine.execMergeUnion c o s
  | .mergeChk c o => Sys2Proof.Machine.execMergeChk c o s
  | .radix c o => Sys2Proof.Machine.execRadix c o s
  | .gate c o => Sys2Proof.Machine.execGate c o s
  | .select c o => Sys2Proof.Machine.execSelect c o s
  | .stat c o => Sys2Proof.Machine.execStat c o s
  | .xlat c o => Sys2Proof.Machine.execXlat c o s
  | .cbdec c o => Sys2Proof.Machine.execCbdec c o s
  | .delta c o => Sys2Proof.Machine.execDelta c o s
  | .fconv c o => Sys2Proof.Machine.execFconv c o s
  | .rle c o => Sys2Proof.Machine.execRle c o s
  | .transp c o => Sys2Proof.Machine.execTransp c o s
  | .mov c e => Sys2Proof.Machine.execMov c e s
  | .iadd c e => Sys2Proof.Machine.execIadd c e s
  | .isub c e => Sys2Proof.Machine.execIsub c e s
  | .imul c e => Sys2Proof.Machine.execImul c e s
  | .imad c e => Sys2Proof.Machine.execImad c e s
  | .iand c e => Sys2Proof.Machine.execIand c e s
  | .ior c e => Sys2Proof.Machine.execIor c e s
  | .ixor c e => Sys2Proof.Machine.execIxor c e s
  | .ishl c e => Sys2Proof.Machine.execIshl c e s
  | .ishr c e => Sys2Proof.Machine.execIshr c e s
  | .isra c e => Sys2Proof.Machine.execIsra c e s
  | .imin c e => Sys2Proof.Machine.execImin c e s
  | .imax c e => Sys2Proof.Machine.execImax c e s
  | .icmp c e => Sys2Proof.Machine.execIcmp c e s
  | .elemSel c e => Sys2Proof.Machine.execElemSel c e s
  | .cmpc c e => Sys2Proof.Machine.execCmpc c e s
  | .deq c e => Sys2Proof.Machine.execDeq c e s
  | .emit c e => Sys2Proof.Machine.execEmit c e s
  | .fadd c e => Sys2Proof.Machine.execFadd c e s
  | .fsub c e => Sys2Proof.Machine.execFsub c e s
  | .fmul c e => Sys2Proof.Machine.execFmul c e s
  | .ffma c e => Sys2Proof.Machine.execFfma c e s
  | .fmin c e => Sys2Proof.Machine.execFmin c e s
  | .fmax c e => Sys2Proof.Machine.execFmax c e s
  | .fcmp c e => Sys2Proof.Machine.execFcmp c e s
  | .fexp2 c e => Sys2Proof.Machine.execFexp2 c e s
  | .frcp c e => Sys2Proof.Machine.execFrcp c e s
  | .fcvtF32Bf16 c e => Sys2Proof.Machine.execFcvtF32Bf16 c e s
  | .fcvtF32F16 c e => Sys2Proof.Machine.execFcvtF32F16 c e s
  | .fcvtF32E4m3 c e => Sys2Proof.Machine.execFcvtF32E4m3 c e s
  | .fcvtF32E5m2 c e => Sys2Proof.Machine.execFcvtF32E5m2 c e s
  | .fcvtF32E2m1 c e => Sys2Proof.Machine.execFcvtF32E2m1 c e s
  | .fcvtF32S32 c e => Sys2Proof.Machine.execFcvtF32S32 c e s
  | .fcvtF32Z32 c e => Sys2Proof.Machine.execFcvtF32Z32 c e s
  | .fcvtBf16F32 c e => Sys2Proof.Machine.execFcvtBf16F32 c e s
  | .fcvtF16F32 c e => Sys2Proof.Machine.execFcvtF16F32 c e s
  | .fcvtE4m3F32 c e => Sys2Proof.Machine.execFcvtE4m3F32 c e s
  | .fcvtE5m2F32 c e => Sys2Proof.Machine.execFcvtE5m2F32 c e s
  | .fcvtE2m1F32 c e => Sys2Proof.Machine.execFcvtE2m1F32 c e s
  | .fcvtS32F32 c e => Sys2Proof.Machine.execFcvtS32F32 c e s
  | .fcvtZ32F32 c e => Sys2Proof.Machine.execFcvtZ32F32 c e s
  | .vaddBf16 c e => Sys2Proof.Machine.execVaddBf16 c e s
  | .vmulBf16 c e => Sys2Proof.Machine.execVmulBf16 c e s
  | .vfmaBf16 c e => Sys2Proof.Machine.execVfmaBf16 c e s
  | .vaddF16 c e => Sys2Proof.Machine.execVaddF16 c e s
  | .vmulF16 c e => Sys2Proof.Machine.execVmulF16 c e s
  | .vfmaF16 c e => Sys2Proof.Machine.execVfmaF16 c e s
  | .vaddS16 c e => Sys2Proof.Machine.execVaddS16 c e s
  | .vmulS16 c e => Sys2Proof.Machine.execVmulS16 c e s
  | .vaddS8 c e => Sys2Proof.Machine.execVaddS8 c e s
  | .vmulS8 c e => Sys2Proof.Machine.execVmulS8 c e s
  | .copySectorWrite c k sector => Sys2Proof.Machine.execCopySectorWrite c k sector s
  | .copySectorRetry c k sector => Sys2Proof.Machine.execCopySectorRetry c k sector s
  | .ringSlotCopy c k => Sys2Proof.Machine.execRingSlotCopy c k s
  | .updateOnlyEvict c line => Sys2Proof.Machine.execUpdateOnlyEvict c line s
  | .chainEntryComplete c k => Sys2Proof.Machine.execChainEntryComplete c k s
  | .seqwTimeout c => Sys2Proof.Machine.execSeqwTimeout c s
  | .tableLoadEntry c slot entry => Sys2Proof.Machine.execTableLoadEntry c slot entry s
  | .dispatch p => Sys2Proof.Machine.execDispatch p s
  | .reuseLookup p node asid => Sys2Proof.Machine.execReuseLookup p node asid s
  | .schedulerDusk p => Sys2Proof.Machine.execSchedulerDusk p s
  | .tyieldAgeExpiry c => Sys2Proof.Machine.execTyieldAgeExpiry c s
  | .asyncTrap c => Sys2Proof.Machine.execAsyncTrap c s
  | .prtInv v => Sys2Proof.Machine.execPrtInv v s
  | .invalidationComplete p => Sys2Proof.Machine.execInvalidationComplete p s
  | .popMigrate asid => Sys2Proof.Machine.execPopMigrate asid s
  | .popDuplicate asid => Sys2Proof.Machine.execPopDuplicate asid s
  | .popCollapse asid => Sys2Proof.Machine.execPopCollapse asid s
  | .pageOperationComplete p => Sys2Proof.Machine.execPageOperationComplete p s
  | .drainTimerExpiry c => Sys2Proof.Machine.execDrainTimerExpiry c s
  | .drainTimeout c => Sys2Proof.Machine.execDrainTimeout c s
  | .tcmdResume => Sys2Proof.Machine.execTcmdResume s
  | .tcmdEnd => Sys2Proof.Machine.execTcmdEnd s
  | .hotvalRead d => Sys2Proof.Machine.execHotvalRead d s
  | .frrEnable v => Sys2Proof.Machine.execFrrEnable v s
  | .frrDisable v => Sys2Proof.Machine.execFrrDisable v s
  | .schQuotaWrite v => Sys2Proof.Machine.execSchQuotaWrite v s
  | .prtDusk => Sys2Proof.Machine.execPrtDusk s
  | .duskStart c => Sys2Proof.Machine.execDuskStart c s
  | .markerPass c site => Sys2Proof.Machine.execMarkerPass c site s
  | .writePortDrain c p => Sys2Proof.Machine.execWritePortDrain c p s
  | .foreignMarkArrival c site ch => Sys2Proof.Machine.execForeignMarkArrival c site ch s
  | .setSwap c => Sys2Proof.Machine.execSetSwap c s
  | .taskResume c => Sys2Proof.Machine.execTaskResume c s
  | .prtRsz v => Sys2Proof.Machine.execPrtRsz v s
  | .clusterRemovalComplete p cl => Sys2Proof.Machine.execClusterRemovalComplete p cl s
  | .prtMove v => Sys2Proof.Machine.execPrtMove v s
  | .ticketExport => Sys2Proof.Machine.execTicketExport s
  | .ticketImport asid => Sys2Proof.Machine.execTicketImport asid s
  | .doorbell p t => Sys2Proof.Machine.execDoorbell p t s
  | .ringEntryNop p => Sys2Proof.Machine.execRingEntryNop p s
  | .ringEntryGraph p => Sys2Proof.Machine.execRingEntryGraph p s
  | .ringEntryRecord p => Sys2Proof.Machine.execRingEntryRecord p s
  | .daybreak tag => Sys2Proof.Machine.execDaybreak tag s
  | .partCreate tag args => Sys2Proof.Machine.execPartCreate tag args s
  | .partDestroy tag p => Sys2Proof.Machine.execPartDestroy tag p s
  | .setTables tag atBase keyBase => Sys2Proof.Machine.execSetTables tag atBase keyBase s
  | .asidSync tag asid => Sys2Proof.Machine.execAsidSync tag asid s
  | .frrOwner tag range p => Sys2Proof.Machine.execFrrOwner tag range p s
  | .groupReg tag group members => Sys2Proof.Machine.execGroupReg tag group members s
  | .aperture tag n device enable => Sys2Proof.Machine.execAperture tag n device enable s
  | .ticketKey tag key => Sys2Proof.Machine.execTicketKey tag key s
  | .clusterMove tag p logical physical => Sys2Proof.Machine.execClusterMove tag p logical physical s
  | .reset tag clearCount => Sys2Proof.Machine.execReset tag clearCount s
  | .mailboxUnknown tag code => Sys2Proof.Machine.execMailboxUnknown tag code s
  | .hifErrClear v => Sys2Proof.Machine.execHifErrClear v s
  | .hostMemRequest req => Sys2Proof.Machine.execHostMemRequest req s
  | .hostWriteSnoop addr bytes => Sys2Proof.Machine.execHostWriteSnoop addr bytes s
  | .druatLoad port f => Sys2Proof.Machine.execDruatLoad port f s
  | .druatLoadResponse port f => Sys2Proof.Machine.execDruatLoadResponse port f s
  | .druatStore port f => Sys2Proof.Machine.execDruatStore port f s
  | .druatReduction port f op dbl => Sys2Proof.Machine.execDruatReduction port f op dbl s
  | .druatAcknowledge port f => Sys2Proof.Machine.execDruatAcknowledge port f s
  | .druatCollectiveStream port f group rank => Sys2Proof.Machine.execDruatCollectiveStream port f group rank s
  | .druatMigrationStream port f => Sys2Proof.Machine.execDruatMigrationStream port f s
  | .druatIdle port f => Sys2Proof.Machine.execDruatIdle port f s
  | .flitCrcFail port => Sys2Proof.Machine.execFlitCrcFail port s
  | .portRetrain port => Sys2Proof.Machine.execPortRetrain port s
  | .portFailed port => Sys2Proof.Machine.execPortFailed port s
  | .powerOnStart => Sys2Proof.Machine.execPowerOnStart s
  | .startTimeout => Sys2Proof.Machine.execStartTimeout s
  | .twilightStart ok step ucie0 => Sys2Proof.Machine.execTwilightStart ok step ucie0 s
  | .twilightRetry => Sys2Proof.Machine.execTwilightRetry s
  | .powerStep island up => Sys2Proof.Machine.execPowerStep island up s
  | .claimStreamDone c => Sys2Proof.Machine.execClaimStreamDone c s
  | .mailboxResultPosted => Sys2Proof.Machine.execMailboxResultPosted s
  | .startComplete failed lanes => Sys2Proof.Machine.execStartComplete failed lanes s
  | .retrainComplete port ok => Sys2Proof.Machine.execRetrainComplete port ok s
  | .hostCxlResponse r => Sys2Proof.Machine.execHostCxlResponse r s
  | .prtFqheadWrite v => Sys2Proof.Machine.execPrtFqheadWrite v s
  | .powerLoss => Sys2Proof.Machine.execPowerLoss s
  | .trayPowerLimit w => Sys2Proof.Machine.execTrayPowerLimit w s

end Sys2Proof.Machine
end

