-- ==== Sys2Proof/Machine/Move.lean ====
section
/-! DEFINITION. Fetching a word, the passing of time, which agent moves, and the loading of a program into an empty machine. -/

namespace Sys2Proof.Machine

/-- Time that passes during a step: the device's nanoseconds, which never fall, and the cycles of each task in a day set (R96, log
entry 4); the package power that HIF_PWR shows is what the sensors measure (R465, log entry 26). -/
def State.pass (s : State) : State :=
  { s with
    tick := s.tick + 1
    time := BitVec.ofNat 64 (min (2 ^ 64 - 1) (s.time.toNat + Config.elapsedNs s.tick))
    pwr := if s.alive then BitVec.ofNat 16 (packageWatts (16 * s.tick + 15)) else s.pwr
    cores := s.cores.map fun (n, c) => (n, { c with day := c.day.map fun x => { x with
      cycle := x.cycle + BitVec.ofNat 64 (Config.elapsedCycles (Config.cores * s.tick + n)) } }) }

/-- The moving core issues its next control word (R63): a fetch that fails takes its trap, and a word that is not accepted
takes ILLEGAL. A core that a dusk drains has stopped at its boundary (R437). A trap that another block has raised is taken at the boundary
before the next word (R253). -/
def State.issue (s : State) : Out :=
  match s.ctx with
  | none => .next s
  | some x =>
    if !(s.alive && x.issues) || (s.core s.cur).stopped x then .next s
    else if x.cond == .run && !x.traps.isEmpty && x.atBoundary then execAsyncTrap s.cur s
    else match s.fetch x with
      | .ok (t, w) => exec (instrOf w) t
      | .error (.trap t) =>
        let s := s.stampReads (s.me x) t.reads
        if t.code == .page || t.code == .prot then exec (.instructionFetchFault (t.code == .prot) t.sub) s
        else .next (s.takeTrap s.cur x t 0 x.pc false)
      | .error e => .next (s.interrupt x 0 e)

/-- Steps that an agent other than the moving core's program takes. Control words, and the effects a CSRW of the moving core
has, are reached through `State.issue` alone. -/
def fromOutside (i : Instr) : Bool :=
  match i with
  | .registerWrite _ _ | .prtInv _ | .popMigrate _ | .popDuplicate _ | .popCollapse _ | .tcmdResume | .tcmdEnd
  | .hotvalRead _ | .frrEnable _ | .frrDisable _ | .schQuotaWrite _ | .prtDusk | .prtRsz _ | .prtMove _ | .ticketExport
  | .ticketImport _ | .prtFqheadWrite _ | .illegalWord _ | .instructionFetchFault _ _ => false
  | i => encode i == 0

/-- A memory error (R464): one that is corrected changes its count alone; one that is not writes its line poisoned. -/
def State.memoryError (s : State) (pa : Nat) (corrected : Bool) : State :=
  if corrected then { s with errors := s.errors.set 0 (s.errors[0] + 1) }
  else if s.region pa != .hbm then s
  else { s with
    errors := s.errors.set 1 (s.errors[1] + 1)
    poison := (List.range 4).foldl (fun p k => setAdd p (4 * lineOf pa + k)) s.poison }

/-- One move: the next of the agenda, or the moving core (log entry 2). -/
def State.move (s : State) : Out :=
  match s.agenda with
  | [] => s.issue
  | .core n :: r => ({ s with agenda := r, cur := n }).issue
  | .memoryError pa corrected :: r => .next ({ s with agenda := r }.memoryError pa corrected)
  | .act i :: r => if fromOutside i then exec i { s with agenda := r } else .next { s with agenda := r }

/-- Core 0 runs a task of ASID 0 at virtual address 0, which page tables in memory map to physical page 0x3_0000 with every
permission; the word stands there (log entry 3). -/
def State.placed (s : State) (w : Word) : State :=
  let put := fun (m : Memory) (a v : Nat) => m.setBytes a (natLe 8 v)
  let m : Memory := s.mem
  let m := put m 0x0 0x10001
  let m := put m 0x10000 0x20001
  let m := put m 0x20000 0x21001
  let m := put m 0x21000 0x22001
  let m := put m 0x22000 0x3001F
  let m := m.setBytes 0x30000 (bytesOfWord w)
  let c := s.core 0
  let x := { Ctx.entry 0 0 0 false 0 with cols := 1024, spadBytes := 0x80000, code := m }
  { s with
    agenda := []
    cur := 0
    mem := m
    held := []
    atBase := 0
    power := .normal
    cores := tabPut s.cores 0 { c with day := some x }
    parts := tabPut s.parts 0 (Partition.fresh 0 1 [(0, 0)] 1) }

end Sys2Proof.Machine
end

