-- ==== Sys2Proof/Machine/Step.lean ====
section
/-! DEFINITION. One step of the machine. -/

namespace Sys2Proof.Machine

/-- One step: time passes and one agent moves. -/
def step (s : State) : Host.Outcome State Fault Refusal := s.pass.move

/-- The state with an instruction placed where the next step fetches it. -/
def State.withFetchWord (s : State) (nbits w : Nat) : State := s.placed (BitVec.ofNat 64 (w % 2 ^ max nbits 64))

end Sys2Proof.Machine
end

