-- ==== Sys2Proof/Safety.lean ====
section
/-! DEFINITION. What claims say of a run in general terms: a task that issues, an instruction that completes, and what an
instruction leaves as it was. -/

namespace Sys2Proof

/-- A step that is refused: no meaning. -/
def Machine.State.refuses (s : Machine.State) : Prop := ∃ r, Machine.step s = Host.Outcome.refused r

/-- A run of k steps that answers a next state. -/
def Machine.State.runs (s : Machine.State) (k : Nat) (t : Machine.State) : Prop :=
  Host.Core.run Sys2Proof.core k s = Host.Outcome.next t

/-- The guard of a control word (R50); the other steps have none. -/
def Instr.guard : Instr → Option Guard
  | .add g _ _ _ => some g
  | .sub g _ _ _ => some g
  | .mul g _ _ _ => some g
  | .mulh g _ _ _ => some g
  | .mulhz g _ _ _ => some g
  | .div g _ _ _ => some g
  | .divz g _ _ _ => some g
  | .rem g _ _ _ => some g
  | .remz g _ _ _ => some g
  | .and g _ _ _ => some g
  | .or g _ _ _ => some g
  | .xor g _ _ _ => some g
  | .andn g _ _ _ => some g
  | .shlReg g _ _ _ => some g
  | .shlImm g _ _ _ => some g
  | .shrReg g _ _ _ => some g
  | .shrImm g _ _ _ => some g
  | .shaReg g _ _ _ => some g
  | .shaImm g _ _ _ => some g
  | .rotReg g _ _ _ => some g
  | .rotImm g _ _ _ => some g
  | .min g _ _ _ => some g
  | .max g _ _ _ => some g
  | .minz g _ _ _ => some g
  | .maxz g _ _ _ => some g
  | .clz g _ _ => some g
  | .popc g _ _ => some g
  | .bfx g _ _ _ _ => some g
  | .bfxS g _ _ _ _ => some g
  | .bfi g _ _ _ _ => some g
  | .addsh g _ _ _ _ => some g
  | .mad g _ _ _ _ => some g
  | .cmp g _ _ _ _ => some g
  | .sel g _ _ _ _ => some g
  | .movi g _ _ => some g
  | .movhi g _ _ => some g
  | .addi g _ _ _ => some g
  | .pand g _ _ _ _ _ => some g
  | .por g _ _ _ _ _ => some g
  | .pnot g _ _ => some g
  | .br g _ => some g
  | .jal g _ => some g
  | .jr g _ _ => some g
  | .brcL1 g _ => some g
  | .brcAll g _ => some g
  | .loop g _ _ _ => some g
  | .loopi g _ _ _ => some g
  | .nop g => some g
  | .ld g _ _ _ _ _ => some g
  | .st g _ _ _ _ => some g
  | .csrr g _ _ => some g
  | .csrw g _ _ => some g
  | .csrwSet g _ _ => some g
  | .csrwClr g _ _ => some g
  | .trap g _ => some g
  | .eret g => some g
  | .eretTask g => some g
  | .wfe g _ => some g
  | .sevAll g => some g
  | .sevOne g _ => some g
  | .sevClus g => some g
  | .hintSpin g => some g
  | .hintPf g _ => some g
  | .mma g _ _ _ _ _ _ => some g
  | .mmas g _ _ _ _ _ _ => some g
  | .prune g _ _ _ _ _ _ => some g
  | .mzero g _ => some g
  | .mld g _ _ _ _ => some g
  | .mst g _ _ _ _ _ => some g
  | .aadd g _ _ _ _ _ _ => some g
  | .amul g _ _ _ _ _ _ => some g
  | .afma g _ _ _ _ _ _ _ => some g
  | .amax g _ _ _ _ => some g
  | .amin g _ _ _ _ => some g
  | .aexp2 g _ _ _ => some g
  | .alog2 g _ _ _ => some g
  | .arcp g _ _ _ => some g
  | .arsq g _ _ _ => some g
  | .asig g _ _ _ => some g
  | .asigTanh g _ _ _ => some g
  | .asigSilu g _ _ _ => some g
  | .asigExpe g _ _ _ => some g
  | .aredSum g _ _ _ _ => some g
  | .aredMax g _ _ => some g
  | .aredMin g _ _ => some g
  | .abcast g _ _ => some g
  | .abcastRow g _ _ _ => some g
  | .abcastColv g _ _ _ => some g
  | .amov g _ _ => some g
  | .acvt g _ _ _ _ _ _ => some g
  | .acvtB32 g _ _ _ _ _ _ => some g
  | .rngld g _ _ => some g
  | .rngst g _ _ => some g
  | .rand g _ => some g
  | .abind g _ _ _ _ => some g
  | .attn g _ _ _ _ _ _ => some g
  | .tmerge g _ _ _ => some g
  | .kvmap g _ _ _ => some g
  | .kvapp g _ _ _ => some g
  | .kvfork g _ _ => some g
  | .kvforkCow g _ _ => some g
  | .kvtrunc g _ _ => some g
  | .kvrel g _ => some g
  | .kvret g _ _ _ => some g
  | .kvcompact g _ _ _ => some g
  | .kvqLen g _ _ => some g
  | .kvqMap g _ _ => some g
  | .kvqFrame g _ _ => some g
  | .kvqState g _ _ => some g
  | .pxlkp g _ _ _ => some g
  | .pxlkpDrop g _ _ _ => some g
  | .pxins g _ _ _ => some g
  | .cfg g _ => some g
  | .cfgStg g _ => some g
  | .cfgsw g => some g
  | .strm g _ _ _ _ _ _ _ _ => some g
  | .sbar g _ => some g
  | .sbarOrd g _ => some g
  | .btok g _ _ _ => some g
  | .argw g _ _ => some g
  | .tinj g _ _ => some g
  | .tpop g _ _ => some g
  | .fstat g _ _ => some g
  | .fstatAll g _ => some g
  | .slotf g _ _ _ => some g
  | .cpyG2s g _ _ _ _ _ _ _ => some g
  | .cpyS2g g _ _ _ _ _ _ => some g
  | .cpyG2g g _ _ _ _ _ _ => some g
  | .cpyS2s g _ _ _ _ _ _ _ => some g
  | .cpyRing g _ _ _ => some g
  | .tbinit g _ _ _ => some g
  | .tbexp g _ _ _ => some g
  | .tbarr g _ _ _ => some g
  | .tbwait g _ _ _ _ => some g
  | .tbtest g _ _ _ _ _ => some g
  | .amo g _ _ _ _ => some g
  | .red g _ _ _ _ => some g
  | .amof g _ _ _ _ _ => some g
  | .cas g _ _ _ _ _ _ => some g
  | .ldfe g _ _ _ _ => some g
  | .stfe g _ _ _ => some g
  | .pref g _ _ _ => some g
  | .fence g _ => some g
  | .chainCpy g _ _ _ => some g
  | .chainColl g _ _ _ => some g
  | .seqw g _ _ _ _ _ => some g
  | .collSum g _ _ _ _ _ => some g
  | .collMax g _ _ _ _ _ => some g
  | .collMin g _ _ _ _ _ => some g
  | .collBcast g _ _ _ _ _ => some g
  | .collAgath g _ _ _ _ _ => some g
  | .collRscat g _ _ _ _ _ => some g
  | .spl g _ _ _ _ => some g
  | .fil g _ _ _ => some g
  | .bslice g _ _ _ _ => some g
  | .bjoin g _ _ _ _ => some g
  | .lctx g _ _ => some g
  | .lsel g _ => some g
  | .lrun g => some g
  | .lstatPop g _ _ => some g
  | .lstatWord g _ _ _ => some g
  | .lstatSlot g _ _ => some g
  | .lstatRuns g _ => some g
  | .tenq g _ _ => some g
  | .launch g _ => some g
  | .launchArg g _ _ => some g
  | .gsig g _ _ => some g
  | .tend g => some g
  | .tyield g => some g
  | .rinvTag g _ _ => some g
  | .rinvRange g _ _ _ => some g
  | .rinvAll g _ => some g
  | .rinvAsid g _ _ => some g
  | .rstatLkp g _ => some g
  | .rstatHit g _ => some g
  | .rstatMiss g _ => some g
  | .rstatIns g _ => some g
  | .rstatProbe g _ _ => some g
  | .rstatHeld g _ => some g
  | .rstatQuota g _ => some g
  | .illegalWord _ => none
  | .instructionFetchFault _ _ => none
  | .registerWrite _ _ => none
  | .wfeTimeout _ => none
  | .sevDelivery => none
  | .compactionDone _ => none
  | .slabRelocationStep _ _ => none
  | .portReadAccess _ _ => none
  | .portGatherAccess _ _ => none
  | .portWriteAccess _ _ => none
  | .portReductionAccess _ _ => none
  | .portCondition _ _ => none
  | .speculativeFetch _ _ => none
  | .portBarArrival _ _ => none
  | .portDoneToken _ _ => none
  | .portRetry _ _ => none
  | .relatchToken _ _ => none
  | .inputPacketExpand _ _ _ => none
  | .cfgkConsume _ _ _ => none
  | .repeatBlock _ _ => none
  | .mergeIsect _ _ => none
  | .mergeUnion _ _ => none
  | .mergeChk _ _ => none
  | .radix _ _ => none
  | .gate _ _ => none
  | .select _ _ => none
  | .stat _ _ => none
  | .xlat _ _ => none
  | .cbdec _ _ => none
  | .delta _ _ => none
  | .fconv _ _ => none
  | .rle _ _ => none
  | .transp _ _ => none
  | .mov _ _ => none
  | .iadd _ _ => none
  | .isub _ _ => none
  | .imul _ _ => none
  | .imad _ _ => none
  | .iand _ _ => none
  | .ior _ _ => none
  | .ixor _ _ => none
  | .ishl _ _ => none
  | .ishr _ _ => none
  | .isra _ _ => none
  | .imin _ _ => none
  | .imax _ _ => none
  | .icmp _ _ => none
  | .elemSel _ _ => none
  | .cmpc _ _ => none
  | .deq _ _ => none
  | .emit _ _ => none
  | .fadd _ _ => none
  | .fsub _ _ => none
  | .fmul _ _ => none
  | .ffma _ _ => none
  | .fmin _ _ => none
  | .fmax _ _ => none
  | .fcmp _ _ => none
  | .fexp2 _ _ => none
  | .frcp _ _ => none
  | .fcvtF32Bf16 _ _ => none
  | .fcvtF32F16 _ _ => none
  | .fcvtF32E4m3 _ _ => none
  | .fcvtF32E5m2 _ _ => none
  | .fcvtF32E2m1 _ _ => none
  | .fcvtF32S32 _ _ => none
  | .fcvtF32Z32 _ _ => none
  | .fcvtBf16F32 _ _ => none
  | .fcvtF16F32 _ _ => none
  | .fcvtE4m3F32 _ _ => none
  | .fcvtE5m2F32 _ _ => none
  | .fcvtE2m1F32 _ _ => none
  | .fcvtS32F32 _ _ => none
  | .fcvtZ32F32 _ _ => none
  | .vaddBf16 _ _ => none
  | .vmulBf16 _ _ => none
  | .vfmaBf16 _ _ => none
  | .vaddF16 _ _ => none
  | .vmulF16 _ _ => none
  | .vfmaF16 _ _ => none
  | .vaddS16 _ _ => none
  | .vmulS16 _ _ => none
  | .vaddS8 _ _ => none
  | .vmulS8 _ _ => none
  | .copySectorWrite _ _ _ => none
  | .copySectorRetry _ _ _ => none
  | .ringSlotCopy _ _ => none
  | .updateOnlyEvict _ _ => none
  | .chainEntryComplete _ _ => none
  | .seqwTimeout _ => none
  | .tableLoadEntry _ _ _ => none
  | .dispatch _ => none
  | .reuseLookup _ _ _ => none
  | .schedulerDusk _ => none
  | .tyieldAgeExpiry _ => none
  | .asyncTrap _ => none
  | .prtInv _ => none
  | .invalidationComplete _ => none
  | .popMigrate _ => none
  | .popDuplicate _ => none
  | .popCollapse _ => none
  | .pageOperationComplete _ => none
  | .drainTimerExpiry _ => none
  | .drainTimeout _ => none
  | .tcmdResume => none
  | .tcmdEnd => none
  | .hotvalRead _ => none
  | .frrEnable _ => none
  | .frrDisable _ => none
  | .schQuotaWrite _ => none
  | .prtDusk => none
  | .duskStart _ => none
  | .markerPass _ _ => none
  | .writePortDrain _ _ => none
  | .foreignMarkArrival _ _ _ => none
  | .setSwap _ => none
  | .taskResume _ => none
  | .prtRsz _ => none
  | .clusterRemovalComplete _ _ => none
  | .prtMove _ => none
  | .ticketExport => none
  | .ticketImport _ => none
  | .doorbell _ _ => none
  | .ringEntryNop _ => none
  | .ringEntryGraph _ => none
  | .ringEntryRecord _ => none
  | .daybreak _ => none
  | .partCreate _ _ => none
  | .partDestroy _ _ => none
  | .setTables _ _ _ => none
  | .asidSync _ _ => none
  | .frrOwner _ _ _ => none
  | .groupReg _ _ _ => none
  | .aperture _ _ _ _ => none
  | .ticketKey _ _ => none
  | .clusterMove _ _ _ _ => none
  | .reset _ _ => none
  | .mailboxUnknown _ _ => none
  | .hifErrClear _ => none
  | .hostMemRequest _ => none
  | .hostWriteSnoop _ _ => none
  | .druatLoad _ _ => none
  | .druatLoadResponse _ _ => none
  | .druatStore _ _ => none
  | .druatReduction _ _ _ _ => none
  | .druatAcknowledge _ _ => none
  | .druatCollectiveStream _ _ _ _ => none
  | .druatMigrationStream _ _ => none
  | .druatIdle _ _ => none
  | .flitCrcFail _ => none
  | .portRetrain _ => none
  | .portFailed _ => none
  | .powerOnStart => none
  | .startTimeout => none
  | .twilightStart _ _ _ => none
  | .twilightRetry => none
  | .powerStep _ _ => none
  | .claimStreamDone _ => none
  | .mailboxResultPosted => none
  | .startComplete _ _ => none
  | .retrainComplete _ _ => none
  | .hostCxlResponse _ => none
  | .prtFqheadWrite _ => none
  | .powerLoss => none
  | .trayPowerLimit _ => none

/-- The control words that only a supervisor may run (R98, R371, R428), and the accesses to registers that are its own (R94). -/
def Instr.privileged : Instr → Bool
  | .eret _ | .spl _ _ _ _ _ | .fil _ _ _ _ | .rinvAsid _ _ _ => true
  | .csrr _ _ n | .csrw _ n _ | .csrwSet _ n _ | .csrwClr _ n _ => Machine.csrPriv n.toNat
  | _ => false

namespace Machine

/-- The task x stands in the day set of the moving core, may issue, and the guard g holds (R42, R50). -/
def State.ready (s : State) (x : Ctx) (g : Guard) : Prop := s.ctx = some x ∧ x.issues = true ∧ x.holds g = true

/-- The moving core's instruction has completed with its task as y: it counts as issued, the PC moves to the next word under the
loop step (R87, R96), and the answers it consumed are gone. -/
def State.retired (s : State) (x y : Ctx) : State := (s.setCtx (y.complete .seq)).consume (s.me x)

/-- The same for a taken transfer to an address (R88). -/
def State.jumped (s : State) (x y : Ctx) (pc : Word) : State := (s.setCtx (y.complete (.jump pc))).consume (s.me x)

/-- The same where the instruction has changed the machine to t: the task in the day set of the core that moved in s goes on at the
next word. -/
def State.ended (t s : State) (x : Ctx) : State := (t.consume (s.me x)).finish s.cur 0 .seq

/-- The trap of a control word at its own address (R252): the task's answers are gone and the word counts as issued. -/
def State.trapped (s : State) (x : Ctx) (i : Instr) (code : TrapCode) (val : Word) (sub : Byte := 0) : State :=
  (s.consume (s.me x)).takeTrap s.cur { x with issued := x.issued + 1 } ⟨code, val, sub, none, 0xFF, 0xF, 0, false, []⟩ (encode i) x.pc false

/-- Everything of the task but its general registers, its predicates, the PC, the loop levels, the counters, its wait and what it keeps of
an interrupted MMA, MMAS or ATTN is as it was: mode bits, special registers, exception registers, accumulator claims, bindings, slots and
fabric. -/
def Ctx.keeps (y x : Ctx) : Prop :=
  y = { x with regs := y.regs, preds := y.preds, pc := y.pc, loop0 := y.loop0, loop1 := y.loop1, issued := y.issued,
               wait := y.wait, mma := y.mma, attn := y.attn }

/-- Everything of the machine but the task of the moving core and the answers on their way to it is as it was: every byte of
memory, every other core, every register of the device. -/
def State.keeps (t s : State) : Prop :=
  t = { s with remote := t.remote, cores := t.cores } ∧ (∀ n, n ≠ s.cur → t.core n = s.core n) ∧
  t.core s.cur = { s.core s.cur with day := (t.core s.cur).day }

/-- A register of the task names a column range that the task may use now (R30, R39, R135). -/
def State.mayUse (s : State) (x : Ctx) (r : Reg) (c : Cols) : Prop :=
  (x.g r).toNat = c.first + 1024 * (c.n - 1) ∧ 1 ≤ c.n ∧ c.first + c.n ≤ 1024 ∧ c.first + c.n ≤ x.cols ∧
  (s.core s.cur).colsReady c.first c.n = true

/-- A register pair of the task holds a scratchpad descriptor whose addresses are aligned (R136, R138, R139). -/
def Ctx.holdsDesc (x : Ctx) (r : Reg) (d : Desc) : Prop := (∀ word, x.desc word r = .ok d) ∧ d.aligned = .ok ()

/-- Rows u and v of a group of four are the two of largest magnitude, in ascending order: NaN is largest, and a tie goes to the lower row
(R149). -/
def largestTwo (f : Nat → FVal) (u v : Nat) : Prop :=
  u < v ∧ v < 4 ∧ ∀ w, w < 4 → w ≠ u → w ≠ v → ∀ z, z = u ∨ z = v →
    magLt (f z) (f w) = false ∧ (magLt (f w) (f z) = false → z < w)

/-- The second operand of a two-operand vector instruction over n columns (R152): a range of n, one column, or no column where g[b]
holds one value in its low half. -/
def State.mayTake (s : State) (x : Ctx) (b : Reg) (form : OpForm) (n : Nat) (bc : Option Cols) : Prop :=
  match form with
  | .range => ∃ c, bc = some c ∧ c.n = n ∧ s.mayUse x b c
  | .bc => ∃ c, bc = some c ∧ c.n = 1 ∧ s.mayUse x b c
  | .sc => bc = none ∧ (x.g b).toNat < 2 ^ 32

/-- A cache word of the task names a sequence it may use now: the engine is on, the handle is live with its generation and of the
task's ASID, the layer group exists, no layer group is being compacted, and the fields that the word must leave zero are (R201, R202,
R218, R477). -/
def State.mayCache (s : State) (x : Ctx) (w : Word) (handle page0 : Bool) (q : Sequence) : Prop :=
  ∀ word, s.kvSeq x word w handle page0 = .ok q

/-- What a KV instruction of the task finds at the home, a die: the task is noted to have read the engine, update-only copies may have been
evicted, and the engine's clock has followed the core's (R222, R339, R426). -/
def State.atHome (s : State) (x : Ctx) (die : Nat) : State :=
  (s.setCtx x.impure).recallAll.raiseClock (kvAgent die) (s.clock (s.me x))

/-- The KV instruction has completed with the machine as t: the core's clock follows the engine's (R222). -/
def State.homed (t s : State) (x : Ctx) (die : Nat) : State := (t.raiseClock (s.me x) (t.clock (kvAgent die))).ended s x

/-- Core c runs, and the fabric of the task x in its day set is f. -/
def State.runsFabric (s : State) (c : Nat) (x : Ctx) (f : Fabric) : Prop := s.alive = true ∧ s.dayFabric c = some (x, f)

/-- Port p of core c runs a stream: nothing it has formed waits to be sent, no access of it is withheld, it has not stopped for a marker, nor
does a port that reads while a dusk drains its core, and what SBAR.ord asked its stream to wait for has been performed (R312, R313, R318, R432,
R434). -/
def State.streams (s : State) (c p : Nat) (x : Ctx) (f : Fabric) (q : Port) (st : Stream) : Prop :=
  s.runsFabric c x f ∧ tabGet f.ports (64 + p) = some q ∧ s.halted c f (64 + p) = false ∧ q.withheld = none ∧ q.running = some st ∧
  st.emit = [] ∧ s.awaited c x f st = true ∧ ((s.core c).dusk = none ∨ q.ingress = false)

/-- What a step of a port leaves, with its stream as st after the access at position pos: the tokens formed that have room are sent, the
port goes on to its next entry where the stream ends, and local channels move (R290, R312, R313). -/
def State.streamed (t s : State) (c p : Nat) (x : Ctx) (pos : Word) (g : Fabric) (q : Port) (st : Stream) : State :=
  let r := Port.settleStream g (64 + p) { q with attempt := .first, blocked := false, asking := false } st
  (((s.notePos t pos).consume (portAgent c p x)).setFabric c
    ({ r.1 with ports := tabPut r.1.ports (64 + p) r.2 }.passRead (s.core c).dusk.isSome (64 + p))).settle c

/-- A step of a site that leaves the machine otherwise as t and the fabric as g. -/
def State.sited (t : State) (c : Nat) (g : Fabric) : State := (t.setFabric c g).settle c

/-- A cycle of an element: its fabric, and the faults it raises. -/
def State.cycled (s : State) (c : Nat) (x : Ctx) (r : Fabric × List Trap) : State :=
  (r.2.foldl (fun u e => u.raiseAsync c x.id e) (s.setFabric c r.1)).settle c

/-- Operator site o of core c is of a kind and may take tokens: what it formed has been sent, nothing of it is withheld, and it has not
stopped for a marker. -/
def State.operates (s : State) (c o : Nat) (x : Ctx) (f : Fabric) (kind : Byte) (q : Operator) : Prop :=
  s.runsFabric c x f ∧ tabGet f.ops (48 + o) = some q ∧ q.kind = kind ∧ s.halted c f (48 + o) = false ∧ q.withheld = none ∧ q.emit = []

/-- What a step of operator site o leaves, with its operator as q: the tokens q has formed are sent in order while their outputs have
room (R293, R300). -/
def State.operated (s : State) (c o : Nat) (g : Fabric) (q : Operator) : State :=
  let r := flush (48 + o) q.emit g 0
  s.sited c { r.1 with ops := tabPut r.1.ops (48 + o) { q with
    emit := r.2.1, emitted := q.emitted + BitVec.ofNat 32 r.2.2, attempt := .first } }

/-- A constructor is the firing of an element whose lowest ready word has an operation: it fires that word, a cycle of its stall passes
before, and CFGK tokens at the heads of its inputs are consumed at the end of the cycle (R271, R273 to R276, R285). -/
def firesAs (op : ElemOp) (i : Nat → Nat → Instr) : Prop :=
  ∀ (s : State) (c e : Nat) (x : Ctx) (f : Fabric) (el : Element), s.runsFabric c x f → tabGet f.elems e = some el →
    s.halted c f e = false →
    (el.stall ≠ 0 → exec (i c e) s =
      .next (s.cycled c x (Fabric.consumeCfgk { f with elems := tabPut f.elems e { el with stall := el.stall - 1 } } e (f.cfgkHeads e)))) ∧
    (∀ w, el.stall = 0 → f.choice e el = some w → w.op = op →
      exec (i c e) s = .next (s.cycled c x ((f.fireWord e el w).consumeCfgk e (f.cfgkHeads e))))

end Machine

end Sys2Proof
end

