-- ==== Sys2Proof/Certificates/Slice0/Obligations.lean ====
section
/-! DEFINITION. What is claimed of the machine: the statements for the provers, each with the rules of the spec it rests on. -/

section

open Sys2Proof Sys2Proof.Machine

/-- R46, R47, R61 to R63, R253, R460: Where the agenda names no other agent, the word at the moving core's PC is fetched and what it decodes
to runs, or where it decodes to nothing the step that takes ILLEGAL, in a device that runs and for a task that issues; a fault of another
block that stands at the boundary is taken first. The word stands at the physical address of the PC; that it comes as the code stood when
the task was dispatched, and of a word that the task itself has stored since either as it stood then or as it stands now, is the model's
reading (log entry 18). Time has passed, which changes the clock, the sensor and the tasks' cycle counts alone. That the agenda names the
agent that moves next, and a step runs the move it asks for, is the model's choice (log entry 2). -/
def Obligations.StepRunsDecoded : Prop :=
  (∀ (s : State) (x : Ctx), s.agenda = [] →
    let p := s.pass
    p.ctx = some x → p.alive = true → x.issues = true → (p.core p.cur).stopped x = false →
    (x.traps = [] ∨ x.atBoundary = false →
      (∀ u w i, p.fetch x = .ok (u, w) → decode w = .ok i → step s = exec i u) ∧
      (∀ u w why, p.fetch x = .ok (u, w) → decode w = .error why → step s = exec (.illegalWord w) u) ∧
      (∀ t, p.fetch x = .error (.trap t) → t.code = .page ∨ t.code = .prot →
        step s = exec (.instructionFetchFault (t.code == .prot) t.sub) (p.stampReads (p.me x) t.reads))) ∧
    (x.traps ≠ [] → x.atBoundary = true → step s = exec (.asyncTrap p.cur) p)) ∧
  (∀ (s : State) (x : Ctx) (w : Walk), s.translate (s.me x) x.pc .fetch = .ok w → s.region w.pa = .hbm → s.rangePoisoned w.pa 8 = false →
    ∃ u v, s.fetch x = .ok (u, v) ∧ (setHas x.patched (w.pa / 8) = false → v = leWord (Memory.bytes x.code w.pa 8)) ∧
      (v = leWord (Memory.bytes x.code w.pa 8) ∨ v = leWord (Memory.bytes s.mem w.pa 8))) ∧
  (∀ (s : State) (n : Nat) (r : List Move), s.agenda = .core n :: r → step s = { s.pass with agenda := r, cur := n }.issue) ∧
  (∀ (s : State) (i : Instr) (r : List Move), s.agenda = .act i :: r → fromOutside i = true →
    step s = exec i { s.pass with agenda := r }) ∧
  (∀ s : State, s.pass = { s with tick := s.pass.tick, time := s.pass.time, pwr := s.pass.pwr, cores := s.pass.cores } ∧
    s.time.toNat ≤ s.pass.time.toNat ∧
    ∀ n, ∃ k : Word, s.pass.core n = { s.core n with day := (s.core n).day.map fun x => { x with cycle := x.cycle + k } })

/-- R48 to R62: Words written out from the encodings decode to the instructions they stand for; a word of an unassigned opcode decodes to the
step that takes ILLEGAL; and whatever an assigned word decodes to is well formed and has that word as its encoding. -/
def Obligations.DecodingFollowsTheTables : Prop :=
  decode 0x0304100000000001 = .ok (.addi ⟨0, false⟩ 1 1 1) ∧
  decode 0x0110404000000000 = .ok (.add ⟨0, false⟩ 4 4 1) ∧
  decode 0x1E0420C000020000 = .ok (.cmp ⟨0, false⟩ 1 2 3 .lt) ∧
  decode 0x220000000000000A = .ok (.jal ⟨0, false⟩ 10) ∧
  decode 0x2303F00000000000 = .ok (.jr ⟨0, false⟩ 0 63) ∧
  decode 0x301C500080000010 = .ok (.ld ⟨0, false⟩ 7 ⟨5, 0, 0, 16⟩ false false .w) ∧
  decode 0x2400200000020000 = .ok (.loop ⟨0, false⟩ false 2 2) ∧
  decode 0x2400300004010000 = .ok (.loop ⟨0, false⟩ true 3 1) ∧
  (∀ w, opAssigned w = false → decode w = .ok (.illegalWord w)) ∧
  (∀ w i, opAssigned w = true → decode w = .ok i → i.wf = true ∧ encode i = w)

/-- R48 to R62: Every well-formed control instruction, with every operand at every value its encoding admits, is what its own word decodes to:
no bit of an encoding is dropped. -/
def Obligations.EncodingRoundTrips : Prop :=
  ∀ i : Instr, i.wf = true → encode i ≠ 0 → decode (encode i) = .ok i

/-- R28, R42, R62, R251 to R255: Every step answers a next state: whatever the state and the instruction, an instruction's effect, a trap or a
wait follows, and no run ends in a fault or a refusal. -/
def Obligations.EveryStepGoesOn : Prop :=
  (∀ (i : Instr) (s : State), ∃ t, exec i s = .next t) ∧ ∀ s : State, ∃ t, step s = .next t

/-- Device memory keeps its one canonical form (addresses rising, no entry equal to what an unlisted address reads as) through every step,
from every state that has it: equal memories are equal data. -/
def Obligations.MemoryStaysCanonical : Prop :=
  ∀ s t : State, Memory.wf s.mem = true → step s = .next t → Memory.wf t.mem = true

/-- What reset leaves: no task and no partition, the format ranges and apertures off, PWR_LIM at 2200, HIF_ERR clear, the reuse tables empty,
and memory in its canonical form, listing nothing. That the device then runs in its normal mode, and every memory byte reads zero, is the
model's choice (log entries 1 and 9), as is the insertion counter of a reuse table at 0 (log entry 20). -/
def Obligations.ResetState : Prop :=
  State.reset.cores = [] ∧ State.reset.parts = [] ∧ State.reset.pwrLim = 2200 ∧ State.reset.hifErr = 0 ∧
  (∀ n, State.reset.range n = FormatRange.reset) ∧ State.reset.apertures = [] ∧ State.reset.remote = [] ∧
  (∀ d, State.reset.table d = ⟨[], 0⟩) ∧ State.reset.mbPending = none ∧ State.reset.time = 0 ∧
  Memory.wf State.reset.mem = true ∧ (∀ a, Memory.byte State.reset.mem a = 0) ∧ State.reset.power = .normal

/-- R6, R91, R326, R328: Bytes written to device memory, within one line, read back as they were written, by any agent that no leased copy
serves, and every other byte stays as it was once the line's update-only copies are recalled; a copy serves only until its lease ends; the
same of a scratchpad's bytes; and the bytes of a word, least significant first, are the word. -/
def Obligations.MemoryReadsBack : Prop :=
  (∀ (s : State) (ag other : Agent) (pa : Nat) (bs : List Byte), Memory.wf s.mem = true → pa % 128 + bs.length ≤ 128 →
    let t := s.writeHbm ag pa bs
    (t.servedBy other (lineOf pa) = none → (t.readHbm other pa bs.length).2 = bs) ∧
    ∀ a, Memory.byte t.mem a = if pa ≤ a ∧ a < pa + bs.length then bs.getD (a - pa) 0 else Memory.byte (s.recall (lineOf pa)).mem a) ∧
  (∀ (s : State) (ag : Agent) (line : Nat) (c : LineCopy), s.servedBy ag line = some c → s.clock ag ≤ c.lease) ∧
  (∀ (s : State) (line : Nat), tabGet s.updates line = none → s.recall line = s) ∧
  (∀ (c : Core) (o a : Nat) (bs : List Byte), Memory.wf c.spad = true →
    Memory.wf (c.putSpad o bs).spad = true ∧
    Memory.byte (c.putSpad o bs).spad a = if o ≤ a ∧ a < o + bs.length then bs.getD (a - o) 0 else Memory.byte c.spad a) ∧
  (∀ (k v : Nat), leNat (natLe k v) = v % 256 ^ k ∧ (natLe k v).length = k) ∧
  (∀ (b : Byte) (bs : List Byte), leNat (b :: bs) = b.toNat + 256 * leNat bs) ∧
  (∀ (m : Memory) (a n : Nat), Memory.bytes m a n = (List.range n).map fun k => Memory.byte m (a + k))

/-- R26, R252 to R256, R259, R440: A trap of a supervisor enters its handler at CC_SVEC with the resume address, the cause, the value and the
word saved and SH set, or halts the core when SH is 1 or CC_SVEC is 0; one that takes the task-mode route enters at CC_THV with TH set;
any other holds the task with the record at the tail of the fault queue, and one that finds no slot waits for it; a dusk that drains no
withheld node then has no effect. The model's choices: bits [2:0] of a handler's address do not count (log entry 47); the fault queue's
head and tail run freely at 16 bits, a record stands in slot tail mod its length, and a queue is full by their difference (log entry 36). -/
def Obligations.TrapsTakeTheirRoute : Prop :=
  (∀ (s : State) (n : Nat) (x : Ctx) (t : Trap) (word resume : Word) (async : Bool),
    let tm := !x.sup && x.taskRoute t
    let fr := faultRecord t tm (async || t.src != 0) word s.time x.part (s.logicalCore x.part n) x.asid
    (x.sup = true → x.sh = false → x.svec ≠ 0 → s.takeTrap n x t word resume async = s.setDay n (some { x with
      epc := resume, cause := BitVec.ofNat 64 t.code.num, stval := t.val, sword := word, sh := true, pc := x.svec &&& ~~~7, fr := fr
      wait := .none })) ∧
    (x.sup = true → (x.sh = true ∨ x.svec = 0) → ∃ u, s.takeTrap n x t word resume async = u ∧
      (u.core n).day = some { x with halted := true, fr := fr } ∧ u.mem = s.mem ∧ u.hifErr = s.hifErr ||| 4) ∧
    (x.taskRoute t = true ↔ (t.code = .kvcow ∨ t.code = .order ∨ t.code = .page ∧ t.drain = true) ∧ x.thv ≠ 0 ∧ x.th = false) ∧
    (x.sup = false → x.taskRoute t = true → s.takeTrap n x t word resume async = s.setDay n (some { x with
      tcause := BitVec.ofNat 64 t.code.num, tval := t.val, tepc := resume, fr := fr, th := true, pc := x.thv &&& ~~~7, wait := .none })) ∧
    (x.sup = false → x.taskRoute t = false →
      let job := if t.code = .purity then x.job.map fun j => { j with faulted := true } else x.job
      let y := { x with pc := resume, fr := fr, wait := .none, job := job, cond := .held }
      let held := s.setCore n { s.core n with day := some y }.stopDusk
      (∀ u, held.pushFault x.part fr = .ok u → s.takeTrap n x t word resume async = u) ∧
      (∀ e, held.pushFault x.part fr = .error e →
        s.takeTrap n x t word resume async = (held.askOutside e).editTask n x.id fun z => { z with cond := .slotWait fr }))) ∧
  (∀ (s : State) (p : Nat) (q : Partition) (r : FaultRecord), s.part p = some q →
    let a := q.fqBase.toNat + 32 * (q.fqTail.toNat % q.fqLen.toNat)
    let ag := dieAgent q.schedDie 6 0
    (q.fqLen.toNat ≤ (q.fqTail - q.fqHead).toNat → s.pushFault p r = .error (.wait .queueFull)) ∧
    ∀ u, (q.fqTail - q.fqHead).toNat < q.fqLen.toNat → s.moving a r.bytes.length = false → s.forPhysical ag a r.bytes.length = .ok u →
      u.region a = .hbm → setHas u.hostCopies (lineOf a) = false →
      let t := u.writeHbm ag a r.bytes
      s.pushFault p r = .ok ((t.setPart p { (t.part p).getD q with fqTail := q.fqTail + 1 }).setEv q.supCore)) ∧
  ∀ (c : Core), (c.dusk = none → c.stopDusk = c) ∧
    ∀ d x, c.dusk = some d → c.day = some x → d.drain = false → x.heldNodes = 0 →
      c.stopDusk = { c with dusk := none, day := some { x with fabric := x.fabric.map Fabric.unmark } }

/-- R50, R94, R98, R371, R428: For every control word: one that is privileged takes PRIV in task mode, with the word as its value and nothing
else done; and one whose guard does not hold, in a mode that may run it, changes nothing but the count of instructions and the PC, which
follows the loop step; and a word that the checks of the word itself refuse takes ILLEGAL, whatever its guard. -/
def Obligations.GuardsAndPrivilegeHold : Prop :=
  ∀ (i : Instr) (g : Guard) (s : State) (x : Ctx), i.guard = some g → s.ctx = some x → x.issues = true →
    (i.privileged = true → x.sup = false → exec i s = .next (s.trapped x i .priv (encode i))) ∧
    (x.holds g = false → (i.privileged = true → x.sup = true) → exec i s = .next (s.setCtx (x.complete .seq))) ∧
    (∀ w : Word, opAssigned w = false ∨ (∃ why, decode w = .error why) →
      exec (instrOf w) s = .next (s.takeTrap s.cur x ⟨.illegal, w, 0, none, 0xFF, 0xF, 0, false, []⟩ w x.pc false))

/-- R26, R49, R74 to R82: The frame of the instructions that work on registers alone: every byte of memory, every other core and every
register of the device is as it was; of the task every general register but the destination is as it was, for a comparison and the
predicate instructions every general register and every predicate but the destination; and of the rest only the PC, the loop levels, the
counters and the wait may change. -/
def Obligations.RegisterInstructionsFrame : Prop :=
  ∀ (s t : State) (x : Ctx) (g : Guard) (d a b c : Reg) (q p1 p2 : Pred) (n1 n2 : Bool) (sh : BitVec 6) (imm : BitVec 32) (cond : Cond)
      (i : Instr), s.ctx = some x → exec i s = .next t →
    (i ∈ [.add g d a b, .sub g d a b, .mul g d a b, .mulh g d a b, .mulhz g d a b, .div g d a b, .divz g d a b, .rem g d a b,
        .remz g d a b, .and g d a b, .or g d a b, .xor g d a b, .andn g d a b, .shlReg g d a b, .shlImm g d a sh, .shrReg g d a b,
        .shrImm g d a sh, .shaReg g d a b, .shaImm g d a sh, .rotReg g d a b, .rotImm g d a sh, .min g d a b, .max g d a b,
        .minz g d a b, .maxz g d a b, .clz g d a, .popc g d a, .bfx g d a b c, .bfxS g d a b c, .bfi g d a b c, .addsh g d a b sh,
        .mad g d a b c, .sel g d q a b, .movi g d imm, .movhi g d imm, .addi g d a imm] →
      t.keeps s ∧ ∃ y, t.ctx = some y ∧ y.keeps x ∧ (∀ r, r ≠ d → y.g r = x.g r) ∧ ∀ r, y.p r = x.p r) ∧
    (i ∈ [.cmp g q a b cond, .pand g q p1 p2 n1 n2, .por g q p1 p2 n1 n2, .pnot g q p1] →
      t.keeps s ∧ ∃ y, t.ctx = some y ∧ y.keeps x ∧ (∀ r, y.g r = x.g r) ∧ ∀ r, r ≠ q → y.p r = x.p r)

/-- R26, R45, R90 to R92, R247, R339: The frame of loads and stores. A load from the scratchpad, and a store to it, leave device memory as it
was, and the store changes no byte of the scratchpad but those at its effective address; a global store to HBM changes, once a duplicated
page has collapsed and the line's update-only copies are recalled, no byte but those at the physical address that its translation gives;
one to host memory or to another device changes none but by a collapse and such recalls; one to a view traps; a global load changes none
but by such recalls; and all of them change no general register but a load's destination, or its pair for .q. -/
def Obligations.LoadsAndStoresFrame : Prop :=
  ∀ (s t u v : State) (x : Ctx) (g : Guard) (d : Reg) (m : MemOp) (sx : Bool) (sz : Size) (bs : List Byte) (w w' : Walk), s.ready x g →
    let n := sizeBytes sz
    let ea := x.ea m
    let k := s.core s.cur
    let ag := s.me x
    ea.toNat % n = 0 →
    (ea.toNat + n ≤ x.spadBytes → k.spadReady ea.toNat n = true →
      (k.spadPoisoned ea.toNat n = false → exec (.ld g d m true sx sz) s = .next t →
        t.keeps s ∧ ∃ y, t.ctx = some y ∧ y.keeps x ∧ (∀ p, y.p p = x.p p) ∧
          ∀ r, r ≠ d → (sz = .q → r ≠ d ||| 1) → y.g r = x.g r) ∧
      (exec (.st g d m true sz) s = .next t → t.mem = s.mem ∧ (∀ c, c ≠ s.cur → t.core c = s.core c) ∧
        ∃ y out, t.core s.cur = { k with spad := Memory.setBytes k.spad ea.toNat out, poison := (t.core s.cur).poison, day := some y } ∧
          out.length = n ∧ y.keeps x ∧ (∀ r, y.g r = x.g r) ∧ ∀ p, y.p p = x.p p)) ∧
    (Memory.wf s.mem = true → s.translate ag ea .store = .ok w → (s.stampWalk ag w).forWrite ag ea n .store w = .ok (v, w') →
      v.region w'.pa = .hbm → s.store ag ea (x.storeBytes d sz) = .ok u → exec (.st g d m false sz) s = .next t →
      (∀ a, a < w'.pa ∨ w'.pa + n ≤ a → Memory.byte t.mem a = Memory.byte (v.recall (lineOf w'.pa)).mem a) ∧
      (s.updates = [] → s.dups = [] → entryDup w.leaf = false →
        w' = w ∧ ∀ a, a < w.pa ∨ w.pa + n ≤ a → Memory.byte t.mem a = Memory.byte s.mem a) ∧
      ∃ y, t.ctx = some y ∧ (∀ r, y.g r = x.g r) ∧ ∀ p, y.p p = x.p p) ∧
    (s.translate ag ea .store = .ok w → (s.stampWalk ag w).forWrite ag ea n .store w = .ok (v, w') → v.region w'.pa ≠ .hbm →
      s.store ag ea (x.storeBytes d sz) = .ok u → exec (.st g d m false sz) s = .next t →
      t.mem = v.mem ∧ (s.updates = [] → s.dups = [] → entryDup w.leaf = false → t.mem = s.mem) ∧
      ∃ y, t.ctx = some y ∧ (∀ r, y.g r = x.g r) ∧ ∀ p, y.p p = x.p p) ∧
    (s.lookUp ag ea = .ok w → s.region w.pa = .view → exec (.st g d m false sz) s =
      .next (s.interrupt x (encode (.st g d m false sz)) (.trap ⟨.prot, ea, 5, none, 0xFF, 0xF, 0, false, w.reads⟩))) ∧
    (s.load ag ea n = .ok (u, bs) → exec (.ld g d m false sx sz) s = .next t →
      (s.updates = [] → t.mem = s.mem) ∧
      (s.translate ag ea .load = .ok w → s.region w.pa = .hbm →
        t.mem = (s.stampWalk ag w).mem ∨ t.mem = ((s.stampWalk ag w).recall (lineOf w.pa)).mem) ∧
      ∃ y, t.ctx = some y ∧ (∀ p, y.p p = x.p p) ∧ ∀ r, r ≠ d → (sz = .q → r ≠ d ||| 1) → y.g r = x.g r)

/-- R458, R460: A device whose power is off does nothing: no step of another agent changes it but the power's coming and going and the tray's
limit, and a core issues nothing. -/
def Obligations.AnOffDeviceDoesNothing : Prop :=
  ∀ (s : State), s.power = .off →
    (∀ i : Instr, fromOutside i = true → i ≠ .powerOnStart → i ≠ .powerLoss → (∀ w, i ≠ .trayPowerLimit w) → exec i s = .next s) ∧
    (s.agenda = [] → ∃ t, step s = .next t ∧ t.mem = s.mem ∧ t.hostOut = s.hostOut ∧ t.parts = s.parts ∧
      ∀ n, (t.core n).day.map (·.regs) = (s.core n).day.map (·.regs) ∧ (t.core n).day.map (·.pc) = (s.core n).day.map (·.pc))

/-- R107, R111, R114, R115: The sixteen .e2m1 codes have their values (said in halves); minimum and maximum give NaN when either operand is
NaN, which every format that has one encodes canonically, and order −0 below +0; a rounding gives the neighbour its qualifier names; and
an encoding that is no NaN comes back from its own value under every rounding, subnormals included. -/
def Obligations.NumbersFollowTheirFormats : Prop :=
  (∀ x, x < 8 → ∃ (m : Nat) (e : Int), -1 ≤ e ∧ Ty.e2m1.value x = .fin false m e ∧ Ty.e2m1.value (x + 8) = .fin true m e ∧
    m * 2 ^ (e + 1).toNat = [0, 1, 2, 3, 4, 6, 8, 12].getD x 0) ∧
  (∀ a b : FVal, a.isNan = true ∨ b.isNan = true → a.min b = .nan ∧ a.max b = .nan) ∧
  (∀ d e : Int, FVal.min (.fin true 0 d) (.fin false 0 e) = .fin true 0 d ∧ FVal.min (.fin false 0 d) (.fin true 0 e) = .fin true 0 e ∧
    FVal.max (.fin true 0 d) (.fin false 0 e) = .fin false 0 e ∧ FVal.max (.fin false 0 d) (.fin true 0 e) = .fin false 0 d) ∧
  (∀ a b : F32, (F32.val a).isNan = true ∨ (F32.val b).isNan = true → f32Min a b = 0x7FC00000 ∧ f32Max a b = 0x7FC00000) ∧
  (∀ (rnd : Rnd) (draw : Nat) (sat : Bool), Fmt.f64.round rnd draw sat .nan = 0x7FF8000000000000 ∧
    Fmt.f32.round rnd draw sat .nan = 0x7FC00000 ∧ Fmt.bf16.round rnd draw sat .nan = 0x7FC0 ∧
    Fmt.f16.round rnd draw sat .nan = 0x7E00 ∧ Fmt.e4m3.round rnd draw sat .nan = 0x7F ∧ Fmt.e5m2.round rnd draw sat .nan = 0x7E) ∧
  (∀ (draw : Nat) (neg : Bool) (m k : Nat) (e : Int),
    let lo := m / 2 ^ k
    let part := m % 2 ^ k
    let hi := if part = 0 then lo else lo + 1
    let r := fun rnd => roundAt rnd draw neg m e (e + k)
    r .rtz = lo ∧ r .rdn = (if neg then hi else lo) ∧ r .rup = (if neg then lo else hi) ∧
    r .rne = (if 2 * part < 2 ^ k ∨ 2 * part = 2 ^ k ∧ lo % 2 = 0 then lo else hi) ∧
    r .rsr = if draw < part * 65536 / 2 ^ k then hi else lo) ∧
  (∀ f ∈ [Fmt.f64, Fmt.f32, Fmt.bf16, Fmt.f16, Fmt.e4m3, Fmt.e5m2, Fmt.e2m1], ∀ (rnd : Rnd) (draw x : Nat),
    x < 2 ^ (1 + f.eb + f.mb) → (f.decode x).isNan = false → f.round rnd draw false (f.decode x) = x)

/-- R26, R49, R73, R77: ADD, SUB, MUL, MAD, ADDSH and ADDI wrap modulo 2^64; MULH and MULH.z write the high half of the 128-bit signed and
unsigned product. Every source is read before the destination is written. g0 reads zero, a write to it is discarded and changes nothing of
the task, and a write to another register changes that one alone. -/
def Obligations.SumsAndProductsComplete : Prop :=
  (∀ (x : Ctx) (r d : Reg) (v : Word), x.g 0 = 0 ∧ x.setG 0 v = x ∧ (x.setG d v).g r = (if r = d ∧ d ≠ 0 then v else x.g r) ∧
    x.setG d v = { x with regs := (x.setG d v).regs }) ∧
  ∀ (s : State) (x : Ctx) (g : Guard) (d a b c : Reg) (n : BitVec 6) (imm : BitVec 32), s.ready x g →
    exec (.add g d a b) s = .next (s.retired x (x.setG d (BitVec.ofNat 64 ((x.g a).toNat + (x.g b).toNat)))) ∧
    exec (.sub g d a b) s = .next (s.retired x (x.setG d (BitVec.ofInt 64 ((x.g a).toInt - (x.g b).toInt)))) ∧
    exec (.mul g d a b) s = .next (s.retired x (x.setG d (BitVec.ofNat 64 ((x.g a).toNat * (x.g b).toNat)))) ∧
    exec (.mulh g d a b) s = .next (s.retired x (x.setG d (BitVec.ofInt 64 ((x.g a).toInt * (x.g b).toInt / 2 ^ 64)))) ∧
    exec (.mulhz g d a b) s = .next (s.retired x (x.setG d (BitVec.ofNat 64 ((x.g a).toNat * (x.g b).toNat / 2 ^ 64)))) ∧
    exec (.mad g d a b c) s =
      .next (s.retired x (x.setG d (BitVec.ofNat 64 ((x.g a).toNat * (x.g b).toNat + (x.g c).toNat)))) ∧
    exec (.addsh g d a b n) s = .next (s.retired x (x.setG d (BitVec.ofNat 64 ((x.g a).toNat + (x.g b).toNat * 2 ^ n.toNat)))) ∧
    exec (.addi g d a imm) s = .next (s.retired x (x.setG d (BitVec.ofInt 64 ((x.g a).toInt + imm.toInt))))

/-- R74: Quotients and remainders, signed toward zero; a divisor of zero gives all ones and the dividend, and the most negative number divided
by -1 gives itself and a remainder of zero. None of them traps. -/
def Obligations.DivisionCompletes : Prop :=
  ∀ (s : State) (x : Ctx) (g : Guard) (d a b : Reg), s.ready x g →
    exec (.div g d a b) s = .next (s.retired x (x.setG d
      (if x.g b = 0 then 0xFFFFFFFFFFFFFFFF else BitVec.ofInt 64 ((x.g a).toInt.tdiv (x.g b).toInt)))) ∧
    exec (.divz g d a b) s = .next (s.retired x (x.setG d
      (if x.g b = 0 then 0xFFFFFFFFFFFFFFFF else BitVec.ofNat 64 ((x.g a).toNat / (x.g b).toNat)))) ∧
    exec (.rem g d a b) s = .next (s.retired x (x.setG d
      (if x.g b = 0 then x.g a else BitVec.ofInt 64 ((x.g a).toInt.tmod (x.g b).toInt)))) ∧
    exec (.remz g d a b) s = .next (s.retired x (x.setG d
      (if x.g b = 0 then x.g a else BitVec.ofNat 64 ((x.g a).toNat % (x.g b).toNat)))) ∧
    (x.g a = 0x8000000000000000 → x.g b = 0xFFFFFFFFFFFFFFFF →
      exec (.div g d a b) s = .next (s.retired x (x.setG d 0x8000000000000000)) ∧
      exec (.rem g d a b) s = .next (s.retired x (x.setG d 0)))

/-- R73, R75, R73, R76: The bitwise operations; SHL, SHR and SHA by the low six bits of g[b] or by the immediate, SHA copying the sign; ROT
moves bits out of the low end into the high end. MIN and MAX as signed numbers, MIN.z and MAX.z as unsigned; CLZ counts the zeros above
the highest one and POPC the ones. BFX reads the field of w bits from bit p, w above 64 counting as 64 and a field of no bits reading
zero, and with .s extends its top bit; BFI replaces that field of the old destination and leaves the other bits. -/
def Obligations.OneWordResultsComplete : Prop :=
  (∀ (s : State) (x : Ctx) (g : Guard) (d a b : Reg) (n : BitVec 6), s.ready x g →
    let k := (x.g b).toNat % 64
    (∃ v : Word, exec (.and g d a b) s = .next (s.retired x (x.setG d v)) ∧
      ∀ i, v.getLsbD i = ((x.g a).getLsbD i && (x.g b).getLsbD i)) ∧
    (∃ v : Word, exec (.or g d a b) s = .next (s.retired x (x.setG d v)) ∧
      ∀ i, v.getLsbD i = ((x.g a).getLsbD i || (x.g b).getLsbD i)) ∧
    (∃ v : Word, exec (.xor g d a b) s = .next (s.retired x (x.setG d v)) ∧
      ∀ i, v.getLsbD i = ((x.g a).getLsbD i ^^ (x.g b).getLsbD i)) ∧
    (∃ v : Word, exec (.andn g d a b) s = .next (s.retired x (x.setG d v)) ∧
      ∀ i, v.getLsbD i = ((x.g a).getLsbD i && !(x.g b).getLsbD i)) ∧
    exec (.shlReg g d a b) s = .next (s.retired x (x.setG d (BitVec.ofNat 64 ((x.g a).toNat * 2 ^ k)))) ∧
    exec (.shrReg g d a b) s = .next (s.retired x (x.setG d (BitVec.ofNat 64 ((x.g a).toNat / 2 ^ k)))) ∧
    exec (.shaReg g d a b) s = .next (s.retired x (x.setG d (BitVec.ofInt 64 ((x.g a).toInt / 2 ^ k)))) ∧
    exec (.rotReg g d a b) s = .next (s.retired x (x.setG d ((x.g a).rotateRight k))) ∧
    exec (.shlImm g d a n) s = .next (s.retired x (x.setG d (BitVec.ofNat 64 ((x.g a).toNat * 2 ^ n.toNat)))) ∧
    exec (.shrImm g d a n) s = .next (s.retired x (x.setG d (BitVec.ofNat 64 ((x.g a).toNat / 2 ^ n.toNat)))) ∧
    exec (.shaImm g d a n) s = .next (s.retired x (x.setG d (BitVec.ofInt 64 ((x.g a).toInt / 2 ^ n.toNat)))) ∧
    exec (.rotImm g d a n) s = .next (s.retired x (x.setG d ((x.g a).rotateRight n.toNat)))) ∧
  (∀ (s : State) (x : Ctx) (g : Guard) (d a b : Reg), s.ready x g →
    exec (.min g d a b) s = .next (s.retired x (x.setG d (BitVec.ofInt 64 (min (x.g a).toInt (x.g b).toInt)))) ∧
    exec (.max g d a b) s = .next (s.retired x (x.setG d (BitVec.ofInt 64 (max (x.g a).toInt (x.g b).toInt)))) ∧
    exec (.minz g d a b) s = .next (s.retired x (x.setG d (BitVec.ofNat 64 (min (x.g a).toNat (x.g b).toNat)))) ∧
    exec (.maxz g d a b) s = .next (s.retired x (x.setG d (BitVec.ofNat 64 (max (x.g a).toNat (x.g b).toNat)))) ∧
    (∃ n, n ≤ 64 ∧ exec (.clz g d a) s = .next (s.retired x (x.setG d (BitVec.ofNat 64 n))) ∧
      (x.g a).toNat < 2 ^ (64 - n) ∧ (n < 64 → 2 ^ (63 - n) ≤ (x.g a).toNat)) ∧
    exec (.popc g d a) s = .next (s.retired x (x.setG d
      (BitVec.ofNat 64 ((List.range 64).countP fun i => (x.g a).getLsbD i))))) ∧
  (∀ (s : State) (x : Ctx) (g : Guard) (d a b c : Reg), s.ready x g →
    let p := (x.g b).toNat % 64
    let w := min ((x.g c).toNat % 128) 64
    exec (.bfx g d a b c) s = .next (s.retired x (x.setG d (BitVec.ofNat 64 ((x.g a).toNat / 2 ^ p % 2 ^ w)))) ∧
    (∃ v : Word, exec (.bfxS g d a b c) s = .next (s.retired x (x.setG d v)) ∧
      ∀ i, i < 64 → v.getLsbD i =
        if i < w then (x.g a).getLsbD (p + i) else decide (0 < w) && (x.g a).getLsbD (p + w - 1)) ∧
    (∃ v : Word, exec (.bfi g d a b c) s = .next (s.retired x (x.setG d v)) ∧
      ∀ i, i < 64 → v.getLsbD i = if p ≤ i ∧ i < p + w then (x.g a).getLsbD (i - p) else (x.g d).getLsbD i))

/-- R26, R49, R73, R77, R80, R78, R79: SEL chooses by a predicate; MOVI extends its immediate; MOVHI replaces the upper half of its
destination; PAND, POR and PNOT combine predicates, each source inverted where its bit says so. p0 reads 1, a write to it is discarded and
changes nothing of the task, and a write to another predicate changes that one alone. CMP writes p[pd] with the condition between its
sources, signed for LT to GT and unsigned for the .z forms; TST holds when the sources share a one. -/
def Obligations.ComparesAndSelectsComplete : Prop :=
  ((∀ (x : Ctx) (r d : Pred) (v : Bool), x.p 0 = true ∧ x.setP 0 v = x ∧ (x.setP d v).p r = (if r = d ∧ d ≠ 0 then v else x.p r) ∧
    x.setP d v = { x with preds := (x.setP d v).preds }) ∧
  ∀ (s : State) (x : Ctx) (g : Guard) (d a b : Reg) (pd pa pb : Pred) (na nb : Bool) (imm : BitVec 32), s.ready x g →
    exec (.sel g d pa a b) s = .next (s.retired x (x.setG d (if x.p pa then x.g a else x.g b))) ∧
    exec (.movi g d imm) s = .next (s.retired x (x.setG d (BitVec.ofInt 64 imm.toInt))) ∧
    exec (.movhi g d imm) s =
      .next (s.retired x (x.setG d (BitVec.ofNat 64 (imm.toNat * 2 ^ 32 + (x.g d).toNat % 2 ^ 32)))) ∧
    exec (.pand g pd pa pb na nb) s = .next (s.retired x (x.setP pd ((x.p pa != na) && (x.p pb != nb)))) ∧
    exec (.por g pd pa pb na nb) s = .next (s.retired x (x.setP pd ((x.p pa != na) || (x.p pb != nb)))) ∧
    exec (.pnot g pd pa) s = .next (s.retired x (x.setP pd (!x.p pa)))) ∧
  (∀ (s : State) (x : Ctx) (g : Guard) (pd : Pred) (a b : Reg) (cond : Cond), s.ready x g →
    exec (.cmp g pd a b cond) s = .next (s.retired x (x.setP pd (match cond with
      | .eq => decide (x.g a = x.g b)
      | .ne => decide (x.g a ≠ x.g b)
      | .lt => decide ((x.g a).toInt < (x.g b).toInt)
      | .ge => decide ((x.g a).toInt ≥ (x.g b).toInt)
      | .le => decide ((x.g a).toInt ≤ (x.g b).toInt)
      | .gt => decide ((x.g a).toInt > (x.g b).toInt)
      | .ltz => decide ((x.g a).toNat < (x.g b).toNat)
      | .gez => decide ((x.g a).toNat ≥ (x.g b).toNat)
      | .lez => decide ((x.g a).toNat ≤ (x.g b).toNat)
      | .gtz => decide ((x.g a).toNat > (x.g b).toNat)
      | .tst => (List.range 64).any fun i => (x.g a).getLsbD i && (x.g b).getLsbD i
      | .ntst => !(List.range 64).any fun i => (x.g a).getLsbD i && (x.g b).getLsbD i))))

/-- R81 to R84, R104, R85, R86: BR, JAL and BRC go to PC + 8 times their offset, JR to g[a]; JAL links in g63 and JR in g[d] with the address
of the next word; BRC.l1 ends level 1 and BRC.all both levels. A hint changes nothing but the PC. No loop step follows a taken transfer.
LOOP and LOOPI set the start, end, count and reload of their level, whatever state it was in; a count of zero is a taken transfer to the
word after the body. -/
def Obligations.TransfersAndLoopsComplete : Prop :=
  (∀ (s : State) (x : Ctx) (g : Guard) (d a : Reg) (off : BitVec 40), s.ready x g →
    let far := BitVec.ofInt 64 (x.pc.toInt + 8 * off.toInt)
    exec (.br g off) s = .next (s.jumped x x far) ∧
    exec (.jal g off) s = .next (s.jumped x (x.setG 63 (x.pc + 8)) far) ∧
    ((x.g a).toNat % 8 = 0 → exec (.jr g d a) s = .next (s.jumped x (x.setG d (x.pc + 8)) (x.g a))) ∧
    ((x.g a).toNat % 8 ≠ 0 → exec (.jr g d a) s = .next (s.trapped x (.jr g d a) .align (x.g a))) ∧
    exec (.brcL1 g off) s = .next (s.jumped x { x with loop1 := { x.loop1 with count := 0 } } far) ∧
    exec (.brcAll g off) s = .next (s.jumped x
      { x with loop0 := { x.loop0 with count := 0 }, loop1 := { x.loop1 with count := 0 } } far) ∧
    exec (.hintSpin g) s = .next (s.retired x x) ∧
    exec (.hintPf g off) s = .next (s.retired x x)) ∧
  (∀ (s : State) (x : Ctx) (g : Guard) (a : Reg) (len : BitVec 10) (cnt : BitVec 22), s.ready x g →
    let last := x.pc + BitVec.ofNat 64 (8 * (len.toNat + 1))
    let l (n : BitVec 32) : LoopLevel := ⟨x.pc + 8, last, n, n⟩
    let low : BitVec 32 := BitVec.ofNat 32 (x.g a).toNat
    let imm : BitVec 32 := BitVec.ofNat 32 cnt.toNat
    exec (.loop g false a len) s = .next
      (if low = 0 then s.jumped x { x with loop0 := l low } (last + 8) else s.retired x { x with loop0 := l low }) ∧
    exec (.loop g true a len) s = .next
      (if low = 0 then s.jumped x { x with loop1 := l low } (last + 8) else s.retired x { x with loop1 := l low }) ∧
    exec (.loopi g false len cnt) s = .next
      (if imm = 0 then s.jumped x { x with loop0 := l imm } (last + 8) else s.retired x { x with loop0 := l imm }) ∧
    exec (.loopi g true len cnt) s = .next
      (if imm = 0 then s.jumped x { x with loop1 := l imm } (last + 8) else s.retired x { x with loop1 := l imm }))

/-- R86 to R89: The loop step, which every completion without a taken transfer takes: with both levels ending at the address the inner count
falls first, and the outer one only when it has reached zero, which reloads the inner count; in a task-mode handler, and where no active
level ends there, the PC is the next word; what an interrupted MMA, MMAS or ATTN of that level kept is gone. NOP completes so, and changes
nothing else. -/
def Obligations.LoopStepFollows : Prop :=
  (∀ (s : State) (x : Ctx) (g : Guard), s.ready x g → exec (.nop g) s = .next (s.retired x x)) ∧
  (∀ (s : State) (x z : Ctx), s.retired x z = (s.setCtx (z.complete .seq)).consume (s.me x)) ∧
  ∀ x : Ctx,
    let y := x.complete .seq
    let inner := x.th = false ∧ x.loop1.count ≠ 0 ∧ x.pc = x.loop1.last
    let outer := x.th = false ∧ x.loop0.count ≠ 0 ∧ x.pc = x.loop0.last
    y = { x with pc := y.pc, loop0 := { x.loop0 with count := y.loop0.count }, loop1 := { x.loop1 with count := y.loop1.count },
                 issued := x.issued + 1, wait := .none, mma := tabDel x.mma x.th.toNat, attn := tabDel x.attn x.th.toNat } ∧
    (¬inner → ¬outer → y.pc = x.pc + 8 ∧ y.loop1.count = x.loop1.count ∧ y.loop0.count = x.loop0.count) ∧
    (inner → x.loop1.count ≠ 1 →
      y.pc = x.loop1.first ∧ y.loop1.count = x.loop1.count - 1 ∧ y.loop0.count = x.loop0.count) ∧
    (inner → x.loop1.count = 1 → ¬outer → y.pc = x.pc + 8 ∧ y.loop1.count = 0 ∧ y.loop0.count = x.loop0.count) ∧
    (inner → x.loop1.count = 1 → outer → x.loop0.count ≠ 1 →
      y.pc = x.loop0.first ∧ y.loop1.count = x.loop1.reload ∧ y.loop0.count = x.loop0.count - 1) ∧
    (inner → x.loop1.count = 1 → outer → x.loop0.count = 1 → y.pc = x.pc + 8 ∧ y.loop1.count = 0 ∧ y.loop0.count = 0) ∧
    (¬inner → outer → y.loop1.count = x.loop1.count ∧ y.loop0.count = x.loop0.count - 1 ∧
      y.pc = if x.loop0.count = 1 then x.pc + 8 else x.loop0.first)

/-- R30, R90, R91: An aligned LD.sp within the claim reads the scratchpad at its effective address, extends the value as its form says, and
writes g[d], or the pair for .q; an aligned ST.sp puts its bytes there, the least significant first. -/
def Obligations.ScratchpadAccessesComplete : Prop :=
  ∀ (s : State) (x : Ctx) (g : Guard) (d : Reg) (m : MemOp) (sx : Bool) (sz : Size), s.ready x g →
    let n := sizeBytes sz
    let o := (x.ea m).toNat
    let bs := Memory.bytes (s.core s.cur).spad o n
    let v := leNat bs
    let out := if sz = .q then natLe 8 (x.g d).toNat ++ natLe 8 (x.g (pairHi d)).toNat else natLe n (x.g d).toNat
    o % n = 0 → o + n ≤ x.spadBytes → (s.core s.cur).spadReady o n = true →
    ((s.core s.cur).spadPoisoned o n = false →
      exec (.ld g d m true sx sz) s = .next (s.retired x
        (if sz = .q then (x.setG d (leWord (bs.take 8))).setG (pairHi d) (leWord (bs.drop 8))
         else x.setG d (if sx = true ∧ 2 ^ (8 * n - 1) ≤ v then BitVec.ofInt 64 (v - 2 ^ (8 * n)) else BitVec.ofNat 64 v)))) ∧
    exec (.st g d m true sz) s = .next ((s.setCore s.cur ((s.core s.cur).putSpad o out)).ended s x)

/-- R45, R90 to R92: An aligned global LD whose access succeeds writes what it read; an aligned global ST whose access succeeds leaves the
machine as that access does. -/
def Obligations.GlobalAccessesComplete : Prop :=
  ∀ (s t : State) (x : Ctx) (g : Guard) (d : Reg) (m : MemOp) (sx : Bool) (sz : Size) (bs : List Byte), s.ready x g →
    (x.ea m).toNat % sizeBytes sz = 0 →
    (s.load (s.me x) (x.ea m) (sizeBytes sz) = .ok (t, bs) →
      exec (.ld g d m false sx sz) s = .next ((t.setCtx ((t.now x).setLoaded d sx sz bs)).ended s x)) ∧
    (s.store (s.me x) (x.ea m) (x.storeBytes d sz) = .ok t → exec (.st g d m false sz) s = .next (t.ended s x))

/-- R30, R91: A misaligned LD or ST takes ALIGN with the effective address as its value, before anything else; one that passes the end of the
claim takes PROT; and nothing is read or written. -/
def Obligations.MisusedAccessesTrap : Prop :=
  ∀ (s : State) (x : Ctx) (g : Guard) (d : Reg) (m : MemOp) (sp sx : Bool) (sz : Size), s.ready x g →
    let n := sizeBytes sz
    let ea := x.ea m
    (ea.toNat % n ≠ 0 →
      exec (.ld g d m sp sx sz) s = .next (s.trapped x (.ld g d m sp sx sz) .align ea) ∧
      exec (.st g d m sp sz) s = .next (s.trapped x (.st g d m sp sz) .align ea)) ∧
    (ea.toNat % n = 0 → x.spadBytes < ea.toNat + n →
      exec (.ld g d m true sx sz) s = .next (s.trapped x (.ld g d m true sx sz) .prot ea) ∧
      exec (.st g d m true sz) s = .next (s.trapped x (.st g d m true sz) .prot ea))

/-- R94, R96, R7, R96, R97, R127, R129, R233, R256, R261, R383, R429, R451, R465: CSRR writes g[d] with the register as it reads; CSRW writes
g[a], .set ORs it in and .clr clears the bits set in it. A register the map does not assign takes ILLEGAL. REGISTER_WRITE is the effect of
such a write alone. What a register of the issuing core reads, and what one holds after a write: a read-write register the bits of its
field with the reserved ones zero, and a read-only one what it held. CC_STATUS takes SH alone, from a supervisor, and PRT_AROOT reads what
was written last. The model's own are: ROOT and V standing beside the table, for an entry in device memory, until an invalidation covers
the ASID (log entries 6 and 42), CC_THV and CC_SVEC holding all their bits (47), an AGEQ or DRAINT of 0 returned as 1 (31), and the one
FRR_SEL and the wait of a format register's write at .fab (51). -/
def Obligations.RegisterSpaceAccessesComplete : Prop :=
  (∀ (s t : State) (x : Ctx) (g : Guard) (d a : Reg) (n : BitVec 12) (v old : Word), s.ready x g →
    (csrPriv n.toNat = true → x.sup = true) →
    (Csr.assigned n = true →
      (s.csrRead x n.toNat = .ok (t, v) → exec (.csrr g d n) s = .next ((t.setCtx ((t.now x).setG d v)).ended s x)) ∧
      (s.csrWrite x (encode (.csrw g n a)) n.toNat (x.g a) = .ok t → exec (.csrw g n a) s = .next (t.ended s x)) ∧
      (s.csrOld x n.toNat = .ok old → s.csrWrite x (encode (.csrwSet g n a)) n.toNat (old ||| x.g a) = .ok t →
        exec (.csrwSet g n a) s = .next (t.ended s x)) ∧
      (s.csrOld x n.toNat = .ok old → s.csrWrite x (encode (.csrwClr g n a)) n.toNat (old &&& ~~~(x.g a)) = .ok t →
        exec (.csrwClr g n a) s = .next (t.ended s x))) ∧
    (Csr.assigned n = false → exec (.csrr g d n) s = .next (s.trapped x (.csrr g d n) .illegal (encode (.csrr g d n)))) ∧
    (s.csrWrite x 0 n.toNat v = .ok t → exec (.registerWrite n v) s = .next t)) ∧
  ((∀ (s : State) (x : Ctx) (q : Partition), s.part x.part = some q →
    (∀ e ∈ ([(0x002, x.cycle), (0x003, x.issued), (0x004, s.time), (0x008, x.loop0.first), (0x009, x.loop0.last),
        (0x00A, x.loop0.count.setWidth 64), (0x00B, x.loop0.reload.setWidth 64), (0x00C, x.loop1.first), (0x00D, x.loop1.last),
        (0x00E, x.loop1.count.setWidth 64), (0x00F, x.loop1.reload.setWidth 64), (0x010, x.thv), (0x011, x.tepc), (0x012, x.tcause),
        (0x013, x.tval), (0x020, x.svec), (0x021, x.epc), (0x022, x.cause), (0x023, x.stval), (0x024, x.sword), (0x025, x.sscr),
        (0x0F0, x.lkc), (0x200, x.node), (0x201, x.rslot), (0x202, x.prio.setWidth 64), (0x206, s.keyBase), (0x280, x.fr.fr0),
        (0x281, x.fr.fr1), (0x282, x.fr.fr2), (0x283, x.fr.fr3), (0x284, s.atBase), (0x285, q.asel.setWidth 64), (0x287, q.inv),
        (0x288, if q.invBusy then 1 else 0), (0x28A, q.fqBase), (0x28B, q.fqLen.setWidth 64), (0x28C, q.fqHead.setWidth 64),
        (0x28D, q.fqTail.setWidth 64), (0x290, 0), (0x293, q.popVa), (0x296, q.popSt), (0x2A0, q.geom), (0x2A3, 0x180000), (0x2A4, 0),
        (0x2AD, 0), (0x2AF, 0x181000), (0x380, s.hifStatus), (0x381, s.hifErr.setWidth 64), (0x382, s.pwrLim.setWidth 64),
        (0x383, s.pwr.setWidth 64), (0x402, (s.device.getD 0).setWidth 64)] : List (Nat × Word)),
      s.csrRead x e.1 = .ok (s, e.2)) ∧
    (∀ v, s.csrRead x 0x001 = .ok (s, v) → v.toNat = x.th.toNat * 128 + x.sh.toNat * 64 + x.sup.toNat * 32 + x.ev.toNat * 16 +
      (if x.loop1.count = 0 then 0 else 8) + (if x.loop0.count = 0 then 0 else 4) + (if (s.core s.cur).night.isSome then 2 else 0))) ∧
  (∀ (s : State) (x : Ctx) (q : Partition) (word v : Word), s.ctx = some x → x.sup = true → s.part x.part = some q →
    (∀ e ∈ ([(0x008, ~~~7), (0x009, ~~~7), (0x00A, 0xFFFFFFFF), (0x00B, 0xFFFFFFFF), (0x00C, ~~~7), (0x00D, ~~~7), (0x00E, 0xFFFFFFFF),
        (0x00F, 0xFFFFFFFF), (0x010, ~~~0), (0x011, ~~~0), (0x020, ~~~0), (0x021, ~~~0), (0x025, ~~~0), (0x0F0, 0x3FFFFFFFFFFFFF),
        (0x204, 0xFF), (0x285, 0x1FFF), (0x28E, 0x7FF), (0x291, 0x133F), (0x293, 0xFFFFFFFFF0000), (0x294, 0xFFFFFFFFFF00),
        (0x2A9, 0xFF), (0x2AC, 0xFFFFFFFFF000), (0x400, 0x3F)] : List (Nat × Word)),
      ∃ t, s.csrWrite x word e.1 v = .ok t ∧ t.csrRead (t.now x) e.1 = .ok (t, v &&& e.2)) ∧
    (∀ n, n = 0x203 ∨ n = 0x289 → ∃ t, s.csrWrite x word n v = .ok t ∧
      t.csrRead x n = .ok (t, if v &&& 0xFFFFFFFF = 0 then 1 else v &&& 0xFFFFFFFF)) ∧
    (q.fqHead = q.fqTail → ∃ t, s.csrWrite x word 0x28A v = .ok t ∧ t.csrRead x 0x28A = .ok (t, v &&& 0xFFFFFFFFFFE0)) ∧
    (q.fqHead ≠ q.fqTail → s.csrWrite x word 0x28A v = trapWith .prot 0x28A ∧ s.csrWrite x word 0x28B v = trapWith .prot 0x28B) ∧
    (s.anyNight q = false → ∃ t, s.csrWrite x word 0x2A2 v = .ok t ∧ t.csrRead x 0x2A2 = .ok (t, v &&& 0xFFFFFFFFF000)) ∧
    (s.anyNight q = true → s.csrWrite x word 0x2A2 v = trapWith .prot 0x2A2) ∧
    (let a := s.asidAddr q.asel 0
     let m := (s.recall (lineOf a)).mem
     let e := leWord (Memory.bytes m a 8)
     s.region a = .hbm → s.sectorPoisoned a = false →
      (entryPart e = x.part → ∃ t t', s.csrWrite x word 0x286 v = .ok t ∧ t.roots = s.roots ∧ t.mem = m ∧
        tabGet t.rootsNext q.asel.toNat = some (v &&& 0xFFFFFFFF0001) ∧ t.csrRead (t.now x) 0x286 = .ok (t', v &&& 0xFFFFFFFF0001)) ∧
      (entryPart e ≠ x.part → ∃ t : Trap, t.code = .prot ∧ t.val = 0x286 ∧
        s.csrWrite x word 0x286 v = .error (.trap t) ∧ s.csrRead x 0x286 = .error (.trap t))) ∧
    (∀ r n, s.range s.frrSel.toNat = r → r.owner = x.part % 64 → r.en = false → s.performed (s.me x) .fab = true →
      (∀ e ∈ ([(0x302, 0xFFFFFFFFFF00), (0x303, 0xFFFFFFFFFF), (0x304, 0xFFFFFFFF0000), (0x305, 0xFFFFFFFFFFC0),
          (0x306, 0xFFFFFFFFFFF8), (0x307, 0xFF), (0x308, 0xFFFFFFFF)] : List (Nat × Word)),
        n = e.1 → ∃ t, s.csrWrite x word n v = .ok t ∧ t.csrRead x n = .ok (t, v &&& e.2))) ∧
    (∃ y, s.csrWrite x word 0x001 v = .ok (s.setCtx y) ∧ y = { x with sh := v.getLsbD 6 }) ∧
    (∀ n ∈ ([0x002, 0x003, 0x004, 0x012, 0x013, 0x022, 0x023, 0x024] : List Nat), s.csrWrite x word n v = .ok (s.setCtx x)) ∧
    (∀ n ∈ ([0x100, 0x101, 0x102, 0x103, 0x200, 0x201, 0x202, 0x206, 0x280, 0x281, 0x282, 0x283, 0x284, 0x288, 0x28D, 0x292, 0x296,
      0x2A0, 0x2A1, 0x2A3, 0x2A5, 0x2A7, 0x2AA, 0x2AB, 0x2AE, 0x2AF, 0x380, 0x381, 0x382, 0x383, 0x401, 0x402] : List Nat),
      s.csrWrite x word n v = .ok s)) ∧
  ∀ (s : State) (x : Ctx) (word v : Word), x.sup = false → s.csrWrite x word 0x001 v = .ok (s.setCtx x))

/-- R88, R98, R99, R62, R63, R254, R255: TRAP completes and then takes SWTRAP with its code; ERET sets PC to CC_EPC and clears SH; ERET.task
sets PC to CC_TEPC and clears TH, and takes ILLEGAL while TH is 0; a target that is not a multiple of 8 takes ALIGN. A word that is not
accepted takes ILLEGAL with the word as its value, whatever its guard would be, and a fetch that fails takes PAGE or PROT with the PC as
its value; the resume address is the PC. -/
def Obligations.TrapsAndReturnsComplete : Prop :=
  (∀ (s : State) (x : Ctx) (g : Guard) (code : BitVec 16), s.ready x g →
    (let y := x.complete .seq
     exec (.trap g code) s = .next ((s.consume (s.me x)).takeTrap s.cur y
      ⟨.swtrap, BitVec.ofNat 64 code.toNat, 0, none, 0xFF, 0xF, 0, false, []⟩ (encode (.trap g code)) y.pc false)) ∧
    (x.sup = true → x.epc.toNat % 8 = 0 → exec (.eret g) s = .next (s.jumped x { x with sh := false } x.epc)) ∧
    (x.sup = true → x.epc.toNat % 8 ≠ 0 → exec (.eret g) s = .next (s.trapped x (.eret g) .align x.epc)) ∧
    (x.th = true → x.tepc.toNat % 8 = 0 → exec (.eretTask g) s = .next (s.jumped x { x with th := false } x.tepc)) ∧
    (x.th = true → x.tepc.toNat % 8 ≠ 0 → exec (.eretTask g) s = .next (s.trapped x (.eretTask g) .align x.tepc)) ∧
    (x.th = false → exec (.eretTask g) s = .next (s.trapped x (.eretTask g) .illegal (encode (.eretTask g))))) ∧
  (∀ (s : State) (x : Ctx) (w : Word) (prot : Bool) (sub : Byte), s.ctx = some x → x.issues = true →
    exec (.illegalWord w) s = .next (s.takeTrap s.cur x ⟨.illegal, w, 0, none, 0xFF, 0xF, 0, false, []⟩ w x.pc false) ∧
    exec (.instructionFetchFault prot sub) s = .next (s.takeTrap s.cur x
      ⟨if prot then .prot else .page, x.pc, sub, none, 0xFF, 0xF, 0, false, []⟩ 0 x.pc false))

/-- R101 to R103: WFE returns at once on EV and clears it, and else waits; it returns once its limit has passed since it began to wait, and
with a limit of 0 never, and observes the release of an event that has come meanwhile. SEV sends an event to the cores it names, as a
release of its issuer; an event arrives once the stores of its issuer have been performed, and then sets EV for both tasks of its core.
SEV.one of a core outside the partition takes PROT. -/
def Obligations.EventsComplete : Prop :=
  (∀ (s : State) (x : Ctx) (g : Guard) (limit : BitVec 40) (core : BitVec 10), s.ready x g →
    let sent := fun (l : List Nat) => { s with events := s.events ++ l.map fun n => Event.mk n (s.release (s.me x)) }.ended s x
    (x.ev = true → exec (.wfe g limit) s = .next (((s.acquire (s.me x) (.event s.cur)).setCtx { x with ev := false }).ended s x)) ∧
    (x.ev = false → exec (.wfe g limit) s = .next (s.setCtx { x with wait := .event limit.toNat x.waitStart })) ∧
    exec (.sevAll g) s = .next (sent ((s.partCores x).filter (· != s.cur))) ∧
    exec (.sevClus g) s = .next (sent (([0, 1, 32, 33].map (coreIn (coreCluster s.cur))).filter (· != s.cur))) ∧
    (∀ n, s.physicalCore x.part core.toNat = some n → exec (.sevOne g core) s = .next (sent [n])) ∧
    (s.physicalCore x.part core.toNat = none →
      exec (.sevOne g core) s = .next (s.trapped x (.sevOne g core) .prot (BitVec.ofNat 64 core.toNat)))) ∧
  (∀ (s : State) (e : Event), s.alive = true →
    (s.events.find? s.eventReady = none → exec .sevDelivery s = .next s) ∧
    (s.events.find? s.eventReady = some e → ∃ t, exec .sevDelivery s = .next t ∧
      t.events = s.events.erase e ∧ t.mem = s.mem ∧ (∀ k, k ≠ e.core → t.core k = s.core k) ∧
      (∀ x, (s.core e.core).day = some x → (t.core e.core).day = some { x with ev := true }) ∧
      (∀ x, (s.core e.core).night = some x → (t.core e.core).night = some { x with ev := true }))) ∧
  (∀ (s : State) (c : Nat) (x : Ctx) (limit : Nat) (since : Word), (s.core c).day = some x → s.alive = true → x.issues = true →
    x.wait = .event limit since →
    exec (.wfeTimeout c) s = .next (if limit ≠ 0 ∧ limit ≤ (x.cycle - since).toNat then
      (if x.ev then s.acquire (coreAgent 0 c 0 x.id x.asid) (.event c) else s).setDay c (some ({ x with ev := false }.complete .seq))
      else s))

/-- R143 to R147, R163, R141, R163, R164: MMA and MMAS over scratchpad operands add, to each element of the output columns, K products in
groups of sixteen, each group with one rounding; of MMAS the B element of a dense row is the compressed row that its metadata names, or
zero. One that was interrupted goes on from its next group. Where a dusk has been asked for, one group at least is added before the task
stops, with the next group saved. How many groups pass before such a stop, and the scales of a half block of compressed rows of MMAS, are
the model's choice (log entries 49 and 50). An MMA whose A, B or both come from channels goes on from what was saved of it. Of each group
it takes the words its channels hold; a whole group is added, with one rounding, and the next one begins; words that run short are kept
and the task waits; a token that is not DATA takes SHAPE, with the groups added standing and their number in FR2, one that stands behind a
group's last word too while the other pair is short; when the depth is reached it completes, and where a dusk has been asked for it stops
after one group at least, with what it has taken saved. What a trap keeps of a group that is not whole, and the groups before a dusk's
stop, are the model's choice (log entry 49). -/
def Obligations.MatrixProductsComplete : Prop :=
  ((∀ x : Ctx, (∀ m, tabGet x.mma x.th.toNat = some m → m.pc ≠ x.pc) → x.mmaSaved = ⟨x.pc, 0, [], []⟩) ∧
  ∀ (s : State) (x : Ctx) (g : Guard) (d a b c : Reg) (ty : Ty) (bt : Bool) (cols : Cols) (da db : Desc) (k off : Nat),
    s.ready x g → a ≠ 0 → b ≠ 0 → s.mayUse x d cols → cols.n % 16 = 0 → cols.n ≤ 128 → x.holdsDesc a da → x.holdsDesc b db →
    k < 2 ^ 32 → claimA x da ty k = .ok () → s.readyA x da ty k = .ok () →
    let m := (s.core s.cur).spad
    let done := x.mmaSaved.done
    let left := k / 16 - done
    let va := fun i q => scaled (da.elem m (aType ty) i q) (da.scaleOf m 32 k i q)
    let sum := fun (vb : Nat → Nat → FVal) n => s.setCore s.cur ((s.core s.cur).mapCols cols.first cols.n fun i j =>
      addProducts (fun q => (va i q).mul (vb q j)) done n ((s.core s.cur).accAt i (cols.first + j)))
    let ends := fun (vb : Nat → Nat → FVal) (o : Out) =>
      ((s.core s.cur).asked = none → o = .next ((sum vb left).ended s x)) ∧
      ((s.core s.cur).asked ≠ none → 0 < left → ∃ n, 1 ≤ n ∧ n ≤ left ∧ o = .next (if n = left then (sum vb n).ended s x else
        ((sum vb n).setCtx { x.saveMma { x.mmaSaved with done := done + n } with wait := .operand }).consume (s.me x)))
    ((x.g c).toNat = k → depthOk ty (da.sc || db.sc) false k = true → claimB x db ty bt k cols.n = .ok () →
      s.readyB x db ty bt k cols.n = .ok () →
      ends (fun q j => scaled (bElem db m ty bt q j) (bScale db m ty bt k cols.n q j)) (exec (.mma g d a b c ty bt) s)) ∧
    ((x.g c).toNat = k + 2 ^ 32 * off → depthOk ty (da.sc || db.sc) true k = true → claimB x db ty bt (k / 2) cols.n = .ok () →
      s.readyB x db ty bt (k / 2) cols.n = .ok () →
      off % 16 = 0 → off + cols.n * (k / 8) ≤ x.spadBytes → (s.core s.cur).spadPoisoned off (cols.n * (k / 8)) = false →
      ends (fun q j => match sourceRow (nibble m off k j (q / 4)) (q / 4) (q % 4) with
        | some r => scaled (bElem db m ty bt r j) (bScale db m ty bt (k / 2) cols.n r j)
        | none => .fin false 0 0) (exec (.mmas g d a b c ty bt) s))) ∧
  ((∀ (s : State) (x : Ctx) (g : Guard) (d a b c : Reg) (ty : Ty) (bt : Bool) (cols : Cols) (k : Nat) (f : Fabric) (da db : Desc),
    s.ready x g → (a = 0 ∨ b = 0) → s.mayUse x d cols → cols.n % 16 = 0 → cols.n ≤ 128 → x.fabric = some f →
    (x.g c).toNat = k → k < 2 ^ 32 → depthOk ty (da.sc || db.sc) false k = true →
    (if a = 0 then f.wiredIn 80 0 = true ∧ f.wiredIn 80 1 = true ∧ da.sc = false
      else x.holdsDesc a da ∧ claimA x da ty k = .ok () ∧ s.readyA x da ty k = .ok ()) →
    (if b = 0 then f.wiredIn 81 0 = true ∧ f.wiredIn 81 1 = true ∧ db.sc = false
      else x.holdsDesc b db ∧ claimB x db ty bt k cols.n = .ok () ∧ s.readyB x db ty bt k cols.n = .ok ()) →
    let m := (s.core s.cur).spad
    let word := encode (.mma g d a b c ty bt)
    let va := fun i q => scaled (da.elem m (aType ty) i q) (da.scaleOf m 32 k i q)
    let vb := fun q j => scaled (bElem db m ty bt q j) (bScale db m ty bt k cols.n q j)
    let left := k / 16 - x.mmaSaved.done
    ∃ n, n ≤ left ∧ (0 < left → 1 ≤ n) ∧ ((s.core s.cur).asked = none → n = left) ∧ exec (.mma g d a b c ty bt) s =
      (let r := mmaGroups cols k ty (a == 0) (b == 0) va vb word n s x f x.mmaSaved
       .next ((r.1.consume (s.me x)).finish s.cur word r.2))) ∧
  (∀ (cols : Cols) (k : Nat) (ty : Ty) (chA chB : Bool) (a b : Nat → Nat → FVal) (word : Word) (s : State) (x : Ctx) (f : Fabric)
      (m : MmaSaved), m.done * 16 ≠ k → mmaGroups cols k ty chA chB a b word 0 s x f m =
    ((s.setCtx { x.saveMma m with fabric := some f, wait := .operand }).settle s.cur, .gone)) ∧
  ∀ (cols : Cols) (k fuel : Nat) (ty : Ty) (chA chB : Bool) (a b : Nat → Nat → FVal) (word : Word) (s : State) (x : Ctx) (f f1 f2 : Fabric)
      (m : MmaSaved) (ra rb : Taken) (wa wb : List (BitVec 32)),
    let run := mmaGroups cols k ty chA chB a b word (fuel + 1)
    (m.done * 16 = k → run s x f m = ((s.setCtx { x with fabric := some f }).settle s.cur, .seq)) ∧
    (m.done * 16 ≠ k →
      takeWords 80 (if chA then (16 * 128 * ty.bits / 32 - m.wa.length) / 2 else 0) f m.wa = (ra, f1, wa) →
      takeWords 81 (if chB then (16 * cols.n * ty.bits / 32 - m.wb.length) / 2 else 0) f1 m.wb = (rb, f2, wb) →
      let ahead := (m.done + 1) * 16 < k ∧ (chA = true ∧ ra = .all ∧ rb = .short ∧ f2.wrongHead 80 = true ∨
        chB = true ∧ rb = .all ∧ ra = .short ∧ f2.wrongHead 81 = true)
      (ra = .wrong ∨ rb = .wrong ∨ ahead → run s x f m = (((s.consume (s.me x)).takeTrap s.cur
        { x.saveMma ⟨m.pc, m.done, wa, wb⟩ with issued := x.issued + 1, fabric := some f2 }
        ⟨.shape, word, 0, some (BitVec.ofNat 64 m.done), 0xFF, 0xF, 0, false, []⟩ word x.pc false).settle s.cur, .gone)) ∧
      (ra ≠ .wrong → rb ≠ .wrong → ¬ahead → ra = .short ∨ rb = .short → run s x f m =
        ((s.setCtx { x.saveMma ⟨m.pc, m.done, wa, wb⟩ with fabric := some f2, wait := .operand }).settle s.cur, .gone)) ∧
      (ra = .all → rb = .all → run s x f m = mmaGroups cols k ty chA chB a b word fuel
        (s.addGroups cols m.done 1
          (fun i q => if chA then ty.value (((unpack ty.bits wa)[128 * (q % 16) + i]?).getD 0) else a i q)
          (fun q j => if chB then ty.value (((unpack ty.bits wb)[cols.n * (q % 16) + j]?).getD 0) else b q j))
        x f2 ⟨m.pc, m.done + 1, [], []⟩)))

/-- R147 to R149, R150, R151: PRUNE keeps, in each group of four dense rows of each column, the two elements of largest magnitude, and writes
their codes in ascending row as the compressed rows 2g and 2g + 1, and their rows in the nibble of the group; granules that it covers
whole lose their poison. Everything it reads was read before. MZERO zeroes the columns it names; MLD writes each of them with the tile's
elements, rounded and under their scales; MST writes the tile with the narrowed elements of its columns. Under .rsr the stream moves by
the blocks drawn. -/
def Obligations.TileInstructionsComplete : Prop :=
  (∀ (s : State) (x : Ctx) (g : Guard) (d a b c : Reg) (ty : Ty) (bt : Bool) (dd da : Desc) (n k off : Nat),
    s.ready x g → x.holdsDesc d dd → x.holdsDesc a da → dd.sc = false → da.sc = false → (x.g b).toNat = n → 16 ≤ n → n ≤ 128 →
    n % 16 = 0 → (x.g c).toNat = k + 2 ^ 32 * off → k < 2 ^ 32 → depthOk ty false true k = true → off % 16 = 0 →
    claimB x da ty bt k n = .ok () → s.readyB x da ty bt k n = .ok () →
    dd.claim x ty.bits (if bt then n else k / 2) (if bt then k / 2 else n) = .ok () →
    off + n * (k / 8) ≤ x.spadBytes →
    let o := s.core s.cur
    let place := fun (e : Desc) r j => if bt then e.bit ty.bits j r else e.bit ty.bits r j
    let code := fun r j => bitsAt o.spad (place da r j) ty.bits
    ∃ u v : Nat → Nat → Nat, (∀ j q, largestTwo (fun r => ty.value (code (4 * q + r) j)) (u j q) (v j q)) ∧
      exec (.prune g d a b c ty bt) s = .next ((s.setCore s.cur { o with
        spad := (((List.range n).flatMap fun j => (List.range (k / 4)).flatMap fun q =>
            [(place dd (2 * q) j, ty.bits, code (4 * q + u j q) j), (place dd (2 * q + 1) j, ty.bits, code (4 * q + v j q) j)]) ++
          (List.range n).flatMap fun j => (List.range (k / 4)).map fun q =>
            (8 * (off + j * (k / 8) + q / 2) + 4 * (q % 2), 4, u j q + 4 * v j q)).foldl (fun m (w, l, z) => putBits m w l z) o.spad
        poison := (rowsClean dd ty.bits (if bt then n else k / 2) (if bt then k / 2 else n) o.poison).filter fun p =>
          !((List.range (n * (k / 8) / 16)).any fun t => p == off / 16 + t) }).ended s x)) ∧
  (∀ (s : State) (x : Ctx) (g : Guard) (d a : Reg) (ty : Ty) (rnd : Rnd) (sat : Bool) (cols : Cols) (da : Desc), s.ready x g →
    let n := cols.n
    let c := s.core s.cur
    (s.mayUse x d cols →
      exec (.mzero g d) s = .next ((s.setCore s.cur (c.mapCols cols.first n fun _ _ => 0)).ended s x)) ∧
    (s.mayUse x d cols → x.holdsDesc a da → (da.sc = true → ty ≠ .s8 ∧ ty ≠ .s32 ∧ n % 32 = 0) → (ty = .e2m1 → n % 2 = 0) →
      da.claim x ty.bits 128 n = .ok () → c.spadReady 0 x.spadBytes = true → c.tilePoison da ty.bits 128 n = .ok () →
      (da.sc = true → da.scale + 128 * (n / 32) ≤ x.spadBytes ∧ c.spadPoisoned da.scale (128 * (n / 32)) = false) →
      exec (.mld g d a ty rnd) s = .next (((s.setCore s.cur (c.mapCols cols.first n fun i j =>
        f32Round rnd (x.drawFor rnd (i * n + j)) false
          (scaled (da.elem c.spad ty i j) (da.scaleOf c.spad 32 n i j)))).setCtx (x.drawn rnd (128 * n))).ended s x)) ∧
    (s.mayUse x a cols → x.holdsDesc d da → da.sc = false → (ty = .e2m1 → n % 2 = 0) → da.claim x ty.bits 128 n = .ok () →
      c.spadReady 0 x.spadBytes = true →
      exec (.mst g d a ty rnd sat) s = .next (((s.setCore s.cur { c with
        spad := putTile da ty.bits n (fun i j =>
          ty.narrow rnd (x.drawFor rnd (i * n + j)) sat (F32.val (c.accAt i (cols.first + j)))) c.spad
        poison := tileClean da ty.bits n c.poison }).setCtx (x.drawn rnd (128 * n))).ended s x)))

/-- R150 to R156: What writes accumulator columns writes, in each of the 128 rows, the columns of its range and no other element, and keeps
the store's canonical form. -/
def Obligations.ColumnWritesTouchTheirRange : Prop :=
  ∀ (c : Core) (first n : Nat) (f : Nat → Nat → BitVec 32), c.acc.wf = true →
    (c.mapCols first n f).acc.wf = true ∧ { c.mapCols first n f with acc := c.acc } = c ∧
    ∀ i j, i < 128 → (c.mapCols first n f).accAt i j = if first ≤ j ∧ j < first + n then f i (j - first) else c.accAt i j

/-- R152, R154, R158, R125, R126, R152: An element-wise instruction of two operands writes each element of its range with the result of the
old elements at that place, the second operand being a range, one column or one value; AFMA adds its third; under .rsr each element takes
its own draw. AMAX and AMIN draw nothing. A primitive or composition writes each element of its range with its function of the old element
at that place, bounded to the largest finite value under .sat; AMOV moves the bits. -/
def Obligations.ElementwiseVectorsComplete : Prop :=
  (∀ (s : State) (x : Ctx) (g : Guard) (d a b c : Reg) (form : OpForm) (rnd : Rnd) (sat : Bool) (dc ac cc : Cols) (bc : Option Cols),
    s.ready x g → s.mayUse x d dc → s.mayUse x a ac → ac.n = dc.n → s.mayTake x b form dc.n bc →
    let n := dc.n
    let o := s.core s.cur
    let p := fun r j => o.accAt r (ac.first + j)
    let q := fun r j => o.operandAt x b form bc r j
    let w := fun r j => x.drawFor rnd (r * n + j)
    let put := fun (f : Nat → Nat → F32) => s.setCore s.cur (o.mapCols dc.first n f)
    exec (.aadd g d a b form rnd sat) s = .next (((put fun r j =>
      f32Round rnd (w r j) sat ((F32.val (p r j)).add (F32.val (q r j)))).setCtx (x.drawn rnd (128 * n))).ended s x) ∧
    exec (.amul g d a b form rnd sat) s = .next (((put fun r j =>
      f32Round rnd (w r j) sat ((F32.val (p r j)).mul (F32.val (q r j)))).setCtx (x.drawn rnd (128 * n))).ended s x) ∧
    (s.mayUse x c cc → cc.n = n → exec (.afma g d a b c form rnd sat) s = .next (((put fun r j =>
      f32Round rnd (w r j) sat (((F32.val (p r j)).mul (F32.val (q r j))).add (F32.val (o.accAt r (cc.first + j))))).setCtx
        (x.drawn rnd (128 * n))).ended s x)) ∧
    exec (.amax g d a b form) s = .next ((put fun r j => f32Max (p r j) (q r j)).ended s x) ∧
    exec (.amin g d a b form) s = .next ((put fun r j => f32Min (p r j) (q r j)).ended s x)) ∧
  (∀ (s : State) (x : Ctx) (g : Guard) (d a : Reg) (sat : Bool) (dc ac : Cols),
    s.ready x g → s.mayUse x d dc → s.mayUse x a ac → ac.n = dc.n →
    let o := s.core s.cur
    let map := fun (f : F32 → F32) => (s.setCore s.cur (o.mapCols dc.first dc.n fun r j => f (o.accAt r (ac.first + j)))).ended s x
    exec (.aexp2 g d a sat) s = .next (map fun v => f32Sat sat (f32Exp2 v)) ∧
    exec (.alog2 g d a sat) s = .next (map fun v => f32Sat sat (f32Log2 v)) ∧
    exec (.arcp g d a sat) s = .next (map fun v => f32Sat sat (f32Rcp v)) ∧
    exec (.arsq g d a sat) s = .next (map fun v => f32Sat sat (f32Rsqrt v)) ∧
    exec (.asig g d a sat) s = .next (map fun v => f32Sat sat (f32Sig v)) ∧
    exec (.asigTanh g d a sat) s = .next (map fun v => f32Sat sat (f32Tanh v)) ∧
    exec (.asigSilu g d a sat) s = .next (map fun v => f32Sat sat (f32Silu v)) ∧
    exec (.asigExpe g d a sat) s = .next (map fun v => f32Sat sat (f32Expe v)) ∧
    exec (.amov g d a) s = .next (map id))

/-- R155, R156, R120, R157: ARED combines the columns of its range from the first on, one rounding for each addition, and a range of one
column gives it back; ABCAST repeats one column, 128 scratchpad values by row, or one scratchpad value for each column. ACVT writes, for
each group of a row, the scale byte of the group, and each element narrowed under that scale, or code zero with the NaN scale byte. -/
def Obligations.VectorMovesComplete : Prop :=
  (∀ (s : State) (x : Ctx) (g : Guard) (d a : Reg) (ty : Ty) (rnd : Rnd) (sat : Bool) (dc ac : Cols),
    s.ready x g → s.mayUse x d dc →
    let o := s.core s.cur
    let put := fun (f : Nat → Nat → F32) => s.setCore s.cur (o.mapCols dc.first dc.n f)
    (s.mayUse x a ac → dc.n = 1 →
      let m := ac.n - 1
      let red := fun (step : Nat → F32 → F32 → F32) r => (List.range m).foldl (fun v k =>
        step (x.drawFor rnd (r * m + k)) v (o.accAt r (ac.first + k + 1))) (o.accAt r ac.first)
      exec (.aredSum g d a rnd sat) s = .next (((put fun r _ => if m = 0 then satBits sat (o.accAt r ac.first)
        else f32Sat sat (red (fun w u v => f32Round rnd w false (u.val.add v.val)) r)).setCtx (x.drawn rnd (128 * m))).ended s x) ∧
      exec (.aredMax g d a) s = .next ((put fun r _ => if m = 0 then f32 (F32.val (o.accAt r ac.first))
        else red (fun _ => f32Max) r).ended s x) ∧
      exec (.aredMin g d a) s = .next ((put fun r _ => if m = 0 then f32 (F32.val (o.accAt r ac.first))
        else red (fun _ => f32Min) r).ended s x)) ∧
    (s.mayUse x a ac → ac.n = 1 → exec (.abcast g d a) s = .next ((put fun r _ => o.accAt r ac.first).ended s x)) ∧
    (let base := (x.g a).toNat
     let at' := fun i => asF32 ty (leNat (Memory.bytes o.spad (base + i * ty.bytes) ty.bytes))
     base < 2 ^ 32 → base % 16 = 0 →
     (base + 128 * ty.bytes ≤ x.spadBytes → o.spadReady base (128 * ty.bytes) = true →
       o.spadPoisoned base (128 * ty.bytes) = false → exec (.abcastRow g d a ty) s = .next ((put fun r _ => at' r).ended s x)) ∧
     (base + dc.n * ty.bytes ≤ x.spadBytes → o.spadReady base (dc.n * ty.bytes) = true →
       o.spadPoisoned base (dc.n * ty.bytes) = false → exec (.abcastColv g d a ty) s = .next ((put fun _ j => at' j).ended s x)))) ∧
  (∀ (s : State) (x : Ctx) (g : Guard) (d a b : Reg) (ty : Ty) (rnd : Rnd) (sat b32 : Bool) (dd : Desc) (ac : Cols) (o : Nat),
    s.ready x g → x.holdsDesc d dd → dd.sc = false → s.mayUse x a ac → (x.g b).toNat = o → o < 2 ^ 32 → o % 16 = 0 →
    (b32 = true → ac.n % 32 = 0) → (ty = .e2m1 → ac.n % 2 = 0) → dd.claim x ty.bits 128 ac.n = .ok () →
    let n := ac.n
    let grp := if b32 then 32 else n
    let c := s.core s.cur
    let val := fun r j => F32.val (c.accAt r (ac.first + j))
    let scale := fun r k => groupScale ty ((List.range grp).map fun j => val r (k * grp + j))
    o + 128 * (n / grp) ≤ x.spadBytes → c.spadReady 0 x.spadBytes = true →
    exec (if b32 then .acvtB32 g d a b ty rnd sat else .acvt g d a b ty rnd sat) s = .next (((s.setCore s.cur
      ({ c with
        spad := putTile dd ty.bits n (fun r j => match scale r (j / grp) with
          | none => 0
          | some e => ty.narrow rnd (x.drawFor rnd (r * n + j)) sat ((val r j).scale (-e))) c.spad
        poison := tileClean dd ty.bits n c.poison }.putSpad o
          ((List.range 128).flatMap fun r => (List.range (n / grp)).map fun k => match scale r k with
            | none => 0xFF
            | some e => BitVec.ofInt 8 (e + 127)))).setCtx (x.drawn rnd (128 * n))).ended s x))

/-- R158 to R160: RNGLD sets the key and the counter of the task's stream, RNGST reads them, and RAND writes the low half of the block of the
counter and counts one block on. -/
def Obligations.StreamRegistersComplete : Prop :=
  ∀ (s : State) (x : Ctx) (g : Guard) (d a b : Reg), s.ready x g →
    exec (.rngld g a b) s = .next (s.retired x { x with
      rngKey := x.g a, rngCtr := BitVec.ofNat 128 ((x.g b).toNat + 2 ^ 64 * (x.g (pairHi b)).toNat) }) ∧
    exec (.rngst g d b) s = .next (s.retired x (((x.setG d x.rngKey).setG b (BitVec.ofNat 64 x.rngCtr.toNat)).setG (pairHi b)
      (BitVec.ofNat 64 (x.rngCtr.toNat / 2 ^ 64)))) ∧
    exec (.rand g d) s = .next (s.retired x { x.setG d (BitVec.ofNat 64 (philox x.rngKey x.rngCtr).toNat) with
      rngCtr := x.rngCtr + 1 })

/-- R202, R215, R217, R215, R216: KVMAP makes an empty sequence of a descriptor whose fields fit, in the lowest free index and the first slab
that holds it (the lowest aligned place: log entry 33), and writes its handle to g[d]; KVFORK makes one that shares every frame;
KVFORK.cow gives a shared page a frame of its own and writes its number, or the number of the frame it has alone. KVAPP appends the staged
slots of 1 to 16 tokens to a layer group whose last page is not shared; KVTRUNC cuts a sequence to a length; KVREL releases it; KVRET
writes the retention bytes of tokens that lie in one page with one reference. -/
def Obligations.CacheSequencesChange : Prop :=
  (∀ (s : State) (x : Ctx) (g : Guard) (d a b : Reg) (u : State), s.ready x g → x.isPure = false →
    let y := x.impure
    let w := x.g a
    (∀ (t : State) (bs : List Byte) (o : Nat),
      let die := coreDie s.cur
      let h := s.atHome x die
      let wd := fun k => leWord ((bs.drop (8 * k)).take 8)
      let q : Sequence := ⟨0, x.asid, #v[wd 0, wd 1, wd 2, wd 3], 0, 0, [], [], none⟩
      let l := ceilLog (q.groups * max 1 (x.g b).toNat)
      (h.kv die).en = true → (x.g b).toNat < 2 ^ 16 → h.loadN (h.me y) w 32 = .ok (t, bs) →
      q.descOk (t.kv die).frSz.toNat = true → w.toNat % 32 = 0 → (t.kv die).room = true → (t.kv die).findSlab l = some o →
      let (t', n) := t.newSeq die o { q with slabLog := l }
      let t' := t'.clearSlab die o l
      h.atOnce (t'.setCtx ((t'.now y).setG d (n.setWidth 64))) (kvAgent die) [] = .ok u →
      exec (.kvmap g d a b) s = .next (u.homed s x die)) ∧
    (let die := handleDie w
     let h := s.atHome x die
     (∀ (q : Sequence) (fs : List (Nat × Nat)) (o : Nat), h.mayCache y w true false q → h.mapFrames die q = .ok fs →
       (∀ p ∈ fs, (h.frame die p.2).count + (fs.filter (·.2 == p.2)).length ≤ 65535) → (h.kv die).room = true →
       (h.kv die).findSlab q.slabLog = some o →
       h.atOnce ((h.forkSeq die q o fs).1.setCtx (y.setG d ((h.forkSeq die q o fs).2.setWidth 64))) (kvAgent die)
         (h.kvReads w true fun q => List.range (2 ^ q.slabLog)) = .ok u →
       exec (.kvfork g d a) s = .next (u.homed s x die)) ∧
     (∀ (q : Sequence) (f : Nat), h.mayCache y w false false q → pageNum w < q.pages (pageGroup w) →
       h.pageFrame die q (pageGroup w) (pageNum w) = .ok f →
       let reads := h.kvReads w true (pageEntry w) ++ h.cowReads w
       ((h.frame die f).count ≤ 1 → ∃ v, h.atOnce (h.setG y d (BitVec.ofNat 64 f)) (kvAgent die) reads = .ok v ∧
         exec (.kvforkCow g d a) s = .next (v.homed s x die)) ∧
       (∀ f', 1 < (h.frame die f).count → (h.freeFrames die).head? = some f' →
         h.atOnce ((h.replaceFrame die q (pageGroup w) (pageNum w) f f').setG y d (BitVec.ofNat 64 f')) (kvAgent die) reads = .ok u →
         exec (.kvforkCow g d a) s = .next (u.homed s x die))))) ∧
  (∀ (s : State) (x : Ctx) (g : Guard) (a b c : Reg) (q : Sequence) (v : State), s.ready x g →
    let y := x.impure
    let w := x.g a
    let die := handleDie w
    let idx := handleIdx w
    let grp := pageGroup w
    let h := s.atHome x die
    (∀ (t : State) (data : List (List (List Byte))) (room : Option (Nat × Nat)) (free : Option Nat),
      let n := (x.g c).toNat
      let t0 := q.t grp
      let last := (t0 + n - 1) / 16
      let fresh := q.pages grp ≤ last
      let (o, p) := h.openPage die idx q grp last room free
      h.mayCache y w false true q → 1 ≤ n → n ≤ 16 → (x.g b).toNat < 2 ^ 32 → (x.g b).toNat % 32 = 0 →
      h.stagedSlots y (x.g b).toNat q n = .ok data → t0 + n ≤ 2 ^ 20 → h.pageShared die q grp (t0 / 16) = .ok false →
      x.isPure = false → (fresh → free = (h.freeFrames die).head? ∧ free ≠ none ∧
        q.canHold (h.kv die) w (last * q.groups + grp) = .ok room) → (¬fresh → free = none ∧ room = none) →
      o.appendSlots die p grp t0 data = .ok t → h.atOnce (t.setSeq die idx (p.setT grp (t0 + n))) (kvAgent die)
        (h.kvReads w true fun q => [q.t grp / 16 * q.groups + grp]) = .ok v →
      exec (.kvapp g a b c) s = .next (v.homed s x die)) ∧
    (∀ (t : State) (q' : Sequence), h.mayCache y w true false q → (x.g b).toNat ≤ 2 ^ 20 →
      (x.isPure = false ∨ ∀ k < q.groups, q.t k ≤ (x.g b).toNat) →
      h.cutTo die q (x.g b).toNat = .ok (t, q') → h.atOnce (t.setSeq die idx q') (kvAgent die)
        (h.kvReads w true fun q => (List.range q.groups).flatMap fun k =>
          ((List.range (q.pages k)).filter fun p => decide ((x.g b).toNat / 16 ≤ p)).map fun p => p * q.groups + k) = .ok v →
      exec (.kvtrunc g a b) s = .next (v.homed s x die)) ∧
    (h.mayCache y w true false q → x.isPure = false → h.atOnce (h.releaseSeq die idx q) (kvAgent die)
        (h.kvReads w true fun q => List.range (2 ^ q.slabLog)) = .ok v →
      exec (.kvrel g a) s = .next (v.homed s x die)) ∧
    (∀ (t0 n f : Nat) (bs : List Byte), h.mayCache y w false true q → (x.g b).toNat = t0 + 2 ^ 32 * n → t0 < 2 ^ 32 → 1 ≤ n → n ≤ 16 →
      (x.g c).toNat < 2 ^ 32 → t0 / 16 = (t0 + n - 1) / 16 → t0 + n ≤ q.t grp → h.readSpad h.cur y (x.g c) (n * q.heads) = .ok bs →
      h.pageFrame die q grp (t0 / 16) = .ok f → (h.frame die f).count ≤ 1 → x.isPure = false →
      h.atOnce (h.putRetention die (h.frame die f).base q t0 n bs) (kvAgent die)
        (h.kvReads w true fun q => [t0 / 16 * q.groups + grp]) = .ok v →
      exec (.kvret g a b c) s = .next (v.homed s x die)))

/-- R218, R249: KVCOMPACT begins a compaction of a layer group and goes on; COMPACTION_DONE switches the map of the oldest one and arrives on
its barrier; SLAB_RELOCATION_STEP moves one entry, and with the last frees the old slab. -/
def Obligations.CacheEnginesWork : Prop :=
  (∀ (s t : State) (x : Ctx) (g : Guard) (a b c : Reg) (q : Sequence) (e : Bar), s.ready x g →
    let y := x.impure
    let w := x.g a
    let die := handleDie w
    let h := s.atHome x die
    h.mayCache y w false true q → (x.g b).toNat < 2 ^ 8 → (x.g c).toNat % 16 = 0 → (x.g c).toNat + 16 ≤ x.spadBytes →
    h.barChecked h.cur (h.me y) ⟨false, x.g c⟩ = .ok (t, e) → q.pages (pageGroup w) ≤ (t.freeFrames die).length →
    x.isPure = false →
    let m := t.setSeq die (handleIdx w) { q with compacting := setAdd q.compacting (pageGroup w) }
    ∀ u, h.atOnce (m.setKv die { m.kv die with compactions := (m.kv die).compactions ++
        [⟨handleIdx w, pageGroup w, (x.g b).toNat, t.cur, x.g c, x.id, x.asid⟩] }) (kvAgent die) [] = .ok u →
      exec (.kvcompact g a b c) s = .next (u.homed s x die)) ∧
  (∀ (s t u : State) (die : Nat) (c : Compaction) (r : List Compaction) (q : Sequence), s.alive = true →
    (s.kv die).compactions = c :: r → tabGet (s.kv die).seqs c.index = some q → s.recallAll.compact die c q = .ok t →
    (t.setKv die { t.kv die with compactions := r }).barUpdate c.core { compactor die with core := c.core, task := c.task, asid := c.asid }
      ⟨false, c.bar⟩ 1 0 = .ok u →
    exec (.compactionDone die) s = .next u) ∧
  (∀ (s t : State) (die k idx ob ol p : Nat) (q : Sequence), s.alive = true → (s.kv die).relocs[k]? = some idx →
    tabGet (s.kv die).seqs idx = some q → q.reloc = some (ob, ol, p) →
    let src := (s.kv die).entryAddr (ob + p)
    let dst := (s.kv die).entryAddr (q.slab + p)
    let ag := compactor die
    let b := s.recallAll
    let m := b.writeEngine ag dst (b.seen src 8)
    b.atOnce (if b.sectorPoisoned src then m.poisonRange dst 8 else m) ag [lineOf src] = .ok t →
    exec (.slabRelocationStep die k) s = .next
      (if p + 1 < 2 ^ ol then t.setSeq die idx { q with reloc := some (ob, ol, p + 1) }
       else (t.setKv die { t.kv die with
         slabs := (t.kv die).slabs.filter (·.1 != ob), relocs := setDel (t.kv die).relocs idx }).setSeq die idx { q with reloc := none }))

/-- R215, R219 to R221: KVQ writes the length of a layer group, a map entry, the frame table entry it names, or the state of a sequence; PXLKP
appends the page that a key finds, PXLKP.drop drops the key, and PXINS enters a full page under a key: each writes its outcome. -/
def Obligations.CacheQueriesComplete : Prop :=
  ∀ (s : State) (x : Ctx) (g : Guard) (d a b : Reg) (q : Sequence) (u : State), s.ready x g →
    let y := x.impure
    (let w := x.g a
     let die := handleDie w
     let h := s.atHome x die
     let puts := fun (i : Instr) (reads : List Nat) (v : Word) => ∃ t, h.atOnce (h.setG y d v) (kvAgent die) reads = .ok t ∧
       exec i s = .next (t.homed s x die)
     (h.mayCache y w false true q →
       puts (.kvqLen g d a) [] (BitVec.ofNat 64 (q.t (pageGroup w))) ∧
       puts (.kvqState g d a) [] (BitVec.ofNat 64 (q.groups + (if q.compacting = [] then 0 else 2 ^ 16) +
         (if q.reloc = none then 0 else 2 ^ 17) + q.slabLog % 64 * 2 ^ 18))) ∧
     (∀ e, h.mayCache y w false false q → h.mapEntry die q (pageNum w * q.groups + pageGroup w) = .ok e →
       puts (.kvqMap g d a) (h.kvReads w false (pageEntry w)) e ∧
       ((entryLive e = true → h.frameOk die (frameOf e) = .ok ()) →
         puts (.kvqFrame g d a) (h.kvReads w true (pageEntry w)) (if entryLive e then h.frameWord die (frameOf e) else 0)))) ∧
    (let w := x.g b
     let die := handleDie w
     let h := s.atHome x die
     let k := h.kv die
     let key := x.pxKey a
     let grp := pageGroup w
     let page := pageNum w
     let found := h.pxReads y a b
     let both := h.kvReads w true (pageEntry w) ++ found
     let ends := fun (i : Instr) (reads : List Nat) (t : State) => h.atOnce t (kvAgent die) reads = .ok u → exec i s = .next (u.homed s x die)
     let puts := fun (i : Instr) (reads : List Nat) (v : Word) => ∃ t, h.atOnce (h.setG y d v) (kvAgent die) reads = .ok t ∧
       exec i s = .next (t.homed s x die)
     (h.mayCache y w false false q → q.t grp = 16 * page →
       (k.pxFind x.asid key = none → puts (.pxlkp g d a b) found (BitVec.ofNat 64 (2 ^ 62))) ∧
       (∀ f room, k.pxFind x.asid key = some f → q.canHold k w (page * q.groups + grp) = .ok room → h.frameOk die f = .ok () →
         (h.frame die f).count < 65535 → x.isPure = false →
         let (v, p) : State × Sequence := match room with | some (o, l) => h.growTo die (handleIdx w) q o l | none => (h, q)
         ends (.pxlkp g d a b) found ((((v.setMapEntry die p (page * q.groups + grp) (entryOf f)).addCount die f).setSeq die
           (handleIdx w) (p.setT grp (p.t grp + 16))).setG y d (BitVec.ofNat 64 (f % 2 ^ 32))))) ∧
     (h.mayCache y w true true q →
       (k.pxFind x.asid key = none → puts (.pxlkpDrop g d a b) found (BitVec.ofNat 64 (2 ^ 62))) ∧
       (∀ f, k.pxFind x.asid key = some f → h.frameOk die f = .ok () → x.isPure = false →
         let v := h.setKv die { k with px := k.px.filter fun p => !(p.1 == x.asid && p.2.1 == key) }
         ends (.pxlkpDrop g d a b) found (((v.setFrame die f { v.frame die f with px := false }).subCount die f).setG y d 0))) ∧
     (∀ f, h.mayCache y w false false q → page < q.t grp / 16 → h.pageFrame die q grp page = .ok f → (h.frame die f).fill = 16 →
       let e := h.frame die f
       (k.pxFind x.asid key = none → e.px = true → puts (.pxins g d a b) both (pxOutcome 2 f)) ∧
       (k.pxFind x.asid key = none → e.px = false → k.pxLen.toNat ≤ k.px.length → puts (.pxins g d a b) both (pxOutcome 3 f)) ∧
       (k.pxFind x.asid key = none → e.px = false → k.px.length < k.pxLen.toNat → e.count < 65535 → x.isPure = false →
         ends (.pxins g d a b) both (((h.setKv die { k with px := k.px ++ [(x.asid, key, f)] }).setFrame die f
           { e with count := e.count + 1, px := true }).setG y d (pxOutcome 0 f))) ∧
       (∀ f', k.pxFind x.asid key = some f' → (f' = f ∨ e.px = true) → puts (.pxins g d a b) both (pxOutcome 2 f)) ∧
       (∀ f', k.pxFind x.asid key = some f' → f' ≠ f → e.px = false → h.frameOk die f' = .ok () → (h.frame die f').count < 65535 →
         x.isPure = false →
         ends (.pxins g d a b) both ((((h.addCount die f').setMapEntry die q (page * q.groups + grp) (entryOf f')).subCount
           die f).setG y d (pxOutcome 1 f')))))

/-- R205 to R209: ABIND binds a slot from a descriptor whose stages, sequence and fields fit; ATTN takes its snapshot, or goes on with the
pass that a marker has interrupted, and writes triples or blended rows with the workspace left zero, or waits behind some blocks when a
marker comes between, with the triples of its unfinished subtrees in its workspace (their places are log entry 16); TMERGE merges triples
row by row. -/
def Obligations.AttentionCompletes : Prop :=
  ∀ (s : State) (x : Ctx) (g : Guard) (slot : BitVec 3) (d a b c : Reg), s.ready x g →
    (∀ (t t1 t2 t3 : State) (bs : List Byte) (lse : Bool) (h0 h1 h2 : Word) (ws0 ws1 ws2 : List Word) (score : Stage)
        (mask blend : Option Stage) (q : Sequence) (cols : Cols),
      let va := x.g a
      let wd := fun k => leWord ((bs.drop (8 * k)).take 8)
      va.toNat % 64 = 0 → s.loadN (s.me x) va 64 = .ok (t, bs) → bindingShape (wd 3) = true → wd 6 = 0 → wd 7 = 0 →
      (x.g b).toNat < 2 ^ 48 → (∀ w, colRange w (wd 5) = .ok cols) → wd 0 ≠ 0 →
      (wd 0).toNat % 8 = 0 → (wd 1).toNat % 8 = 0 → (wd 2).toNat % 8 = 0 →
      t.readStage (s.me x) (wd 0) = .ok (t1, h0, ws0) → stageOf 1 h0 ws0 = some score →
      (if wd 1 = 0 then t2 = t1 ∧ mask = none
       else t1.readStage (s.me x) (wd 1) = .ok (t2, h1, ws1) ∧ mask.isSome = true ∧ stageOf 2 h1 ws1 = mask) →
      (if wd 2 = 0 then t3 = t2 ∧ blend = none
       else t2.readStage (s.me x) (wd 2) = .ok (t3, h2, ws2) ∧ blend.isSome = true ∧ stageOf 3 h2 ws2 = blend) →
      t3.liveSeq x (x.g b) = .ok q → pageGroup (x.g b) < q.groups → q.dim = ((wd 3).extractLsb' 0 16).toNat →
      q.tyCode = (wd 3).extractLsb' 32 5 →
      exec (.abind g slot a b lse) s = .next ((t3.setCtx { t3.now x with
        bindings := (t3.now x).bindings.set slot.toNat (some (bindingOf bs (x.g b) q.ty score mask blend lse)) }).ended s x)) ∧
    (∀ (tri : Bool) (bd : Binding) (pos0 rows head slot0 count : Nat) (qd od : Desc) (oc ws : Cols) (t u : State) (p q : Pass),
      let die := handleDie (bd.handle.setWidth 64)
      let left := (count + bd.block - 1) / bd.block - p.done.length
      let finals := (List.range rows).map fun i =>
        Triple.tree bd.dim (q.done.length + 1) (q.done.map fun r => (r[i]?).getD (Triple.identity bd.dim))
      let o := u.core u.cur
      (x.g c).toNat = pos0 + 2 ^ 32 * rows + 2 ^ 48 * head → pos0 < 2 ^ 32 → rows < 2 ^ 16 →
      (x.g b).toNat = slot0 + 2 ^ 32 * count → slot0 < 2 ^ 32 →
      (∀ w, s.attnChecks x bd w d a tri pos0 rows head count = .ok (qd, od, oc, ws)) →
      (x.passed = none ∧ x.bindings[slot.toNat] = some bd ∧ (∀ w, s.startPass x bd w qd rows head slot0 count = .ok (t, p)) ∨
        x.passed = some p ∧ bd = p.bind ∧ t = s) →
      State.blocks (s.attnAgent x) (t.kv die).frSz.toNat pos0 rows head slot0 count (s.before left) t p = .ok (u, q) →
      (s.before left = left → exec (.attn g slot d a b c tri) s = .next (((((u.dropHolds die q.id).setCore u.cur
        ((if tri then o.putTriples oc.first finals else o.putBlend q.bind q.consts pos0 od finals).mapCols ws.first ws.n fun _ _ => 0)).setCtx
          ((u.now x).impure.tallied q.tally (if tri then 0 else rows + Config.repeats u.tick 7))).raiseClock (u.me x)
            (u.clock (u.attnAgent x))).ended s x)) ∧
      (s.before left ≠ left →
        let v := u.setCore s.cur ((u.core s.cur).putPending q rows (q.done.length + left - s.before left) ws)
        exec (.attn g slot d a b c tri) s = .next ((v.setCtx
          { (v.now x).impure with attn := tabPut x.attn x.th.toNat q, wait := .operand }).consume (s.me x)))) ∧
    (∀ (bd : Binding) (w : Word) (qd : Desc) (rows head slot0 count : Nat) (t v : State) (q : Sequence) (frames : List Nat)
        (cb : List Byte) (poss : List (BitVec 32)),
      let die := handleDie (bd.handle.setWidth 64)
      let o := v.core v.cur
      let bases := frames.map fun f => (v.frame die f).base
      s.recallAll.snapshot x bd w slot0 count = .ok (t, q, frames) →
      t.loadN (s.attnAgent x) (bd.consts + BitVec.ofNat 64 (32 * head)) 32 = .ok (v, cb) → o.spadReady 0 x.spadBytes = true →
      o.tilePoison qd bd.ty.bits rows bd.dim = .ok () → v.positions q bases slot0 count = .ok poss →
      let z := (bases.flatMap fun base => linesOf (base + q.posOff) 64).foldl (fun t l => State.stampLoad t (s.attnAgent x) l) v
      s.startPass x bd w qd rows head slot0 count = .ok
        ({ (z.setKv die { z.kv die with holds := (z.kv die).holds ++ frames.map fun f => (z.nextId, f) }) with nextId := z.nextId + 1 },
         { pc := x.pc, id := z.nextId, bind := bd, seq := q, bases := bases
           consts := (List.range 8).map fun k => BitVec.ofNat 32 (leNat ((cb.drop (4 * k)).take 4))
           query := (List.range rows).map fun i => (List.range bd.dim).map fun e => bitsAt o.spad (qd.bit bd.ty.bits i e) bd.ty.bits
           poss := poss, done := [], tally := ⟨0, 0, 0, 0⟩ })) ∧
    (∀ dc ac bc : Cols, s.mayUse x d dc → s.mayUse x a ac → s.mayUse x b bc → ac.n = dc.n → bc.n = dc.n → 4 ≤ dc.n →
      let o := s.core s.cur
      exec (.tmerge g d a b) s = .next ((s.setCore s.cur (o.putTriples dc.first ((List.range 128).map fun i =>
        (o.tripleAt i ac.first (dc.n - 3)).merge (o.tripleAt i bc.first (dc.n - 3))))).ended s x))

/-- R269, R297, R311 to R313, R318 to R322, R335, R357: CFG reads and checks its image, and the configuration becomes active once the active
one is quiescent; while it waits it keeps what it read. CFG.stg keeps a checked image, and CFGSW has it become active. A new configuration
clears the BTOK table and the staged slot; its elements hold their K and flags with d0 to d7 at zero, and its channels are empty. STRM
enters a stream in its port's queue, behind the accesses of the task; SBAR waits for the named ports and observes their accesses, and
SBAR.ord asks it of later streams; BTOK enters a barrier and queues its BAR behind the read streams; ARGW sets an argument; TINJ and TPOP
move a token or wait; FSTAT reads the status of a site. -/
def Obligations.FabricInstructionsComplete : Prop :=
  ((∀ (s t : State) (x : Ctx) (g : Guard) (a : Reg) (m : Staged), s.ready x g → (∀ w, s.checkedImage x (x.g a) w = .ok (t, m)) →
    ((∀ k, x.wait ≠ .quiescence (some k)) →
      (∀ u, (t.now x).quiescent = true → t.activate (t.now x) m = .ok u → exec (.cfg g a) s = .next (u.ended s x)) ∧
      ((t.now x).quiescent = false → exec (.cfg g a) s = .next
        ((t.setCtx { t.now (t.now x) with wait := .quiescence (some m) }).consume (s.me x)))) ∧
    exec (.cfgStg g a) s = .next ((t.setCtx { t.now x with staged := some m }).ended s x)) ∧
  (∀ (s u : State) (x : Ctx) (g : Guard) (a : Reg) (m : Staged), s.ready x g →
    let kept := (s.setCtx { x with wait := .quiescence (some m) }).consume (s.me x)
    (x.wait = .quiescence (some m) →
      (x.quiescent = true → s.activate x m = .ok u → exec (.cfg g a) s = .next (u.ended s x)) ∧
      (x.quiescent = false → exec (.cfg g a) s = .next kept)) ∧
    (x.staged = some m →
      (x.quiescent = true → s.activate x m = .ok u → exec (.cfgsw g) s = .next (u.ended s x)) ∧
      (x.quiescent = false → exec (.cfgsw g) s = .next kept))) ∧
  (∀ (s t : State) (x : Ctx) (m : Staged) (f : Fabric), s.fabricOf x m = .ok (t, f) →
    s.activate x m = .ok ((t.setCtx { t.now x with fabric := some f, btok := [], staged := none }).settle s.cur) ∧
    f.wires = m.wires ∧ f.order = [] ∧ (∀ k, (f.inq k).toks = [] ∧ (f.outq k).toks = []) ∧
    ∀ e el, (e, el) ∈ f.elems → ∃ h pool, (e, h, pool) ∈ m.elems ∧ el.k = h.extractLsb' 32 32 ∧ el.f = h.extractLsb' 0 8 ∧
      (∀ k : Fin 8, el.d[k] = 0) ∧ ∀ k : Fin 16, el.pool[k] = (pool[k.val]?).getD 0)) ∧
  ((∀ (s : State) (x : Ctx) (g : Guard) (port : BitVec 4) (a b c : Reg) (mode : StrmMode) (ty : Ty) (sc : Scope) (sp : Bool)
      (f : Fabric) (q : Port), s.ready x g → x.fabric = some f → tabGet f.ports (64 + port.toNat) = some q →
    (readMode mode = true ∨ f.wiredIn (64 + port.toNat) 0 = true) → (writeMode mode = true ∨ f.wiredOut (64 + port.toNat) 0 = true) →
    let stride : BitVec 32 := BitVec.ofNat 32 (x.g c).toNat
    (x.g a).toNat % ty.bytes = 0 → stride.toNat % ty.bytes = 0 →
    (q.queue.filter PortItem.isStream).length < 3 →
    let st : Stream := ⟨mode, ty, sc, sp, x.g a, x.g b, if stride = 0 then BitVec.ofNat 32 ty.bytes else stride,
      BitVec.ofNat 32 ((x.g c).toNat / 2 ^ 32), 0, 0, [], f.order⟩
    let r := advancePort (64 + port.toNat) 8 f
      { q with queue := q.queue ++ [.stream st], latestRead := readMode mode, issued := q.issued + 1 }
    exec (.strm g port a b c mode ty sc sp) s = .next ((((s.setCtx { x with
      fabric := some { r.1 with ports := tabPut r.1.ports (64 + port.toNat) r.2 } }).handOver (s.me x)
        (portAgent s.cur port.toNat x)).settle s.cur).ended s x)) ∧
  (∀ (s t : State) (x : Ctx) (g : Guard) (a : Reg) (id : BitVec 5) (gm : Bool) (b : Bar), s.ready x g →
    ((x.g a).toNat < 2 ^ 16 → (∀ p q f, p < 16 → x.fabric = some f → (x.g a).getLsbD p = true → tabGet f.ports (64 + p) = some q →
        q.running = none ∧ (∀ i ∈ q.queue, i.isStream = false) ∧ s.performed (portAgent s.cur p x) q.reach = true) →
      exec (.sbar g a) s = .next (((x.namedPorts (x.g a)).foldl (fun t e =>
        t.observe (s.me x) (t.release (portAgent s.cur e.1 x))) s).ended s x)) ∧
    ((x.g a).toNat < 2 ^ 16 → exec (.sbarOrd g a) s = .next (s.retired x { x with fabric := x.fabric.map fun f => { f with
      order := (List.range 16).foldl (fun o p => if (x.g a).getLsbD p then
        (match tabGet f.ports (64 + p) with | some q => tabPut o (64 + p) q.issued | none => o) else o) f.order } })) ∧
    (s.barChecked s.cur (s.me x) ⟨gm, x.g a⟩ = .ok (t, b) →
      exec (.btok g a id gm) s = .next (((t.setCtx { t.now x with
        btok := tabPut (t.now x).btok id.toNat ⟨gm, x.g a⟩
        fabric := (t.now x).fabric.map fun f => f.ports.foldl (fun h e => if e.2.latestRead then
          let r := advancePort e.1 8 h { e.2 with queue := e.2.queue ++ [.bar id] }
          { r.1 with ports := tabPut r.1.ports e.1 r.2 } else h) f }).settle s.cur).ended s x))) ∧
  (∀ (s : State) (x : Ctx) (g : Guard) (d a : Reg) (op : BitVec 4) (ch : BitVec 2) (site : BitVec 5) (f : Fabric),
    s.ready x g → x.fabric = some f →
    (∀ o, tabGet f.ops (48 + op.toNat) = some o → (x.g a).toNat < 2 ^ 32 → (o.kind = 1 ∨ o.kind = 2 ∨ o.kind = 3 ∨ o.kind = 8) →
      exec (.argw g op a) s = .next (s.retired x { x with fabric := some { f with
        ops := tabPut f.ops (48 + op.toNat) { o with a := BitVec.ofNat 32 (x.g a).toNat } } })) ∧
    (let tok := Token.ofWord (x.g a)
     (x.g a).toNat < 2 ^ 40 → tok.cls ≠ 4 → tok.cls ≠ 6 → tok.cls ≠ 7 → tok.bad = false → f.wiredOut 82 ch.toNat = true →
     ((f.outq (chKey 82 ch.toNat)).toks.length < 4 →
       exec (.tinj g ch a) s = .next (((s.setCtx { x with fabric := some (f.push 82 ch.toNat tok) }).settle s.cur).ended s x)) ∧
     (4 ≤ (f.outq (chKey 82 ch.toNat)).toks.length → exec (.tinj g ch a) s = .next (s.setCtx { x with wait := .channel }))) ∧
    (f.wiredIn 82 ch.toNat = true →
      (∀ tok, f.head 82 ch.toNat = some tok → exec (.tpop g d ch) s = .next
        (((s.setCtx { x.setG d tok.word with fabric := some (f.pop 82 ch.toNat) }).settle s.cur).ended s x)) ∧
      (f.head 82 ch.toNat = none → exec (.tpop g d ch) s = .next (s.setCtx { x with wait := .channel }))) ∧
    (∀ q, site.toNat < 16 → tabGet f.ports (64 + site.toNat) = some q →
      exec (.fstat g d site) s = .next (s.retired x (x.setG d (BitVec.ofNat 64
        ((match q.running with | some st => st.done.toNat % 2 ^ 32 | none => 0) + (q.queue.filter PortItem.isStream).length * 2 ^ 32 +
          (if q.running = none then 0 else 2 ^ 35) + (if f.portHeld (64 + site.toNat) q = true then 2 ^ 36 else 0) +
          (if q.cuse = true ∧ q.running ≠ none ∧ f.head (64 + site.toNat) 1 = none then 2 ^ 37 else 0)))))) ∧
    (∀ o, 16 ≤ site.toNat → tabGet f.ops (32 + site.toNat) = some o →
      exec (.fstat g d site) s = .next (s.retired x (x.setG d (BitVec.ofNat 64 (o.emitted.toNat +
        (if o.buf = [] then 0 else 2 ^ 32) + (if f.opHeld (32 + site.toNat) o = true then 2 ^ 33 else 0)))))) ∧
    ((site.toNat < 16 → tabGet f.ports (64 + site.toNat) = none) → (16 ≤ site.toNat → tabGet f.ops (32 + site.toNat) = none) →
      exec (.fstat g d site) s = .next (s.retired x (x.setG d 0))) ∧
    (∃ v : Word, exec (.fstatAll g d) s = .next (s.retired x (x.setG d v)) ∧ ∀ k, k < 64 → v.getLsbD k =
      if k < 16 then (match tabGet f.ports (64 + k) with | some q => q.running.isSome | none => false)
      else if k < 32 then (match tabGet f.ports (48 + k) with | some q => f.portHeld (48 + k) q | none => false)
      else if k < 48 then (match tabGet f.ops (16 + k) with | some o => f.opHeld (16 + k) o | none => false)
      else k == 48 && f.quiescent)) ∧
  ∀ (s : State) (x : Ctx) (g : Guard) (d : Reg) (site : BitVec 5), s.ready x g → x.fabric = none →
    exec (.fstat g d site) s = .next (s.retired x (x.setG d 0)) ∧
    exec (.fstatAll g d) s = .next (s.retired x (x.setG d (BitVec.ofNat 64 (2 ^ 48)))))

/-- R257, R310 to R316, R319, R333: A port reads, gathers, writes or reduces the next element of its stream once its gate and its condition
allow it, after the done tokens of its segment; a condition that is not taken passes the element with no access; tokens that are no
element pass, set the index or end a segment; a speculative read keeps what it fetched (a .fib entry is two accesses of 4 bytes, and its
fetch takes the first: log entry 31); a BAR arrives on its barrier; a segment that has ended sends its done tokens; and a withheld access
that is due tries again. -/
def Obligations.PortsMoveElements : Prop :=
  ∀ (s t : State) (c p : Nat) (x : Ctx) (f h : Fabric) (q : Port) (st : Stream) (bs : List Byte), s.runsFabric c x f →
    let site := 64 + p
    let ag := portAgent c p x
    let v := s.gated c p x q
    let w := if q.gate then v else s
    (s.streams c p x f q st → q.gate = true → condition f site q = some h →
      (readMode st.mode = true → st.done ≠ st.count →
        (st.mode = .rd → v.streamLoad c x ag q.latches st.sp (st.base + st.done * st.stride.setWidth 64) st.ty.bytes = .ok (t, bs) →
          exec (.portReadAccess c p) s = .next (t.streamed s c p x st.done h { q with spec := none } { st with
            done := st.done + 1, emit := [Token.data (payloadOf st.ty (leNat bs))] ++ st.closing (st.done + 1) })) ∧
        (st.mode = .fib → v.entryLoad c x ag q.latches st.sp (st.base + 8 * st.done) = .ok (t, bs) →
          exec (.portReadAccess c p) s = .next (t.streamed s c p x st.done h { q with spec := none } { st with
            done := st.done + 1, emit := [Token.coordTok (BitVec.ofNat 32 (leNat (bs.take 4))),
              Token.data (BitVec.ofNat 32 (leNat (bs.drop 4)))] ++ st.closing (st.done + 1) }))) ∧
      (∀ tok, f.head site 0 = some tok → tok.isData = true →
        (st.mode = .gath → v.streamLoad c x ag (gatherAddr f site q st tok.payload).2 st.sp (gatherAddr f site q st tok.payload).1
            st.ty.bytes = .ok (t, bs) →
          exec (.portGatherAccess c p) s = .next (t.streamed s c p x st.done (h.pop site 0) { q with spec := none } { st with
            done := st.done + 1, emit := [Token.data (payloadOf st.ty (leNat bs))] })) ∧
        (let va := st.base + st.index * (if st.mode = .wr then st.stride.setWidth 64 else BitVec.ofNat 64 st.ty.bytes)
         let after := t.streamed s c p x st.done (h.pop site 0) q { st with done := st.done + 1, index := st.index + 1 }
         ((st.mode = .wr ∨ st.mode = .scat) →
           v.streamStore c x ag q.latches st.sp va (natLe st.ty.bytes tok.payload.toNat) = .ok t →
           exec (.portWriteAccess c p) s = .next after) ∧
         (∀ l, (st.mode = .sadd ∨ st.mode = .smin ∨ st.mode = .smax) → v.latchedWalk ag q.latches va .atomic = .ok l →
           v.reduceVia ag va (redOf st.mode st.ty) false (tok.payload.setWidth 64) st.sc l = .ok t →
           exec (.portReductionAccess c p) s = .next after)))) ∧
    (∀ tok, s.streams c p x f q st → f.head site 0 = some tok →
      (st.mode = .gath → (tok.cls = 1 ∨ tok.cls = 2 ∨ tok.cls = 3) → exec (.portGatherAccess c p) s =
        .next (w.streamed s c p x st.done (f.pop site 0) q { st with emit := [tok] })) ∧
      (∀ i, ((st.mode = .wr ∨ st.mode = .scat) ∧ i = .portWriteAccess c p ∨
          (st.mode = .sadd ∨ st.mode = .smin ∨ st.mode = .smax) ∧ i = .portReductionAccess c p) →
        (tok.cls = 1 → exec i s =
          .next (w.streamed s c p x st.done (f.pop site 0) q { st with index := tok.payload.setWidth 64 })) ∧
        (tok.cls = 2 → exec i s = .next (w.streamed s c p x st.done (f.pop site 0) { q with
          segment := q.segment + 1, due := q.due + 1 } st)))) ∧
    (∀ tok, s.streams c p x f q st → q.cuse = true → f.head site 1 = some tok → tok.isData = true →
      ((tok.payload = 0 ∧ q.csense = false) ∨ (tok.payload ≠ 0 ∧ q.csense = true)) →
      (readMode st.mode = true → st.done ≠ st.count →
        exec (.portCondition c p) s = .next (w.streamed s c p x st.done (f.pop site 1) { q with spec := none } { st with
          done := st.done + 1, emit := [Token.data 0] ++ st.closing (st.done + 1) })) ∧
      (∀ u, writeMode st.mode = true → f.head site 0 = some u → u.isData = true →
        exec (.portCondition c p) s = .next (w.streamed s c p x st.done ((f.pop site 1).pop site 0) q { st with
          done := st.done + 1, index := st.index + 1 })) ∧
      (∀ u, st.mode = .gath → f.head site 0 = some u → u.isData = true →
        exec (.portCondition c p) s = .next (w.streamed s c p x st.done ((f.pop site 1).pop site 0) { q with spec := none } { st with
          done := st.done + 1, emit := [Token.data 0] }))) ∧
    (tabGet f.ports site = some q → q.running = some st → s.halted c f site = false → q.held = false → q.spec? = true →
      q.spec = none → f.head site 1 = none →
      ∀ va ls n, (st.mode = .rd ∧ st.done ≠ st.count ∧ va = st.base + st.done * st.stride.setWidth 64 ∧ ls = q.latches ∧ n = st.ty.bytes ∨
        st.mode = .fib ∧ st.done ≠ st.count ∧ va = st.base + 8 * st.done ∧ ls = q.latches ∧ n = 4 ∨
        ∃ tok, st.mode = .gath ∧ f.head site 0 = some tok ∧ tok.isData = true ∧ (va, ls) = gatherAddr f site q st tok.payload ∧
          n = st.ty.bytes) →
      s.streamLoad c x ag ls st.sp va n = .ok (t, bs) →
      exec (.speculativeFetch c p) s =
        .next (s.sited c { f with ports := tabPut f.ports site { q with spec := some (st.done.toNat, bs) } })) ∧
    (∀ tok, s.streams c p x f q st → writeMode st.mode = true → f.head site 0 = some tok → tok.isBar = true →
      w.performed ag q.reach = true →
      (∀ r, tabGet x.btok tok.aux.toNat = some r → w.barUpdate c ag r 1 0 = .ok t →
        exec (.portBarArrival c p) s = .next (t.streamed s c p x st.done (f.pop site 0) q st)) ∧
      (tabGet x.btok tok.aux.toNat = none →
        exec (.portBarArrival c p) s = .next (w.streamed s c p x st.done (f.pop site 0) q st))) ∧
    (tabGet f.ports site = some q → q.due ≠ 0 → s.performed ag q.dscope = true →
      exec (.portDoneToken c p) s = .next (((s.releaseAt ag (.done c p)).publish ag q.dscope).sited c
        (((List.range 16).filter q.done).foldl (fun (g : Fabric) k => match tabGet g.ports (64 + k) with
          | some r => { g with ports := tabPut g.ports (64 + k) { r with received := tabPut r.received p ((tabGet r.received p).getD 0 + 1) } }
          | none => g) { f with ports := tabPut f.ports site { q with due := q.due - 1 } }))) ∧
    (∀ a tr, tabGet f.ports site = some q → q.retry = some a → q.withheld = some tr →
      exec (.portRetry c p) s =
        .next (s.sited c { f with ports := tabPut f.ports site { q with withheld := none, retry := none, attempt := a } }))

/-- R240, R241, R271, R291, R292: A re-latch token has a node translate the slots in the invalidation's scope again and try a withheld access,
and an XLAT forwards it; an input port expands one DATA of its packet; a cycle in which no word of an element fires consumes the CFGK
tokens at its heads, each of which sets K. -/
def Obligations.SitesTakeTheirTokens : Prop :=
  ∀ (s : State) (c site ch : Nat) (x : Ctx) (f : Fabric), s.runsFabric c x f →
    (∀ q t ls, 64 ≤ site → tabGet f.ports site = some q → q.relatch = true →
      s.relatch (portAgent c (site - 64) x) q.latches = .ok (t, ls) →
      exec (.relatchToken c site) s = .next (t.sited c { f with ports := tabPut f.ports site { q with
        relatch := false, latches := ls, retry := if q.withheld = none then q.retry else some .quiet } })) ∧
    (∀ o t ls, site < 64 → tabGet f.ops site = some o → o.relatch = true → (f.outq (chKey site 0)).toks.length < 4 →
      s.relatch (coreAgent 0 c 0 x.id x.asid) o.latches = .ok (t, ls) →
      exec (.relatchToken c site) s = .next (t.sited c { (f.push site 0 ⟨0, 6, 0⟩) with ops := tabPut f.ops site { o with
        relatch := false, latches := ls, withheld := none, emitted := o.emitted + 1
        attempt := if o.withheld = none then o.attempt else .quiet } })) ∧
    (∀ ag l t l', (l.stale = false → s.relatch ag [l] = .ok (s, [l])) ∧
      (l.stale = true → s.latch ag l.va = .ok (t, l') → s.relatch ag [l] = .ok (t, [l']))) ∧
    (∀ (pre r : List Token) (p : Token), (f.inq (chKey site ch)).toks = pre ++ p :: r → (∀ t ∈ pre, t.cls ≠ 7) → p.cls = 7 →
      p.bad = false → pre.length < 4 →
      let value : BitVec 32 := if p.aux.getLsbD 4 then p.payload else 0
      let rest : List Token := if p.aux.getLsbD 4
        then (if p.aux.toNat % 16 = 0 then [] else [{ p with aux := p.aux - 1 }])
        else (if p.payload = 1 then [] else [{ p with payload := p.payload - 1 }])
      exec (.inputPacketExpand c site ch) s = .next (s.sited c (f.setIn (chKey site ch)
        { f.inq (chKey site ch) with toks := pre ++ [Token.data value] ++ rest ++ r }))) ∧
    (∀ el t r, tabGet f.elems site = some el → ch < 4 → (f.inq (chKey site ch)).toks = t :: r → t.cls = 5 → t.aux = 0 →
      s.halted c f site = false → el.stall = 0 → f.choice site el = none →
      exec (.cfgkConsume c site ch) s = .next (s.cycled c x (f.consumeCfgk site (f.cfgkHeads site)))) ∧
    (∀ el t r, tabGet f.elems site = some el → (f.inq (chKey site ch)).toks = t :: r → t.aux = 0 →
      let (g, ts) := f.consumeCfgk site [(ch, t)]
      ts = [] ∧ g.inq (chKey site ch) = { f.inq (chKey site ch) with toks := r } ∧
      tabGet g.elems site = some { el with k := t.payload })

/-- R273, R274, R279 to R282, R285, R273, R274, R280, R283 to R285: The firing of each integer operation, and what each makes of its sources:
wrapping sums and products, bits, shifts by the low five bits, signed bounds, three-way comparisons, and a choice by f0. The firing of
each floating and lane operation, and what the arithmetic ones make of their sources: one rounding of the exact result, and 2 for a
comparison with a NaN. -/
def Obligations.FabricElementsFire : Prop :=
  (firesAs .mov .mov ∧ firesAs .iadd .iadd ∧ firesAs .isub .isub ∧ firesAs .imul .imul ∧ firesAs .imad .imad ∧
  firesAs .iand .iand ∧ firesAs .ior .ior ∧ firesAs .ixor .ixor ∧ firesAs .ishl .ishl ∧ firesAs .ishr .ishr ∧
  firesAs .isra .isra ∧ firesAs .imin .imin ∧ firesAs .imax .imax ∧ firesAs .icmp .icmp ∧ firesAs .sel .elemSel ∧
  firesAs .cmpc .cmpc ∧ firesAs .deq .deq ∧ firesAs .emit .emit ∧
  ∀ (a b x : BitVec 32) (f0 : Bool), let r := fun op => elemEval op a b x f0
    r .mov = a ∧ r .emit = a ∧ r .deq = 0 ∧
    r .iadd = BitVec.ofNat 32 (a.toNat + b.toNat) ∧ r .isub = BitVec.ofInt 32 (a.toInt - b.toInt) ∧
    r .imul = BitVec.ofNat 32 (a.toNat * b.toNat) ∧ r .imad = BitVec.ofNat 32 (a.toNat * b.toNat + x.toNat) ∧
    (∀ i, (r .iand).getLsbD i = (a.getLsbD i && b.getLsbD i) ∧ (r .ior).getLsbD i = (a.getLsbD i || b.getLsbD i) ∧
      (r .ixor).getLsbD i = (a.getLsbD i ^^ b.getLsbD i)) ∧
    r .ishl = BitVec.ofNat 32 (a.toNat * 2 ^ (b.toNat % 32)) ∧ r .ishr = BitVec.ofNat 32 (a.toNat / 2 ^ (b.toNat % 32)) ∧
    r .isra = BitVec.ofInt 32 (a.toInt / 2 ^ (b.toNat % 32)) ∧
    r .imin = BitVec.ofInt 32 (min a.toInt b.toInt) ∧ r .imax = BitVec.ofInt 32 (max a.toInt b.toInt) ∧
    r .icmp = (if a.toInt < b.toInt then 0xFFFFFFFF else if a = b then 0 else 1) ∧
    r .cmpc = (if a.toNat < b.toNat then 0xFFFFFFFF else if a = b then 0 else 1) ∧
    r .sel = (if f0 then a else b)) ∧
  (firesAs .fadd .fadd ∧ firesAs .fsub .fsub ∧ firesAs .fmul .fmul ∧ firesAs .ffma .ffma ∧ firesAs .fmin .fmin ∧
  firesAs .fmax .fmax ∧ firesAs .fcmp .fcmp ∧ firesAs .fexp2 .fexp2 ∧ firesAs .frcp .frcp ∧
  firesAs .fcvtF32Bf16 .fcvtF32Bf16 ∧ firesAs .fcvtF32F16 .fcvtF32F16 ∧ firesAs .fcvtF32E4m3 .fcvtF32E4m3 ∧
  firesAs .fcvtF32E5m2 .fcvtF32E5m2 ∧ firesAs .fcvtF32E2m1 .fcvtF32E2m1 ∧ firesAs .fcvtF32S32 .fcvtF32S32 ∧
  firesAs .fcvtF32Z32 .fcvtF32Z32 ∧ firesAs .fcvtBf16F32 .fcvtBf16F32 ∧ firesAs .fcvtF16F32 .fcvtF16F32 ∧
  firesAs .fcvtE4m3F32 .fcvtE4m3F32 ∧ firesAs .fcvtE5m2F32 .fcvtE5m2F32 ∧ firesAs .fcvtE2m1F32 .fcvtE2m1F32 ∧
  firesAs .fcvtS32F32 .fcvtS32F32 ∧ firesAs .fcvtZ32F32 .fcvtZ32F32 ∧ firesAs .vaddBf16 .vaddBf16 ∧
  firesAs .vmulBf16 .vmulBf16 ∧ firesAs .vfmaBf16 .vfmaBf16 ∧ firesAs .vaddF16 .vaddF16 ∧ firesAs .vmulF16 .vmulF16 ∧
  firesAs .vfmaF16 .vfmaF16 ∧ firesAs .vaddS16 .vaddS16 ∧ firesAs .vmulS16 .vmulS16 ∧ firesAs .vaddS8 .vaddS8 ∧
  firesAs .vmulS8 .vmulS8 ∧
  ∀ (a b x : BitVec 32) (f0 : Bool), let r := fun op => elemEval op a b x f0
    r .fadd = f32 ((F32.val a).add (F32.val b)) ∧ r .fmul = f32 ((F32.val a).mul (F32.val b)) ∧
    r .ffma = f32 (((F32.val a).mul (F32.val b)).add (F32.val x)) ∧
    ((F32.val a).isNan = true ∨ (F32.val b).isNan = true → r .fcmp = 2) ∧
    (∀ i, i < 16 → (r .vaddS16).getLsbD i = (BitVec.ofNat 16 (a.toNat + b.toNat)).getLsbD i ∧
      (r .vaddS16).getLsbD (16 + i) = (BitVec.ofNat 16 (a.toNat / 2 ^ 16 + b.toNat / 2 ^ 16)).getLsbD i ∧
      (r .vmulS16).getLsbD i = (BitVec.ofNat 16 (a.toNat * b.toNat)).getLsbD i ∧
      (r .vmulS16).getLsbD (16 + i) = (BitVec.ofNat 16 (a.toNat / 2 ^ 16 * (b.toNat / 2 ^ 16))).getLsbD i) ∧
    (∀ i k, i < 8 → k < 4 →
      (r .vaddS8).getLsbD (8 * k + i) = (BitVec.ofNat 8 (a.toNat / 2 ^ (8 * k) + b.toNat / 2 ^ (8 * k))).getLsbD i ∧
      (r .vmulS8).getLsbD (8 * k + i) = (BitVec.ofNat 8 (a.toNat / 2 ^ (8 * k) * (b.toNat / 2 ^ (8 * k)))).getLsbD i))

/-- R301 to R303, R320, R241, R304 to R308: REPEAT buffers a block and sends it as often as its count says, with no count input as often as
argument A says when the block ends; MERGE passes pairs of equal coordinates, and of the others drops the lower one or joins it with the
fill value; in .chk it passes ascending pairs; RADIX sends a token to the output that a field of its coordinate names. GATE and SELECT go
by a token's payload; STAT sums, counts and takes the largest of a segment and sends them at its EOF; XLAT names entry and offset of an
index; CBDEC sends eight values of an index, under a scale that holds for eight indices where one arrives; DELTA adds the correction of
its coordinate; FCONV converts; RLE joins equal tokens into runs; TRANSP sends a block by columns, and the BARs it met inside it after its
EOF (the model's choice: log entry 31). -/
def Obligations.OperatorsStep : Prop :=
  (∀ (s : State) (c o : Nat) (x : Ctx) (f : Fabric) (q : Operator),
    let site := 48 + o
    (s.operates c o x f 1 q →
      (∀ t, q.rep = 0 → q.buf = [] → f.head site 0 = some t → t.cls.toNat ≤ 1 →
        exec (.repeatBlock c o) s = .next (s.operated c o (f.pop site 0) { q with buf := [t] })) ∧
      (∀ t r, q.rep = r + 1 → q.buf[q.pos]? = some t → q.pos + 1 ≠ q.buf.length →
        exec (.repeatBlock c o) s = .next (s.operated c o f { q with emit := [(0, t)], pos := q.pos + 1 })) ∧
      (∀ t r, q.rep = r + 1 → q.buf[q.pos]? = some t → q.pos + 1 = q.buf.length →
        exec (.repeatBlock c o) s = .next (s.operated c o f { q with
          emit := [(0, t)], pos := 0, rep := r, buf := if r = 0 then [] else q.buf })) ∧
      (∀ b u, q.rep = 0 → q.buf = b ++ [u] → u.cls.toNat ≤ 1 → q.buf.length < 2048 → f.head site 0 = some (Token.eof 0) →
        exec (.repeatBlock c o) s = .next (s.operated c o (f.pop site 0)
          (if f.wiredIn site 1 then { q with buf := q.buf ++ [Token.eof 0] }
           else { q with buf := if q.a = 0 then [] else q.buf ++ [Token.eof 0], rep := q.a.toNat, pos := 0 }))) ∧
      (∀ b n, q.rep = 0 → q.buf = b ++ [Token.eof 0] → f.head site 1 = some (Token.data n) →
        exec (.repeatBlock c o) s = .next (s.operated c o (f.pop site 1)
          { q with buf := if n = 0 then [] else q.buf, rep := n.toNat, pos := 0 }))) ∧
    (∀ i j d e, s.operates c o x f 2 q → f.entry site 0 q.prev0 = .entry i d → f.entry site 1 q.prev1 = .entry j e →
      let both := s.operated c o ((((f.pop site 0).pop site 0).pop site 1).pop site 1) { q with
        emit := [(0, Token.coordTok i), (0, d), (1, e)], prev0 := some i, prev1 := some j }
      let first := fun ts => s.operated c o ((f.pop site 0).pop site 0) { q with emit := ts, prev0 := some i }
      let second := fun ts => s.operated c o ((f.pop site 1).pop site 1) { q with emit := ts, prev1 := some j }
      (q.mode = 0 → exec (.mergeIsect c o) s = .next
        (if i = j then both else if i.toNat < j.toNat then first [] else second [])) ∧
      (q.mode = 1 → exec (.mergeUnion c o) s = .next
        (if i = j then both
         else if i.toNat < j.toNat then first [(0, Token.coordTok i), (0, d), (1, Token.data q.a)]
         else second [(0, Token.coordTok j), (0, Token.data q.a), (1, e)]))) ∧
    (∀ i d, s.operates c o x f 2 q → q.mode = 2 → f.entry site 0 q.prev0 = .entry i d →
      exec (.mergeChk c o) s = .next (s.operated c o ((f.pop site 0).pop site 0) { q with
        emit := [(0, Token.coordTok i), (0, d)], prev0 := some i })) ∧
    (∀ t, s.operates c o x f 3 q → f.head site 0 = some t →
      (t.cls = 0 → exec (.radix c o) s = .next (s.operated c o (f.pop site 0) { q with
        emit := [(radixOut q (f.inq (chKey site 0)).coord, t)] })) ∧
      (t.cls = 1 → exec (.radix c o) s = .next (s.operated c o (f.pop site 0) { q with emit := [(radixOut q t.payload, t)] })) ∧
      (t.cls = 2 ∨ t.cls = 3 → exec (.radix c o) s = .next (s.operated c o (f.pop site 0) { q with
        emit := (List.range (if q.mode = 0 then 2 else 4)).map fun k => (k, t) })))) ∧
  (∀ (s : State) (c o : Nat) (x : Ctx) (f : Fabric) (q : Operator) (t : Token),
    let site := 48 + o
    f.head site 0 = some t →
    (s.operates c o x f 4 q → t.cls = 0 → ∀ n, f.head site 1 = some (Token.data n) →
      exec (.gate c o) s = .next (s.operated c o ((f.pop site 0).pop site 1) { q with
        emit := if (n ≠ 0 ∧ q.mode ≠ 1) ∨ (n = 0 ∧ q.mode = 1) then [(0, t)] else [] })) ∧
    (s.operates c o x f 5 q → t.cls = 0 → ∀ u n, f.head site 1 = some u → u.cls = 0 → f.head site 2 = some (Token.data n) →
      exec (.select c o) s = .next (s.operated c o (((f.pop site 0).pop site 1).pop site 2) { q with
        emit := [(0, if n = 0 then u else t)] })) ∧
    (s.operates c o x f 6 q → t.cls = 0 →
      exec (.stat c o) s = .next (s.operated c o (f.pop site 0) { q with
        sum := if q.mode = 0 then q.sum + t.payload else f32Add q.sum t.payload
        count := q.count + 1
        high := if q.mode = 0 then (if q.high.toInt < t.payload.toInt then t.payload else q.high) else f32Max q.high t.payload })) ∧
    (s.operates c o x f 6 q → t.cls = 2 →
      exec (.stat c o) s = .next (s.operated c o (f.pop site 0) { q with
        emit := [(0, Token.data q.sum), (0, Token.data q.count), (0, Token.data q.high), (0, t)]
        sum := 0, count := 0, high := if q.mode = 0 then 0x80000000 else 0xFF800000 })) ∧
    (s.operates c o x f 7 q → t.cls = 0 → ∀ l b,
      let e := t.payload.toNat / 2 ^ q.xlatS
      e < q.xlatE → q.relatch = false → q.latches[e]? = some l → l.pbase = some b →
      exec (.xlat c o) s = .next (s.operated c o (f.pop site 0) { q with
        emit := [(0, Token.data (BitVec.ofNat 32 (e * 2 ^ 26 + t.payload.toNat % 2 ^ q.xlatS * 2 ^ q.xlatV)))] })) ∧
    (s.operates c o x f 8 q → t.cls = 0 →
      let eight := fun (scale : Nat) => ((c2x8 (fun k => ((q.table[k / 2]?).getD 0).extractLsb' (32 * (k % 2)) 32)
        (t.payload.toNat % 65536)).map fun v => if scale = 0xFF then FVal.nan else v.scale ((scale : Int) - 127)).map fun y =>
          ((0 : Nat), Token.data (if q.mode = 0 then f32 y else BitVec.ofNat 32 (Fmt.bf16.rne y)))
      (f.wiredIn site 1 = false →
        exec (.cbdec c o) s = .next (s.operated c o (f.pop site 0) { q with emit := eight (q.a.toNat % 256) })) ∧
      (f.wiredIn site 1 = true → q.pos = 0 → ∀ b, f.head site 1 = some (Token.data b) →
        exec (.cbdec c o) s = .next (s.operated c o ((f.pop site 0).pop site 1) { q with
          emit := eight (b.toNat % 256), sum := b, pos := 1 })) ∧
      (f.wiredIn site 1 = true → q.pos ≠ 0 →
        exec (.cbdec c o) s = .next (s.operated c o (f.pop site 0) { q with
          emit := eight (q.sum.toNat % 256), pos := (q.pos + 1) % 8 }))) ∧
    (s.operates c o x f 9 q → t.cls = 0 → ∀ i d, f.entry site 1 q.prev1 = .entry i d →
      let at' := (f.inq (chKey site 0)).coord
      let y := if q.mode = 0 then f32 ((F32.val t.payload).add (Fmt.bf16.decode (d.payload.toNat % 65536)))
        else BitVec.ofNat 32 (Fmt.bf16.rne ((Fmt.bf16.decode (t.payload.toNat % 65536)).add (Fmt.bf16.decode (d.payload.toNat % 65536))))
      exec (.delta c o) s = .next (if i = at' then
          s.operated c o (((f.pop site 0).pop site 1).pop site 1) { q with emit := [(0, Token.data y)], prev1 := some i }
        else if i.toNat < at'.toNat then s.operated c o ((f.pop site 1).pop site 1) { q with prev1 := some i }
        else s.operated c o (f.pop site 0) { q with emit := [(0, t)] })) ∧
    (s.operates c o x f 10 q → t.cls = 0 → ∀ op, ElemOp.ofCode (q.mode.setWidth 7) = some op →
      exec (.fconv c o) s = .next (s.operated c o (f.pop site 0) { q with
        emit := [(0, Token.data (elemEval op t.payload 0 0 false))] })) ∧
    (s.operates c o x f 11 q → t.cls = 0 →
      (q.count ≠ 0 → q.high = t.payload → q.count + 1 ≠ (if t.payload = 0 then 0xFFFFFFFF else 16) →
        exec (.rle c o) s = .next (s.operated c o (f.pop site 0) { q with count := q.count + 1 })) ∧
      (q.count = 0 ∨ q.high ≠ t.payload →
        exec (.rle c o) s = .next (s.operated c o (f.pop site 0) { q with
          emit := runTokens q.high q.count, count := 1, high := t.payload }))) ∧
    (s.operates c o x f 12 q → t.cls = 0 → (q.buf.filter Token.isData).length < 2048 →
      exec (.transp c o) s = .next (s.operated c o (f.pop site 0) { q with buf := q.buf ++ [t] })) ∧
    (s.operates c o x f 12 q → t.cls = 2 → t.aux = 1 → ∀ w, (∀ r ∈ blockRows q.buf, r.length = w) → blockRows q.buf ≠ [] →
      exec (.transp c o) s = .next (s.operated c o (f.pop site 0) { q with
        emit := (((List.range w).flatMap fun k => ((blockRows q.buf).filterMap fun r => r[k]?) ++ [Token.eof 0]) ++ [t] ++
          q.buf.filter Token.isBar).map fun u => (0, u)
        buf := [] })))

/-- R333, R350 to R353: TBINIT writes the object that it names whole; TBEXP makes UPDATE(0, +g[b]) and TBARR, once its release is performed,
UPDATE(1, 0); TBWAIT goes on once PHASE differs from ph, and TBTEST tells whether it does; both then acquire. UPDATE refuses a count that
leaves its range, and the phase advances when nothing is pending and the sum is zero. An acquire at an object comes after the releases
that stand there. -/
def Obligations.BarriersComplete : Prop :=
  (∀ (s t : State) (x : Ctx) (g : Guard) (p : Pred) (a b : Reg) (n : BitVec 32) (ph : BitVec 4) (gm : Bool) (sc : Scope) (o : Bar),
    s.ready x g →
    let r : BarRef := ⟨gm, x.g a⟩
    (s.barWrite s.cur (s.me x) r ⟨true, gm, x.asid, 0, n.toNat, n.toNat, 0⟩ = .ok t → exec (.tbinit g a n gm) s = .next (t.ended s x)) ∧
    ((x.g b).toNat < 2 ^ 47 → s.barUpdate s.cur (s.me x) r 0 (x.g b).toNat = .ok t → exec (.tbexp g a b gm) s = .next (t.ended s x)) ∧
    (2 ^ 47 ≤ (x.g b).toNat → exec (.tbexp g a b gm) s = .next (s.trapped x (.tbexp g a b gm) .shape (encode (.tbexp g a b gm)))) ∧
    (s.performed (s.me x) sc = true → s.barUpdate s.cur (s.me x) r 1 0 = .ok t →
      exec (.tbarr g a gm sc) s = .next ((t.publish (s.me x) sc).ended s x)) ∧
    (s.performed (s.me x) sc = false → exec (.tbarr g a gm sc) s = .next (s.setCtx { x with wait := .interlock })) ∧
    (s.barChecked s.cur (s.me x) r = .ok (t, o) →
      (o.phase ≠ ph.toNat →
        let u := t.acquire (s.me x) (t.barObj (s.me x) r)
        exec (.tbwait g a ph gm sc) s = .next (u.ended s x) ∧
        exec (.tbtest g p a ph gm sc) s = .next ((u.setCtx ((u.now x).setP p true)).ended s x)) ∧
      (o.phase = ph.toNat →
        exec (.tbwait g a ph gm sc) s = .next (s.setCtx { x with wait := .barrier }) ∧
        exec (.tbtest g p a ph gm sc) s = .next ((t.setCtx ((t.now x).setP p false)).ended s x)))) ∧
  (∀ (b : Bar) (da : Nat) (ds : Int),
    (b.update da ds = none ↔ b.pa < da ∨ b.ps + ds < -(2 ^ 47) ∨ 2 ^ 47 ≤ b.ps + ds) ∧
    ∀ c adv, b.update da ds = some (c, adv) → c.live = b.live ∧ c.gm = b.gm ∧ c.owner = b.owner ∧ c.ea = b.ea ∧
      (adv = true → b.pa = da ∧ b.ps + ds = 0 ∧ c.pa = b.ea ∧ c.ps = 0 ∧ c.phase = (b.phase + 1) % 16) ∧
      (adv = false → (b.pa ≠ da ∨ b.ps + ds ≠ 0) ∧ c.pa + da = b.pa ∧ c.ps = b.ps + ds ∧ c.phase = b.phase)) ∧
  ∀ (s : State) (ag by' : Agent) (o : SyncObj), s.clock ag + 1 ≤ ((s.releaseAt ag o).acquire by' o).clock by'

/-- R341, R359 to R364: AMO, AMOF and CAS replace the aligned value at their address with what their operation gives and return the old one,
zero-extended; RED returns nothing. LDFE waits for its granule to be full and may empty it, STFE waits for it to be empty and fills it.
PREF changes nothing but the PC; FENCE waits until earlier accesses are performed and then acquires. -/
def Obligations.AtomicsComplete : Prop :=
  ∀ (s t : State) (x : Ctx) (g : Guard) (d a b c : Reg) (m : MemOp) (op : AmoOp) (dbl clr l2 : Bool) (sz : Size) (sc : Scope)
      (bs : List Byte), s.ready x g →
    let n := if dbl then 8 else 4
    let k := s.core s.cur
    let o := (x.ea m).toNat
    let z := sizeBytes sz
    let amo (v : Word) : Word := op.apply dbl v (x.g d)
    let cas (v : Word) : Word := if v.toNat % 2 ^ (8 * n) = (x.g b).toNat % 2 ^ (8 * n) then x.g c else v
    (o % n = 0 →
      (s.update (s.me x) (x.ea m) n (.reduce op dbl true) (natLe n (x.g d).toNat) (fun u => natLe n (amo (leWord u)).toNat) = .ok (t, bs) →
        exec (.amo g d m op dbl) s = .next ((t.setCtx ((t.now x).setG d (leWord bs))).ended s x) ∧
        exec (.amof g d m op false dbl) s = .next ((t.setCtx ((t.now x).setG d (leWord bs))).ended s x)) ∧
      (s.reduce (s.me x) (x.ea m) op dbl (x.g d) .core = .ok t → exec (.red g d m op dbl) s = .next (t.ended s x)) ∧
      (o + n ≤ x.spadBytes → k.spadReady o n = true → k.spadPoisoned o n = false →
        let old := leWord (Memory.bytes k.spad o n)
        exec (.amof g d m op true dbl) s =
          .next (((s.setCore s.cur (k.putSpad o (natLe n (amo old).toNat))).setCtx (x.setG d old)).ended s x))) ∧
    ((x.g a).toNat % n = 0 →
      (s.update (s.me x) (x.g a) n (.cas dbl (x.g b)) (natLe n (x.g c).toNat) (fun u => natLe n (cas (leWord u)).toNat) = .ok (t, bs) →
        exec (.cas g d a b c false dbl) s = .next ((t.setCtx ((t.now x).setG d (leWord bs))).ended s x)) ∧
      ((x.g a).toNat + n ≤ x.spadBytes → k.spadReady (x.g a).toNat n = true → k.spadPoisoned (x.g a).toNat n = false →
        let old := leWord (Memory.bytes k.spad (x.g a).toNat n)
        exec (.cas g d a b c true dbl) s =
          .next (((s.setCore s.cur (k.putSpad (x.g a).toNat (natLe n (cas old).toNat))).setCtx (x.setG d old)).ended s x))) ∧
    (o % z = 0 → o + z ≤ x.spadBytes → k.spadReady o z = true →
      (k.isFull (x.ea m) = true → k.spadPoisoned o z = false →
        exec (.ldfe g d m clr sz) s = .next ((((if clr then s.setCore s.cur { k with full := setDel k.full (o / 16) } else s).acquire
          (s.me x) (.granule x.id (o / 16))).setCtx (x.setLoaded d false sz (Memory.bytes k.spad o z))).ended s x)) ∧
      (k.isFull (x.ea m) = false → exec (.ldfe g d m clr sz) s = .next (s.setCtx { x with wait := .granule })) ∧
      (k.isFull (x.ea m) = false → exec (.stfe g d m sz) s = .next (((s.setCore s.cur
        { k.putSpad o (x.storeBytes d sz) with full := setAdd k.full (o / 16) }).releaseAt (s.me x) (.granule x.id (o / 16))).ended s x)) ∧
      (k.isFull (x.ea m) = true → exec (.stfe g d m sz) s = .next (s.setCtx { x with wait := .granule }))) ∧
    exec (.pref g m l2 sz) s = .next (s.retired x x) ∧
    (s.performed (s.me x) sc = true → 
      exec (.fence g sc) s = .next (((s.observe (s.me x) (s.release (s.me x))).publish (s.me x) sc).ended s x)) ∧
    (s.performed (s.me x) sc = false → exec (.fence g sc) s = .next (s.setCtx { x with wait := .interlock }))

/-- R339, R365 to R367: CHAIN starts a walk at its first entry when its engine has room; when the running entry has completed, its SEQ is
written and the next entry starts, or the walk ends. SEQW goes on once the word it polls has reached g[d], an acquire, or once its limit
has passed since it began to wait, and returns the word; its wait lasts while a poll is on its way outside. An update-only copy that is
evicted combines its partials with its line, at a timestamp above the line's, and view lines filled from it go. -/
def Obligations.ChainsAndSequencesComplete : Prop :=
  (∀ (s t : State) (x : Ctx) (g : Guard) (d a b : Reg) (limit : BitVec 32) (sp : Bool) (sc : Scope) (v : Word), s.ready x g →
    let c (coll : Bool) : Chain := ⟨x.id, x.asid, x.part, coll, x.g a, none, x.g b, sc, .idle, 0, 0⟩
    let go (coll : Bool) : State :=
      ({ (s.handOver (s.me x) (chainAgent s.cur (c coll))).setChain s.cur s.nextId (c coll) with nextId := s.nextId + 1 }.chainTry
        s.cur s.nextId (c coll)).ended s x
    ((x.g a).toNat % 64 = 0 → (x.g b).toNat % 8 = 0 →
      ((s.core s.cur).copyQueue < 16 → exec (.chainCpy g a b sc) s = .next (go false)) ∧
      (s.collQueue (coreDie s.cur) < 16 → exec (.chainColl g a b sc) s = .next (go true))) ∧
    (s.seqLoad x (x.g a) sp = .ok (t, v) →
      ((x.g d).toNat ≤ v.toNat →
        let u := t.acquire (t.me x) (t.seqObj (t.me x) sp (x.g a))
        exec (.seqw g d a limit sp sc) s = .next ((u.setCtx ((t.now x).setG d v)).ended s x)) ∧
      (v.toNat < (x.g d).toNat → exec (.seqw g d a limit sp sc) s =
        .next ((s.consume (s.me x)).setCtx { x with wait := .seqw limit.toNat x.waitStart }))) ∧
    (∀ e, s.seqLoad x (x.g a) sp = .error e → (∀ f, e ≠ .trap f) → exec (.seqw g d a limit sp sc) s =
      .next (((s.askOutside e).waitAt x (.seqw limit.toNat x.waitStart)).consume (s.me x)))) ∧
  (∀ (s t u : State) (c k : Nat) (h : Chain), s.alive = true → tabGet (s.core c).chains k = some h →
    let ag := chainAgent c h
    (h.run = .idle → exec (.chainEntryComplete c k) s = .next (s.chainTry c k h)) ∧
    (h.run ≠ .idle → s.chainDone c h = some (t, none) → t.performed ag h.sc = true →
      t.store ag h.seqAddr (natLe 8 h.seq.toNat) = .ok u →
      let w := ((u.releaseAt ag (u.seqObj ag false h.seqAddr)).publish ag h.sc).consume ag
      let q := { h with entry := h.next, last := some h.seq, run := .idle }
      exec (.chainEntryComplete c k) s = .next
        (if h.next = 0 then w.dropChain c k else (w.setChain c k q).chainTry c k q))) ∧
  (∀ (s u r' : State) (c : Nat) (x : Ctx) (w : Word) (g : Guard) (d a : Reg) (lim : BitVec 32) (sp : Bool) (sc : Scope) (v : Word)
      (limit : Nat) (since : Word),
    s.alive = true → (s.core c).day = some x → x.issues = true → x.wait = .seqw limit since → limit ≠ 0 →
    limit ≤ (x.cycle - since).toNat →
    let r := { s with cur := c }
    r.fetch x = .ok (r', w) → instrOf w = .seqw g d a lim sp sc → r.seqLoad x (x.g a) sp = .ok (u, v) →
    let m := (((if (x.g d).toNat ≤ v.toNat then u.acquire (u.me x) (u.seqObj (u.me x) sp (x.g a)) else u).setCtx
      ((u.now x).setG d v))).consume (r.me x)
    exec (.seqwTimeout c) s = .next { m.setDay c (some ((m.now x).complete .seq)) with cur := s.cur }) ∧
  (∀ (s : State) (c line : Nat) (us : List (Nat × UpdateOnly)) (u : UpdateOnly), s.alive = true → tabGet s.updates line = some us →
    tabGet us c = some u →
    ∃ t, exec (.updateOnlyEvict c line) s = .next t ∧ t.mem = (s.foldCopy line u).mem ∧ (s.lineTs line).2 < (t.lineTs line).1 ∧
      t.updates = (if tabDel us c = [] then tabDel s.updates line else tabPut s.updates line (tabDel us c)) ∧
      t.viewLines = s.viewLines.filter fun v => !(s.viewsOf (128 * line) 128).contains v.line)

/-- R354 to R356, R323, R357, R358: CPY enters its copy once its operands pass the checks, its barrier is one of the task's and the engine has
room, and goes on, the engine's accesses behind those of the task; each sector of it is then written, in any order, counted down when it
has been performed, with its granules filled as they empty under .fe, and a withheld sector is tried again when a retry is due. CPY.ring
enters the ring that a descriptor gives, and sets its CREDIT to g[b] and its DONE to zero; while there is credit, slot copies start in
order, each taking one of CREDIT in one indivisible step at its home; SLOTF adds free-slot notices to CREDIT in one, and takes SYNC where
they would pass NSLOT. -/
def Obligations.CopiesAndRingsComplete : Prop :=
  ((∀ (s t : State) (x : Ctx) (g : Guard) (d a b c : Reg) (fe gm : Bool) (sc : Scope) (o : Bar), s.ready x g →
    let r : BarRef := ⟨gm, x.g c⟩
    let dst := (x.g d).toNat
    let src := (x.g a).toNat
    let n := (x.g b).toNat
    let entered (dir : BitVec 3) (fe : Bool) : State :=
      ((t.handOver (t.me x) (copyAgent t.cur x.id x.asid)).enqueue t.cur
        (Copy.fresh .command x.id x.asid x.part dir (x.g d) (x.g a) n fe (some r) sc)).ended s x
    dst % 32 = 0 → src % 32 = 0 → n % 32 = 0 → n ≤ 2 ^ 40 → s.barChecked s.cur (s.me x) r = .ok (t, o) →
    (t.core t.cur).copyQueue < 16 →
    (dst + n ≤ x.spadBytes → exec (.cpyG2s g d a b c fe gm sc) s = .next (entered 0 fe)) ∧
    (src + n ≤ x.spadBytes → exec (.cpyS2g g d a b c gm sc) s = .next (entered 1 false)) ∧
    (dst + n ≤ src ∨ src + n ≤ dst → exec (.cpyG2g g d a b c gm sc) s = .next (entered 2 false)) ∧
    (dst + n ≤ src ∨ src + n ≤ dst → dst + n ≤ x.spadBytes → src + n ≤ x.spadBytes →
      exec (.cpyS2s g d a b c fe gm sc) s = .next (entered 3 fe))) ∧
  (∀ (s t u : State) (c k e : Nat) (p : Copy) (i : Instr), s.alive = true → tabGet (s.core c).copies k = some p →
    e < p.sectors → setHas p.counted e = false →
    (tabGet p.withheld e = none ∧ i = .copySectorWrite c k e ∨ (∃ a, tabGet p.retry e = some a) ∧ i = .copySectorRetry c k e) →
    let q := { p with withheld := p.withheld.filter (·.1 != e), retry := tabDel p.retry e }
    let ag := copyAgent c p.task p.asid
    let ended := fun (q' : Copy) (u : State) => exec i s = .next ((u.consume ag).copyEnd c k q')
    (setHas p.done e = true → ∀ q', s.sectorCount c q e = .ok (t, q') → ended q' t) ∧
    (setHas p.done e = false → p.fe = false → ∀ bs bad v, s.copyRead c q e = .ok (v, bs, bad) → v.copyWrite c q e bs bad = .ok t →
      let q1 := { q with done := setAdd p.done e }
      (∀ q', t.sectorCount c q1 e = .ok (u, q') → ended q' u) ∧
      (t.copyReach c q1 e = false → ended q1 t)) ∧
    (setHas p.done e = false → p.fe = true → ∀ h, s.fillSector c q e = .ok (t, h) →
      (∀ m, h = some m → ended { q with halves := tabPut p.halves e m } t) ∧
      (h = none →
        let q1 := { q with done := setAdd p.done e, halves := tabDel p.halves e }
        ∀ q', t.sectorCount c q1 e = .ok (u, q') → ended q' u))) ∧
  (∀ (s : State) (c k e : Nat) (p q : Copy), tabGet (s.core c).copies k = some p →
    ((∀ t, s.copyReach c q e = true → q.bar = none → s.sectorCount c q e = .ok (t, q) → t = s ∧ setHas q.counted e = true) ∧
     (∀ t b, s.copyReach c q e = true → q.bar = some b → s.barUpdate c (copyAgent c q.task q.asid) b 0 (-1) = .ok t →
       s.sectorCount c q e = .ok (t, { q with counted := setAdd q.counted e })) ∧
     (q.counted.length < q.sectors → s.copyEnd c k q = s.setCopy c k q) ∧
     (q.sectors ≤ q.counted.length → q.owner = .command →
       s.copyEnd c k q = s.setCore c { s.core c with copies := tabDel (s.core c).copies k })))) ∧
  ((∀ (s t u v : State) (x : Ctx) (g : Guard) (a b : Reg) (slot : BitVec 32) (nslot : BitVec 16) (gm dsp fe : Bool) (total : BitVec 41)
      (bs : List Byte), s.ready x g →
    let va := x.g a
    let wd (j : Nat) : Word := leWord ((bs.drop (8 * j)).take 8)
    let last := (wd 1).toNat + nslot.toNat * slot.toNat
    let k := t.core t.cur
    let put := fun (t : State) (o v : Word) =>
      if gm then t.store (t.me x) (va + o) (natLe 8 v.toNat) else t.writeSpad t.cur x (va + o) (natLe 8 v.toNat)
    va.toNat % 64 = 0 →
    (if gm then s.loadN (s.me x) va 64 = .ok (t, bs) else t = s ∧ s.readSpad s.cur x va 64 = .ok bs) →
    wd 2 = (0 : BitVec 14) ++ BitVec.ofBool fe ++ BitVec.ofBool dsp ++ nslot ++ slot → wd 3 = total.setWidth 64 → wd 6 = 0 → wd 7 = 0 →
    (wd 0).toNat % 32 = 0 → (wd 1).toNat % 32 = 0 → slot.toNat % 32 = 0 → 32 ≤ slot.toNat → slot.toNat ≤ 2 ^ 20 → 1 ≤ nslot.toNat →
    1 ≤ total.toNat → total.toNat ≤ 2 ^ 40 → (x.g b).toNat ≤ nslot.toNat → (fe = true → dsp = true) →
    (if dsp then last ≤ x.spadBytes else last ≤ (wd 0).toNat ∨ (wd 0).toNat + total.toNat * slot.toNat ≤ (wd 1).toNat) →
    k.copyQueue < 16 → k.rings.length < 4 → put t 32 (x.g b) = .ok u → put u 40 0 = .ok v →
    let r : Ring := ⟨x.id, x.asid, x.part, gm, va, wd 0, wd 1, slot.toNat, nslot.toNat, dsp, fe, total.toNat, 0, [], none, none⟩
    let z := v.handOver (v.me x) (copyAgent v.cur x.id x.asid)
    exec (.cpyRing g a b gm) s = .next ({ z.setRing z.cur z.nextId r with nextId := z.nextId + 1 }.ended s x)) ∧
  (∀ (s t u v : State) (c k : Nat) (r : Ring) (credit : Word), s.alive = true → tabGet (s.core c).rings k = some r →
    r.withheld = none → r.retry = none → s.ringAdvance c k r = .ok t → tabGet (t.core c).rings k = some r →
    t.ringRead c r 4 = .ok (u, credit) →
    let ag := copyAgent c r.task r.asid
    (credit = 0 ∨ r.total ≤ r.next → exec (.ringSlotCopy c k) s = .next (u.consume ag)) ∧
    (∀ took, credit ≠ 0 → r.next < r.total → u.takeCredit c r credit = .ok (v, took) →
      let p := Copy.fresh (.ring k r.next) r.task r.asid r.part (if r.dsp then 0 else 2)
        (r.dst + BitVec.ofNat 64 (r.next % r.nslot * r.slot)) (r.src + BitVec.ofNat 64 (r.next * r.slot)) r.slot r.fe none .core
      exec (.ringSlotCopy c k) s =
        .next ((if took then (v.setRing c k { r with next := r.next + 1 }).enqueue c p else v).consume ag)) ∧
    (r.gm = false → u.ringWrite c r 4 (credit - 1) = .ok v → u.takeCredit c r credit = .ok (v, true)) ∧
    (r.gm = true → u.takeCredit c r credit = u.swapWord ag (r.desc + 32) credit (credit - 1))) ∧
  (∀ (s t : State) (ag : Agent) (va v v' : Word) (w : Walk) (bs : List Byte), s.translate ag va .atomic = .ok w → s.region w.pa ≠ .host →
    s.updateVia ag va 8 (.cas true v) (natLe 8 v'.toNat) (fun o => if leWord o = v then natLe 8 v'.toNat else o) w = .ok (t, bs) →
    s.swapWord ag va v v' = .ok (t, decide (leWord bs = v))) ∧
  (∀ (s t u v : State) (x : Ctx) (g : Guard) (a b : Reg) (w2 cr : Word), s.ready x g →
    let va := x.g a
    let k := s.core s.cur
    let n := (x.g b).toNat
    (n = 0 ∨ 2 ^ 16 ≤ n → ∀ sp, exec (.slotf g a b sp) s = .next (s.trapped x (.slotf g a b sp) .shape (encode (.slotf g a b sp)))) ∧
    (n ≠ 0 → n < 2 ^ 16 → va.toNat % 16 = 0 →
    (s.loadWord (s.me x) (va + 16) true = .ok (t, w2) → t.loadWord (t.me x) (va + 32) true = .ok (u, cr) →
      (cr.toNat + n ≤ w2.toNat / 2 ^ 32 % 2 ^ 16 →
        u.swapWord (u.me x) (va + 32) cr (cr + BitVec.ofNat 64 n) = .ok (v, true) →
        exec (.slotf g a b false) s = .next (v.ended s x)) ∧
      (w2.toNat / 2 ^ 32 % 2 ^ 16 < cr.toNat + n → exec (.slotf g a b false) s = .next (s.trapped x (.slotf g a b false) .sync va))) ∧
    (let w := (va + 16).toNat
     let o := (va + 32).toNat
     w + 8 ≤ x.spadBytes → o + 8 ≤ x.spadBytes → k.spadReady w 8 = true → k.spadReady o 8 = true →
      k.spadPoisoned w 8 = false → k.spadPoisoned o 8 = false →
      let old := leNat (Memory.bytes k.spad o 8)
      old + n ≤ leNat (Memory.bytes k.spad w 8) / 2 ^ 32 % 2 ^ 16 →
      exec (.slotf g a b true) s = .next ((s.setCore s.cur (k.putSpad o (natLe 8 (old + n)))).ended s x)))))

/-- R337, R368 to R370: A collective whose outcome stands goes on, what the participants' writes leave outstanding being visible to it; the
outcome of a mismatch is its trap; one that joins before the rest waits at its instruction. The sources are combined in ascending rank,
and each destination is written sector by sector, the members finding each; behind its last, once all are performed, its participant may
return. The order of the sectors and of the ranks is the model's choice (log entry 23). -/
def Obligations.CollectivesComplete : Prop :=
  (∀ (ty : Ty) (n root rank op k : Nat) (a : List Byte) (r : List (List Byte)), op < 3 → k < n →
    elemAt ty.bytes (collResult op ty n root rank (a :: r)) k =
      r.foldl (fun v b => collStep op ty v (elemAt ty.bytes b k)) (elemAt ty.bytes a k) % 2 ^ (8 * ty.bytes)) ∧
  (∀ (ty : Ty) (n root rank : Nat) (srcs : List (List Byte)), collResult 3 ty n root rank srcs = (srcs[root]?).getD [] ∧
    collResult 4 ty n root rank srcs = srcs.flatten) ∧
  (∀ (s t : State) (k : Nat) (g : Group) (w : CollStore) (rest : List CollStore), g.writes = w :: rest →
    let ag := collAgent w.core w.task w.asid
    (w.bytes ≠ [] → s.storeN ag w.dst w.bytes = .ok t →
      s.collStore k g = (t.collFresh g (t.bufferLines ag w.dst w.bytes.length)).setGroup k { g with writes := rest }) ∧
    (w.bytes = [] → s.performed ag .fab = true → s.collStore k g =
      (s.releaseAt ag (.group k)).setGroup k { g with writes := rest, outcome := g.outcome ++ [(w.rank, w.task, none)] })) ∧
  ∀ (s t u v : State) (x : Ctx) (g : Guard) (d a b c : Reg) (ty : Ty) (q : CollOp), s.ready x g →
    ∀ (op : Nat) (i : Instr), (op, i) ∈ [(0, .collSum g d a b c ty), (1, .collMax g d a b c ty), (2, .collMin g d a b c ty),
      (3, .collBcast g d a b c ty), (4, .collAgath g d a b c ty), (5, .collRscat g d a b c ty)] →
    s.collRead (s.me x) x.part s.cur (encode i) op ty (x.g d) (x.g a) (x.g b) (x.g c) = .ok (t, q) →
    let done := fun (v : State) => v.collReturn (v.me x) q.group
    (t.collTake x.id q = some (u, none) → exec i s = .next ((done u).ended s x)) ∧
    (∀ tr, t.collTake x.id q = some (u, some tr) → exec i s = .next ((u.collTrap x (encode i) tr).consume (s.me x))) ∧
    (t.collTake x.id q = none → t.collReady (t.me x) q = true → t.collJoin s.cur x.id x.asid (t.me x) q = .ok u →
      (u.collTake x.id q = some (v, none) → exec i s = .next ((done v).ended s x)) ∧
      (u.collTake x.id q = none → exec i s = .next ((u.waitAt (u.now x) .collective).consume (s.me x))))

/-- R371: SPL keeps a range of registers, in the highest column that is neither claimed nor in use or, with none, at the address in g[c]; FIL
restores them and frees the slot. Both are for supervisor mode. -/
def Obligations.SpillsComplete : Prop :=
  ∀ (s t : State) (x : Ctx) (g : Guard) (slot : BitVec 4) (a b c : Reg) (bs : List Byte), s.ready x g → x.sup = true →
    let k := s.core s.cur
    let free := { k with spills := tabDel k.spills slot.toNat }
    let n := b.toNat - a.toNat + 1
    let vals := (List.range n).map fun i => x.g (BitVec.ofNat 6 (a.toNat + i))
    let refill (y : Ctx) (vs : List Word) : Ctx :=
      vs.zipIdx.foldl (fun (y : Ctx) (v, i) => y.setG (BitVec.ofNat 6 (a.toNat + i)) v) y
    (a.toNat ≤ b.toNat → (x.g c).toNat % 512 = 0 →
      (∀ col, free.spillColumn = some col → exec (.spl g slot a b c) s = .next ((s.setCore s.cur
        { k with spills := tabPut free.spills slot.toNat ⟨a.toNat, b.toNat, vals, some col, x.g c, x.asid⟩ }).ended s x)) ∧
      (free.spillColumn = none → s.storeN (s.me x) (x.g c) (vals.flatMap fun v => natLe 8 v.toNat) = .ok t →
        exec (.spl g slot a b c) s = .next ((t.setCore t.cur { t.core t.cur with
          spills := tabPut free.spills slot.toNat ⟨a.toNat, b.toNat, [], none, x.g c, x.asid⟩ }).ended s x))) ∧
    (∀ p, tabGet k.spills slot.toNat = some p → p.first = a.toNat → p.last = b.toNat →
      (p.column ≠ none →
        exec (.fil g slot a b) s = .next (((s.setCore s.cur free).setCtx (refill x p.vals)).ended s x)) ∧
      (p.column = none → s.loadN (s.me x) p.addr (8 * n) = .ok (t, bs) →
        let u := t.setCore t.cur { t.core t.cur with spills := tabDel (t.core t.cur).spills slot.toNat }
        exec (.fil g slot a b) s = .next ((u.setCtx (refill (u.now x)
          ((List.range n).map fun i => leWord ((bs.drop (8 * i)).take 8)))).ended s x))) ∧
    (tabGet k.spills slot.toNat = none → exec (.fil g slot a b) s = .next (s.trapped x (.fil g slot a b) .shape (encode (.fil g slot a b))))

/-- R377, R381 to R393: Every lookup-cell instruction takes the plane first, which a parked task may have to give up. BSLICE writes wire first
+ b, lane L, with bit sh + b of element L, and BJOIN writes each element from its wires, sign-extended where its type is signed; LCTX
starts loading a slot; LSEL selects one; LRUN runs one layer, every cell reading the old plane; LSTAT tells a count of ones, a quarter of
a wire, a slot and the layers run. A stream's header and entries come in one by one, and the last makes the slot resident. -/
def Obligations.LookupCellsComplete : Prop :=
  (∀ (s t : State) (x : Ctx) (g : Guard) (d a : Reg) (ty : Ty) (sh : BitVec 6) (slot q : BitVec 2), s.ready x g → s.takePlane x = .ok t →
    let y := t.now x
    let k := t.core t.cur
    let w := ty.bits
    (∀ first n, (y.g d).toNat = first + 65536 * (n - 1) → 1 ≤ n → n ≤ 32 → first + n ≤ 2048 → sh.toNat + n ≤ w → (y.g a).toNat % 16 = 0 →
      (y.g a).toNat < 2 ^ 32 → (y.g a).toNat + 32 * w ≤ y.spadBytes → k.spadReady (y.g a).toNat (32 * w) = true → k.spadPoisoned (y.g a).toNat (32 * w) = false →
      ∃ v : Nat → BitVec 256, exec (.bslice g d a ty sh) s = .next ((t.setCore t.cur { k with
          plane := (List.range n).foldl (fun p b => Cells.set p (first + b) (v b)) k.plane }).ended s x) ∧
        ∀ l b, l < 256 → b < n → (v b).getLsbD l = (leNat (Memory.bytes k.spad
          ((y.g a).toNat + l * (w / 8)) (w / 8))).testBit (sh.toNat + b)) ∧
    (∀ first n, (y.g a).toNat = first + 65536 * (n - 1) → 1 ≤ n → n ≤ 32 → first + n ≤ 2048 → sh.toNat + n ≤ w → (y.g d).toNat % 16 = 0 →
      (y.g d).toNat < 2 ^ 32 → (y.g d).toNat + 32 * w ≤ y.spadBytes → k.spadReady (y.g d).toNat (32 * w) = true →
      ∃ e : Nat → Nat, exec (.bjoin g d a ty sh) s =
        .next ((t.setCore t.cur (k.putSpad (y.g d).toNat ((List.range 256).flatMap fun l => natLe (w / 8) (e l)))).ended s x) ∧
        ∀ l b, l < 256 → b < w → (e l).testBit b = if b < sh.toNat then false
          else if b < sh.toNat + n then (k.plane.get (first + (b - sh.toNat))).getLsbD l
          else ty.signed && (k.plane.get (first + n - 1)).getLsbD l) ∧
    ((y.g a).toNat % 32 = 0 → (∀ i m cs wh r, y.lcSlot slot ≠ .loading i m cs wh r) →
      exec (.lctx g slot a) s = .next (((t.handOver (t.me y) (coreAgent 1 t.cur (12 + slot.toNat) y.id y.asid)).setCtx
        { y with lcSlots := y.lcSlots.set slot.toNat (.loading (y.g a) none [] none none) }).ended s x)) ∧
    exec (.lsel g slot) s = .next ((t.setCtx { y with lcSel := some slot }).ended s x) ∧
    (∀ cells, y.lcSel = some slot → y.lcSlot slot = .resident cells →
      exec (.lrun g) s = .next (((t.setCore t.cur { k with plane := runLayer k.plane y.lkc cells }).setCtx
        { y with runs := y.runs + 1 }).ended s x)) ∧
    (∀ first n, (y.g a).toNat = first + 65536 * (n - 1) → 1 ≤ n → n ≤ 32 → first + n ≤ 2112 →
      exec (.lstatPop g d a) s = .next ((t.setCtx (y.setG d (BitVec.ofNat 64 (((List.range n).flatMap fun j =>
        (List.range 256).filter fun l => (wireAt k.plane y.lkc (first + j)).getLsbD l).length)))).ended s x)) ∧
    (∀ first, (y.g a).toNat = first → first < 2112 → exec (.lstatWord g d a q) s =
      .next ((t.setCtx (y.setG d ((wireAt k.plane y.lkc first).extractLsb' (64 * q.toNat) 64))).ended s x)) ∧
    exec (.lstatSlot g d slot) s = .next ((t.setCtx (y.setG d (BitVec.ofNat 64 ((if y.lcSel = some slot then 2 ^ 19 else 0) +
      match y.lcSlot slot with
      | .empty f => if f then 2 ^ 18 else 0
      | .loading _ m _ _ _ => 2 ^ 17 + m.getD 0 % 2 ^ 12
      | .resident cells => 2 ^ 16 + cells.length % 2 ^ 12)))).ended s x) ∧
    exec (.lstatRuns g d) s = .next ((t.setCtx (y.setG d y.runs)).ended s x)) ∧
  (∀ (plane : Cells 256) (lkc : Word) (cells : List Cell), plane.wf = true →
    (∀ j c, cells[j]? = some c → (runLayer plane lkc cells).get j = c.eval (wireAt plane lkc)) ∧
    ∀ j, cells.length ≤ j → (runLayer plane lkc cells).get j = plane.get j) ∧
  (∀ (s t : State) (c slot entry : Nat) (x : Ctx) (image : Word) (cells : List (Nat × Cell)) (m : Nat) (bs : List Byte),
    s.alive = true → s.loader c slot entry = some x →
    let ag := coreAgent 1 c (12 + slot) x.id x.asid
    let wd (k : Nat) : Word := leWord ((bs.drop (8 * k)).take 8)
    (x.lcSlots[slot]? = some (.loading image none [] none none) → s.load ag image 32 = .ok (t, bs) → 1 ≤ m → m ≤ 2048 →
      wd 0 = BitVec.ofNat 64 m → wd 1 = 0 → wd 2 = 0 → wd 3 = 0 →
      exec (.tableLoadEntry c slot entry) s = .next ((t.consume ag).setLcSlot c x.id slot (.loading image (some m) [] none none))) ∧
    (∀ cell, x.lcSlots[slot]? = some (.loading image (some m) cells none none) → entry < m → tabGet cells entry = none →
      s.load ag (image + BitVec.ofNat 64 (32 + 32 * entry)) 32 = .ok (t, bs) → cellOf (wd 0) (wd 1) (wd 2) (wd 3) = some cell →
      exec (.tableLoadEntry c slot entry) s = .next ((t.consume ag).setLcSlot c x.id slot
        (if (tabPut cells entry cell).length = m then .resident ((tabPut cells entry cell).map (·.2))
         else .loading image (some m) (tabPut cells entry cell) none none))))

/-- R398, R406 to R412, R424: TENQ and LAUNCH.arg put a record into slot TAIL of a task node's queue and raise TAIL, in one operation, and
wait while it is full; LAUNCH fires a node and GSIG sends it signals, and the cascade that follows is the scheduler's, after what the task
released; TEND stops streams that have nothing left, waits for the task's work and retires the task, whose insertion, arrival and
successors are the scheduler's errand; TYIELD parks it when the night set is free. A GSIG to node 0 returns. That the scheduler keeps the
cascade, the insertion, the arrival and the successors as an errand is the model's choice (log entry 35). -/
def Obligations.TasksComplete : Prop :=
  (∀ (s t u v w : State) (x : Ctx) (g : Guard) (a b : Reg) (n : Node) (ptr : Word) (bs : List Byte), s.ready x g →
    let va := x.g a
    let put (v : State) (bs : List Byte) : Res State := v.enqueueOp (v.me x) x.part va bs
    s.nodeCheck x va = .ok (t, n) →
    (n.kind = 1 → (x.g b).toNat % 64 = 0 → t.loadWord (t.me x) (va + 8) = .ok (u, ptr) → ptr ≠ 0 →
      u.loadN (u.me x) (x.g b) 256 = .ok (v, bs) → ∀ p, v.purity (v.me x) va 128 true = .ok p →
      (put p bs = .ok w → exec (.tenq g a b) s = .next (w.ended s x)) ∧
      (put p bs = .error (.wait .queueFull) → exec (.tenq g a b) s = .next (s.setCtx { x with wait := .queueFull }))) ∧
    (n.kind = 1 → t.loadWord (t.me x) (va + 64) = .ok (u, ptr) → ptr ≠ 0 →
      u.loadN (u.me x) ptr 256 = .ok (v, bs) → ∀ p, v.purity (v.me x) va 128 true = .ok p →
      let made := bs.take 32 ++ natLe 8 (x.g b).toNat ++ bs.drop 40
      (put p made = .ok w → exec (.launchArg g a b) s = .next (w.ended s x)) ∧
      (put p made = .error (.wait .queueFull) → exec (.launchArg g a b) s = .next (s.setCtx { x with wait := .queueFull }))) ∧
    (∀ out budget lim k, t.purity (t.me x) va 128 true = .ok v → v.nodeOp (v.me x) x.part va k 64 = .ok (w, out, budget, lim) →
      let m := if lim then w.schedFault x.part x.asid (shapeTrap va) else w
      let done := (m.errand x.part ⟨x.asid, none, 0, none, out.map fun v => (v, some 1), budget, [], m.release (m.me x)⟩).ended s x
      (k = none → exec (.launch g a) s = .next done) ∧
      (k = some (x.g b).toNat → 1 ≤ (x.g b).toNat → (x.g b).toNat < 65536 → va ≠ 0 → exec (.gsig g a b) s = .next done)) ∧
    (1 ≤ (x.g b).toNat → (x.g b).toNat < 65536 → va = 0 → exec (.gsig g a b) s = .next (t.ended s x)) ∧
    (n.kind ≠ 1 → exec (.tenq g a b) s = .next (if (x.g b).toNat % 64 = 0 then s.trapped x (.tenq g a b) .shape (encode (.tenq g a b))
        else s.trapped x (.tenq g a b) .align (x.g b)) ∧
      exec (.launchArg g a b) s = .next (s.trapped x (.launchArg g a b) .shape (encode (.launchArg g a b))))) ∧
  (∀ (s t u v w : State) (ag : Agent) (p : Nat) (va : Word) (n : Node) (bs : List Byte), s.readHead ag va = .ok (t, n) →
    (n.cap ≤ n.depth → s.enqueueOp ag p va bs = .error (.wait .queueFull)) ∧
    (n.depth < n.cap → t.storeN ag (n.base + BitVec.ofNat 64 (256 * (n.tail.toNat % n.cap))) bs = .ok u →
      (u.noteQueued p ⟨va, ag.asid, n.tail, t.time⟩).writeNode ag va (n.setQueue n.head (n.tail + 1)) = .ok v →
      s.atOnce v ag (s.bufferLines ag va 128) = .ok w → s.enqueueOp ag p va bs = .ok (w.releaseAt ag (.node ag.asid va)))) ∧
  ∀ (s : State) (x : Ctx) (g : Guard), s.ready x g →
    (x.sup = false → ∀ f, s.stopStreams x = some f →
      exec (.tend g) s = .next (((s.setCtx { x with fabric := some f, wait := .tend }).settle s.cur).consume (s.me x))) ∧
    (x.sup = false → s.stopStreams x = none → s.tendReady x = true →
      let t := (x.traps.foldl (fun t e => State.leaveFault t s.cur x.part x.asid e) s).freeDay s.cur x
      let left (c : Core) := { c with retired := some (x.complete .seq) }
      (x.job = none → exec (.tend g) s = .next ((t.setCore s.cur (left (t.core s.cur))).consume (s.me x))) ∧
      (∀ j, x.job = some j →
        let c := t.core s.cur
        let u := t.setCore s.cur { left c with
          ended := if j.pure then tabPut c.ended x.id (x.traps.foldl Job.noteFault j) else c.ended }
        exec (.tend g) s = .next ((u.errand x.part ⟨x.asid, if j.pure then some (s.cur, x.id) else none, j.done, some x.node, [], 64, [],
          (x.traps.foldl (fun t e => State.leaveFault t s.cur x.part x.asid e) s).release (s.me x)⟩).consume (s.me x)))) ∧
    (x.sup = false → s.stopStreams x = none → s.tendReady x = false → exec (.tend g) s = .next (s.setCtx { x with wait := .tend })) ∧
    (x.sup = true → exec (.tend g) s = .next (s.trapped x (.tend g) .illegal (encode (.tend g))) ∧
      exec (.tyield g) s = .next (s.trapped x (.tyield g) .illegal (encode (.tyield g)))) ∧
    (x.sup = false → (s.core s.cur).night = none →
      exec (.tyield g) s = .next ((s.park s.cur { x.complete .seq with yielded := true, eligible := false }).consume (s.me x))) ∧
    (x.sup = false → (s.core s.cur).night ≠ none → exec (.tyield g) s = .next (s.ended s x))

/-- R428, R430: RINV removes the entries of the reuse table that it names from every die, voids the runs that would insert such an entry, and
returns how many entries it removed; RSTAT returns a statistic of the ASID, the state of the entry with a tag, the entries it holds, or
its quota. -/
def Obligations.ReuseInstructionsComplete : Prop :=
  (∀ (s : State) (x : Ctx) (g : Guard) (d a b : Reg), s.ready x g →
    let removed (s' : State) (f : BitVec 13 → BitVec 128 → Word → Nat → Bool) : State :=
      let t := (s'.removeEntries f).1.voidRuns f
      (t.setCtx ((t.now x).setG d (BitVec.ofNat 64 (s'.removeEntries f).2))).ended s x
    let told (v : Word) : State := s.retired x (x.setG d v)
    let n := (x.g b).toNat
    let tag := x.g (a ||| 1) ++ x.g a
    (a.toNat % 2 = 0 → exec (.rinvTag g d a) s = .next (removed s fun as t _ _ => as == x.asid && t == tag)) ∧
    (1 ≤ n → n ≤ 2 ^ 40 → exec (.rinvRange g d a b) s = .next (removed s fun as _ r l =>
      as == x.asid && decide (r.toNat < (x.g a).toNat + n) && decide ((x.g a).toNat < r.toNat + l))) ∧
    exec (.rinvAll g d) s = .next (removed s fun as _ _ _ => as == x.asid) ∧
    (∀ u, x.sup = true → s.ownAsid (s.me x) ((x.g a).extractLsb' 0 13) x.part (x.g a) = .ok u →
      exec (.rinvAsid g d a) s = .next (removed u fun as _ _ _ => as == (x.g a).extractLsb' 0 13)) ∧
    exec (.rstatLkp g d) s = .next (told (s.stat x.asid).lookups) ∧
    exec (.rstatHit g d) s = .next (told (s.stat x.asid).hits) ∧
    exec (.rstatMiss g d) s = .next (told (s.stat x.asid).misses) ∧
    exec (.rstatIns g d) s = .next (told (s.stat x.asid).inserts) ∧
    (a.toNat % 2 = 0 → exec (.rstatProbe g d a) s = .next (told (match s.findEntry x.asid tag with
      | none => 0
      | some e => (0 : BitVec 30) ++ BitVec.ofBool (s.freshEntry e) ++ (1 : BitVec 1) ++ e.seq))) ∧
    exec (.rstatHeld g d) s = .next (told (BitVec.ofNat 64 ((List.range 4).map fun k =>
      ((s.table k).entries.filter fun e => e.asid == x.asid).length).sum)) ∧
    exec (.rstatQuota g d) s = .next (told ((s.stat x.asid).quota.setWidth 64))) ∧
  (∀ (s : State) (f : BitVec 13 → BitVec 128 → Word → Nat → Bool),
    (∀ k, ((s.removeEntries f).1.table k).entries =
      (if k < 4 then (s.table k).entries.filter (fun e => !f e.asid e.tag e.result e.rlen) else (s.table k).entries)) ∧
    (s.removeEntries f).2 = ((List.range 4).map fun k =>
      ((s.table k).entries.filter fun e => f e.asid e.tag e.result e.rlen).length).sum)

/-- R333, R405 to R409, R414 to R417, R420 to R423, R253 to R255, R412, R418, R439, R440: DISPATCH takes up what still has to be done and
gives the first free core the first candidate in order: a parked task returns to its core, a pure record that was looked up starts, and
the head record of a node is checked, taken and started, once the spilled columns that its claim takes have been written; a record that
fails its checks is dropped with a fault. REUSE_LOOKUP looks up the pure head record of a node, after the release that enqueued it: a hit
retires it, and else it is ready to run with what its insertion needs. A task starts with PC behind the code header, its arguments in g1
to g8, the claim that the header gives and everything else at the values a task starts with. What a retirement still owes is kept as an
errand (log entry 35). The scheduler asks for a dusk of the task that its first candidate outranks; a task that yielded becomes eligible
after SCH_AGEQ nanoseconds; a parked task that is the next choice returns; and a fault of another block is taken by a running task at a
boundary, with the PC as its resume address and ASYNC when its source is not the control core. -/
def Obligations.SchedulerWorks : Prop :=
  ((∀ (s : State) (p n : Nat) (c : Cand) (q : Partition), s.alive = true →
    let t := (s.resumeErrands p).lookHeads p
    t.choice p = some (c, n) →
    (∀ k, c.work = .parked k → exec (.dispatch p) s = .next (t.resumeParked k)) ∧
    (∀ r u, c.work = .ready r → t.evictSpills n 0 r.cols = .ok u → u.part p = some q →
      exec (.dispatch p) s = .next ((u.setPart p { q with ready := q.ready.filter (· != r) }).startTask
        p n r.asid r.node r.slot ⟨r.bytes, r.cols, r.spad, []⟩ r.tag r.granules)) ∧
    (∀ node asid nd u, c.work = .head node asid →
      let ag := t.schedAgent p asid
      let t := t.acquire ag (.node asid node)
      t.readHead ag node = .ok (u, nd) →
      (∀ v o w r, u.recordCheck ag (nd.slot nd.head) = .ok (v, r) → v.evictSpills n 0 r.cols = .ok o → o.takeRecord p asid node = .ok w →
        exec (.dispatch p) s = .next ((w.consume ag).startTask p n asid node (nd.slot nd.head) r none [])) ∧
      (∀ e w, u.recordCheck ag (nd.slot nd.head) = .error (.trap e) → u.takeRecord p asid node = .ok w →
        exec (.dispatch p) s = .next (w.schedFault p asid e)))) ∧
  (∀ (s o t u v w h : State) (p : Nat) (q : Partition) (node : Word) (asid : BitVec 13) (n : Node) (bs : List Byte) (r : Record) (f : Found),
    s.alive = true → s.part p = some q → q.waiting node asid = true →
    let ag := s.schedAgent p asid
    let a := s.acquire ag (.node asid node)
    a.asidOf ag asid p = .ok (o, true) → o.readHead ag node = .ok (h, n) → n.kind = 1 → n.depth ≠ 0 →
    h.loadN ag (n.slot n.head) 16 = .ok (t, bs) → recPure bs = true → t.recordCheck ag (n.slot n.head) = .ok (u, r) →
    u.lookupRecord p asid node r = .ok (v, f) → v.takeRecord p asid node = .ok w →
    let m := w.consume ag
    (f = .hit → exec (.reuseLookup p node asid) s =
      .next (m.errand p ⟨asid, none, recDone r.bytes, some node, [], 64, [], m.release ag⟩)) ∧
    (∀ tag g q', f = .run tag g → m.part p = some q' → exec (.reuseLookup p node asid) s = .next (m.setPart p { q' with
      ready := q'.ready ++ [⟨node, asid, n.head, n.slot n.head, q.sinceOf node asid n.head t.time, r.bytes, r.cols, r.spad, tag, g⟩] }))) ∧
  (∀ (s : State) (p n : Nat) (asid : BitVec 13) (node slot : Word) (r : Record) (tag : Option (BitVec 128)) (gs : List (Nat × BitVec 32)),
    (s.core n).night = none → ∃ x, ((s.startTask p n asid node slot r tag gs).core n).day = some x ∧
      x.pc = recWord r.bytes 0 + 64 ∧ x.sup = false ∧ x.asid = asid ∧ x.part = p ∧ x.node = node ∧ x.rslot = slot ∧
      x.cols = r.cols ∧ x.spadBytes = r.spad ∧ x.prio.toNat = recPrio r.bytes ∧
      (∀ k, 1 ≤ k → k ≤ 8 → x.g (BitVec.ofNat 6 k) = recWord r.bytes (3 + k)) ∧
      (∀ k, 9 ≤ k → k < 64 → x.g (BitVec.ofNat 6 k) = 0) ∧ x.cond = .run ∧ x.wait = .none ∧ x.fabric = none ∧ x.th = false ∧
      ((s.startTask p n asid node slot r tag gs).core n).full = [])) ∧
  ((∀ (s : State) (p n : Nat) (q : Partition) (c : Cand) (ret : Bool), s.alive = true → s.part p = some q → q.preempt ≠ 0 →
    ((orderCands (s.cands p q)).findSome? fun c => (s.target p q c).map fun t => (c, t)) = some (c, (n, ret)) →
    let d : Dusk := ⟨ret, false, s.time, if ret then none else some (BitVec.ofNat 64 c.node, c.asid, c.number)⟩
    ((s.core n).dusk = none → (s.core n).asked = none →
      exec (.schedulerDusk p) s = .next (s.setCore n { s.core n with asked := some d })) ∧
    ((s.core n).dusk ≠ none ∨ (s.core n).asked ≠ none → exec (.schedulerDusk p) s = .next s)) ∧
  (∀ (s : State) (c : Nat) (y : Ctx) (q : Partition), s.alive = true → (s.core c).night = some y → s.part y.part = some q →
    y.yielded = true → y.eligible = false → y.since.toNat + max 1 q.ageq.toNat ≤ s.time.toNat →
    exec (.tyieldAgeExpiry c) s = .next (s.setNight c (some { y with eligible := true, yielded := false, since := s.time }))) ∧
  (∀ (s : State) (c n : Nat) (y : Ctx) (k : Cand), s.alive = true → (s.core c).night = some y → s.choice y.part = some (k, n) →
    k.work = .parked c → exec (.taskResume c) s = .next (s.resumeParked c)) ∧
  (∀ (s : State) (c : Nat) (x : Ctx) (t : Trap) (r : List Trap), s.alive = true → (s.core c).day = some x → x.traps = t :: r →
    x.halted = false → x.cond = .run → x.atBoundary = true →
    exec (.asyncTrap c) s = .next ((s.setDay c (some { x with traps := r })).takeTrap c { x with traps := r } t 0 x.pc false)))

/-- R243, R254 to R258, R260, R447 to R451, R239, R243, R256, R425, R431, R443 to R446, R448, R449: What a supervisor's register brings about,
each for a supervisor that issues: its register's effect alone, and PRIV in task mode. A write of a format range's EN waits until the
control core's accesses are performed at .fab: for R130's wait on the accesses of tasks no place is stated, and this one is the model's
choice (log entry 51). What those writes leave. PRT_INV sets BUSY and marks the affected nodes, waits while BUSY is 1, and refuses a bad
word (ILLEGAL) or ASID (PROT). PRT_POPCMD sets BUSY, or ends at once with a REASON. PRT_TCMD goes on with a held task or ends it, with no
arrival, insertion or signal. PRT_DUSK asks for a dusk or records a refusal. PRT_RSZ and PRT_MOVE end with their REASON, are done at once,
or stand until the clusters that leave have emptied. A ticket command ends with its REASON or moves the task; where a ticket may stand and
which REASON which operand gives are the model's choice (log entry 24), as is REASON 1 for a page operation whose operand cannot be read
(log entry 31). Each outcome adds 1 to SEQ, sets FAIL and REASON and clears BUSY. -/
def Obligations.SupervisorEffectsComplete : Prop :=
  (∀ (s t : State) (x : Ctx) (v : Word) (asid : BitVec 13) (d : Reg), s.ctx = some x → x.issues = true →
    (x.sup = true →
      (s.writeInv x 0 v = .ok t → exec (.prtInv v) s = .next t) ∧
      (s.writePop x 1 asid = .ok t → exec (.popMigrate asid) s = .next t) ∧
      (s.writePop x 2 asid = .ok t → exec (.popDuplicate asid) s = .next t) ∧
      (s.writePop x 3 asid = .ok t → exec (.popCollapse asid) s = .next t) ∧
      (s.tcmdResume x 0 = .ok t → exec .tcmdResume s = .next t) ∧
      (s.tcmdEnd x = .ok t → exec .tcmdEnd s = .next t) ∧
      (∀ h, s.readHot x = .ok (t, h) → exec (.hotvalRead d) s = .next (t.setCtx (x.setG d h))) ∧
      (s.performed (s.me x) .fab = true →
        (s.writeCtl x (v ||| 0x80000000) = .ok t → exec (.frrEnable v) s = .next t) ∧
        (s.writeCtl x (v &&& ~~~0x80000000) = .ok t → exec (.frrDisable v) s = .next t)) ∧
      (s.performed (s.me x) .fab = false →
        exec (.frrEnable v) s = .next (s.setCtx { x with wait := .interlock }) ∧
        exec (.frrDisable v) s = .next (s.setCtx { x with wait := .interlock })) ∧
      (s.writeQuota x v = .ok t → exec (.schQuotaWrite v) s = .next t) ∧
      (s.writeDusk x = .ok t → exec .prtDusk s = .next t) ∧
      (s.writeRsz x v = .ok t → exec (.prtRsz v) s = .next t) ∧
      (s.writeMove x v = .ok t → exec (.prtMove v) s = .next t) ∧
      (s.exportTicket x = .ok t → exec .ticketExport s = .next t) ∧
      (s.importTicket x asid = .ok t → exec (.ticketImport asid) s = .next t) ∧
      (s.writeFqHead x v = .ok t → exec (.prtFqheadWrite v) s = .next t)) ∧
    (x.sup = false → ∀ i ∈ [.prtInv v, .popMigrate asid, .popDuplicate asid, .popCollapse asid, .tcmdResume, .tcmdEnd, .hotvalRead d,
        .frrEnable v, .frrDisable v, .schQuotaWrite v, .prtDusk, .prtRsz v, .prtMove v, .ticketExport, .ticketImport asid,
        .prtFqheadWrite v],
      exec i s = .next (s.interrupt x 0 (.trap ⟨.priv, 0, 0, none, 0xFF, 0xF, 0, false, []⟩)))) ∧
  ((∀ (st : Word) (r : Nat), r < 16 → ∀ f ∈ [rszDone, popDone],
    (f st r).extractLsb' 32 32 = st.extractLsb' 32 32 + 1 ∧ ((f st r).extractLsb' 4 4).toNat = r ∧
    (f st r).getLsbD 1 = decide (r ≠ 0) ∧ (f st r).getLsbD 0 = false) ∧
  ∀ (s : State) (x : Ctx) (q : Partition) (v word : Word) (asid : BitVec 13), s.part x.part = some q →
    (let scope := v.toNat / 2 % 4
     let named := BitVec.ofNat 13 (v.toNat / 8)
     let good := scope ≠ 3 ∧ v.toNat < 2 ^ 52 ∧ v.toNat % 2 = 0
     let own : Res (State × Bool) := if scope = 2 then .ok (s, true) else s.asidOf (s.me x) named x.part
     (¬ good → s.writeInv x word v = trapWith .illegal word) ∧
     (∀ t, good → own = .ok (t, false) →
       s.writeInv x word v = .error (.trap ⟨.prot, v, 0, none, 0xFF, 0xF, 0, false, [s.asidAddr named 0]⟩)) ∧
     (∀ t, good → own = .ok (t, true) → q.invBusy = true → s.writeInv x word v = .error (.wait .busy)) ∧
     (∀ t u, good → own = .ok (t, true) → q.invBusy = false →
       (t.setPart x.part { q with inv := v, invBusy := true }).applyRoots x.part v = .ok u →
       s.writeInv x word v = .ok (u.markNodes x.part v)) ∧
     (∀ r, scope ≠ 2 → s.rootsNext = [(named.toNat, r)] →
       s.applyRoots x.part v = .ok { s with roots := tabPut s.roots named.toNat r, rootsNext := [] })) ∧
    (∀ r, s.endPop x.part r = s.setPart x.part { q with pop := none, popSt := popDone q.popSt r }) ∧
    (∀ op < 8, let q' := { q with popCmd := BitVec.ofNat 64 (asid.toNat * 8 + op) }
      (q.pop ≠ none → s.writePop x op asid = .error (.wait .busy)) ∧
      (q.pop = none →
        let reader := dieAgent (s.schedDie x.part) 4 asid
        (∀ e, s.walk reader q.popVa = .error (.trap e) → s.writePop x op asid =
          .ok (((((s.stampReads reader e.reads).consume reader).setPart x.part q').endPop x.part 1).consume reader)) ∧
        (∀ w t refused page, s.walk reader q.popVa = .ok w →
          (s.stampWalk reader w).popRefused reader op asid x.part q.popDst.toNat w = .ok (t, refused, page) →
          (∀ r, refused = some r → s.writePop x op asid = .ok (((t.setPart x.part q').endPop x.part r).consume reader)) ∧
          (refused = none →
            let ag := migAgent (hbmDie page)
            let o : PageOp := ⟨op, asid, q.popVa, q.popDst, w.entry, w.leaf, w.size, false, none⟩
            let u := (t.handOver (t.me x) ag).setPart x.part { q' with pop := some o, popSt := (q.popSt &&& ~~~0xFF) ||| 1 }
            (op ≠ 1 → s.writePop x op asid = .ok (u.consume reader)) ∧
            (∀ v z, op = 1 → u.writeLeaf ag o (w.leaf ||| 0x80) = .ok v → v.startInv x.part o.scope = .ok z →
              s.writePop x op asid = .ok (z.consume reader)))))) ∧
    (∀ n night y, s.selected x q = .ok (n, night, y) →
      s.tcmdEnd x = .ok (s.kill n night y) ∧ (s.kill n night y).parts = s.parts ∧ (s.kill n night y).reuse = s.reuse ∧
      (if night then ((s.kill n night y).core n).night = none else ((s.kill n night y).core n).day = none) ∧
      (y.cond = .timedOut → s.tcmdResume x word = trapWith .illegal word) ∧
      (y.cond = .held → night = false → s.tcmdResume x word =
        .ok (((s.setDay n (some { y with cond := .run })).continueTask n y.id .resumed).settle n)) ∧
      (y.cond = .drained → night = true → s.tcmdResume x word =
        .ok (s.setNight n (some { y with cond := .run, eligible := true, since := s.time, afterDrain := true })))) ∧
    (∀ n, s.physicalCore x.part (q.tsel.extractLsb' 0 10).toNat = some n →
      let c := s.core n
      (c.dusk = none → s.supervised n = true ∨ c.night ≠ none → s.writeDusk x = .ok (s.setCore n { c with refused := true })) ∧
      (c.dusk = none → c.asked = none → s.supervised n = false → c.night = none → c.day ≠ none →
        s.writeDusk x = .ok (s.setCore n { c with refused := false, asked := some ⟨false, false, s.time, none⟩ })) ∧
      (c.dusk ≠ none → s.writeDusk x = .ok (s.setCore n { c with refused := false }))) ∧
    (q.resize ≠ none → s.writeRsz x v = .error (.wait .busy) ∧ s.writeMove x v = .error (.wait .busy)) ∧
    (q.resize = none →
      let g := v &&& 0x3FFFFF
      let want := geomClusters g
      let now := q.cit.map (·.1)
      let gone := now.filter fun l => !want.contains l
      let ended (r : Nat) : Res State := .ok (s.setPart x.part { q with rsz := g, rszSt := rszDone q.rszSt r })
      let same := geomX g = geomX q.geom ∧ geomY g = geomY q.geom ∧ geomPart g = geomPart q.geom ∧ geomOk g = true
      (¬ same → s.writeRsz x v = ended 1) ∧
      (same → q.cmax < want.length → s.writeRsz x v = ended 2) ∧
      (same → want.length ≤ q.cmax →
        let placed := placeClusters s.heldClusters (want.filter fun l => !now.contains l)
        (placed = none → s.writeRsz x v = ended 3) ∧
        (∀ add, placed = some add →
          let cit := add.foldl (fun t (l, c) => tabPut t l c) q.cit
          ((∃ l ∈ gone, q.supCluster = some l) → s.writeRsz x v = ended 4) ∧
          ((∀ l ∈ gone, q.supCluster ≠ some l) → s.writeRsz x v = .ok (s.setPart x.part (if gone = []
            then { q with rsz := g, cit := cit, geom := g, rszSt := rszDone q.rszSt 0 }
            else { q with rsz := g, cit := cit, resize := some (.shrink g gone (add.map (·.1))) })))))) ∧
    (q.resize = none →
      let l := v.toNat % 256
      let c := v.toNat / 256 % 256
      let q' := { q with move := v &&& 0xFFFF }
      (∀ r, s.moveRefused q' l c = some r → s.writeMove x v = .ok (s.setPart x.part { q' with rszSt := rszDone q.rszSt r })) ∧
      (s.moveRefused q' l c = none → s.writeMove x v = .ok (s.setPart x.part { q' with resize := some (.move l c false) })) ∧
      (s.moveRefused q' l c = none ↔ q.physical l ≠ none ∧ c < 160 ∧ c ∉ s.heldClusters ∧ clusterDie l = clusterDie c ∧
        q.supCluster ≠ some l)) ∧
    (∀ n y, s.physicalCore x.part (q.tsel.extractLsb' 0 10).toNat = some n → q.ticket = none → (s.core n).night = some y →
      ((q.tsel.getLsbD 10 = false ∨ s.ticketPlace q.tkAddr.toNat = false) →
        s.exportTicket x = .ok (s.setPart x.part { q with tkSt := rszDone q.tkSt 1 })) ∧
      (q.tsel.getLsbD 10 = true → s.ticketPlace q.tkAddr.toNat = true →
        (s.ticketHeld n y = true → s.exportTicket x = .ok (s.setPart x.part { q with tkSt := rszDone q.tkSt 2 })) ∧
        (∀ t, s.ticketHeld n y = false → s.exportNow x.part q n y = .ok t →
          s.exportTicket x = .ok t ∧ (t.core n).night = none))) ∧
    (∀ n t bs, s.physicalCore x.part (q.tsel.extractLsb' 0 10).toNat = some n → q.ticket = none → s.ticketPlace q.tkAddr.toNat = true →
      let ag := dieAgent (coreDie n) 4 0
      s.getRange ag q.tkAddr.toNat 0x181000 = .ok (t, bs) →
      ∀ u e, (t.consume ag).asidWord ag asid 0 = .ok (u, e) →
      let ours := e.any fun w => entryV w && entryPart w == x.part
      (∀ r, u.importRefused n ours bs = some r → s.importTicket x asid = .ok (u.setPart x.part { q with tkSt := rszDone q.tkSt r })) ∧
      (∀ o, u.importRefused n ours bs = none →
        let cols := 32 * ((leWord ((bs.drop 24).take 8)).extractLsb' 0 6).toNat
        u.evictSpills n (1024 - cols) 1024 = .ok o → ∃ t y, s.importTicket x asid = .ok t ∧ (t.core n).night = some y ∧
          y.asid = asid ∧ y.part = x.part ∧ y.cond = .run ∧ y.eligible = true ∧ y.sup = false ∧ y.id = u.nextId ∧ y.cols = cols ∧
          y.pc.toNat % 8 = 0 ∧
          (∀ f, y.fabric = some f → ∀ a ∈ f.ports, ∀ l ∈ a.2.latches, l.stale = true ∧ l.size = 0))))

/-- R239, R243 to R247, R443 to R445: An invalidation completes once no affected node owes its token and no access is outstanding: held
translations in its scope are gone and withheld sectors are tried again. A page operation goes on once an invalidation of its own has
completed, and ends with the reason it found, or with REASON 2 when its leaf can no longer be read (log entry 31); a logical cluster that
has emptied leaves with the pending request, which the last one ends. -/
def Obligations.PartitionWorkCompletes : Prop :=
  ∀ (s : State) (p : Nat) (q : Partition), s.alive = true → s.part p = some q →
    (q.invBusy = true → s.nodesDue p q.inv = false → s.remoteDue p q.inv = false →
      exec (.invalidationComplete p) s =
        .next (((s.setPart p { q with invBusy := false }).dropHeld p q.inv).quietRetries p q.inv)) ∧
    (q.invBusy = true → s.nodesDue p q.inv = true ∨ s.remoteDue p q.inv = true → exec (.invalidationComplete p) s = .next s) ∧
    (∀ o, q.pop = some o →
      let invs := o.op = 1 ∨ o.ending ≠ none
      (invs → s.nodesDue p o.scope = true ∨ s.remoteDue p o.scope = true → exec (.pageOperationComplete p) s = .next s) ∧
      (∀ t, (invs → s.nodesDue p o.scope = false ∧ s.remoteDue p o.scope = false ∧ t = s.invalidate p o.scope) → (¬ invs → t = s) →
        (∀ r, o.ending = some r → exec (.pageOperationComplete p) s = .next ((t.endPop p r).drainFaults p 1024)) ∧
        let quiet (u : State) := (List.range 4).foldl (fun v d => State.consume v (migAgent d)) u
        (∀ u v r, o.ending = none → t.popFinish o = .ok (u, r, true) → u.startInv p o.scope = .ok v →
          exec (.pageOperationComplete p) s = .next ((quiet v).setPop p { o with ending := some r })) ∧
        (∀ u r, o.ending = none → t.popFinish o = .ok (u, r, false) → exec (.pageOperationComplete p) s =
          .next (((quiet u).endPop p r).drainFaults p 1024)) ∧
        (∀ e, o.ending = none → t.popFinish o = .error (.trap e) → exec (.pageOperationComplete p) s =
          .next ((t.endPop p 2).drainFaults p 1024)))) ∧
    (∀ l c g cs add, q.physical l = some c → ((clusterCores c).all fun n => (s.core n).vacant) = true →
      q.resize = some (.shrink g cs add) → l ∈ cs →
      let rest := cs.filter (· != l)
      exec (.clusterRemovalComplete p l) s = .next ((s.zeroCluster c).setPart p { q with
        cit := tabDel q.cit l
        geom := if rest = [] then g else q.geom
        rszSt := if rest = [] then rszDone q.rszSt 0 else q.rszSt
        resize := if rest = [] then none else some (.shrink g rest add) })) ∧
    (∀ l c d, q.physical l = some c → ((clusterCores c).all fun n => (s.core n).vacant) = true → q.resize = some (.move l d false) →
      exec (.clusterRemovalComplete p l) s = .next ((s.zeroCluster c).setPart p { q with
        cit := tabPut q.cit l d, rszSt := rszDone q.rszSt 0, resize := none })) ∧
    (∀ l c, q.physical l = some c → ((clusterCores c).all fun n => (s.core n).vacant) = false →
      exec (.clusterRemovalComplete p l) s = .next s)

/-- R39, R258, R260, R377, R431 to R440: A dusk starts by raising the epoch and injecting the marker, and not on a task that a supervisor trap
holds or is about to hold; sites pass it once every input has it, and ports that write once their accesses have been performed; it arrives
from another core; the sets swap when all have passed and the control core stands at a boundary; overlapped parts are streamed out and
come back; and a node withheld too long asks for a drain, which times out in turn. The model's choices: parts leave in one step and return
in one (log entries 29, 43), an export waiting for the park (log entry 24), a task that waits for a fault-queue slot not drained yet (log
entry 49), and the TIMEOUT record's source, ASYNC and FR2 (log entry 32). -/
def Obligations.DuskGoesItsWay : Prop :=
  (∀ (s : State) (c : Nat) (d : Dusk) (x : Ctx), s.alive = true → (s.core c).asked = some d → (s.core c).day = some x →
    (x.cond = .run → (∀ t ∈ x.traps, x.taskRoute t = true) → (s.core c).dusk = none → s.duskRefused c d = false →
      exec (.duskStart c) s = .next (s.setCore c { s.core c with
        asked := none, dusk := some { d with since := s.time }, epoch := (s.core c).epoch + 1, limit := none, refused := false
        day := some { x with fabric := x.fabric.map Fabric.inject } })) ∧
    (d.drain = false → x.cond = .held ∨ (x.cond = .run ∧ ∃ t ∈ x.traps, x.taskRoute t = false) →
      exec (.duskStart c) s = .next (s.setCore c { s.core c with asked := none })) ∧
    (d.drain = false → x.cond = .run → (∀ t ∈ x.traps, x.taskRoute t = true) → (s.core c).dusk = none → s.duskRefused c d = true →
      exec (.duskStart c) s = .next (s.setCore c { s.core c with asked := none, refused := true })) ∧
    (∀ fr, d.drain = true → x.cond = .slotWait fr → exec (.duskStart c) s = .next s)) ∧
  (∀ (s : State) (c n : Nat) (x : Ctx) (f : Fabric), s.runsFabric c x f → (s.core c).dusk ≠ none →
    (n ∈ f.sites → f.passed n = false → f.mayPass n = true →
      let owes := ∃ q, tabGet f.ports n = some q ∧ q.ingress = true ∧ q.pending = true
      (¬ owes → exec (.markerPass c n) s = .next (s.setFabric c (f.pass n))) ∧
      (owes → exec (.markerPass c n) s = .next s)) ∧
    (∀ q, tabGet f.ports (64 + n) = some q → q.passed = true → q.drains = true → q.saved = false →
      (∀ w ∈ f.wiresInto (64 + n), f.marked w = true) → s.performed (portAgent c n x) q.reach = true →
      exec (.writePortDrain c n) s = .next (s.setFabric c { f with ports := tabPut f.ports (64 + n) { q with saved := true } }))) ∧
  (∀ (s : State) (c site ch i : Nat) (x y : Ctx) (f g : Fabric) (w : Wire), s.runsFabric c x f →
    f.wires.find? (fun w => w.dstCore == ownCore && !w.localTo && w.dstSite.toNat == site && w.dstCh.toNat == ch) = some w →
    s.physicalCore x.part w.srcCore.toNat = some i → s.liveEnd x (w.absolute (s.logicalCore x.part c)) i = some (y, g) →
    let k := chKey w.srcSite.toNat w.srcCh.toNat
    let e := (s.core i).epoch
    let q := f.inq (chKey site ch)
    (g.outq k).mark = true → (g.outq k).toks = [] →
    let t := s.setFabric i (g.setOut k { g.outq k with mark := false })
    exec (.foreignMarkArrival c site ch) s = .next (if e = (s.core c).epoch ∧ (s.core c).dusk = none
      then t.setFabric c (f.setIn (chKey site ch) { q with toks := q.toks ++ [⟨0, 4, e⟩] }) else t)) ∧
  (∀ (s : State) (c : Nat) (d : Dusk) (x : Ctx), s.alive = true → (s.core c).dusk = some d → (s.core c).day = some x →
    (∀ f, x.fabric = some f → f.complete = true) → x.atBoundary = true →
    (x.cond = .run ∧ x.traps = [] ∨ x.cond = .held ∧ d.drain = true) →
    let cond := if d.drain = true ∨ x.heldNodes ≠ 0 then TaskCond.drained else x.cond
    let y := { x with cond := cond, eligible := cond != .drained, yielded := false }
    ((s.core c).night = none → ∀ t, (s.park c y).exportParked c ((((s.park c y).core c).night).getD y) = .ok t →
      exec (.setSwap c) s = .next t) ∧
    (∀ z, (s.core c).night = some z → d.ret = true → z.eligible = true → z.residence = .resident → z.plane = none →
      exec (.setSwap c) s = .next (((s.park c y).enter c z).besideNight c))) ∧
  (∀ (s : State) (n : Nat) (y : Ctx) (q : Partition), s.part y.part = some q → q.ticket ≠ some n → s.exportParked n y = .ok s) ∧
  (∀ (s : State) (c : Nat) (y : Ctx), s.alive = true → (s.core c).night = some y →
    (∀ x t, (s.core c).day = some x → claimsMeet x y = true → y.residence = .leaving → s.saveParts c y = .ok t →
      exec (.claimStreamDone c) s = .next (t.setNight c (some { y with residence := .out }))) ∧
    ((∀ x, (s.core c).day = some x → claimsMeet x y = false) → y.residence ≠ .resident →
      exec (.claimStreamDone c) s = .next (s.setNight c (some { y with
        residence := .resident, since := if y.eligible then s.time else y.since }))) ∧
    (∀ x t, (s.core c).day = some x → x.wait = .plane → y.residence = .resident → y.plane = none → (s.core c).planeTask = some y.id →
      s.saveParts c y = .ok t → exec (.claimStreamDone c) s = .next (t.setCore c { s.core c with
        planeTask := none, night := some { y with plane := some (s.core c).plane } })) ∧
    (∀ p, (s.core c).day = none → y.residence = .resident → y.plane = some p →
      exec (.claimStreamDone c) s = .next (s.setCore c { s.core c with
        plane := p, planeTask := some y.id, planeAsid := some y.asid
        night := some { y with plane := none, since := if y.eligible then s.time else y.since } }))) ∧
  (∀ (s : State) (c : Nat) (x : Ctx) (t0 : Word), s.alive = true → (s.core c).day = some x → (s.core c).limit = some t0 →
    (x.heldNodes ≠ 0 → t0.toNat + s.drainLimit x.part ≤ s.time.toNat → (s.core c).dusk = none → (s.core c).asked = none →
      exec (.drainTimerExpiry c) s =
        .next (s.setCore c { s.core c with asked := some ⟨false, true, s.time, none⟩, limit := none })) ∧
    (x.heldNodes = 0 → exec (.drainTimerExpiry c) s = .next (s.setCore c { s.core c with limit := none }))) ∧
  (∀ (s u : State) (c : Nat) (x : Ctx) (d : Dusk), s.alive = true → (s.core c).dusk = some d → (s.core c).day = some x →
    d.since.toNat + s.drainLimit x.part ≤ s.time.toNat →
    let fr := faultRecord ⟨.timeout, 0, 0, none, 0xFF, 0xF, 0, false, []⟩ false false 0 s.time x.part (s.logicalCore x.part c) x.asid
    let t := s.setCore c { s.core c with
      dusk := none, day := some { x with cond := .timedOut, fr := fr, wait := .none, fabric := none } }
    (t.pushFault x.part fr = .ok u → exec (.drainTimeout c) s = .next u) ∧
    (∀ e, t.pushFault x.part fr = .error e → exec (.drainTimeout c) s = .next ((t.askOutside e).setDay c
      (some { x with cond := .slotWait fr, fr := fr, wait := .none, fabric := none }))))

/-- R331, R410, R454, R455: A doorbell within the ring moves its tail, and any other sets bit 0 of HIF_ERR; the command processor takes the
next entry: its kind's work is done, head rises by 1, and SEQ is due; it is written to the completion address once the effect's accesses
have been performed at .sys, before the next entry. A NOP has no work, a graph header has its roots fired, and a record is enqueued. An
entry that breaks a rule is skipped, with a record in the fault queue. -/
def Obligations.HostRingsComplete : Prop :=
  (∀ (s : State) (p : Nat) (tail : BitVec 32), s.alive = true →
    (s.part p = none → exec (.doorbell p tail) s = .next (s.setErr 1)) ∧
    ∀ q, s.part p = some q →
      let forward := (q.tail - q.head).toNat < (tail - q.head).toNat ∧ (tail - q.head).toNat ≤ 2 ^ q.ringLog
      (forward → exec (.doorbell p tail) s = .next (s.setPart p { q with tail := tail })) ∧
      (¬forward → exec (.doorbell p tail) s = .next (s.setErr 1))) ∧
  (∀ (s t u v : State) (p : Nat) (q : Partition) (bs : List Byte), s.alive = true → s.part p = some q → q.seqDue = none →
    q.head ≠ q.tail → s.moving q.completion.toNat 8 = false →
    s.readAt (s.cmdAgent p 0) (BitVec.ofNat 64 q.entryAt) q.entryAt 64 true = .ok (t, bs) →
    let w (k : Nat) : Word := leWord ((bs.drop (8 * k)).take 8)
    let kind := (w 0).toNat % 256
    let asid := (w 0).extractLsb' 8 13
    let ag := s.cmdAgent p asid
    let skipped (t : State) (c : TrapCode) (sub : Byte) : State :=
      (t.schedFault p asid ⟨c, BitVec.ofNat 64 q.entryAt, sub, none, 0xFF, 0xF, 10, false, []⟩).endEntry p (w 3)
    (entryShape w = true → t.asidOf ag asid p = .ok (v, true) →
      (kind = 0 → exec (.ringEntryNop p) s = .next ((v.consume ag).endEntry p (w 3))) ∧
      (kind = 1 → v.runGraph p ag (w 1) = .ok u → exec (.ringEntryGraph p) s = .next ((u.consume ag).endEntry p (w 3))) ∧
      (kind = 2 → v.runRecord p ag (w 1) (w 2) = .ok u → exec (.ringEntryRecord p) s = .next ((u.consume ag).endEntry p (w 3))) ∧
      (∀ e, kind = 1 → v.runGraph p ag (w 1) = .error (.trap e) →
        exec (.ringEntryGraph p) s = .next (skipped ((v.stampReads ag e.reads).consume ag) e.code e.sub)) ∧
      (∀ e, kind = 2 → v.runRecord p ag (w 1) (w 2) = .error (.trap e) →
        exec (.ringEntryRecord p) s = .next (skipped ((v.stampReads ag e.reads).consume ag) e.code e.sub))) ∧
    (kind = 0 →
      (entryShape w = true → t.asidOf ag asid p = .ok (v, false) → exec (.ringEntryNop p) s = .next (skipped v .prot 0)) ∧
      (entryShape w = false → exec (.ringEntryNop p) s = .next (skipped t .shape 0)))) ∧
  (∀ (s : State) (p : Nat) (q : Partition) (seq : Word), s.part p = some q →
    s.endEntry p seq = (s.setPart p { q with head := q.head + 1, seqDue := some seq }).writeSeq p) ∧
  (∀ (s t : State) (p : Nat) (q : Partition) (seq : Word), s.alive = true → s.part p = some q → q.seqDue = some seq →
    let ag := s.cmdAgent p 0
    (s.performed ag .sys = false → exec (.ringEntryNop p) s = .next s) ∧
    (s.performed ag .sys = true → ((s.setPart p { q with seqDue := none, lastSeq := seq }).publish ag .sys).putPhys ag q.completion.toNat
      (natLe 8 seq.toNat) = .ok t → ∀ i ∈ [Instr.ringEntryNop p, .ringEntryGraph p, .ringEntryRecord p], exec i s = .next t))

/-- R343, R344, R356, R453, R464: Host reads and writes of device memory that it may reach, its window and its argument address; a host write
to its own memory takes the line from the device-side home; a line asked for arrives under the writes on their way to it, the oldest write
of a line is performed, and a copy is given back, for which a write of the device waits; HIF_ERR is cleared by ones. -/
def Obligations.HostAccessesComplete : Prop :=
  (∀ (s : State) (a n o line : Nat) (v : Word) (bs : List Byte), s.alive = true →
    (s.hostMay a n = true → exec (.hostMemRequest (.read a n)) s = .next (s.hostRead a n)) ∧
    (∀ u cs, n ≠ 0 → a / 128 = (a + n - 1) / 128 → s.readHbm (hostAgent.atHome (hbmDie a)) a n = (u, cs) →
      s.hostRead a n = { u with hostCopies := setAdd u.hostCopies (lineOf a), hostOut := u.hostOut ++ [.read a cs] }) ∧
    (∀ t, s.hostMay a bs.length = true → s.moving a bs.length = false → s.hostWrite a bs = .ok t →
      exec (.hostMemRequest (.write a bs)) s = .next t) ∧
    (o % 8 = 0 → exec (.hostMemRequest (.window o)) s =
      .next { s with hostOut := s.hostOut ++ [.read o (natLe 8 (s.windowRead o).toNat)] }) ∧
    exec (.hostMemRequest (.mailboxArg v)) s = .next { s with mbArg := v &&& 0xFFFFFFFFF000 } ∧
    (bs ≠ [] → a / 128 = (a + bs.length - 1) / 128 → exec (.hostWriteSnoop a bs) s =
      .next ((State.stampWrite { s.cleanPoison a bs.length with hostLines := tabDel s.hostLines (lineOf a) } hostAgent
        (lineOf a)).hostEntries a bs.length)) ∧
    (setHas s.hostAsked line = true → bs.length = 128 → exec (.hostCxlResponse (.data line bs)) s = .next { s with
      hostAsked := setDel s.hostAsked line
      hostLines := tabPut s.hostLines line ((s.hostWrites.filter fun w => w.line == line).foldl
        (fun (l : List Byte) w => w.cells.foldl (fun (l : List Byte) (i, b) => l.set i b) l) bs) }) ∧
    exec (.hostCxlResponse (.writeDone line)) s = .next { s with hostWrites := firstDone line s.hostWrites } ∧
    exec (.hostCxlResponse (.backInvalidate line)) s =
      .next { s with hostCopies := setDel s.hostCopies line, hostSnooped := setDel s.hostSnooped line } ∧
    exec (.hifErrClear v) s = .next { s with hifErr := s.hifErr &&& ~~~(v.setWidth 4) }) ∧
  (∀ (s : State) (ag : Agent) (va : Word) (pa : Nat) (bs : List Byte), s.region pa = .hbm →
    (setHas s.hostCopies (lineOf pa) = true → s.writeAt ag va pa bs = .error (.snoop (lineOf pa))) ∧
    (setHas s.hostCopies (lineOf pa) = false → s.writeAt ag va pa bs = .ok (s.writeHbm ag pa bs))) ∧
  ∀ (line : Nat) (w : HostWrite) (l : List HostWrite), firstDone line (w :: l) = if w.line = line then l else w :: firstDone line l

/-- R456, R457, R460: While no command is in progress a command that the host writes is, until its result is posted; one written while BUSY is
1 is ignored with bit 1 of HIF_ERR set, but for DAYBREAK, which ends the other with result 5. -/
def Obligations.MailboxTakesCommands : Prop :=
  ∀ (s : State) (tag old code : Byte) (args : PartArgs) (p n l f : Nat) (a b : Word) (asid : BitVec 13) (group : BitVec 16)
      (ms : List Member) (device : BitVec 12) (enable clear : Bool) (key : BitVec 256) (c : Command), s.listening = true →
    (∀ e ∈ [(Instr.partCreate tag args, Command.partCreate args), (.partDestroy tag p, .partDestroy p), (.setTables tag a b, .setTables a b),
        (.asidSync tag asid, .asidSync asid false), (.frrOwner tag n p, .frrOwner n p), (.groupReg tag group ms, .groupReg group ms),
        (.aperture tag n device enable, .aperture n device enable), (.ticketKey tag key, .ticketKey key),
        (.clusterMove tag p l f, .clusterMove p l f), (.reset tag clear, .reset clear), (.mailboxUnknown tag code, .unknown code)],
      (s.mbPending = none → exec e.1 s = .next { s with mbPending := some (tag, e.2) }) ∧
      (s.mbPending ≠ none → exec e.1 s = .next (s.setErr 2))) ∧
    (s.mbPending = none → exec (.daybreak tag) s = .next { s with mbPending := some (tag, .daybreak false) }) ∧
    (s.mbPending = some (old, c) →
      exec (.daybreak tag) s = .next { (s.abandon c).postResult old 5 with mbPending := some (tag, .daybreak false) } ∧
      exec .mailboxResultPosted s = .next (s.runCommand old c)) ∧
    (∀ q k d, s.part p = some q → q.resize = some (.move k d true) →
      s.abandon (.clusterMove p l f) = s.setPart p { q with resize := none })

/-- R239, R419, R453, R456, R458, R461: A command that has arguments reads the page at MB_ARG over CXL first, and ends with result 2 where the
page does not lie in host memory; then what it does where it succeeds in normal mode, and the results of those that fail: 1 for an unknown
code, 2 for a bad argument, 3 for one that is refused as busy, 4 for one that twilight mode or the hold does not serve. ASID_SYNC ends
with the invalidation that it makes, and DAYBREAK once its lines have been written. The model's choices: result 2 for a page outside host
memory, its one line read over CXL, the order of PART_CREATE's checks, result 2 for misaligned tables before result 3, and result 3 for a
group whose collective waits (log entry 21); arguments that come decoded (log entry 23); and result 2 for a supervisor's header that
cannot be read (log entry 9). -/
def Obligations.MailboxCommandsEnd : Prop :=
  (∀ (s : State) (tag : Byte) (c : Command),
    let posted (t : State) (result : Byte) : State :=
      { t with mbPending := none, mbTag := tag, mbResult := result, hostOut := t.hostOut ++ [.msix 0] }
    (s.power = .hold → c ≠ .daybreak true → c ≠ .daybreak false → c ≠ .reset true → c ≠ .reset false → s.runCommand tag c = posted s 4) ∧
    (s.power ≠ .hold → c.hasArg = true → s.begun c = false →
      (s.argOk = false → s.runCommand tag c = posted s 2) ∧
      (s.argOk = true → ∀ e, s.hostLine (lineOf s.mbArg.toNat) = .error e → s.runCommand tag c = s.askOutside e) ∧
      (s.argOk = true → ∀ bs, s.hostLine (lineOf s.mbArg.toNat) = .ok bs →
        s.runCommand tag c = (s.stampLoad mailAgent (lineOf s.mbArg.toNat)).runArgs tag c)) ∧
    (s.power ≠ .hold → c.hasArg = false ∨ s.begun c = true → s.runCommand tag c = s.runArgs tag c)) ∧
  ∀ (s : State) (tag code : Byte) (p n : Nat) (a b : Word) (d : BitVec 12) (en : Bool) (key : BitVec 256) (group : BitVec 16)
      (ms : List Member) (q : Partition) (clear : Bool) (asid : BitVec 13) (args : PartArgs) (l c : Nat),
    let posted (t : State) (result : Byte) : State :=
      { t with mbPending := none, mbTag := tag, mbResult := result, hostOut := t.hostOut ++ [.msix 0] }
    s.runArgs tag (.unknown code) = posted s 1 ∧
    s.runArgs tag (.reset clear) = (posted s 0).begin (if clear then 0 else s.failedStarts) ∧
    s.runArgs tag (.ticketKey key) = posted { s with ticketKey := key } 0 ∧
    (a &&& 0xFFFFFFFF0000 = a → b &&& 0xFFFFFFFFFFE0 = b → s.parts = [] →
      s.runArgs tag (.setTables a b) = posted { s with atBase := a, keyBase := b } 0) ∧
    (a &&& 0xFFFFFFFF0000 ≠ a ∨ b &&& 0xFFFFFFFFFFE0 ≠ b → s.runArgs tag (.setTables a b) = posted s 2) ∧
    (a &&& 0xFFFFFFFF0000 = a → b &&& 0xFFFFFFFFFFE0 = b → s.parts ≠ [] → s.runArgs tag (.setTables a b) = posted s 3) ∧
    (let die := clusterDie (16 * geomY args.geom + geomX args.geom)
     (s.power ≠ .twilight ∨ s.parts = [] →
       (s.partArgsOk args = false → s.runArgs tag (.partCreate args) = posted s 2) ∧
       (∀ u e, s.partArgsOk args = true → s.asidWord mailAgent args.supAsid 0 = .ok (u, e) →
         let live := e.any fun w => w.getLsbD 0 && (w.extractLsb' 2 6).toNat == args.number
         let busy := u.part args.number ≠ none ∨ 16 ≤ u.served die ∨ ∃ k ∈ geomClusters args.geom, k ∈ u.heldClusters
         (live = false → s.runArgs tag (.partCreate args) = posted u 2) ∧
         (live = true → busy → s.runArgs tag (.partCreate args) = posted u 3) ∧
         (∀ t, live = true → ¬ busy → u.supClaim die args.supAsid args.supCode = .ok (t, none) →
           s.runArgs tag (.partCreate args) = posted t 2) ∧
         (∀ t cols spad, live = true → ¬ busy → u.supClaim die args.supAsid args.supCode = .ok (t, some (cols, spad)) →
           s.runArgs tag (.partCreate args) = posted (t.createPart args cols spad) 0))) ∧
     (s.power = .twilight → s.parts ≠ [] → s.runArgs tag (.partCreate args) = posted s 4)) ∧
    (s.part p = none → s.runArgs tag (.partDestroy p) = posted s 2) ∧
    (s.part p = some q → (s.anyTask q = true ∨ q.head ≠ q.tail) → s.runArgs tag (.partDestroy p) = posted s 3) ∧
    (s.part p = some q → s.anyTask q = false → q.head = q.tail →
      s.runArgs tag (.partDestroy p) = posted (s.destroyPart p q) 0) ∧
    (let v : Word := BitVec.ofNat 64 (2 + asid.toNat * 8)
     ∀ u, s.applyRoots 0 v = .ok u →
       let t := { u.markNodes 0 v with mbPending := some (tag, .asidSync asid true) }
       (t.nodesDue 0 v = false → t.remoteDue 0 v = false →
         s.runArgs tag (.asidSync asid false) = posted ((t.dropHeld 0 v).quietRetries 0 v) 0) ∧
       (t.nodesDue 0 v = true ∨ t.remoteDue 0 v = true → s.runArgs tag (.asidSync asid false) = t)) ∧
    (n < 64 → p < 64 → (s.range n).en = true → s.runArgs tag (.frrOwner n p) = posted s 3) ∧
    (n < 64 → p < 64 → (s.range n).en = false → s.runArgs tag (.frrOwner n p) = posted (s.setRange n { s.range n with
      ctl := ((s.range n).ctl &&& ~~~0x03F0000000000000) ||| BitVec.ofNat 64 (p * 2 ^ 52) }) 0) ∧
    (64 ≤ n ∨ 64 ≤ p → s.runArgs tag (.frrOwner n p) = posted s 2) ∧
    (s.power = .twilight → s.runArgs tag (.aperture n d en) = posted s 4 ∧ s.runArgs tag (.groupReg group ms) = posted s 4) ∧
    (s.power ≠ .twilight → 1 ≤ n → n ≤ 15 →
      s.runArgs tag (.aperture n d en) = posted { s.numbered with apertures := tabPut s.numbered.apertures n ⟨d, en⟩ } 0) ∧
    (s.power ≠ .twilight → n = 0 ∨ 16 ≤ n → s.runArgs tag (.aperture n d en) = posted s 2) ∧
    (s.power ≠ .twilight → 2 ≤ ms.length → ms.length ≤ 1024 → (∀ m ∈ ms, m.part < 64 ∧ m.core < 640) →
      (s.groupBusy group.toNat = false →
        s.runArgs tag (.groupReg group ms) = posted (s.numbered.setGroup group.toNat ⟨ms, [], [], [], []⟩) 0) ∧
      (s.groupBusy group.toNat = true → s.runArgs tag (.groupReg group ms) = posted s 3)) ∧
    (s.device ≠ none → s.numbered = s) ∧ (s.numbered.device ≠ none) ∧
    (s.part p = none → s.runArgs tag (.clusterMove p l c) = posted s 2) ∧
    (s.part p = some q → q.resize = none →
      (s.moveRefused q l c = none → s.runArgs tag (.clusterMove p l c) = s.setPart p { q with resize := some (.move l c true) }) ∧
      (∀ r, s.moveRefused q l c = some r → s.runArgs tag (.clusterMove p l c) =
        posted (s.setPart p { q with rszSt := rszDone q.rszSt r }) (if r = 4 then 3 else 2))) ∧
    (∀ k from', s.part p = some q → q.resize = some (.move k c true) → q.physical k = some from' →
      ((clusterCores from').all fun n => (s.core n).vacant) = true → s.runArgs tag (.clusterMove p l c) =
        posted ((s.zeroCluster from').setPart p { q with cit := tabPut q.cit k c, rszSt := rszDone q.rszSt 0, resize := none }) 0) ∧
    (s.argOk = false → s.runArgs tag (.daybreak false) = posted s 2) ∧
    (s.argOk = true →
      let t := { writeLines mailAgent 32 s s.mbArg.toNat { s with daybreaks := s.daybreaks + 1 }.summary with
        mbPending := some (tag, .daybreak true) }
      (t.performed mailAgent .sys = false → s.runArgs tag (.daybreak false) = t) ∧
      (t.performed mailAgent .sys = true →
        s.runArgs tag (.daybreak false) = posted { t with daybreaks := t.daybreaks + 1 } 0)) ∧
    (s.argOk = true → s.performed mailAgent .sys = false → s.runArgs tag (.daybreak true) = s) ∧
    (s.argOk = true → s.performed mailAgent .sys = true →
      s.runArgs tag (.daybreak true) = posted { s with daybreaks := s.daybreaks + 1 } 0)

/-- R342, R343, R360, R361, R461, R462: A flit that arrives in sequence on an ACTIVE port raises the count received and takes what it
acknowledges out of the port's store; a load is answered with the bytes it marks, a store and a reduction are performed and acknowledged,
a reduction with the value it replaced, once the host has given the line back; responses and acknowledgements answer the oldest access of
their address at their device, a stream's data join their rank, and migration data are written. A flit out of sequence, like one with a
bad CRC, asks for a replay alone. The model's choices (log entry 22): the acknowledge that carries the replaced bytes, a compare and swap
as twice the operand's bytes, a poisoned sector's bytes left out of an answer, no bytes in a poisoned reduction's, bytes outside device
memory dropped, and which bytes a stream and a migration carry. -/
def Obligations.FlitsArrive : Prop :=
  ∀ (s : State) (port rank : Nat) (p : DruatPort) (f : Flit) (op : AmoOp) (dbl : Bool) (group : BitVec 16), s.alive = true →
    tabGet s.ports port = some p → p.state = 2 →
    let replay := s.setPort port { p with replayAsked := true }
    exec (.flitCrcFail port) s = .next replay ∧
    (f.seq ≠ BitVec.ofNat 32 (p.received + 1) → exec (.druatIdle port f) s = .next replay ∧ exec (.druatLoad port f) s = .next replay) ∧
    (f.seq = BitVec.ofNat 32 (p.received + 1) →
      let t := s.setPort port { p with received := p.received + 1, replayAsked := false, sent := p.sent.filter fun x => f.ack < x.seq }
      let ag := portDevice port
      let base := f.addr / 128 * 128
      let n := if dbl then 8 else 4
      exec (.druatIdle port f) s = .next t ∧
      (∀ u bs, t.region f.addr = .hbm → t.readHbm (ag.atHome (hbmDie base)) base 128 = (u, bs) →
        exec (.druatLoad port f) s = .next (u.send port 2 f.src f.addr
          ((f.bytes.filter fun (o, _) => !u.sectorPoisoned (base + o)).map fun (o, _) => (o, (bs[o]?).getD 0)) .load)) ∧
      (let load (r : Remote) : Bool :=
         r.port == port && r.device == f.src && r.op == .load && r.addr == f.addr && decide (f.bytes.length ≤ r.len)
       let store (r : Remote) : Bool := r.port == port && r.device == f.src && r.op != .load && r.addr == f.addr
       exec (.druatLoadResponse port f) s = .next { t with remote := answerFirst load (f.bytes.map (·.2)) t.remote } ∧
       exec (.druatAcknowledge port f) s = .next { t with remote := answerFirst store (f.bytes.map (·.2)) t.remote }) ∧
      (∀ u, s.moving base 128 = false → setHas s.hostCopies (lineOf base) = false → t.writeFlit port base f.bytes = .ok u →
        exec (.druatStore port f) s = .next (u.send port 5 f.src f.addr [] .store)) ∧
      (s.moving base 128 = false → setHas s.hostCopies (lineOf base) = true →
        exec (.druatStore port f) s = .next (s.askOutside (.snoop (lineOf base)))) ∧
      (∀ u, s.moving f.addr 224 = false → (∀ l ∈ linesOf f.addr 224, setHas s.hostCopies l = false) →
        t.writeFlit port f.addr f.bytes = .ok u → exec (.druatMigrationStream port f) s = .next u) ∧
      (s.moving f.addr n = false → setHas s.hostCopies (lineOf f.addr) = false → t.region f.addr = .hbm → f.addr % n = 0 →
        (t.rangePoisoned f.addr n = true → exec (.druatReduction port f op dbl) s = .next (t.send port 5 f.src f.addr [] .store)) ∧
        ∀ u, t.rangePoisoned f.addr n = false → (t.recall (lineOf f.addr)).forPhysical ag f.addr n = .ok u →
        let old := Memory.bytes u.mem f.addr n
        let v := f.bytes.map (·.2)
        let done (new : List Byte) : State := (u.writeHbm ag f.addr new).send port 5 f.src f.addr
          (old.zipIdx.map fun (b, i) => (f.addr % 128 + i, b)) .store
        (v.length = n → exec (.druatReduction port f op dbl) s =
          .next (done (natLe n (op.apply dbl (leWord old) (leWord v)).toNat))) ∧
        (v.length = 2 * n → exec (.druatReduction port f op dbl) s =
          .next (done (if v.drop n = old then v.take n else old)))) ∧
      (∀ g, tabGet t.groups group.toNat = some g → exec (.druatCollectiveStream port f group rank) s =
        .next ((t.setGroup group.toNat { g with
          streams := tabPut g.streams rank ((tabGet g.streams rank).getD [] ++ f.bytes.map (·.2)) }).collRun group.toNat 0)))

/-- R461, R462: An ACTIVE port whose other end asks for a replay replays its oldest unacknowledged flit, and at the eighth replay of one flit
retrains, which is counted; a retraining port that comes back is ACTIVE with no failure counted, or has one more failure; after three it
fails, its accesses are lost to their issuers, and the host is told: an access that its issuer waits for fails there, and a store or
reduction left behind raises LINK at its task, or leaves a record where the task is gone. A flit is sent with the next sequence number,
its kind, devices, address, bytes and mask, and the CRC over them. One PORT_RETRAIN as a request for one replay, and the bit order and
start value of the CRC, are the model's choice (log entry 22). -/
def Obligations.PortsRetrainAndFail : Prop :=
  (∀ (s : State) (port : Nat) (p : DruatPort), s.alive = true → tabGet s.ports port = some p →
    (∀ f rest, p.state = 2 → p.sent = f :: rest →
      (f.replays < 7 → exec (.portRetrain port) s = .next (s.setPort port { p with sent := { f with replays := f.replays + 1 } :: rest })) ∧
      (7 ≤ f.replays → exec (.portRetrain port) s = .next { s.setPort port { p with
          state := 3, retrains := p.retrains + 1, sent := { f with replays := 0 } :: rest } with
        errors := s.errors.set 3 (s.errors[3] + 1) })) ∧
    (p.state = 3 → p.failedRetrains < 3 →
      exec (.retrainComplete port true) s = .next (s.setPort port { p with state := 2, failedRetrains := 0 }) ∧
      exec (.retrainComplete port false) s = .next (s.setPort port { p with failedRetrains := p.failedRetrains + 1 })) ∧
    (p.state = 3 → 3 ≤ p.failedRetrains →
      let lost (r : Remote) : Bool := r.port == port && !r.answered && !r.failed
      let t := { s.setPort port { p with state := 4, sent := [] } with
        remote := (s.remote.filter fun r => !(lost r && !r.op.returns)).map fun r => if lost r then { r with failed := true } else r }
      let u := (s.remote.filter fun r => lost r && !r.op.returns).foldl State.failRemote t
      exec (.portFailed port) s = .next ((if s.portFor = some port then u.failGroups else u).setErr 8))) ∧
  (∀ (s : State) (r : Remote) (n : Nat) (c : Core),
    let src : BitVec 4 := agentSource r.agent
    let core := r.agent / 1024 % 1024
    let t : Trap := ⟨.link, r.va, 0, if src = 1 then some r.pos else none, if src = 1 then BitVec.ofNat 8 (64 + r.agent % 1024) else 0xFF,
      0xF, src, false, []⟩
    let found := s.cores.find? fun (_, c) => (c.find r.task).isSome
    (found = some (n, c) → s.failRemote r = s.raiseAsync n r.task t false) ∧
    (found = none → r.task ≠ 0 → s.failRemote r = s.leaveFault core (s.ownerOf r.asid core) r.asid t) ∧
    (found = none → r.task = 0 → s.failRemote r = s.queueFault (s.ownerOf r.asid core)
      (faultRecord t false (decide (src ≠ 0)) 0 s.time (s.ownerOf r.asid core) 0x3FF r.asid))) ∧
  (∀ (s : State) (port kind : Nat) (p : DruatPort) (dest : BitVec 12) (addr : Nat) (bytes : List (Nat × Byte)) (op : RemoteOp),
    tabGet s.ports port = some p → s.send port kind dest addr bytes op = s.setPort port { p with
      nextSeq := p.nextSeq + 1, sent := p.sent ++ [⟨p.nextSeq, kind, s.device.getD 0, dest, addr, bytes, op, 0⟩] }) ∧
  (∀ (p : DruatPort) (f : Sent), (∀ e ∈ f.bytes, e.1 < 128) → f.kind ≠ 6 → f.kind ≠ 7 →
    (p.wire f).length = 256 ∧ (p.wire f)[0]? = some (BitVec.ofNat 8 f.kind) ∧
    leNat (((p.wire f).drop 1).take 3) = f.source.toNat + f.dest.toNat * 2 ^ 12 ∧
    leNat (((p.wire f).drop 4).take 4) = f.seq % 2 ^ 32 ∧ leNat (((p.wire f).drop 8).take 8) = f.addr % 2 ^ 64 ∧
    leWord (((p.wire f).drop 240).take 8) = crc64 ((p.wire f).take 240) ∧
    leNat (((p.wire f).drop 248).take 8) = p.received % 2 ^ 64)

/-- R2, R22, R458 to R460, R463: What a start, a failed start, twilight mode, the hold, a step of an island's clock, a loss of power and the
tray's limit leave. A third failed start in a row makes the next one a twilight start. A cluster's island steps from 700 MHz down to 350;
the numbers of the islands, and the nominal clock of a memory interface, are the model's choice (log entry 26). -/
def Obligations.StartsAndPower : Prop :=
  (∀ (s : State) (step : BitVec 4) (lanes : List (BitVec 8)) (w : BitVec 16) (ucie0 : Bool),
    (s.power = .off → exec .powerOnStart s = .next (s.begin s.failedStarts)) ∧
    (s.power = .starting →
      exec .startTimeout s = .next ({ s with reason := 8 }.begin (s.failedStarts + 1)) ∧
      exec (.startComplete (some step) lanes) s = .next ({ s with reason := step }.begin (s.failedStarts + 1)) ∧
      ∃ t, exec (.startComplete none lanes) s = .next t ∧ t.power = .normal ∧ t.failedStarts = 0 ∧ t.trained = true ∧
        t.mem = s.mem ∧ t.cores = s.cores ∧ ∀ k, k < 48 → tabGet t.ports k =
          some { DruatPort.down with
            state := if (lanes[k]?).getD 0 = 0 then 0 else 2
            lanes := if 4 < (lanes[k]?).getD 0 then 4 else (lanes[k]?).getD 0 }) ∧
    (s.power = .twilightStarting →
      exec .startTimeout s = .next { s with power := .hold, reason := 8, trained := false, parts := [], cores := [] } ∧
      exec (.twilightStart false step ucie0) s = .next { s with power := .hold, reason := step, trained := ucie0, parts := [], cores := [] } ∧
      ∃ t, exec (.twilightStart true step true) s = .next t ∧ t.power = .twilight ∧ t.trained = true ∧
        (∀ k, k < 48 → tabGet t.ports k = some { DruatPort.down with state := 5 }) ∧
        ∀ k, k < 160 → tabGet t.islands k = if clusterDie k = 0 then some 7 else tabGet s.islands k) ∧
    (s.power = .hold → s.trained = false →
      exec .twilightRetry s = .next { s with power := .twilightStarting, starts := s.starts + 1 }) ∧
    exec .powerLoss s = .next { State.reset with
      agenda := s.agenda, tick := s.tick, nextId := s.nextId, hostOut := s.hostOut, starts := s.starts, failedStarts := s.failedStarts
      reason := s.reason, power := .off, trained := false } ∧
    exec (.trayPowerLimit w) s = .next { s with pwrLim := w } ∧
    (∀ n, (s.begin n).power = if n = 3 then .twilightStarting else .starting) ∧
    (∀ n, (s.begin n).starts = s.starts + 1 ∧ (s.begin n).failedStarts = n ∧ (s.begin n).mem = [] ∧ (s.begin n).cores = [] ∧
      (s.begin n).parts = [])) ∧
  (∀ (s : State) (n : Nat) (i : Island), s.alive = true → Island.ofNumber n = some i → (tabGet s.islands n).getD 0 ≤ i.steps →
    s.mayStep i = true → ∃ t, exec (.powerStep n false) s = .next t ∧ t.clockOf n = max 350 (s.clockOf n - 50) ∧
      (∀ m, m ≠ n → t.clockOf m = s.clockOf m) ∧ t = { s with islands := t.islands } ∧
      (∀ k, tabGet s.islands n = some k → 2 ≤ k → exec (.powerStep n true) s = .next { s with islands := tabPut s.islands n (k - 1) }) ∧
      ((tabGet s.islands n).getD 0 ≤ 1 → exec (.powerStep n true) s = .next { s with islands := tabDel s.islands n })) ∧
  (∀ (s : State) (n : Nat) (up : Bool), s.alive = true → (∀ i, Island.ofNumber n = some i → s.mayStep i = false) →
    exec (.powerStep n up) s = .next s) ∧
  ∀ n, (n < 160 → Island.ofNumber n = some (.cluster n) ∧ (Island.cluster n).nominal = 700) ∧ (168 ≤ n → Island.ofNumber n = none)

end
end

