-- ==== Sys2Proof/Laws/Codec.lean ====
section
/-! SUPPORT. Laws of the codec: fields read back from a packed word, codes read back, and the decoding of an instruction's own word by format. -/

set_option linter.unusedSimpArgs false

namespace Sys2Proof

/-! Fields of concatenated bit vectors. -/

theorem extract_hi {n m k w : Nat} (x : BitVec n) (y : BitVec m) (h : m ≤ k) :
    (x ++ y).extractLsb' k w = x.extractLsb' (k - m) w := by
  ext i hi
  have : ¬ k + i < m := by omega
  simp [BitVec.getLsbD_append, this]
  congr 1; omega
theorem extract_lo {n m k w : Nat} (x : BitVec n) (y : BitVec m) (h : k + w ≤ m) : (x ++ y).extractLsb' k w = y.extractLsb' k w := by
  ext i hi
  have : k + i < m := by omega
  simp [BitVec.getLsbD_append, this]
theorem bit_hi {n m k : Nat} (x : BitVec n) (y : BitVec m) (h : m ≤ k) : (x ++ y).getLsbD k = x.getLsbD (k - m) := by
  have : ¬ k < m := by omega
  simp [BitVec.getLsbD_append, this]
theorem bit_lo {n m k : Nat} (x : BitVec n) (y : BitVec m) (h : k < m) : (x ++ y).getLsbD k = y.getLsbD k := by
  simp [BitVec.getLsbD_append, h]
theorem extract_all {w : Nat} (x : BitVec w) : x.extractLsb' 0 w = x := by ext i hi; simp
theorem bit_ofBool (b : Bool) : (BitVec.ofBool b).getLsbD 0 = b := by cases b <;> rfl

/-! Formats (R48). -/

theorem FR.unpack_pack (f : FR) : FR.unpack f.pack = f := by
  obtain ⟨op, d, a, b, c, ⟨p, n⟩, fn⟩ := f
  simp (disch := decide) only [FR.unpack, FR.pack, extract_hi, extract_lo, bit_hi, bit_lo, Nat.reduceSub, extract_all, bit_ofBool]
theorem FR.op_pack (f : FR) : f.pack.extractLsb' 56 8 = f.op := congrArg FR.op (FR.unpack_pack f)
theorem FI.unpack_pack (f : FI) : FI.unpack f.pack = f := by
  obtain ⟨op, d, a, ⟨p, n⟩, q, imm⟩ := f
  simp (disch := decide) only [FI.unpack, FI.pack, extract_hi, extract_lo, bit_hi, bit_lo, Nat.reduceSub, extract_all, bit_ofBool]
theorem FI.op_pack (f : FI) : f.pack.extractLsb' 56 8 = f.op := congrArg FI.op (FI.unpack_pack f)
theorem FM.unpack_pack (f : FM) : FM.unpack f.pack = f := by
  obtain ⟨op, d, a, b, ⟨p, n⟩, z, e, q, m⟩ := f
  simp (disch := decide) only [FM.unpack, FM.pack, extract_hi, extract_lo, bit_hi, bit_lo, Nat.reduceSub, extract_all, bit_ofBool]
theorem FM.op_pack (f : FM) : f.pack.extractLsb' 56 8 = f.op := congrArg FM.op (FM.unpack_pack f)
theorem FB.unpack_pack (f : FB) : FB.unpack f.pack = f := by
  obtain ⟨op, ⟨p, n⟩, k, off⟩ := f
  simp (disch := decide) only [FB.unpack, FB.pack, extract_hi, extract_lo, bit_hi, bit_lo, Nat.reduceSub, extract_all, bit_ofBool]
theorem FB.op_pack (f : FB) : f.pack.extractLsb' 56 8 = f.op := congrArg FB.op (FB.unpack_pack f)
theorem FS.unpack_pack (f : FS) : FS.unpack f.pack = f := by
  obtain ⟨op, d, a, b, c, ⟨p, n⟩, r, fn⟩ := f
  simp (disch := decide) only [FS.unpack, FS.pack, extract_hi, extract_lo, bit_hi, bit_lo, Nat.reduceSub, extract_all, bit_ofBool]
theorem FS.op_pack (f : FS) : f.pack.extractLsb' 56 8 = f.op := congrArg FS.op (FS.unpack_pack f)
theorem FX.unpack_pack (f : FX) : FX.unpack f.pack = f := by
  obtain ⟨op, fn, ⟨p, n⟩, imm⟩ := f
  simp (disch := decide) only [FX.unpack, FX.pack, extract_hi, extract_lo, bit_hi, bit_lo, Nat.reduceSub, extract_all, bit_ofBool]
theorem FX.op_pack (f : FX) : f.pack.extractLsb' 56 8 = f.op := congrArg FX.op (FX.unpack_pack f)

/-! Sub-fields. -/

@[simp] theorem FnI.fu_pack (fu : BitVec 5) (imm : BitVec 6) : (FnI.pack fu imm).extractLsb' 6 5 = fu := by
  simp (disch := decide) only [FnI.pack, extract_hi, extract_lo, bit_hi, bit_lo, Nat.reduceSub, extract_all, bit_ofBool]
@[simp] theorem FnI.imm_pack (fu : BitVec 5) (imm : BitVec 6) : (FnI.pack fu imm).extractLsb' 0 6 = imm := by
  simp (disch := decide) only [FnI.pack, extract_hi, extract_lo, bit_hi, bit_lo, Nat.reduceSub, extract_all, bit_ofBool]
@[simp] theorem FnV.ty_pack (ty : BitVec 5) (rnd : BitVec 3) (sat : Bool) (form : BitVec 2) : (FnV.pack ty rnd sat form).extractLsb' 6 5 = ty := by
  simp (disch := decide) only [FnV.pack, extract_hi, extract_lo, bit_hi, bit_lo, Nat.reduceSub, extract_all, bit_ofBool]
@[simp] theorem FnV.rnd_pack (ty : BitVec 5) (rnd : BitVec 3) (sat : Bool) (form : BitVec 2) : (FnV.pack ty rnd sat form).extractLsb' 3 3 = rnd := by
  simp (disch := decide) only [FnV.pack, extract_hi, extract_lo, bit_hi, bit_lo, Nat.reduceSub, extract_all, bit_ofBool]
@[simp] theorem FnV.sat_pack (ty : BitVec 5) (rnd : BitVec 3) (sat : Bool) (form : BitVec 2) : (FnV.pack ty rnd sat form)[2] = sat := by
  rw [← BitVec.getLsbD_eq_getElem]; simp (disch := decide) only [FnV.pack, extract_hi, extract_lo, bit_hi, bit_lo, Nat.reduceSub, extract_all, bit_ofBool]
@[simp] theorem FnV.form_pack (ty : BitVec 5) (rnd : BitVec 3) (sat : Bool) (form : BitVec 2) : (FnV.pack ty rnd sat form).extractLsb' 0 2 = form := by
  simp (disch := decide) only [FnV.pack, extract_hi, extract_lo, bit_hi, bit_lo, Nat.reduceSub, extract_all, bit_ofBool]
@[simp] theorem FnP.lo_pack (lo : Bool) (hi : Bool) : (FnP.pack lo hi)[0] = lo := by
  rw [← BitVec.getLsbD_eq_getElem]; simp (disch := decide) only [FnP.pack, extract_hi, extract_lo, bit_hi, bit_lo, Nat.reduceSub, extract_all, bit_ofBool]
@[simp] theorem FnP.hi_pack (lo : Bool) (hi : Bool) : (FnP.pack lo hi)[1] = hi := by
  rw [← BitVec.getLsbD_eq_getElem]; simp (disch := decide) only [FnP.pack, extract_hi, extract_lo, bit_hi, bit_lo, Nat.reduceSub, extract_all, bit_ofBool]
@[simp] theorem FnL.lvl_pack (lvl : Bool) (len : BitVec 10) : (FnL.pack lvl len)[10] = lvl := by
  rw [← BitVec.getLsbD_eq_getElem]; simp (disch := decide) only [FnL.pack, extract_hi, extract_lo, bit_hi, bit_lo, Nat.reduceSub, extract_all, bit_ofBool]
@[simp] theorem FnL.len_pack (lvl : Bool) (len : BitVec 10) : (FnL.pack lvl len).extractLsb' 0 10 = len := by
  simp (disch := decide) only [FnL.pack, extract_hi, extract_lo, bit_hi, bit_lo, Nat.reduceSub, extract_all, bit_ofBool]
@[simp] theorem FnF.flag_pack (flag : Bool) (slot : BitVec 3) : (FnF.pack flag slot)[3] = flag := by
  rw [← BitVec.getLsbD_eq_getElem]; simp (disch := decide) only [FnF.pack, extract_hi, extract_lo, bit_hi, bit_lo, Nat.reduceSub, extract_all, bit_ofBool]
@[simp] theorem FnF.slot_pack (flag : Bool) (slot : BitVec 3) : (FnF.pack flag slot).extractLsb' 0 3 = slot := by
  simp (disch := decide) only [FnF.pack, extract_hi, extract_lo, bit_hi, bit_lo, Nat.reduceSub, extract_all, bit_ofBool]
@[simp] theorem FnC.dir_pack (dir : BitVec 3) (fe : Bool) (gm : Bool) (sc : BitVec 3) : (FnC.pack dir fe gm sc).extractLsb' 8 3 = dir := by
  simp (disch := decide) only [FnC.pack, extract_hi, extract_lo, bit_hi, bit_lo, Nat.reduceSub, extract_all, bit_ofBool]
@[simp] theorem FnC.fe_pack (dir : BitVec 3) (fe : Bool) (gm : Bool) (sc : BitVec 3) : (FnC.pack dir fe gm sc)[4] = fe := by
  rw [← BitVec.getLsbD_eq_getElem]; simp (disch := decide) only [FnC.pack, extract_hi, extract_lo, bit_hi, bit_lo, Nat.reduceSub, extract_all, bit_ofBool]
@[simp] theorem FnC.gm_pack (dir : BitVec 3) (fe : Bool) (gm : Bool) (sc : BitVec 3) : (FnC.pack dir fe gm sc)[3] = gm := by
  rw [← BitVec.getLsbD_eq_getElem]; simp (disch := decide) only [FnC.pack, extract_hi, extract_lo, bit_hi, bit_lo, Nat.reduceSub, extract_all, bit_ofBool]
@[simp] theorem FnC.sc_pack (dir : BitVec 3) (fe : Bool) (gm : Bool) (sc : BitVec 3) : (FnC.pack dir fe gm sc).extractLsb' 0 3 = sc := by
  simp (disch := decide) only [FnC.pack, extract_hi, extract_lo, bit_hi, bit_lo, Nat.reduceSub, extract_all, bit_ofBool]
@[simp] theorem FnColl.op_pack (op : BitVec 3) (ty : BitVec 5) : (FnColl.pack op ty).extractLsb' 8 3 = op := by
  simp (disch := decide) only [FnColl.pack, extract_hi, extract_lo, bit_hi, bit_lo, Nat.reduceSub, extract_all, bit_ofBool]
@[simp] theorem FnColl.ty_pack (op : BitVec 3) (ty : BitVec 5) : (FnColl.pack op ty).extractLsb' 3 5 = ty := by
  simp (disch := decide) only [FnColl.pack, extract_hi, extract_lo, bit_hi, bit_lo, Nat.reduceSub, extract_all, bit_ofBool]
@[simp] theorem Fn4.slot_pack (slot : BitVec 4) : (Fn4.pack slot).extractLsb' 0 4 = slot := by
  simp (disch := decide) only [Fn4.pack, extract_hi, extract_lo, bit_hi, bit_lo, Nat.reduceSub, extract_all, bit_ofBool]
@[simp] theorem FnQ.form_pack (form : BitVec 3) (q : BitVec 2) : (FnQ.pack form q).extractLsb' 8 3 = form := by
  simp (disch := decide) only [FnQ.pack, extract_hi, extract_lo, bit_hi, bit_lo, Nat.reduceSub, extract_all, bit_ofBool]
@[simp] theorem FnQ.q_pack (form : BitVec 3) (q : BitVec 2) : (FnQ.pack form q).extractLsb' 0 2 = q := by
  simp (disch := decide) only [FnQ.pack, extract_hi, extract_lo, bit_hi, bit_lo, Nat.reduceSub, extract_all, bit_ofBool]
@[simp] theorem QLvl.lvl_pack (lvl : Bool) : (QLvl.pack lvl)[6] = lvl := by
  rw [← BitVec.getLsbD_eq_getElem]; simp (disch := decide) only [QLvl.pack, extract_hi, extract_lo, bit_hi, bit_lo, Nat.reduceSub, extract_all, bit_ofBool]
@[simp] theorem QBar.gm_pack (gm : Bool) (sc : BitVec 3) : (QBar.pack gm sc)[6] = gm := by
  rw [← BitVec.getLsbD_eq_getElem]; simp (disch := decide) only [QBar.pack, extract_hi, extract_lo, bit_hi, bit_lo, Nat.reduceSub, extract_all, bit_ofBool]
@[simp] theorem QBar.sc_pack (gm : Bool) (sc : BitVec 3) : (QBar.pack gm sc).extractLsb' 3 3 = sc := by
  simp (disch := decide) only [QBar.pack, extract_hi, extract_lo, bit_hi, bit_lo, Nat.reduceSub, extract_all, bit_ofBool]
@[simp] theorem LoopImm.len_pack (len : BitVec 10) (cnt : BitVec 22) : (LoopImm.pack len cnt).extractLsb' 22 10 = len := by
  simp (disch := decide) only [LoopImm.pack, extract_hi, extract_lo, bit_hi, bit_lo, Nat.reduceSub, extract_all, bit_ofBool]
@[simp] theorem LoopImm.cnt_pack (len : BitVec 10) (cnt : BitVec 22) : (LoopImm.pack len cnt).extractLsb' 0 22 = cnt := by
  simp (disch := decide) only [LoopImm.pack, extract_hi, extract_lo, bit_hi, bit_lo, Nat.reduceSub, extract_all, bit_ofBool]
@[simp] theorem CsrImm.n_pack (n : BitVec 12) : (CsrImm.pack n).extractLsb' 0 12 = n := by
  simp (disch := decide) only [CsrImm.pack, extract_hi, extract_lo, bit_hi, bit_lo, Nat.reduceSub, extract_all, bit_ofBool]
@[simp] theorem PhImm.ph_pack (ph : BitVec 4) : (PhImm.pack ph).extractLsb' 0 4 = ph := by
  simp (disch := decide) only [PhImm.pack, extract_hi, extract_lo, bit_hi, bit_lo, Nat.reduceSub, extract_all, bit_ofBool]
@[simp] theorem CodeImm.code_pack (code : BitVec 16) : (CodeImm.pack code).extractLsb' 0 16 = code := by
  simp (disch := decide) only [CodeImm.pack, extract_hi, extract_lo, bit_hi, bit_lo, Nat.reduceSub, extract_all, bit_ofBool]
@[simp] theorem CoreImm.core_pack (core : BitVec 10) : (CoreImm.pack core).extractLsb' 0 10 = core := by
  simp (disch := decide) only [CoreImm.pack, extract_hi, extract_lo, bit_hi, bit_lo, Nat.reduceSub, extract_all, bit_ofBool]
@[simp] theorem QLd.sp_pack (sp : Bool) (low : Bool) : (QLd.pack sp low)[1] = sp := by
  rw [← BitVec.getLsbD_eq_getElem]; simp (disch := decide) only [QLd.pack, extract_hi, extract_lo, bit_hi, bit_lo, Nat.reduceSub, extract_all, bit_ofBool]
@[simp] theorem QLd.low_pack (sp : Bool) (low : Bool) : (QLd.pack sp low)[0] = low := by
  rw [← BitVec.getLsbD_eq_getElem]; simp (disch := decide) only [QLd.pack, extract_hi, extract_lo, bit_hi, bit_lo, Nat.reduceSub, extract_all, bit_ofBool]
@[simp] theorem QAmof.sp_pack (sp : Bool) (op : BitVec 2) : (QAmof.pack sp op)[2] = sp := by
  rw [← BitVec.getLsbD_eq_getElem]; simp (disch := decide) only [QAmof.pack, extract_hi, extract_lo, bit_hi, bit_lo, Nat.reduceSub, extract_all, bit_ofBool]
@[simp] theorem QAmof.op_pack (sp : Bool) (op : BitVec 2) : (QAmof.pack sp op).extractLsb' 0 2 = op := by
  simp (disch := decide) only [QAmof.pack, extract_hi, extract_lo, bit_hi, bit_lo, Nat.reduceSub, extract_all, bit_ofBool]
@[simp] theorem FnScope.sc_pack (sc : BitVec 3) : (FnScope.pack sc).extractLsb' 0 3 = sc := by
  simp (disch := decide) only [FnScope.pack, extract_hi, extract_lo, bit_hi, bit_lo, Nat.reduceSub, extract_all, bit_ofBool]
@[simp] theorem PortLo.port_pack (port : BitVec 4) : (PortLo.pack port).extractLsb' 0 4 = port := by
  simp (disch := decide) only [PortLo.pack, extract_hi, extract_lo, bit_hi, bit_lo, Nat.reduceSub, extract_all, bit_ofBool]
@[simp] theorem PortHi.op_pack (op : BitVec 4) : (PortHi.pack op).extractLsb' 0 4 = op := by
  simp (disch := decide) only [PortHi.pack, extract_hi, extract_lo, bit_hi, bit_lo, Nat.reduceSub, extract_all, bit_ofBool]
@[simp] theorem Port5.site_pack (site : BitVec 5) : (Port5.pack site).extractLsb' 0 5 = site := by
  simp (disch := decide) only [Port5.pack, extract_hi, extract_lo, bit_hi, bit_lo, Nat.reduceSub, extract_all, bit_ofBool]
@[simp] theorem FnStrm.mode_pack (mode : BitVec 5) (ty : BitVec 5) (sc : BitVec 3) (sp : Bool) : (FnStrm.pack mode ty sc sp).extractLsb' 16 5 = mode := by
  simp (disch := decide) only [FnStrm.pack, extract_hi, extract_lo, bit_hi, bit_lo, Nat.reduceSub, extract_all, bit_ofBool]
@[simp] theorem FnStrm.ty_pack (mode : BitVec 5) (ty : BitVec 5) (sc : BitVec 3) (sp : Bool) : (FnStrm.pack mode ty sc sp).extractLsb' 11 5 = ty := by
  simp (disch := decide) only [FnStrm.pack, extract_hi, extract_lo, bit_hi, bit_lo, Nat.reduceSub, extract_all, bit_ofBool]
@[simp] theorem FnStrm.sc_pack (mode : BitVec 5) (ty : BitVec 5) (sc : BitVec 3) (sp : Bool) : (FnStrm.pack mode ty sc sp).extractLsb' 8 3 = sc := by
  simp (disch := decide) only [FnStrm.pack, extract_hi, extract_lo, bit_hi, bit_lo, Nat.reduceSub, extract_all, bit_ofBool]
@[simp] theorem FnStrm.sp_pack (mode : BitVec 5) (ty : BitVec 5) (sc : BitVec 3) (sp : Bool) : (FnStrm.pack mode ty sc sp)[7] = sp := by
  rw [← BitVec.getLsbD_eq_getElem]; simp (disch := decide) only [FnStrm.pack, extract_hi, extract_lo, bit_hi, bit_lo, Nat.reduceSub, extract_all, bit_ofBool]
@[simp] theorem FnTok.gm_pack (gm : Bool) (id : BitVec 5) : (FnTok.pack gm id)[5] = gm := by
  rw [← BitVec.getLsbD_eq_getElem]; simp (disch := decide) only [FnTok.pack, extract_hi, extract_lo, bit_hi, bit_lo, Nat.reduceSub, extract_all, bit_ofBool]
@[simp] theorem FnTok.id_pack (gm : Bool) (id : BitVec 5) : (FnTok.pack gm id).extractLsb' 0 5 = id := by
  simp (disch := decide) only [FnTok.pack, extract_hi, extract_lo, bit_hi, bit_lo, Nat.reduceSub, extract_all, bit_ofBool]
@[simp] theorem FnCh.ch_pack (ch : BitVec 2) : (FnCh.pack ch).extractLsb' 0 2 = ch := by
  simp (disch := decide) only [FnCh.pack, extract_hi, extract_lo, bit_hi, bit_lo, Nat.reduceSub, extract_all, bit_ofBool]
@[simp] theorem predField_lo (p : Pred) : (predField p).extractLsb' 0 4 = p := by
  simp (disch := decide) only [predField, extract_hi, extract_lo, bit_hi, bit_lo, Nat.reduceSub, extract_all, bit_ofBool]
@[simp] theorem bit2_lo (b : Bool) : (bit2 b)[0] = b := by rw [← BitVec.getLsbD_eq_getElem]; simp (disch := decide) only [bit2, extract_hi, extract_lo, bit_hi, bit_lo, Nat.reduceSub, extract_all, bit_ofBool]
@[simp] theorem bit21_lo (b : Bool) : (bit21 b)[0] = b := by rw [← BitVec.getLsbD_eq_getElem]; simp (disch := decide) only [bit21, extract_hi, extract_lo, bit_hi, bit_lo, Nat.reduceSub, extract_all, bit_ofBool]
@[simp] theorem szWD_lo (b : Bool) : (szWD b)[0] = b := by cases b <;> rfl

/-! Codes. -/

@[simp] theorem Size.ofCode_code (e : Size) : Size.ofCode e.code = some e := by cases e <;> rfl
@[simp] theorem Scope.ofCode_code (e : Scope) : Scope.ofCode e.code = some e := by cases e <;> rfl
@[simp] theorem Rnd.ofCode_code (e : Rnd) : Rnd.ofCode e.code = some e := by cases e <;> rfl
@[simp] theorem Ty.ofCode_code (e : Ty) : Ty.ofCode e.code = some e := by cases e <;> rfl
@[simp] theorem Cond.ofCode_code (e : Cond) : Cond.ofCode e.code = some e := by cases e <;> rfl
@[simp] theorem OpForm.ofCode_code (e : OpForm) : OpForm.ofCode e.code = some e := by cases e <;> rfl
@[simp] theorem AmoOp.ofCode_code (e : AmoOp) : AmoOp.ofCode e.code = some e := by cases e <;> rfl
@[simp] theorem StrmMode.ofCode_code (e : StrmMode) : StrmMode.ofCode e.code = some e := by cases e <;> rfl

/-! Decoding by format (R61, R62). -/

/-- Opcodes of format C.R. -/
def usesR (n : Nat) : Bool :=
  match n with
  | 0x03 | 0x1A | 0x1B | 0x25 | 0x51 | 0x54 | 0x55 | 0x57 | 0xA2 | 0xA3 => false
  | 0x30 | 0x31 | 0x32 | 0x33 | 0x34 | 0x35 | 0x37 | 0x38 => false
  | 0x20 | 0x21 | 0x22 => false
  | 0x40 | 0x41 | 0x42 | 0x43 | 0x44 | 0x45 | 0x46 | 0x47 | 0x48 | 0x49 => false
  | 0x29 | 0x39 | 0x9B | 0x9C | 0xA0 | 0xA1 | 0xA4 | 0xA5 | 0xA6 => false
  | _ => true
theorem decode_R {f : FR} {i : Instr} (o : BitVec 8) (ho : opAssigned (o ++ 0#56) = true) (h : usesR o.toNat = true)
    (hp : f.op = o) (he : encode i = f.pack) (hc : candidateR f = some i) (hw : i.wf = true) : decode (encode i) = .ok i := by
  subst hp
  have h1 : candidate f.pack = candidateR f := by
    unfold candidate
    rw [FR.op_pack, FR.unpack_pack]
    unfold usesR at h
    split <;> first | rfl | simp_all
  have h2 : opAssigned f.pack = true := by
    unfold opAssigned at ho ⊢
    rw [FR.op_pack]
    rwa [show (f.op ++ 0#56).extractLsb' 56 8 = f.op by simp (disch := decide) only [extract_hi, extract_lo, bit_hi, bit_lo, Nat.reduceSub, extract_all, bit_ofBool]] at ho
  unfold decode
  rw [he, h2, h1, hc]
  simp [hw, he]
/-- Opcodes of format C.I. -/
def usesI (n : Nat) : Bool :=
  match n with
  | 0x03 | 0x1A | 0x1B | 0x25 | 0x51 | 0x54 | 0x55 | 0x57 | 0xA2 | 0xA3 => true
  | _ => false
theorem decode_I {f : FI} {i : Instr} (o : BitVec 8) (ho : opAssigned (o ++ 0#56) = true) (h : usesI o.toNat = true)
    (hp : f.op = o) (he : encode i = f.pack) (hc : candidateI f = some i) (hw : i.wf = true) : decode (encode i) = .ok i := by
  subst hp
  have h1 : candidate f.pack = candidateI f := by
    unfold candidate
    rw [FI.op_pack, FI.unpack_pack]
    unfold usesI at h
    split <;> first | rfl | simp_all
  have h2 : opAssigned f.pack = true := by
    unfold opAssigned at ho ⊢
    rw [FI.op_pack]
    rwa [show (f.op ++ 0#56).extractLsb' 56 8 = f.op by simp (disch := decide) only [extract_hi, extract_lo, bit_hi, bit_lo, Nat.reduceSub, extract_all, bit_ofBool]] at ho
  unfold decode
  rw [he, h2, h1, hc]
  simp [hw, he]
/-- Opcodes of format C.M. -/
def usesM (n : Nat) : Bool :=
  match n with
  | 0x30 | 0x31 | 0x32 | 0x33 | 0x34 | 0x35 | 0x37 | 0x38 => true
  | _ => false
theorem decode_M {f : FM} {i : Instr} (o : BitVec 8) (ho : opAssigned (o ++ 0#56) = true) (h : usesM o.toNat = true)
    (hp : f.op = o) (he : encode i = f.pack) (hc : candidateM f = some i) (hw : i.wf = true) : decode (encode i) = .ok i := by
  subst hp
  have h1 : candidate f.pack = candidateM f := by
    unfold candidate
    rw [FM.op_pack, FM.unpack_pack]
    unfold usesM at h
    split <;> first | rfl | simp_all
  have h2 : opAssigned f.pack = true := by
    unfold opAssigned at ho ⊢
    rw [FM.op_pack]
    rwa [show (f.op ++ 0#56).extractLsb' 56 8 = f.op by simp (disch := decide) only [extract_hi, extract_lo, bit_hi, bit_lo, Nat.reduceSub, extract_all, bit_ofBool]] at ho
  unfold decode
  rw [he, h2, h1, hc]
  simp [hw, he]
/-- Opcodes of format C.B. -/
def usesB (n : Nat) : Bool :=
  match n with
  | 0x20 | 0x21 | 0x22 => true
  | _ => false
theorem decode_B {f : FB} {i : Instr} (o : BitVec 8) (ho : opAssigned (o ++ 0#56) = true) (h : usesB o.toNat = true)
    (hp : f.op = o) (he : encode i = f.pack) (hc : candidateB f = some i) (hw : i.wf = true) : decode (encode i) = .ok i := by
  subst hp
  have h1 : candidate f.pack = candidateB f := by
    unfold candidate
    rw [FB.op_pack, FB.unpack_pack]
    unfold usesB at h
    split <;> first | rfl | simp_all
  have h2 : opAssigned f.pack = true := by
    unfold opAssigned at ho ⊢
    rw [FB.op_pack]
    rwa [show (f.op ++ 0#56).extractLsb' 56 8 = f.op by simp (disch := decide) only [extract_hi, extract_lo, bit_hi, bit_lo, Nat.reduceSub, extract_all, bit_ofBool]] at ho
  unfold decode
  rw [he, h2, h1, hc]
  simp [hw, he]
/-- Opcodes of format C.S. -/
def usesS (n : Nat) : Bool :=
  match n with
  | 0x40 | 0x41 | 0x42 | 0x43 | 0x44 | 0x45 | 0x46 | 0x47 | 0x48 | 0x49 => true
  | _ => false
theorem decode_S {f : FS} {i : Instr} (o : BitVec 8) (ho : opAssigned (o ++ 0#56) = true) (h : usesS o.toNat = true)
    (hp : f.op = o) (he : encode i = f.pack) (hc : candidateS f = some i) (hw : i.wf = true) : decode (encode i) = .ok i := by
  subst hp
  have h1 : candidate f.pack = candidateS f := by
    unfold candidate
    rw [FS.op_pack, FS.unpack_pack]
    unfold usesS at h
    split <;> first | rfl | simp_all
  have h2 : opAssigned f.pack = true := by
    unfold opAssigned at ho ⊢
    rw [FS.op_pack]
    rwa [show (f.op ++ 0#56).extractLsb' 56 8 = f.op by simp (disch := decide) only [extract_hi, extract_lo, bit_hi, bit_lo, Nat.reduceSub, extract_all, bit_ofBool]] at ho
  unfold decode
  rw [he, h2, h1, hc]
  simp [hw, he]
/-- Opcodes of format C.X. -/
def usesX (n : Nat) : Bool :=
  match n with
  | 0x29 | 0x39 | 0x9B | 0x9C | 0xA0 | 0xA1 | 0xA4 | 0xA5 | 0xA6 => true
  | _ => false
theorem decode_X {f : FX} {i : Instr} (o : BitVec 8) (ho : opAssigned (o ++ 0#56) = true) (h : usesX o.toNat = true)
    (hp : f.op = o) (he : encode i = f.pack) (hc : candidateX f = some i) (hw : i.wf = true) : decode (encode i) = .ok i := by
  subst hp
  have h1 : candidate f.pack = candidateX f := by
    unfold candidate
    rw [FX.op_pack, FX.unpack_pack]
    unfold usesX at h
    split <;> first | rfl | simp_all
  have h2 : opAssigned f.pack = true := by
    unfold opAssigned at ho ⊢
    rw [FX.op_pack]
    rwa [show (f.op ++ 0#56).extractLsb' 56 8 = f.op by simp (disch := decide) only [extract_hi, extract_lo, bit_hi, bit_lo, Nat.reduceSub, extract_all, bit_ofBool]] at ho
  unfold decode
  rw [he, h2, h1, hc]
  simp [hw, he]

end Sys2Proof
end

