-- ==== Sys2Proof/Laws/Sparse.lean ====
section
/-! SUPPORT. Laws of sparse storage: reading after writing, and that every operation keeps the canonical form. -/

namespace Sys2Proof.Machine

theorem Cells.get_below {w lo : Nat} {m : Cells w} (h : m.wfFrom lo = true) {a : Nat} (ha : a < lo) : m.get a = 0 := by
  induction m generalizing lo with
  | nil => rfl
  | cons c r ih =>
    obtain ⟨k, v⟩ := c
    simp only [Cells.wfFrom, Bool.and_eq_true, decide_eq_true_eq] at h
    have hk : ¬ k = a := by omega
    have hl : a < k := by omega
    simp [Cells.get, hk, hl]

theorem Cells.get_erase {w lo : Nat} {m : Cells w} (h : m.wfFrom lo = true) (a b : Nat) :
    (m.erase a).get b = if b = a then 0 else m.get b := by
  induction m generalizing lo with
  | nil => simp [Cells.erase, Cells.get]
  | cons c r ih =>
    obtain ⟨k, v⟩ := c
    simp only [Cells.wfFrom, Bool.and_eq_true, decide_eq_true_eq] at h
    have ih := ih h.2
    by_cases hka : k = a
    · subst hka
      by_cases hb : b = k
      · subst hb; simp [Cells.erase, Cells.get_below h.2 (Nat.lt_succ_self b)]
      · by_cases hl : b < k
        · have : Cells.get r b = 0 := Cells.get_below h.2 (show b < k + 1 by omega)
          have hk : ¬ k = b := fun e => hb e.symm
          simp [Cells.erase, Cells.get, hb, hk, hl, this]
        · have : ¬ k = b := fun e => hb e.symm
          simp [Cells.erase, Cells.get, hb, hl, this]
    · by_cases hl : a < k
      · by_cases hb : b = a
        · subst hb; simp [Cells.erase, Cells.get, hka, hl]
        · simp [Cells.erase, hka, hl, hb]
      · by_cases hkb : k = b
        · subst hkb; simp [Cells.erase, Cells.get, hka, hl]
        · by_cases hlb : b < k
          · simp [Cells.erase, Cells.get, hka, hl, hkb, hlb]
          · simp [Cells.erase, Cells.get, hka, hl, hkb, hlb, ih]

theorem Cells.get_insert {w lo : Nat} {m : Cells w} (h : m.wfFrom lo = true) (a b : Nat) (x : BitVec w) :
    (m.insert a x).get b = if b = a then x else m.get b := by
  induction m generalizing lo with
  | nil =>
    by_cases hb : b = a
    · subst hb; simp [Cells.insert, Cells.get]
    · have : ¬ a = b := fun e => hb e.symm
      simp [Cells.insert, Cells.get, hb, this]
  | cons c r ih =>
    obtain ⟨k, v⟩ := c
    simp only [Cells.wfFrom, Bool.and_eq_true, decide_eq_true_eq] at h
    have ih := ih h.2
    by_cases hka : k = a
    · subst hka
      by_cases hb : b = k
      · subst hb; simp [Cells.insert, Cells.get]
      · have : ¬ k = b := fun e => hb e.symm
        simp [Cells.insert, Cells.get, hb, this]
    · by_cases hl : a < k
      · by_cases hb : b = a
        · subst hb; simp [Cells.insert, Cells.get, hka, hl]
        · have hab : ¬ a = b := fun e => hb e.symm
          by_cases hlt : b < a
          · have h1 : ¬ k = b := by omega
            have h2 : b < k := by omega
            simp [Cells.insert, Cells.get, hka, hl, hb, hab, hlt, h1, h2]
          · simp [Cells.insert, Cells.get, hka, hl, hb, hab, hlt]
      · by_cases hkb : k = b
        · subst hkb; simp [Cells.insert, Cells.get, hka, hl]
        · by_cases hlb : b < k
          · have : ¬ b = a := by omega
            simp [Cells.insert, Cells.get, hka, hl, hkb, hlb, this]
          · simp [Cells.insert, Cells.get, hka, hl, hkb, hlb, ih]

theorem Cells.get_set {w : Nat} {m : Cells w} (h : m.wf = true) (a b : Nat) (x : BitVec w) :
    (m.set a x).get b = if b = a then x else m.get b := by
  unfold Cells.set
  by_cases hx : x = 0
  · subst hx; simpa using Cells.get_erase (lo := 0) h a b
  · have hx' : ¬ x = 0#w := hx
    simpa [hx'] using Cells.get_insert (lo := 0) h a b x

theorem Cells.wfFrom_mono {w lo lo' : Nat} {m : Cells w} (h : m.wfFrom lo = true) (hl : lo' ≤ lo) : m.wfFrom lo' = true := by
  cases m with
  | nil => rfl
  | cons c r =>
    obtain ⟨k, v⟩ := c
    simp only [Cells.wfFrom, Bool.and_eq_true, decide_eq_true_eq] at h ⊢
    exact ⟨⟨by omega, h.1.2⟩, h.2⟩

theorem Cells.wf_erase {w lo : Nat} {m : Cells w} (h : m.wfFrom lo = true) (a : Nat) : (m.erase a).wfFrom lo = true := by
  induction m generalizing lo with
  | nil => rfl
  | cons c r ih =>
    obtain ⟨k, v⟩ := c
    have h' := h
    simp only [Cells.wfFrom, Bool.and_eq_true, decide_eq_true_eq] at h'
    by_cases hka : k = a
    · simpa [Cells.erase, hka] using Cells.wfFrom_mono h'.2 (by omega)
    · by_cases hl : a < k
      · simpa [Cells.erase, hka, hl] using h
      · simp [Cells.erase, hka, hl, Cells.wfFrom, h'.1.1, ih h'.2]
        simpa using h'.1.2

theorem Cells.wf_insert {w lo : Nat} {m : Cells w} (h : m.wfFrom lo = true) {a : Nat} (ha : lo ≤ a) {x : BitVec w} (hx : x ≠ 0) :
    (m.insert a x).wfFrom lo = true := by
  have hx' : ¬ x = 0#w := hx
  induction m generalizing lo with
  | nil => simp [Cells.insert, Cells.wfFrom, ha, hx']
  | cons c r ih =>
    obtain ⟨k, v⟩ := c
    have h' := h
    simp only [Cells.wfFrom, Bool.and_eq_true, decide_eq_true_eq] at h'
    by_cases hka : k = a
    · subst hka
      simp [Cells.insert, Cells.wfFrom, ha, hx', h'.2]
    · by_cases hl : a < k
      · have hv : ¬ v = 0#w := by simpa using h'.1.2
        have h2 : a + 1 ≤ k := hl
        simp [Cells.insert, hka, hl, Cells.wfFrom, ha, hx', h2, hv, h'.2]
      · have hv : ¬ v = 0#w := by simpa using h'.1.2
        simp [Cells.insert, hka, hl, Cells.wfFrom, h'.1.1, hv, ih h'.2 (show k + 1 ≤ a by omega)]

/-- Writing a cell keeps the canonical form. -/
theorem Cells.wf_set {w : Nat} {m : Cells w} (h : m.wf = true) (a : Nat) (x : BitVec w) : (m.set a x).wf = true := by
  unfold Cells.set Cells.wf
  by_cases hx : x = 0
  · subst hx; simpa using Cells.wf_erase h a
  · have hx' : ¬ x = 0#w := hx
    simpa [hx'] using Cells.wf_insert h (Nat.zero_le a) hx

/-- Reading a byte after writing one. -/
theorem Memory.byte_setByte {m : Memory} (h : m.wf = true) (a b : Nat) (x : Byte) :
    (m.setByte a x).byte b = if b = a then x else m.byte b := Cells.get_set h a b x

/-- Writing a byte keeps the canonical form. -/
theorem Memory.wf_setByte {m : Memory} (h : m.wf = true) (a : Nat) (x : Byte) : (m.setByte a x).wf = true := Cells.wf_set h a x

/-- Writing bytes keeps the canonical form. -/
theorem Memory.wf_setBytes {m : Memory} (h : m.wf = true) (a : Nat) (bs : List Byte) : (m.setBytes a bs).wf = true := by
  induction bs generalizing m a with
  | nil => exact h
  | cons b r ih => exact ih (Memory.wf_setByte h a b) (a + 1)

/-- Reading a byte after writing bytes: one of them inside, and the old byte outside. -/
theorem Memory.byte_setBytes {m : Memory} (h : m.wf = true) (a : Nat) (bs : List Byte) (c : Nat) :
    (m.setBytes a bs).byte c = if a ≤ c ∧ c < a + bs.length then bs.getD (c - a) 0 else m.byte c := by
  induction bs generalizing m a with
  | nil =>
    have : ¬ (a ≤ c ∧ c < a + 0) := by omega
    simp [Memory.setBytes, this]
  | cons b r ih =>
    have hs : m.setBytes a (b :: r) = Memory.setBytes (m.setByte a b) (a + 1) r := rfl
    rw [hs, ih (Memory.wf_setByte h a b)]
    rw [Memory.byte_setByte h]
    by_cases hc : c = a
    · subst hc
      have : ¬ (c + 1 ≤ c ∧ c < c + 1 + r.length) := by omega
      simp [this]
    · by_cases hin : a + 1 ≤ c ∧ c < a + 1 + r.length
      · have h2 : a ≤ c ∧ c < a + (b :: r).length := by simp; omega
        have h3 : c - a = (c - (a + 1)) + 1 := by omega
        rw [if_pos hin, if_pos h2, h3]; simp
      · have h2 : ¬ (a ≤ c ∧ c < a + (b :: r).length) := by simp; omega
        rw [if_neg hin, if_neg h2, if_neg hc]

theorem tabGet_tabPut {α : Type} (t : List (Nat × α)) (k : Nat) (x : α) : tabGet (tabPut t k x) k = some x := by
  induction t with
  | nil => simp [tabPut, tabGet]
  | cons c r ih =>
    obtain ⟨j, y⟩ := c
    by_cases h : j = k
    · simp [tabPut, tabGet, h]
    · by_cases hl : k < j
      · simp [tabPut, tabGet, h, hl]
      · simp [tabPut, tabGet, h, hl, ih]

theorem tabGet_tabPut_ne {α : Type} (t : List (Nat × α)) {k j : Nat} (hj : j ≠ k) (x : α) : tabGet (tabPut t k x) j = tabGet t j := by
  induction t with
  | nil => simp [tabPut, tabGet, Ne.symm hj]
  | cons c r ih =>
    obtain ⟨i, y⟩ := c
    by_cases h : i = k
    · subst h; simp [tabPut, tabGet, Ne.symm hj]
    · by_cases hl : k < i
      · simp [tabPut, tabGet, h, hl, Ne.symm hj]
      · by_cases hi : i = j
        · subst hi; simp [tabPut, tabGet, h, hl]
        · simp [tabPut, tabGet, h, hl, hi, ih]

theorem tabPut_tabPut {α : Type} (t : List (Nat × α)) (k : Nat) (x y : α) : tabPut (tabPut t k x) k y = tabPut t k y := by
  induction t with
  | nil => simp [tabPut]
  | cons c r ih =>
    obtain ⟨j, z⟩ := c
    by_cases h : j = k
    · simp [tabPut, h]
    · by_cases hl : k < j
      · simp [tabPut, h, hl]
      · simp [tabPut, h, hl, ih]

end Sys2Proof.Machine
end

