-- ==== Sys2Proof/Laws/State.lean ====
section
/-! SUPPORT. What each update of the state leaves in each field: one lemma per field and update. -/

namespace Sys2Proof.Machine

@[simp] theorem State.setCore_agenda (s : State) (n : Nat) (c : Core) : (s.setCore n c).agenda = s.agenda := rfl
@[simp] theorem State.setCore_cur (s : State) (n : Nat) (c : Core) : (s.setCore n c).cur = s.cur := rfl
@[simp] theorem State.setCore_tick (s : State) (n : Nat) (c : Core) : (s.setCore n c).tick = s.tick := rfl
@[simp] theorem State.setCore_nextId (s : State) (n : Nat) (c : Core) : (s.setCore n c).nextId = s.nextId := rfl
@[simp] theorem State.setCore_mem (s : State) (n : Nat) (c : Core) : (s.setCore n c).mem = s.mem := rfl
@[simp] theorem State.setCore_poison (s : State) (n : Nat) (c : Core) : (s.setCore n c).poison = s.poison := rfl
@[simp] theorem State.setCore_parts (s : State) (n : Nat) (c : Core) : (s.setCore n c).parts = s.parts := rfl
@[simp] theorem State.setCore_clocks (s : State) (n : Nat) (c : Core) : (s.setCore n c).clocks = s.clocks := rfl
@[simp] theorem State.setCore_lines (s : State) (n : Nat) (c : Core) : (s.setCore n c).lines = s.lines := rfl
@[simp] theorem State.setCore_copies (s : State) (n : Nat) (c : Core) : (s.setCore n c).copies = s.copies := rfl
@[simp] theorem State.setCore_viewLines (s : State) (n : Nat) (c : Core) : (s.setCore n c).viewLines = s.viewLines := rfl
@[simp] theorem State.setCore_releases (s : State) (n : Nat) (c : Core) : (s.setCore n c).releases = s.releases := rfl
@[simp] theorem State.setCore_inherited (s : State) (n : Nat) (c : Core) : (s.setCore n c).inherited = s.inherited := rfl
@[simp] theorem State.setCore_updates (s : State) (n : Nat) (c : Core) : (s.setCore n c).updates = s.updates := rfl
@[simp] theorem State.setCore_gens (s : State) (n : Nat) (c : Core) : (s.setCore n c).gens = s.gens := rfl
@[simp] theorem State.setCore_ranges (s : State) (n : Nat) (c : Core) : (s.setCore n c).ranges = s.ranges := rfl
@[simp] theorem State.setCore_frrSel (s : State) (n : Nat) (c : Core) : (s.setCore n c).frrSel = s.frrSel := rfl
@[simp] theorem State.setCore_held (s : State) (n : Nat) (c : Core) : (s.setCore n c).held = s.held := rfl
@[simp] theorem State.setCore_dups (s : State) (n : Nat) (c : Core) : (s.setCore n c).dups = s.dups := rfl
@[simp] theorem State.setCore_hot (s : State) (n : Nat) (c : Core) : (s.setCore n c).hot = s.hot := rfl
@[simp] theorem State.setCore_kvs (s : State) (n : Nat) (c : Core) : (s.setCore n c).kvs = s.kvs := rfl
@[simp] theorem State.setCore_reuse (s : State) (n : Nat) (c : Core) : (s.setCore n c).reuse = s.reuse := rfl
@[simp] theorem State.setCore_stats (s : State) (n : Nat) (c : Core) : (s.setCore n c).stats = s.stats := rfl
@[simp] theorem State.setCore_roots (s : State) (n : Nat) (c : Core) : (s.setCore n c).roots = s.roots := rfl
@[simp] theorem State.setCore_rootsNext (s : State) (n : Nat) (c : Core) : (s.setCore n c).rootsNext = s.rootsNext := rfl
@[simp] theorem State.setCore_atBase (s : State) (n : Nat) (c : Core) : (s.setCore n c).atBase = s.atBase := rfl
@[simp] theorem State.setCore_keyBase (s : State) (n : Nat) (c : Core) : (s.setCore n c).keyBase = s.keyBase := rfl
@[simp] theorem State.setCore_time (s : State) (n : Nat) (c : Core) : (s.setCore n c).time = s.time := rfl
@[simp] theorem State.setCore_hifErr (s : State) (n : Nat) (c : Core) : (s.setCore n c).hifErr = s.hifErr := rfl
@[simp] theorem State.setCore_pwrLim (s : State) (n : Nat) (c : Core) : (s.setCore n c).pwrLim = s.pwrLim := rfl
@[simp] theorem State.setCore_pwr (s : State) (n : Nat) (c : Core) : (s.setCore n c).pwr = s.pwr := rfl
@[simp] theorem State.setCore_drlSel (s : State) (n : Nat) (c : Core) : (s.setCore n c).drlSel = s.drlSel := rfl
@[simp] theorem State.setCore_device (s : State) (n : Nat) (c : Core) : (s.setCore n c).device = s.device := rfl
@[simp] theorem State.setCore_ports (s : State) (n : Nat) (c : Core) : (s.setCore n c).ports = s.ports := rfl
@[simp] theorem State.setCore_apertures (s : State) (n : Nat) (c : Core) : (s.setCore n c).apertures = s.apertures := rfl
@[simp] theorem State.setCore_remote (s : State) (n : Nat) (c : Core) : (s.setCore n c).remote = s.remote := rfl
@[simp] theorem State.setCore_hostLines (s : State) (n : Nat) (c : Core) : (s.setCore n c).hostLines = s.hostLines := rfl
@[simp] theorem State.setCore_hostWrites (s : State) (n : Nat) (c : Core) : (s.setCore n c).hostWrites = s.hostWrites := rfl
@[simp] theorem State.setCore_hostAsked (s : State) (n : Nat) (c : Core) : (s.setCore n c).hostAsked = s.hostAsked := rfl
@[simp] theorem State.setCore_hostCopies (s : State) (n : Nat) (c : Core) : (s.setCore n c).hostCopies = s.hostCopies := rfl
@[simp] theorem State.setCore_hostSnooped (s : State) (n : Nat) (c : Core) : (s.setCore n c).hostSnooped = s.hostSnooped := rfl
@[simp] theorem State.setCore_hostOut (s : State) (n : Nat) (c : Core) : (s.setCore n c).hostOut = s.hostOut := rfl
@[simp] theorem State.setCore_mbArg (s : State) (n : Nat) (c : Core) : (s.setCore n c).mbArg = s.mbArg := rfl
@[simp] theorem State.setCore_mbPending (s : State) (n : Nat) (c : Core) : (s.setCore n c).mbPending = s.mbPending := rfl
@[simp] theorem State.setCore_mbTag (s : State) (n : Nat) (c : Core) : (s.setCore n c).mbTag = s.mbTag := rfl
@[simp] theorem State.setCore_mbResult (s : State) (n : Nat) (c : Core) : (s.setCore n c).mbResult = s.mbResult := rfl
@[simp] theorem State.setCore_daybreaks (s : State) (n : Nat) (c : Core) : (s.setCore n c).daybreaks = s.daybreaks := rfl
@[simp] theorem State.setCore_starts (s : State) (n : Nat) (c : Core) : (s.setCore n c).starts = s.starts := rfl
@[simp] theorem State.setCore_failedStarts (s : State) (n : Nat) (c : Core) : (s.setCore n c).failedStarts = s.failedStarts := rfl
@[simp] theorem State.setCore_reason (s : State) (n : Nat) (c : Core) : (s.setCore n c).reason = s.reason := rfl
@[simp] theorem State.setCore_power (s : State) (n : Nat) (c : Core) : (s.setCore n c).power = s.power := rfl
@[simp] theorem State.setCore_trained (s : State) (n : Nat) (c : Core) : (s.setCore n c).trained = s.trained := rfl
@[simp] theorem State.setCore_errors (s : State) (n : Nat) (c : Core) : (s.setCore n c).errors = s.errors := rfl
@[simp] theorem State.setCore_groups (s : State) (n : Nat) (c : Core) : (s.setCore n c).groups = s.groups := rfl
@[simp] theorem State.setCore_ticketKey (s : State) (n : Nat) (c : Core) : (s.setCore n c).ticketKey = s.ticketKey := rfl
@[simp] theorem State.setCore_tickets (s : State) (n : Nat) (c : Core) : (s.setCore n c).tickets = s.tickets := rfl
@[simp] theorem State.setCore_islands (s : State) (n : Nat) (c : Core) : (s.setCore n c).islands = s.islands := rfl
@[simp] theorem State.setCore_events (s : State) (n : Nat) (c : Core) : (s.setCore n c).events = s.events := rfl
@[simp] theorem State.setDay_agenda (s : State) (n : Nat) (x : Option Ctx) : (s.setDay n x).agenda = s.agenda := rfl
@[simp] theorem State.setDay_cur (s : State) (n : Nat) (x : Option Ctx) : (s.setDay n x).cur = s.cur := rfl
@[simp] theorem State.setDay_tick (s : State) (n : Nat) (x : Option Ctx) : (s.setDay n x).tick = s.tick := rfl
@[simp] theorem State.setDay_nextId (s : State) (n : Nat) (x : Option Ctx) : (s.setDay n x).nextId = s.nextId := rfl
@[simp] theorem State.setDay_mem (s : State) (n : Nat) (x : Option Ctx) : (s.setDay n x).mem = s.mem := rfl
@[simp] theorem State.setDay_poison (s : State) (n : Nat) (x : Option Ctx) : (s.setDay n x).poison = s.poison := rfl
@[simp] theorem State.setDay_parts (s : State) (n : Nat) (x : Option Ctx) : (s.setDay n x).parts = s.parts := rfl
@[simp] theorem State.setDay_clocks (s : State) (n : Nat) (x : Option Ctx) : (s.setDay n x).clocks = s.clocks := rfl
@[simp] theorem State.setDay_lines (s : State) (n : Nat) (x : Option Ctx) : (s.setDay n x).lines = s.lines := rfl
@[simp] theorem State.setDay_copies (s : State) (n : Nat) (x : Option Ctx) : (s.setDay n x).copies = s.copies := rfl
@[simp] theorem State.setDay_viewLines (s : State) (n : Nat) (x : Option Ctx) : (s.setDay n x).viewLines = s.viewLines := rfl
@[simp] theorem State.setDay_releases (s : State) (n : Nat) (x : Option Ctx) : (s.setDay n x).releases = s.releases := rfl
@[simp] theorem State.setDay_inherited (s : State) (n : Nat) (x : Option Ctx) : (s.setDay n x).inherited = s.inherited := rfl
@[simp] theorem State.setDay_updates (s : State) (n : Nat) (x : Option Ctx) : (s.setDay n x).updates = s.updates := rfl
@[simp] theorem State.setDay_gens (s : State) (n : Nat) (x : Option Ctx) : (s.setDay n x).gens = s.gens := rfl
@[simp] theorem State.setDay_ranges (s : State) (n : Nat) (x : Option Ctx) : (s.setDay n x).ranges = s.ranges := rfl
@[simp] theorem State.setDay_frrSel (s : State) (n : Nat) (x : Option Ctx) : (s.setDay n x).frrSel = s.frrSel := rfl
@[simp] theorem State.setDay_held (s : State) (n : Nat) (x : Option Ctx) : (s.setDay n x).held = s.held := rfl
@[simp] theorem State.setDay_dups (s : State) (n : Nat) (x : Option Ctx) : (s.setDay n x).dups = s.dups := rfl
@[simp] theorem State.setDay_hot (s : State) (n : Nat) (x : Option Ctx) : (s.setDay n x).hot = s.hot := rfl
@[simp] theorem State.setDay_kvs (s : State) (n : Nat) (x : Option Ctx) : (s.setDay n x).kvs = s.kvs := rfl
@[simp] theorem State.setDay_reuse (s : State) (n : Nat) (x : Option Ctx) : (s.setDay n x).reuse = s.reuse := rfl
@[simp] theorem State.setDay_stats (s : State) (n : Nat) (x : Option Ctx) : (s.setDay n x).stats = s.stats := rfl
@[simp] theorem State.setDay_roots (s : State) (n : Nat) (x : Option Ctx) : (s.setDay n x).roots = s.roots := rfl
@[simp] theorem State.setDay_rootsNext (s : State) (n : Nat) (x : Option Ctx) : (s.setDay n x).rootsNext = s.rootsNext := rfl
@[simp] theorem State.setDay_atBase (s : State) (n : Nat) (x : Option Ctx) : (s.setDay n x).atBase = s.atBase := rfl
@[simp] theorem State.setDay_keyBase (s : State) (n : Nat) (x : Option Ctx) : (s.setDay n x).keyBase = s.keyBase := rfl
@[simp] theorem State.setDay_time (s : State) (n : Nat) (x : Option Ctx) : (s.setDay n x).time = s.time := rfl
@[simp] theorem State.setDay_hifErr (s : State) (n : Nat) (x : Option Ctx) : (s.setDay n x).hifErr = s.hifErr := rfl
@[simp] theorem State.setDay_pwrLim (s : State) (n : Nat) (x : Option Ctx) : (s.setDay n x).pwrLim = s.pwrLim := rfl
@[simp] theorem State.setDay_pwr (s : State) (n : Nat) (x : Option Ctx) : (s.setDay n x).pwr = s.pwr := rfl
@[simp] theorem State.setDay_drlSel (s : State) (n : Nat) (x : Option Ctx) : (s.setDay n x).drlSel = s.drlSel := rfl
@[simp] theorem State.setDay_device (s : State) (n : Nat) (x : Option Ctx) : (s.setDay n x).device = s.device := rfl
@[simp] theorem State.setDay_ports (s : State) (n : Nat) (x : Option Ctx) : (s.setDay n x).ports = s.ports := rfl
@[simp] theorem State.setDay_apertures (s : State) (n : Nat) (x : Option Ctx) : (s.setDay n x).apertures = s.apertures := rfl
@[simp] theorem State.setDay_remote (s : State) (n : Nat) (x : Option Ctx) : (s.setDay n x).remote = s.remote := rfl
@[simp] theorem State.setDay_hostLines (s : State) (n : Nat) (x : Option Ctx) : (s.setDay n x).hostLines = s.hostLines := rfl
@[simp] theorem State.setDay_hostWrites (s : State) (n : Nat) (x : Option Ctx) : (s.setDay n x).hostWrites = s.hostWrites := rfl
@[simp] theorem State.setDay_hostAsked (s : State) (n : Nat) (x : Option Ctx) : (s.setDay n x).hostAsked = s.hostAsked := rfl
@[simp] theorem State.setDay_hostCopies (s : State) (n : Nat) (x : Option Ctx) : (s.setDay n x).hostCopies = s.hostCopies := rfl
@[simp] theorem State.setDay_hostSnooped (s : State) (n : Nat) (x : Option Ctx) : (s.setDay n x).hostSnooped = s.hostSnooped := rfl
@[simp] theorem State.setDay_hostOut (s : State) (n : Nat) (x : Option Ctx) : (s.setDay n x).hostOut = s.hostOut := rfl
@[simp] theorem State.setDay_mbArg (s : State) (n : Nat) (x : Option Ctx) : (s.setDay n x).mbArg = s.mbArg := rfl
@[simp] theorem State.setDay_mbPending (s : State) (n : Nat) (x : Option Ctx) : (s.setDay n x).mbPending = s.mbPending := rfl
@[simp] theorem State.setDay_mbTag (s : State) (n : Nat) (x : Option Ctx) : (s.setDay n x).mbTag = s.mbTag := rfl
@[simp] theorem State.setDay_mbResult (s : State) (n : Nat) (x : Option Ctx) : (s.setDay n x).mbResult = s.mbResult := rfl
@[simp] theorem State.setDay_daybreaks (s : State) (n : Nat) (x : Option Ctx) : (s.setDay n x).daybreaks = s.daybreaks := rfl
@[simp] theorem State.setDay_starts (s : State) (n : Nat) (x : Option Ctx) : (s.setDay n x).starts = s.starts := rfl
@[simp] theorem State.setDay_failedStarts (s : State) (n : Nat) (x : Option Ctx) : (s.setDay n x).failedStarts = s.failedStarts := rfl
@[simp] theorem State.setDay_reason (s : State) (n : Nat) (x : Option Ctx) : (s.setDay n x).reason = s.reason := rfl
@[simp] theorem State.setDay_power (s : State) (n : Nat) (x : Option Ctx) : (s.setDay n x).power = s.power := rfl
@[simp] theorem State.setDay_trained (s : State) (n : Nat) (x : Option Ctx) : (s.setDay n x).trained = s.trained := rfl
@[simp] theorem State.setDay_errors (s : State) (n : Nat) (x : Option Ctx) : (s.setDay n x).errors = s.errors := rfl
@[simp] theorem State.setDay_groups (s : State) (n : Nat) (x : Option Ctx) : (s.setDay n x).groups = s.groups := rfl
@[simp] theorem State.setDay_ticketKey (s : State) (n : Nat) (x : Option Ctx) : (s.setDay n x).ticketKey = s.ticketKey := rfl
@[simp] theorem State.setDay_tickets (s : State) (n : Nat) (x : Option Ctx) : (s.setDay n x).tickets = s.tickets := rfl
@[simp] theorem State.setDay_islands (s : State) (n : Nat) (x : Option Ctx) : (s.setDay n x).islands = s.islands := rfl
@[simp] theorem State.setDay_events (s : State) (n : Nat) (x : Option Ctx) : (s.setDay n x).events = s.events := rfl
@[simp] theorem State.setNight_agenda (s : State) (n : Nat) (x : Option Ctx) : (s.setNight n x).agenda = s.agenda := rfl
@[simp] theorem State.setNight_cur (s : State) (n : Nat) (x : Option Ctx) : (s.setNight n x).cur = s.cur := rfl
@[simp] theorem State.setNight_tick (s : State) (n : Nat) (x : Option Ctx) : (s.setNight n x).tick = s.tick := rfl
@[simp] theorem State.setNight_nextId (s : State) (n : Nat) (x : Option Ctx) : (s.setNight n x).nextId = s.nextId := rfl
@[simp] theorem State.setNight_mem (s : State) (n : Nat) (x : Option Ctx) : (s.setNight n x).mem = s.mem := rfl
@[simp] theorem State.setNight_poison (s : State) (n : Nat) (x : Option Ctx) : (s.setNight n x).poison = s.poison := rfl
@[simp] theorem State.setNight_parts (s : State) (n : Nat) (x : Option Ctx) : (s.setNight n x).parts = s.parts := rfl
@[simp] theorem State.setNight_clocks (s : State) (n : Nat) (x : Option Ctx) : (s.setNight n x).clocks = s.clocks := rfl
@[simp] theorem State.setNight_lines (s : State) (n : Nat) (x : Option Ctx) : (s.setNight n x).lines = s.lines := rfl
@[simp] theorem State.setNight_copies (s : State) (n : Nat) (x : Option Ctx) : (s.setNight n x).copies = s.copies := rfl
@[simp] theorem State.setNight_viewLines (s : State) (n : Nat) (x : Option Ctx) : (s.setNight n x).viewLines = s.viewLines := rfl
@[simp] theorem State.setNight_releases (s : State) (n : Nat) (x : Option Ctx) : (s.setNight n x).releases = s.releases := rfl
@[simp] theorem State.setNight_inherited (s : State) (n : Nat) (x : Option Ctx) : (s.setNight n x).inherited = s.inherited := rfl
@[simp] theorem State.setNight_updates (s : State) (n : Nat) (x : Option Ctx) : (s.setNight n x).updates = s.updates := rfl
@[simp] theorem State.setNight_gens (s : State) (n : Nat) (x : Option Ctx) : (s.setNight n x).gens = s.gens := rfl
@[simp] theorem State.setNight_ranges (s : State) (n : Nat) (x : Option Ctx) : (s.setNight n x).ranges = s.ranges := rfl
@[simp] theorem State.setNight_frrSel (s : State) (n : Nat) (x : Option Ctx) : (s.setNight n x).frrSel = s.frrSel := rfl
@[simp] theorem State.setNight_held (s : State) (n : Nat) (x : Option Ctx) : (s.setNight n x).held = s.held := rfl
@[simp] theorem State.setNight_dups (s : State) (n : Nat) (x : Option Ctx) : (s.setNight n x).dups = s.dups := rfl
@[simp] theorem State.setNight_hot (s : State) (n : Nat) (x : Option Ctx) : (s.setNight n x).hot = s.hot := rfl
@[simp] theorem State.setNight_kvs (s : State) (n : Nat) (x : Option Ctx) : (s.setNight n x).kvs = s.kvs := rfl
@[simp] theorem State.setNight_reuse (s : State) (n : Nat) (x : Option Ctx) : (s.setNight n x).reuse = s.reuse := rfl
@[simp] theorem State.setNight_stats (s : State) (n : Nat) (x : Option Ctx) : (s.setNight n x).stats = s.stats := rfl
@[simp] theorem State.setNight_roots (s : State) (n : Nat) (x : Option Ctx) : (s.setNight n x).roots = s.roots := rfl
@[simp] theorem State.setNight_rootsNext (s : State) (n : Nat) (x : Option Ctx) : (s.setNight n x).rootsNext = s.rootsNext := rfl
@[simp] theorem State.setNight_atBase (s : State) (n : Nat) (x : Option Ctx) : (s.setNight n x).atBase = s.atBase := rfl
@[simp] theorem State.setNight_keyBase (s : State) (n : Nat) (x : Option Ctx) : (s.setNight n x).keyBase = s.keyBase := rfl
@[simp] theorem State.setNight_time (s : State) (n : Nat) (x : Option Ctx) : (s.setNight n x).time = s.time := rfl
@[simp] theorem State.setNight_hifErr (s : State) (n : Nat) (x : Option Ctx) : (s.setNight n x).hifErr = s.hifErr := rfl
@[simp] theorem State.setNight_pwrLim (s : State) (n : Nat) (x : Option Ctx) : (s.setNight n x).pwrLim = s.pwrLim := rfl
@[simp] theorem State.setNight_pwr (s : State) (n : Nat) (x : Option Ctx) : (s.setNight n x).pwr = s.pwr := rfl
@[simp] theorem State.setNight_drlSel (s : State) (n : Nat) (x : Option Ctx) : (s.setNight n x).drlSel = s.drlSel := rfl
@[simp] theorem State.setNight_device (s : State) (n : Nat) (x : Option Ctx) : (s.setNight n x).device = s.device := rfl
@[simp] theorem State.setNight_ports (s : State) (n : Nat) (x : Option Ctx) : (s.setNight n x).ports = s.ports := rfl
@[simp] theorem State.setNight_apertures (s : State) (n : Nat) (x : Option Ctx) : (s.setNight n x).apertures = s.apertures := rfl
@[simp] theorem State.setNight_remote (s : State) (n : Nat) (x : Option Ctx) : (s.setNight n x).remote = s.remote := rfl
@[simp] theorem State.setNight_hostLines (s : State) (n : Nat) (x : Option Ctx) : (s.setNight n x).hostLines = s.hostLines := rfl
@[simp] theorem State.setNight_hostWrites (s : State) (n : Nat) (x : Option Ctx) : (s.setNight n x).hostWrites = s.hostWrites := rfl
@[simp] theorem State.setNight_hostAsked (s : State) (n : Nat) (x : Option Ctx) : (s.setNight n x).hostAsked = s.hostAsked := rfl
@[simp] theorem State.setNight_hostCopies (s : State) (n : Nat) (x : Option Ctx) : (s.setNight n x).hostCopies = s.hostCopies := rfl
@[simp] theorem State.setNight_hostSnooped (s : State) (n : Nat) (x : Option Ctx) : (s.setNight n x).hostSnooped = s.hostSnooped := rfl
@[simp] theorem State.setNight_hostOut (s : State) (n : Nat) (x : Option Ctx) : (s.setNight n x).hostOut = s.hostOut := rfl
@[simp] theorem State.setNight_mbArg (s : State) (n : Nat) (x : Option Ctx) : (s.setNight n x).mbArg = s.mbArg := rfl
@[simp] theorem State.setNight_mbPending (s : State) (n : Nat) (x : Option Ctx) : (s.setNight n x).mbPending = s.mbPending := rfl
@[simp] theorem State.setNight_mbTag (s : State) (n : Nat) (x : Option Ctx) : (s.setNight n x).mbTag = s.mbTag := rfl
@[simp] theorem State.setNight_mbResult (s : State) (n : Nat) (x : Option Ctx) : (s.setNight n x).mbResult = s.mbResult := rfl
@[simp] theorem State.setNight_daybreaks (s : State) (n : Nat) (x : Option Ctx) : (s.setNight n x).daybreaks = s.daybreaks := rfl
@[simp] theorem State.setNight_starts (s : State) (n : Nat) (x : Option Ctx) : (s.setNight n x).starts = s.starts := rfl
@[simp] theorem State.setNight_failedStarts (s : State) (n : Nat) (x : Option Ctx) : (s.setNight n x).failedStarts = s.failedStarts := rfl
@[simp] theorem State.setNight_reason (s : State) (n : Nat) (x : Option Ctx) : (s.setNight n x).reason = s.reason := rfl
@[simp] theorem State.setNight_power (s : State) (n : Nat) (x : Option Ctx) : (s.setNight n x).power = s.power := rfl
@[simp] theorem State.setNight_trained (s : State) (n : Nat) (x : Option Ctx) : (s.setNight n x).trained = s.trained := rfl
@[simp] theorem State.setNight_errors (s : State) (n : Nat) (x : Option Ctx) : (s.setNight n x).errors = s.errors := rfl
@[simp] theorem State.setNight_groups (s : State) (n : Nat) (x : Option Ctx) : (s.setNight n x).groups = s.groups := rfl
@[simp] theorem State.setNight_ticketKey (s : State) (n : Nat) (x : Option Ctx) : (s.setNight n x).ticketKey = s.ticketKey := rfl
@[simp] theorem State.setNight_tickets (s : State) (n : Nat) (x : Option Ctx) : (s.setNight n x).tickets = s.tickets := rfl
@[simp] theorem State.setNight_islands (s : State) (n : Nat) (x : Option Ctx) : (s.setNight n x).islands = s.islands := rfl
@[simp] theorem State.setNight_events (s : State) (n : Nat) (x : Option Ctx) : (s.setNight n x).events = s.events := rfl
@[simp] theorem State.setCtx_agenda (s : State) (x : Ctx) : (s.setCtx x).agenda = s.agenda := rfl
@[simp] theorem State.setCtx_cur (s : State) (x : Ctx) : (s.setCtx x).cur = s.cur := rfl
@[simp] theorem State.setCtx_tick (s : State) (x : Ctx) : (s.setCtx x).tick = s.tick := rfl
@[simp] theorem State.setCtx_nextId (s : State) (x : Ctx) : (s.setCtx x).nextId = s.nextId := rfl
@[simp] theorem State.setCtx_mem (s : State) (x : Ctx) : (s.setCtx x).mem = s.mem := rfl
@[simp] theorem State.setCtx_poison (s : State) (x : Ctx) : (s.setCtx x).poison = s.poison := rfl
@[simp] theorem State.setCtx_parts (s : State) (x : Ctx) : (s.setCtx x).parts = s.parts := rfl
@[simp] theorem State.setCtx_clocks (s : State) (x : Ctx) : (s.setCtx x).clocks = s.clocks := rfl
@[simp] theorem State.setCtx_lines (s : State) (x : Ctx) : (s.setCtx x).lines = s.lines := rfl
@[simp] theorem State.setCtx_copies (s : State) (x : Ctx) : (s.setCtx x).copies = s.copies := rfl
@[simp] theorem State.setCtx_viewLines (s : State) (x : Ctx) : (s.setCtx x).viewLines = s.viewLines := rfl
@[simp] theorem State.setCtx_releases (s : State) (x : Ctx) : (s.setCtx x).releases = s.releases := rfl
@[simp] theorem State.setCtx_inherited (s : State) (x : Ctx) : (s.setCtx x).inherited = s.inherited := rfl
@[simp] theorem State.setCtx_updates (s : State) (x : Ctx) : (s.setCtx x).updates = s.updates := rfl
@[simp] theorem State.setCtx_gens (s : State) (x : Ctx) : (s.setCtx x).gens = s.gens := rfl
@[simp] theorem State.setCtx_ranges (s : State) (x : Ctx) : (s.setCtx x).ranges = s.ranges := rfl
@[simp] theorem State.setCtx_frrSel (s : State) (x : Ctx) : (s.setCtx x).frrSel = s.frrSel := rfl
@[simp] theorem State.setCtx_held (s : State) (x : Ctx) : (s.setCtx x).held = s.held := rfl
@[simp] theorem State.setCtx_dups (s : State) (x : Ctx) : (s.setCtx x).dups = s.dups := rfl
@[simp] theorem State.setCtx_hot (s : State) (x : Ctx) : (s.setCtx x).hot = s.hot := rfl
@[simp] theorem State.setCtx_kvs (s : State) (x : Ctx) : (s.setCtx x).kvs = s.kvs := rfl
@[simp] theorem State.setCtx_reuse (s : State) (x : Ctx) : (s.setCtx x).reuse = s.reuse := rfl
@[simp] theorem State.setCtx_stats (s : State) (x : Ctx) : (s.setCtx x).stats = s.stats := rfl
@[simp] theorem State.setCtx_roots (s : State) (x : Ctx) : (s.setCtx x).roots = s.roots := rfl
@[simp] theorem State.setCtx_rootsNext (s : State) (x : Ctx) : (s.setCtx x).rootsNext = s.rootsNext := rfl
@[simp] theorem State.setCtx_atBase (s : State) (x : Ctx) : (s.setCtx x).atBase = s.atBase := rfl
@[simp] theorem State.setCtx_keyBase (s : State) (x : Ctx) : (s.setCtx x).keyBase = s.keyBase := rfl
@[simp] theorem State.setCtx_time (s : State) (x : Ctx) : (s.setCtx x).time = s.time := rfl
@[simp] theorem State.setCtx_hifErr (s : State) (x : Ctx) : (s.setCtx x).hifErr = s.hifErr := rfl
@[simp] theorem State.setCtx_pwrLim (s : State) (x : Ctx) : (s.setCtx x).pwrLim = s.pwrLim := rfl
@[simp] theorem State.setCtx_pwr (s : State) (x : Ctx) : (s.setCtx x).pwr = s.pwr := rfl
@[simp] theorem State.setCtx_drlSel (s : State) (x : Ctx) : (s.setCtx x).drlSel = s.drlSel := rfl
@[simp] theorem State.setCtx_device (s : State) (x : Ctx) : (s.setCtx x).device = s.device := rfl
@[simp] theorem State.setCtx_ports (s : State) (x : Ctx) : (s.setCtx x).ports = s.ports := rfl
@[simp] theorem State.setCtx_apertures (s : State) (x : Ctx) : (s.setCtx x).apertures = s.apertures := rfl
@[simp] theorem State.setCtx_remote (s : State) (x : Ctx) : (s.setCtx x).remote = s.remote := rfl
@[simp] theorem State.setCtx_hostLines (s : State) (x : Ctx) : (s.setCtx x).hostLines = s.hostLines := rfl
@[simp] theorem State.setCtx_hostWrites (s : State) (x : Ctx) : (s.setCtx x).hostWrites = s.hostWrites := rfl
@[simp] theorem State.setCtx_hostAsked (s : State) (x : Ctx) : (s.setCtx x).hostAsked = s.hostAsked := rfl
@[simp] theorem State.setCtx_hostCopies (s : State) (x : Ctx) : (s.setCtx x).hostCopies = s.hostCopies := rfl
@[simp] theorem State.setCtx_hostSnooped (s : State) (x : Ctx) : (s.setCtx x).hostSnooped = s.hostSnooped := rfl
@[simp] theorem State.setCtx_hostOut (s : State) (x : Ctx) : (s.setCtx x).hostOut = s.hostOut := rfl
@[simp] theorem State.setCtx_mbArg (s : State) (x : Ctx) : (s.setCtx x).mbArg = s.mbArg := rfl
@[simp] theorem State.setCtx_mbPending (s : State) (x : Ctx) : (s.setCtx x).mbPending = s.mbPending := rfl
@[simp] theorem State.setCtx_mbTag (s : State) (x : Ctx) : (s.setCtx x).mbTag = s.mbTag := rfl
@[simp] theorem State.setCtx_mbResult (s : State) (x : Ctx) : (s.setCtx x).mbResult = s.mbResult := rfl
@[simp] theorem State.setCtx_daybreaks (s : State) (x : Ctx) : (s.setCtx x).daybreaks = s.daybreaks := rfl
@[simp] theorem State.setCtx_starts (s : State) (x : Ctx) : (s.setCtx x).starts = s.starts := rfl
@[simp] theorem State.setCtx_failedStarts (s : State) (x : Ctx) : (s.setCtx x).failedStarts = s.failedStarts := rfl
@[simp] theorem State.setCtx_reason (s : State) (x : Ctx) : (s.setCtx x).reason = s.reason := rfl
@[simp] theorem State.setCtx_power (s : State) (x : Ctx) : (s.setCtx x).power = s.power := rfl
@[simp] theorem State.setCtx_trained (s : State) (x : Ctx) : (s.setCtx x).trained = s.trained := rfl
@[simp] theorem State.setCtx_errors (s : State) (x : Ctx) : (s.setCtx x).errors = s.errors := rfl
@[simp] theorem State.setCtx_groups (s : State) (x : Ctx) : (s.setCtx x).groups = s.groups := rfl
@[simp] theorem State.setCtx_ticketKey (s : State) (x : Ctx) : (s.setCtx x).ticketKey = s.ticketKey := rfl
@[simp] theorem State.setCtx_tickets (s : State) (x : Ctx) : (s.setCtx x).tickets = s.tickets := rfl
@[simp] theorem State.setCtx_islands (s : State) (x : Ctx) : (s.setCtx x).islands = s.islands := rfl
@[simp] theorem State.setCtx_events (s : State) (x : Ctx) : (s.setCtx x).events = s.events := rfl
@[simp] theorem State.setPart_agenda (s : State) (p : Nat) (q : Partition) : (s.setPart p q).agenda = s.agenda := rfl
@[simp] theorem State.setPart_cur (s : State) (p : Nat) (q : Partition) : (s.setPart p q).cur = s.cur := rfl
@[simp] theorem State.setPart_tick (s : State) (p : Nat) (q : Partition) : (s.setPart p q).tick = s.tick := rfl
@[simp] theorem State.setPart_nextId (s : State) (p : Nat) (q : Partition) : (s.setPart p q).nextId = s.nextId := rfl
@[simp] theorem State.setPart_mem (s : State) (p : Nat) (q : Partition) : (s.setPart p q).mem = s.mem := rfl
@[simp] theorem State.setPart_poison (s : State) (p : Nat) (q : Partition) : (s.setPart p q).poison = s.poison := rfl
@[simp] theorem State.setPart_cores (s : State) (p : Nat) (q : Partition) : (s.setPart p q).cores = s.cores := rfl
@[simp] theorem State.setPart_clocks (s : State) (p : Nat) (q : Partition) : (s.setPart p q).clocks = s.clocks := rfl
@[simp] theorem State.setPart_lines (s : State) (p : Nat) (q : Partition) : (s.setPart p q).lines = s.lines := rfl
@[simp] theorem State.setPart_copies (s : State) (p : Nat) (q : Partition) : (s.setPart p q).copies = s.copies := rfl
@[simp] theorem State.setPart_viewLines (s : State) (p : Nat) (q : Partition) : (s.setPart p q).viewLines = s.viewLines := rfl
@[simp] theorem State.setPart_releases (s : State) (p : Nat) (q : Partition) : (s.setPart p q).releases = s.releases := rfl
@[simp] theorem State.setPart_inherited (s : State) (p : Nat) (q : Partition) : (s.setPart p q).inherited = s.inherited := rfl
@[simp] theorem State.setPart_updates (s : State) (p : Nat) (q : Partition) : (s.setPart p q).updates = s.updates := rfl
@[simp] theorem State.setPart_gens (s : State) (p : Nat) (q : Partition) : (s.setPart p q).gens = s.gens := rfl
@[simp] theorem State.setPart_ranges (s : State) (p : Nat) (q : Partition) : (s.setPart p q).ranges = s.ranges := rfl
@[simp] theorem State.setPart_frrSel (s : State) (p : Nat) (q : Partition) : (s.setPart p q).frrSel = s.frrSel := rfl
@[simp] theorem State.setPart_held (s : State) (p : Nat) (q : Partition) : (s.setPart p q).held = s.held := rfl
@[simp] theorem State.setPart_dups (s : State) (p : Nat) (q : Partition) : (s.setPart p q).dups = s.dups := rfl
@[simp] theorem State.setPart_hot (s : State) (p : Nat) (q : Partition) : (s.setPart p q).hot = s.hot := rfl
@[simp] theorem State.setPart_kvs (s : State) (p : Nat) (q : Partition) : (s.setPart p q).kvs = s.kvs := rfl
@[simp] theorem State.setPart_reuse (s : State) (p : Nat) (q : Partition) : (s.setPart p q).reuse = s.reuse := rfl
@[simp] theorem State.setPart_stats (s : State) (p : Nat) (q : Partition) : (s.setPart p q).stats = s.stats := rfl
@[simp] theorem State.setPart_roots (s : State) (p : Nat) (q : Partition) : (s.setPart p q).roots = s.roots := rfl
@[simp] theorem State.setPart_rootsNext (s : State) (p : Nat) (q : Partition) : (s.setPart p q).rootsNext = s.rootsNext := rfl
@[simp] theorem State.setPart_atBase (s : State) (p : Nat) (q : Partition) : (s.setPart p q).atBase = s.atBase := rfl
@[simp] theorem State.setPart_keyBase (s : State) (p : Nat) (q : Partition) : (s.setPart p q).keyBase = s.keyBase := rfl
@[simp] theorem State.setPart_time (s : State) (p : Nat) (q : Partition) : (s.setPart p q).time = s.time := rfl
@[simp] theorem State.setPart_hifErr (s : State) (p : Nat) (q : Partition) : (s.setPart p q).hifErr = s.hifErr := rfl
@[simp] theorem State.setPart_pwrLim (s : State) (p : Nat) (q : Partition) : (s.setPart p q).pwrLim = s.pwrLim := rfl
@[simp] theorem State.setPart_pwr (s : State) (p : Nat) (q : Partition) : (s.setPart p q).pwr = s.pwr := rfl
@[simp] theorem State.setPart_drlSel (s : State) (p : Nat) (q : Partition) : (s.setPart p q).drlSel = s.drlSel := rfl
@[simp] theorem State.setPart_device (s : State) (p : Nat) (q : Partition) : (s.setPart p q).device = s.device := rfl
@[simp] theorem State.setPart_ports (s : State) (p : Nat) (q : Partition) : (s.setPart p q).ports = s.ports := rfl
@[simp] theorem State.setPart_apertures (s : State) (p : Nat) (q : Partition) : (s.setPart p q).apertures = s.apertures := rfl
@[simp] theorem State.setPart_remote (s : State) (p : Nat) (q : Partition) : (s.setPart p q).remote = s.remote := rfl
@[simp] theorem State.setPart_hostLines (s : State) (p : Nat) (q : Partition) : (s.setPart p q).hostLines = s.hostLines := rfl
@[simp] theorem State.setPart_hostWrites (s : State) (p : Nat) (q : Partition) : (s.setPart p q).hostWrites = s.hostWrites := rfl
@[simp] theorem State.setPart_hostAsked (s : State) (p : Nat) (q : Partition) : (s.setPart p q).hostAsked = s.hostAsked := rfl
@[simp] theorem State.setPart_hostCopies (s : State) (p : Nat) (q : Partition) : (s.setPart p q).hostCopies = s.hostCopies := rfl
@[simp] theorem State.setPart_hostSnooped (s : State) (p : Nat) (q : Partition) : (s.setPart p q).hostSnooped = s.hostSnooped := rfl
@[simp] theorem State.setPart_hostOut (s : State) (p : Nat) (q : Partition) : (s.setPart p q).hostOut = s.hostOut := rfl
@[simp] theorem State.setPart_mbArg (s : State) (p : Nat) (q : Partition) : (s.setPart p q).mbArg = s.mbArg := rfl
@[simp] theorem State.setPart_mbPending (s : State) (p : Nat) (q : Partition) : (s.setPart p q).mbPending = s.mbPending := rfl
@[simp] theorem State.setPart_mbTag (s : State) (p : Nat) (q : Partition) : (s.setPart p q).mbTag = s.mbTag := rfl
@[simp] theorem State.setPart_mbResult (s : State) (p : Nat) (q : Partition) : (s.setPart p q).mbResult = s.mbResult := rfl
@[simp] theorem State.setPart_daybreaks (s : State) (p : Nat) (q : Partition) : (s.setPart p q).daybreaks = s.daybreaks := rfl
@[simp] theorem State.setPart_starts (s : State) (p : Nat) (q : Partition) : (s.setPart p q).starts = s.starts := rfl
@[simp] theorem State.setPart_failedStarts (s : State) (p : Nat) (q : Partition) : (s.setPart p q).failedStarts = s.failedStarts := rfl
@[simp] theorem State.setPart_reason (s : State) (p : Nat) (q : Partition) : (s.setPart p q).reason = s.reason := rfl
@[simp] theorem State.setPart_power (s : State) (p : Nat) (q : Partition) : (s.setPart p q).power = s.power := rfl
@[simp] theorem State.setPart_trained (s : State) (p : Nat) (q : Partition) : (s.setPart p q).trained = s.trained := rfl
@[simp] theorem State.setPart_errors (s : State) (p : Nat) (q : Partition) : (s.setPart p q).errors = s.errors := rfl
@[simp] theorem State.setPart_groups (s : State) (p : Nat) (q : Partition) : (s.setPart p q).groups = s.groups := rfl
@[simp] theorem State.setPart_ticketKey (s : State) (p : Nat) (q : Partition) : (s.setPart p q).ticketKey = s.ticketKey := rfl
@[simp] theorem State.setPart_tickets (s : State) (p : Nat) (q : Partition) : (s.setPart p q).tickets = s.tickets := rfl
@[simp] theorem State.setPart_islands (s : State) (p : Nat) (q : Partition) : (s.setPart p q).islands = s.islands := rfl
@[simp] theorem State.setPart_events (s : State) (p : Nat) (q : Partition) : (s.setPart p q).events = s.events := rfl
@[simp] theorem State.consume_agenda (s : State) (ag : Agent) : (s.consume ag).agenda = s.agenda := rfl
@[simp] theorem State.consume_cur (s : State) (ag : Agent) : (s.consume ag).cur = s.cur := rfl
@[simp] theorem State.consume_tick (s : State) (ag : Agent) : (s.consume ag).tick = s.tick := rfl
@[simp] theorem State.consume_nextId (s : State) (ag : Agent) : (s.consume ag).nextId = s.nextId := rfl
@[simp] theorem State.consume_mem (s : State) (ag : Agent) : (s.consume ag).mem = s.mem := rfl
@[simp] theorem State.consume_poison (s : State) (ag : Agent) : (s.consume ag).poison = s.poison := rfl
@[simp] theorem State.consume_cores (s : State) (ag : Agent) : (s.consume ag).cores = s.cores := rfl
@[simp] theorem State.consume_parts (s : State) (ag : Agent) : (s.consume ag).parts = s.parts := rfl
@[simp] theorem State.consume_clocks (s : State) (ag : Agent) : (s.consume ag).clocks = s.clocks := rfl
@[simp] theorem State.consume_lines (s : State) (ag : Agent) : (s.consume ag).lines = s.lines := rfl
@[simp] theorem State.consume_copies (s : State) (ag : Agent) : (s.consume ag).copies = s.copies := rfl
@[simp] theorem State.consume_viewLines (s : State) (ag : Agent) : (s.consume ag).viewLines = s.viewLines := rfl
@[simp] theorem State.consume_releases (s : State) (ag : Agent) : (s.consume ag).releases = s.releases := rfl
@[simp] theorem State.consume_inherited (s : State) (ag : Agent) : (s.consume ag).inherited = s.inherited := rfl
@[simp] theorem State.consume_updates (s : State) (ag : Agent) : (s.consume ag).updates = s.updates := rfl
@[simp] theorem State.consume_gens (s : State) (ag : Agent) : (s.consume ag).gens = s.gens := rfl
@[simp] theorem State.consume_ranges (s : State) (ag : Agent) : (s.consume ag).ranges = s.ranges := rfl
@[simp] theorem State.consume_frrSel (s : State) (ag : Agent) : (s.consume ag).frrSel = s.frrSel := rfl
@[simp] theorem State.consume_held (s : State) (ag : Agent) : (s.consume ag).held = s.held := rfl
@[simp] theorem State.consume_dups (s : State) (ag : Agent) : (s.consume ag).dups = s.dups := rfl
@[simp] theorem State.consume_hot (s : State) (ag : Agent) : (s.consume ag).hot = s.hot := rfl
@[simp] theorem State.consume_kvs (s : State) (ag : Agent) : (s.consume ag).kvs = s.kvs := rfl
@[simp] theorem State.consume_reuse (s : State) (ag : Agent) : (s.consume ag).reuse = s.reuse := rfl
@[simp] theorem State.consume_stats (s : State) (ag : Agent) : (s.consume ag).stats = s.stats := rfl
@[simp] theorem State.consume_roots (s : State) (ag : Agent) : (s.consume ag).roots = s.roots := rfl
@[simp] theorem State.consume_rootsNext (s : State) (ag : Agent) : (s.consume ag).rootsNext = s.rootsNext := rfl
@[simp] theorem State.consume_atBase (s : State) (ag : Agent) : (s.consume ag).atBase = s.atBase := rfl
@[simp] theorem State.consume_keyBase (s : State) (ag : Agent) : (s.consume ag).keyBase = s.keyBase := rfl
@[simp] theorem State.consume_time (s : State) (ag : Agent) : (s.consume ag).time = s.time := rfl
@[simp] theorem State.consume_hifErr (s : State) (ag : Agent) : (s.consume ag).hifErr = s.hifErr := rfl
@[simp] theorem State.consume_pwrLim (s : State) (ag : Agent) : (s.consume ag).pwrLim = s.pwrLim := rfl
@[simp] theorem State.consume_pwr (s : State) (ag : Agent) : (s.consume ag).pwr = s.pwr := rfl
@[simp] theorem State.consume_drlSel (s : State) (ag : Agent) : (s.consume ag).drlSel = s.drlSel := rfl
@[simp] theorem State.consume_device (s : State) (ag : Agent) : (s.consume ag).device = s.device := rfl
@[simp] theorem State.consume_ports (s : State) (ag : Agent) : (s.consume ag).ports = s.ports := rfl
@[simp] theorem State.consume_apertures (s : State) (ag : Agent) : (s.consume ag).apertures = s.apertures := rfl
@[simp] theorem State.consume_hostLines (s : State) (ag : Agent) : (s.consume ag).hostLines = s.hostLines := rfl
@[simp] theorem State.consume_hostWrites (s : State) (ag : Agent) : (s.consume ag).hostWrites = s.hostWrites := rfl
@[simp] theorem State.consume_hostAsked (s : State) (ag : Agent) : (s.consume ag).hostAsked = s.hostAsked := rfl
@[simp] theorem State.consume_hostCopies (s : State) (ag : Agent) : (s.consume ag).hostCopies = s.hostCopies := rfl
@[simp] theorem State.consume_hostSnooped (s : State) (ag : Agent) : (s.consume ag).hostSnooped = s.hostSnooped := rfl
@[simp] theorem State.consume_hostOut (s : State) (ag : Agent) : (s.consume ag).hostOut = s.hostOut := rfl
@[simp] theorem State.consume_mbArg (s : State) (ag : Agent) : (s.consume ag).mbArg = s.mbArg := rfl
@[simp] theorem State.consume_mbPending (s : State) (ag : Agent) : (s.consume ag).mbPending = s.mbPending := rfl
@[simp] theorem State.consume_mbTag (s : State) (ag : Agent) : (s.consume ag).mbTag = s.mbTag := rfl
@[simp] theorem State.consume_mbResult (s : State) (ag : Agent) : (s.consume ag).mbResult = s.mbResult := rfl
@[simp] theorem State.consume_daybreaks (s : State) (ag : Agent) : (s.consume ag).daybreaks = s.daybreaks := rfl
@[simp] theorem State.consume_starts (s : State) (ag : Agent) : (s.consume ag).starts = s.starts := rfl
@[simp] theorem State.consume_failedStarts (s : State) (ag : Agent) : (s.consume ag).failedStarts = s.failedStarts := rfl
@[simp] theorem State.consume_reason (s : State) (ag : Agent) : (s.consume ag).reason = s.reason := rfl
@[simp] theorem State.consume_power (s : State) (ag : Agent) : (s.consume ag).power = s.power := rfl
@[simp] theorem State.consume_trained (s : State) (ag : Agent) : (s.consume ag).trained = s.trained := rfl
@[simp] theorem State.consume_errors (s : State) (ag : Agent) : (s.consume ag).errors = s.errors := rfl
@[simp] theorem State.consume_groups (s : State) (ag : Agent) : (s.consume ag).groups = s.groups := rfl
@[simp] theorem State.consume_ticketKey (s : State) (ag : Agent) : (s.consume ag).ticketKey = s.ticketKey := rfl
@[simp] theorem State.consume_tickets (s : State) (ag : Agent) : (s.consume ag).tickets = s.tickets := rfl
@[simp] theorem State.consume_islands (s : State) (ag : Agent) : (s.consume ag).islands = s.islands := rfl
@[simp] theorem State.consume_events (s : State) (ag : Agent) : (s.consume ag).events = s.events := rfl
@[simp] theorem Ctx.setG_id (x : Ctx) (r : Reg) (v : Word) : (x.setG r v).id = x.id := by unfold Ctx.setG; split <;> rfl
@[simp] theorem Ctx.setP_id (x : Ctx) (i : Pred) (b : Bool) : (x.setP i b).id = x.id := by unfold Ctx.setP; split <;> rfl
@[simp] theorem Ctx.loopStep_id (x : Ctx) : x.loopStep.id = x.id := by
  unfold Ctx.loopStep; dsimp only; repeat (first | rfl | split)
@[simp] theorem Ctx.complete_id (x : Ctx) (w : Flow) : (x.complete w).id = x.id := by
  unfold Ctx.complete; cases w <;> simp
@[simp] theorem Ctx.setG_code (x : Ctx) (r : Reg) (v : Word) : (x.setG r v).code = x.code := by unfold Ctx.setG; split <;> rfl
@[simp] theorem Ctx.setP_code (x : Ctx) (i : Pred) (b : Bool) : (x.setP i b).code = x.code := by unfold Ctx.setP; split <;> rfl
@[simp] theorem Ctx.loopStep_code (x : Ctx) : x.loopStep.code = x.code := by
  unfold Ctx.loopStep; dsimp only; repeat (first | rfl | split)
@[simp] theorem Ctx.complete_code (x : Ctx) (w : Flow) : (x.complete w).code = x.code := by
  unfold Ctx.complete; cases w <;> simp
@[simp] theorem Ctx.setG_patched (x : Ctx) (r : Reg) (v : Word) : (x.setG r v).patched = x.patched := by unfold Ctx.setG; split <;> rfl
@[simp] theorem Ctx.setP_patched (x : Ctx) (i : Pred) (b : Bool) : (x.setP i b).patched = x.patched := by unfold Ctx.setP; split <;> rfl
@[simp] theorem Ctx.loopStep_patched (x : Ctx) : x.loopStep.patched = x.patched := by
  unfold Ctx.loopStep; dsimp only; repeat (first | rfl | split)
@[simp] theorem Ctx.complete_patched (x : Ctx) (w : Flow) : (x.complete w).patched = x.patched := by
  unfold Ctx.complete; cases w <;> simp
@[simp] theorem Ctx.setG_codeLines (x : Ctx) (r : Reg) (v : Word) : (x.setG r v).codeLines = x.codeLines := by unfold Ctx.setG; split <;> rfl
@[simp] theorem Ctx.setP_codeLines (x : Ctx) (i : Pred) (b : Bool) : (x.setP i b).codeLines = x.codeLines := by unfold Ctx.setP; split <;> rfl
@[simp] theorem Ctx.loopStep_codeLines (x : Ctx) : x.loopStep.codeLines = x.codeLines := by
  unfold Ctx.loopStep; dsimp only; repeat (first | rfl | split)
@[simp] theorem Ctx.complete_codeLines (x : Ctx) (w : Flow) : (x.complete w).codeLines = x.codeLines := by
  unfold Ctx.complete; cases w <;> simp
@[simp] theorem Ctx.setG_asid (x : Ctx) (r : Reg) (v : Word) : (x.setG r v).asid = x.asid := by unfold Ctx.setG; split <;> rfl
@[simp] theorem Ctx.setP_asid (x : Ctx) (i : Pred) (b : Bool) : (x.setP i b).asid = x.asid := by unfold Ctx.setP; split <;> rfl
@[simp] theorem Ctx.loopStep_asid (x : Ctx) : x.loopStep.asid = x.asid := by
  unfold Ctx.loopStep; dsimp only; repeat (first | rfl | split)
@[simp] theorem Ctx.complete_asid (x : Ctx) (w : Flow) : (x.complete w).asid = x.asid := by
  unfold Ctx.complete; cases w <;> simp
@[simp] theorem Ctx.setG_part (x : Ctx) (r : Reg) (v : Word) : (x.setG r v).part = x.part := by unfold Ctx.setG; split <;> rfl
@[simp] theorem Ctx.setP_part (x : Ctx) (i : Pred) (b : Bool) : (x.setP i b).part = x.part := by unfold Ctx.setP; split <;> rfl
@[simp] theorem Ctx.loopStep_part (x : Ctx) : x.loopStep.part = x.part := by
  unfold Ctx.loopStep; dsimp only; repeat (first | rfl | split)
@[simp] theorem Ctx.complete_part (x : Ctx) (w : Flow) : (x.complete w).part = x.part := by
  unfold Ctx.complete; cases w <;> simp
@[simp] theorem Ctx.setG_sup (x : Ctx) (r : Reg) (v : Word) : (x.setG r v).sup = x.sup := by unfold Ctx.setG; split <;> rfl
@[simp] theorem Ctx.setP_sup (x : Ctx) (i : Pred) (b : Bool) : (x.setP i b).sup = x.sup := by unfold Ctx.setP; split <;> rfl
@[simp] theorem Ctx.loopStep_sup (x : Ctx) : x.loopStep.sup = x.sup := by
  unfold Ctx.loopStep; dsimp only; repeat (first | rfl | split)
@[simp] theorem Ctx.complete_sup (x : Ctx) (w : Flow) : (x.complete w).sup = x.sup := by
  unfold Ctx.complete; cases w <;> simp
@[simp] theorem Ctx.setP_regs (x : Ctx) (i : Pred) (b : Bool) : (x.setP i b).regs = x.regs := by unfold Ctx.setP; split <;> rfl
@[simp] theorem Ctx.loopStep_regs (x : Ctx) : x.loopStep.regs = x.regs := by
  unfold Ctx.loopStep; dsimp only; repeat (first | rfl | split)
@[simp] theorem Ctx.complete_regs (x : Ctx) (w : Flow) : (x.complete w).regs = x.regs := by
  unfold Ctx.complete; cases w <;> simp
@[simp] theorem Ctx.setG_preds (x : Ctx) (r : Reg) (v : Word) : (x.setG r v).preds = x.preds := by unfold Ctx.setG; split <;> rfl
@[simp] theorem Ctx.loopStep_preds (x : Ctx) : x.loopStep.preds = x.preds := by
  unfold Ctx.loopStep; dsimp only; repeat (first | rfl | split)
@[simp] theorem Ctx.complete_preds (x : Ctx) (w : Flow) : (x.complete w).preds = x.preds := by
  unfold Ctx.complete; cases w <;> simp
@[simp] theorem Ctx.setG_pc (x : Ctx) (r : Reg) (v : Word) : (x.setG r v).pc = x.pc := by unfold Ctx.setG; split <;> rfl
@[simp] theorem Ctx.setP_pc (x : Ctx) (i : Pred) (b : Bool) : (x.setP i b).pc = x.pc := by unfold Ctx.setP; split <;> rfl
@[simp] theorem Ctx.setG_loop0 (x : Ctx) (r : Reg) (v : Word) : (x.setG r v).loop0 = x.loop0 := by unfold Ctx.setG; split <;> rfl
@[simp] theorem Ctx.setP_loop0 (x : Ctx) (i : Pred) (b : Bool) : (x.setP i b).loop0 = x.loop0 := by unfold Ctx.setP; split <;> rfl
@[simp] theorem Ctx.setG_loop1 (x : Ctx) (r : Reg) (v : Word) : (x.setG r v).loop1 = x.loop1 := by unfold Ctx.setG; split <;> rfl
@[simp] theorem Ctx.setP_loop1 (x : Ctx) (i : Pred) (b : Bool) : (x.setP i b).loop1 = x.loop1 := by unfold Ctx.setP; split <;> rfl
@[simp] theorem Ctx.setG_th (x : Ctx) (r : Reg) (v : Word) : (x.setG r v).th = x.th := by unfold Ctx.setG; split <;> rfl
@[simp] theorem Ctx.setP_th (x : Ctx) (i : Pred) (b : Bool) : (x.setP i b).th = x.th := by unfold Ctx.setP; split <;> rfl
@[simp] theorem Ctx.loopStep_th (x : Ctx) : x.loopStep.th = x.th := by
  unfold Ctx.loopStep; dsimp only; repeat (first | rfl | split)
@[simp] theorem Ctx.complete_th (x : Ctx) (w : Flow) : (x.complete w).th = x.th := by
  unfold Ctx.complete; cases w <;> simp
@[simp] theorem Ctx.setG_sh (x : Ctx) (r : Reg) (v : Word) : (x.setG r v).sh = x.sh := by unfold Ctx.setG; split <;> rfl
@[simp] theorem Ctx.setP_sh (x : Ctx) (i : Pred) (b : Bool) : (x.setP i b).sh = x.sh := by unfold Ctx.setP; split <;> rfl
@[simp] theorem Ctx.loopStep_sh (x : Ctx) : x.loopStep.sh = x.sh := by
  unfold Ctx.loopStep; dsimp only; repeat (first | rfl | split)
@[simp] theorem Ctx.complete_sh (x : Ctx) (w : Flow) : (x.complete w).sh = x.sh := by
  unfold Ctx.complete; cases w <;> simp
@[simp] theorem Ctx.setG_ev (x : Ctx) (r : Reg) (v : Word) : (x.setG r v).ev = x.ev := by unfold Ctx.setG; split <;> rfl
@[simp] theorem Ctx.setP_ev (x : Ctx) (i : Pred) (b : Bool) : (x.setP i b).ev = x.ev := by unfold Ctx.setP; split <;> rfl
@[simp] theorem Ctx.loopStep_ev (x : Ctx) : x.loopStep.ev = x.ev := by
  unfold Ctx.loopStep; dsimp only; repeat (first | rfl | split)
@[simp] theorem Ctx.complete_ev (x : Ctx) (w : Flow) : (x.complete w).ev = x.ev := by
  unfold Ctx.complete; cases w <;> simp
@[simp] theorem Ctx.setG_cycle (x : Ctx) (r : Reg) (v : Word) : (x.setG r v).cycle = x.cycle := by unfold Ctx.setG; split <;> rfl
@[simp] theorem Ctx.setP_cycle (x : Ctx) (i : Pred) (b : Bool) : (x.setP i b).cycle = x.cycle := by unfold Ctx.setP; split <;> rfl
@[simp] theorem Ctx.loopStep_cycle (x : Ctx) : x.loopStep.cycle = x.cycle := by
  unfold Ctx.loopStep; dsimp only; repeat (first | rfl | split)
@[simp] theorem Ctx.complete_cycle (x : Ctx) (w : Flow) : (x.complete w).cycle = x.cycle := by
  unfold Ctx.complete; cases w <;> simp
@[simp] theorem Ctx.setG_issued (x : Ctx) (r : Reg) (v : Word) : (x.setG r v).issued = x.issued := by unfold Ctx.setG; split <;> rfl
@[simp] theorem Ctx.setP_issued (x : Ctx) (i : Pred) (b : Bool) : (x.setP i b).issued = x.issued := by unfold Ctx.setP; split <;> rfl
@[simp] theorem Ctx.setG_thv (x : Ctx) (r : Reg) (v : Word) : (x.setG r v).thv = x.thv := by unfold Ctx.setG; split <;> rfl
@[simp] theorem Ctx.setP_thv (x : Ctx) (i : Pred) (b : Bool) : (x.setP i b).thv = x.thv := by unfold Ctx.setP; split <;> rfl
@[simp] theorem Ctx.loopStep_thv (x : Ctx) : x.loopStep.thv = x.thv := by
  unfold Ctx.loopStep; dsimp only; repeat (first | rfl | split)
@[simp] theorem Ctx.complete_thv (x : Ctx) (w : Flow) : (x.complete w).thv = x.thv := by
  unfold Ctx.complete; cases w <;> simp
@[simp] theorem Ctx.setG_tepc (x : Ctx) (r : Reg) (v : Word) : (x.setG r v).tepc = x.tepc := by unfold Ctx.setG; split <;> rfl
@[simp] theorem Ctx.setP_tepc (x : Ctx) (i : Pred) (b : Bool) : (x.setP i b).tepc = x.tepc := by unfold Ctx.setP; split <;> rfl
@[simp] theorem Ctx.loopStep_tepc (x : Ctx) : x.loopStep.tepc = x.tepc := by
  unfold Ctx.loopStep; dsimp only; repeat (first | rfl | split)
@[simp] theorem Ctx.complete_tepc (x : Ctx) (w : Flow) : (x.complete w).tepc = x.tepc := by
  unfold Ctx.complete; cases w <;> simp
@[simp] theorem Ctx.setG_tcause (x : Ctx) (r : Reg) (v : Word) : (x.setG r v).tcause = x.tcause := by unfold Ctx.setG; split <;> rfl
@[simp] theorem Ctx.setP_tcause (x : Ctx) (i : Pred) (b : Bool) : (x.setP i b).tcause = x.tcause := by unfold Ctx.setP; split <;> rfl
@[simp] theorem Ctx.loopStep_tcause (x : Ctx) : x.loopStep.tcause = x.tcause := by
  unfold Ctx.loopStep; dsimp only; repeat (first | rfl | split)
@[simp] theorem Ctx.complete_tcause (x : Ctx) (w : Flow) : (x.complete w).tcause = x.tcause := by
  unfold Ctx.complete; cases w <;> simp
@[simp] theorem Ctx.setG_tval (x : Ctx) (r : Reg) (v : Word) : (x.setG r v).tval = x.tval := by unfold Ctx.setG; split <;> rfl
@[simp] theorem Ctx.setP_tval (x : Ctx) (i : Pred) (b : Bool) : (x.setP i b).tval = x.tval := by unfold Ctx.setP; split <;> rfl
@[simp] theorem Ctx.loopStep_tval (x : Ctx) : x.loopStep.tval = x.tval := by
  unfold Ctx.loopStep; dsimp only; repeat (first | rfl | split)
@[simp] theorem Ctx.complete_tval (x : Ctx) (w : Flow) : (x.complete w).tval = x.tval := by
  unfold Ctx.complete; cases w <;> simp
@[simp] theorem Ctx.setG_svec (x : Ctx) (r : Reg) (v : Word) : (x.setG r v).svec = x.svec := by unfold Ctx.setG; split <;> rfl
@[simp] theorem Ctx.setP_svec (x : Ctx) (i : Pred) (b : Bool) : (x.setP i b).svec = x.svec := by unfold Ctx.setP; split <;> rfl
@[simp] theorem Ctx.loopStep_svec (x : Ctx) : x.loopStep.svec = x.svec := by
  unfold Ctx.loopStep; dsimp only; repeat (first | rfl | split)
@[simp] theorem Ctx.complete_svec (x : Ctx) (w : Flow) : (x.complete w).svec = x.svec := by
  unfold Ctx.complete; cases w <;> simp
@[simp] theorem Ctx.setG_epc (x : Ctx) (r : Reg) (v : Word) : (x.setG r v).epc = x.epc := by unfold Ctx.setG; split <;> rfl
@[simp] theorem Ctx.setP_epc (x : Ctx) (i : Pred) (b : Bool) : (x.setP i b).epc = x.epc := by unfold Ctx.setP; split <;> rfl
@[simp] theorem Ctx.loopStep_epc (x : Ctx) : x.loopStep.epc = x.epc := by
  unfold Ctx.loopStep; dsimp only; repeat (first | rfl | split)
@[simp] theorem Ctx.complete_epc (x : Ctx) (w : Flow) : (x.complete w).epc = x.epc := by
  unfold Ctx.complete; cases w <;> simp
@[simp] theorem Ctx.setG_cause (x : Ctx) (r : Reg) (v : Word) : (x.setG r v).cause = x.cause := by unfold Ctx.setG; split <;> rfl
@[simp] theorem Ctx.setP_cause (x : Ctx) (i : Pred) (b : Bool) : (x.setP i b).cause = x.cause := by unfold Ctx.setP; split <;> rfl
@[simp] theorem Ctx.loopStep_cause (x : Ctx) : x.loopStep.cause = x.cause := by
  unfold Ctx.loopStep; dsimp only; repeat (first | rfl | split)
@[simp] theorem Ctx.complete_cause (x : Ctx) (w : Flow) : (x.complete w).cause = x.cause := by
  unfold Ctx.complete; cases w <;> simp
@[simp] theorem Ctx.setG_stval (x : Ctx) (r : Reg) (v : Word) : (x.setG r v).stval = x.stval := by unfold Ctx.setG; split <;> rfl
@[simp] theorem Ctx.setP_stval (x : Ctx) (i : Pred) (b : Bool) : (x.setP i b).stval = x.stval := by unfold Ctx.setP; split <;> rfl
@[simp] theorem Ctx.loopStep_stval (x : Ctx) : x.loopStep.stval = x.stval := by
  unfold Ctx.loopStep; dsimp only; repeat (first | rfl | split)
@[simp] theorem Ctx.complete_stval (x : Ctx) (w : Flow) : (x.complete w).stval = x.stval := by
  unfold Ctx.complete; cases w <;> simp
@[simp] theorem Ctx.setG_sword (x : Ctx) (r : Reg) (v : Word) : (x.setG r v).sword = x.sword := by unfold Ctx.setG; split <;> rfl
@[simp] theorem Ctx.setP_sword (x : Ctx) (i : Pred) (b : Bool) : (x.setP i b).sword = x.sword := by unfold Ctx.setP; split <;> rfl
@[simp] theorem Ctx.loopStep_sword (x : Ctx) : x.loopStep.sword = x.sword := by
  unfold Ctx.loopStep; dsimp only; repeat (first | rfl | split)
@[simp] theorem Ctx.complete_sword (x : Ctx) (w : Flow) : (x.complete w).sword = x.sword := by
  unfold Ctx.complete; cases w <;> simp
@[simp] theorem Ctx.setG_sscr (x : Ctx) (r : Reg) (v : Word) : (x.setG r v).sscr = x.sscr := by unfold Ctx.setG; split <;> rfl
@[simp] theorem Ctx.setP_sscr (x : Ctx) (i : Pred) (b : Bool) : (x.setP i b).sscr = x.sscr := by unfold Ctx.setP; split <;> rfl
@[simp] theorem Ctx.loopStep_sscr (x : Ctx) : x.loopStep.sscr = x.sscr := by
  unfold Ctx.loopStep; dsimp only; repeat (first | rfl | split)
@[simp] theorem Ctx.complete_sscr (x : Ctx) (w : Flow) : (x.complete w).sscr = x.sscr := by
  unfold Ctx.complete; cases w <;> simp
@[simp] theorem Ctx.setG_fr (x : Ctx) (r : Reg) (v : Word) : (x.setG r v).fr = x.fr := by unfold Ctx.setG; split <;> rfl
@[simp] theorem Ctx.setP_fr (x : Ctx) (i : Pred) (b : Bool) : (x.setP i b).fr = x.fr := by unfold Ctx.setP; split <;> rfl
@[simp] theorem Ctx.loopStep_fr (x : Ctx) : x.loopStep.fr = x.fr := by
  unfold Ctx.loopStep; dsimp only; repeat (first | rfl | split)
@[simp] theorem Ctx.complete_fr (x : Ctx) (w : Flow) : (x.complete w).fr = x.fr := by
  unfold Ctx.complete; cases w <;> simp
@[simp] theorem Ctx.setG_halted (x : Ctx) (r : Reg) (v : Word) : (x.setG r v).halted = x.halted := by unfold Ctx.setG; split <;> rfl
@[simp] theorem Ctx.setP_halted (x : Ctx) (i : Pred) (b : Bool) : (x.setP i b).halted = x.halted := by unfold Ctx.setP; split <;> rfl
@[simp] theorem Ctx.loopStep_halted (x : Ctx) : x.loopStep.halted = x.halted := by
  unfold Ctx.loopStep; dsimp only; repeat (first | rfl | split)
@[simp] theorem Ctx.complete_halted (x : Ctx) (w : Flow) : (x.complete w).halted = x.halted := by
  unfold Ctx.complete; cases w <;> simp
@[simp] theorem Ctx.setG_cond (x : Ctx) (r : Reg) (v : Word) : (x.setG r v).cond = x.cond := by unfold Ctx.setG; split <;> rfl
@[simp] theorem Ctx.setP_cond (x : Ctx) (i : Pred) (b : Bool) : (x.setP i b).cond = x.cond := by unfold Ctx.setP; split <;> rfl
@[simp] theorem Ctx.loopStep_cond (x : Ctx) : x.loopStep.cond = x.cond := by
  unfold Ctx.loopStep; dsimp only; repeat (first | rfl | split)
@[simp] theorem Ctx.complete_cond (x : Ctx) (w : Flow) : (x.complete w).cond = x.cond := by
  unfold Ctx.complete; cases w <;> simp
@[simp] theorem Ctx.setG_wait (x : Ctx) (r : Reg) (v : Word) : (x.setG r v).wait = x.wait := by unfold Ctx.setG; split <;> rfl
@[simp] theorem Ctx.setP_wait (x : Ctx) (i : Pred) (b : Bool) : (x.setP i b).wait = x.wait := by unfold Ctx.setP; split <;> rfl
@[simp] theorem Ctx.setG_traps (x : Ctx) (r : Reg) (v : Word) : (x.setG r v).traps = x.traps := by unfold Ctx.setG; split <;> rfl
@[simp] theorem Ctx.setP_traps (x : Ctx) (i : Pred) (b : Bool) : (x.setP i b).traps = x.traps := by unfold Ctx.setP; split <;> rfl
@[simp] theorem Ctx.loopStep_traps (x : Ctx) : x.loopStep.traps = x.traps := by
  unfold Ctx.loopStep; dsimp only; repeat (first | rfl | split)
@[simp] theorem Ctx.complete_traps (x : Ctx) (w : Flow) : (x.complete w).traps = x.traps := by
  unfold Ctx.complete; cases w <;> simp
@[simp] theorem Ctx.setG_rngKey (x : Ctx) (r : Reg) (v : Word) : (x.setG r v).rngKey = x.rngKey := by unfold Ctx.setG; split <;> rfl
@[simp] theorem Ctx.setP_rngKey (x : Ctx) (i : Pred) (b : Bool) : (x.setP i b).rngKey = x.rngKey := by unfold Ctx.setP; split <;> rfl
@[simp] theorem Ctx.loopStep_rngKey (x : Ctx) : x.loopStep.rngKey = x.rngKey := by
  unfold Ctx.loopStep; dsimp only; repeat (first | rfl | split)
@[simp] theorem Ctx.complete_rngKey (x : Ctx) (w : Flow) : (x.complete w).rngKey = x.rngKey := by
  unfold Ctx.complete; cases w <;> simp
@[simp] theorem Ctx.setG_rngCtr (x : Ctx) (r : Reg) (v : Word) : (x.setG r v).rngCtr = x.rngCtr := by unfold Ctx.setG; split <;> rfl
@[simp] theorem Ctx.setP_rngCtr (x : Ctx) (i : Pred) (b : Bool) : (x.setP i b).rngCtr = x.rngCtr := by unfold Ctx.setP; split <;> rfl
@[simp] theorem Ctx.loopStep_rngCtr (x : Ctx) : x.loopStep.rngCtr = x.rngCtr := by
  unfold Ctx.loopStep; dsimp only; repeat (first | rfl | split)
@[simp] theorem Ctx.complete_rngCtr (x : Ctx) (w : Flow) : (x.complete w).rngCtr = x.rngCtr := by
  unfold Ctx.complete; cases w <;> simp
@[simp] theorem Ctx.setG_att (x : Ctx) (r : Reg) (v : Word) : (x.setG r v).att = x.att := by unfold Ctx.setG; split <;> rfl
@[simp] theorem Ctx.setP_att (x : Ctx) (i : Pred) (b : Bool) : (x.setP i b).att = x.att := by unfold Ctx.setP; split <;> rfl
@[simp] theorem Ctx.loopStep_att (x : Ctx) : x.loopStep.att = x.att := by
  unfold Ctx.loopStep; dsimp only; repeat (first | rfl | split)
@[simp] theorem Ctx.complete_att (x : Ctx) (w : Flow) : (x.complete w).att = x.att := by
  unfold Ctx.complete; cases w <;> simp
@[simp] theorem Ctx.setG_bindings (x : Ctx) (r : Reg) (v : Word) : (x.setG r v).bindings = x.bindings := by unfold Ctx.setG; split <;> rfl
@[simp] theorem Ctx.setP_bindings (x : Ctx) (i : Pred) (b : Bool) : (x.setP i b).bindings = x.bindings := by unfold Ctx.setP; split <;> rfl
@[simp] theorem Ctx.loopStep_bindings (x : Ctx) : x.loopStep.bindings = x.bindings := by
  unfold Ctx.loopStep; dsimp only; repeat (first | rfl | split)
@[simp] theorem Ctx.complete_bindings (x : Ctx) (w : Flow) : (x.complete w).bindings = x.bindings := by
  unfold Ctx.complete; cases w <;> simp
@[simp] theorem Ctx.setG_lkc (x : Ctx) (r : Reg) (v : Word) : (x.setG r v).lkc = x.lkc := by unfold Ctx.setG; split <;> rfl
@[simp] theorem Ctx.setP_lkc (x : Ctx) (i : Pred) (b : Bool) : (x.setP i b).lkc = x.lkc := by unfold Ctx.setP; split <;> rfl
@[simp] theorem Ctx.loopStep_lkc (x : Ctx) : x.loopStep.lkc = x.lkc := by
  unfold Ctx.loopStep; dsimp only; repeat (first | rfl | split)
@[simp] theorem Ctx.complete_lkc (x : Ctx) (w : Flow) : (x.complete w).lkc = x.lkc := by
  unfold Ctx.complete; cases w <;> simp
@[simp] theorem Ctx.setG_runs (x : Ctx) (r : Reg) (v : Word) : (x.setG r v).runs = x.runs := by unfold Ctx.setG; split <;> rfl
@[simp] theorem Ctx.setP_runs (x : Ctx) (i : Pred) (b : Bool) : (x.setP i b).runs = x.runs := by unfold Ctx.setP; split <;> rfl
@[simp] theorem Ctx.loopStep_runs (x : Ctx) : x.loopStep.runs = x.runs := by
  unfold Ctx.loopStep; dsimp only; repeat (first | rfl | split)
@[simp] theorem Ctx.complete_runs (x : Ctx) (w : Flow) : (x.complete w).runs = x.runs := by
  unfold Ctx.complete; cases w <;> simp
@[simp] theorem Ctx.setG_lcSel (x : Ctx) (r : Reg) (v : Word) : (x.setG r v).lcSel = x.lcSel := by unfold Ctx.setG; split <;> rfl
@[simp] theorem Ctx.setP_lcSel (x : Ctx) (i : Pred) (b : Bool) : (x.setP i b).lcSel = x.lcSel := by unfold Ctx.setP; split <;> rfl
@[simp] theorem Ctx.loopStep_lcSel (x : Ctx) : x.loopStep.lcSel = x.lcSel := by
  unfold Ctx.loopStep; dsimp only; repeat (first | rfl | split)
@[simp] theorem Ctx.complete_lcSel (x : Ctx) (w : Flow) : (x.complete w).lcSel = x.lcSel := by
  unfold Ctx.complete; cases w <;> simp
@[simp] theorem Ctx.setG_lcSlots (x : Ctx) (r : Reg) (v : Word) : (x.setG r v).lcSlots = x.lcSlots := by unfold Ctx.setG; split <;> rfl
@[simp] theorem Ctx.setP_lcSlots (x : Ctx) (i : Pred) (b : Bool) : (x.setP i b).lcSlots = x.lcSlots := by unfold Ctx.setP; split <;> rfl
@[simp] theorem Ctx.loopStep_lcSlots (x : Ctx) : x.loopStep.lcSlots = x.lcSlots := by
  unfold Ctx.loopStep; dsimp only; repeat (first | rfl | split)
@[simp] theorem Ctx.complete_lcSlots (x : Ctx) (w : Flow) : (x.complete w).lcSlots = x.lcSlots := by
  unfold Ctx.complete; cases w <;> simp
@[simp] theorem Ctx.setG_plane (x : Ctx) (r : Reg) (v : Word) : (x.setG r v).plane = x.plane := by unfold Ctx.setG; split <;> rfl
@[simp] theorem Ctx.setP_plane (x : Ctx) (i : Pred) (b : Bool) : (x.setP i b).plane = x.plane := by unfold Ctx.setP; split <;> rfl
@[simp] theorem Ctx.loopStep_plane (x : Ctx) : x.loopStep.plane = x.plane := by
  unfold Ctx.loopStep; dsimp only; repeat (first | rfl | split)
@[simp] theorem Ctx.complete_plane (x : Ctx) (w : Flow) : (x.complete w).plane = x.plane := by
  unfold Ctx.complete; cases w <;> simp
@[simp] theorem Ctx.setG_node (x : Ctx) (r : Reg) (v : Word) : (x.setG r v).node = x.node := by unfold Ctx.setG; split <;> rfl
@[simp] theorem Ctx.setP_node (x : Ctx) (i : Pred) (b : Bool) : (x.setP i b).node = x.node := by unfold Ctx.setP; split <;> rfl
@[simp] theorem Ctx.loopStep_node (x : Ctx) : x.loopStep.node = x.node := by
  unfold Ctx.loopStep; dsimp only; repeat (first | rfl | split)
@[simp] theorem Ctx.complete_node (x : Ctx) (w : Flow) : (x.complete w).node = x.node := by
  unfold Ctx.complete; cases w <;> simp
@[simp] theorem Ctx.setG_rslot (x : Ctx) (r : Reg) (v : Word) : (x.setG r v).rslot = x.rslot := by unfold Ctx.setG; split <;> rfl
@[simp] theorem Ctx.setP_rslot (x : Ctx) (i : Pred) (b : Bool) : (x.setP i b).rslot = x.rslot := by unfold Ctx.setP; split <;> rfl
@[simp] theorem Ctx.loopStep_rslot (x : Ctx) : x.loopStep.rslot = x.rslot := by
  unfold Ctx.loopStep; dsimp only; repeat (first | rfl | split)
@[simp] theorem Ctx.complete_rslot (x : Ctx) (w : Flow) : (x.complete w).rslot = x.rslot := by
  unfold Ctx.complete; cases w <;> simp
@[simp] theorem Ctx.setG_prio (x : Ctx) (r : Reg) (v : Word) : (x.setG r v).prio = x.prio := by unfold Ctx.setG; split <;> rfl
@[simp] theorem Ctx.setP_prio (x : Ctx) (i : Pred) (b : Bool) : (x.setP i b).prio = x.prio := by unfold Ctx.setP; split <;> rfl
@[simp] theorem Ctx.loopStep_prio (x : Ctx) : x.loopStep.prio = x.prio := by
  unfold Ctx.loopStep; dsimp only; repeat (first | rfl | split)
@[simp] theorem Ctx.complete_prio (x : Ctx) (w : Flow) : (x.complete w).prio = x.prio := by
  unfold Ctx.complete; cases w <;> simp
@[simp] theorem Ctx.setG_cols (x : Ctx) (r : Reg) (v : Word) : (x.setG r v).cols = x.cols := by unfold Ctx.setG; split <;> rfl
@[simp] theorem Ctx.setP_cols (x : Ctx) (i : Pred) (b : Bool) : (x.setP i b).cols = x.cols := by unfold Ctx.setP; split <;> rfl
@[simp] theorem Ctx.loopStep_cols (x : Ctx) : x.loopStep.cols = x.cols := by
  unfold Ctx.loopStep; dsimp only; repeat (first | rfl | split)
@[simp] theorem Ctx.complete_cols (x : Ctx) (w : Flow) : (x.complete w).cols = x.cols := by
  unfold Ctx.complete; cases w <;> simp
@[simp] theorem Ctx.setG_spadBytes (x : Ctx) (r : Reg) (v : Word) : (x.setG r v).spadBytes = x.spadBytes := by unfold Ctx.setG; split <;> rfl
@[simp] theorem Ctx.setP_spadBytes (x : Ctx) (i : Pred) (b : Bool) : (x.setP i b).spadBytes = x.spadBytes := by unfold Ctx.setP; split <;> rfl
@[simp] theorem Ctx.loopStep_spadBytes (x : Ctx) : x.loopStep.spadBytes = x.spadBytes := by
  unfold Ctx.loopStep; dsimp only; repeat (first | rfl | split)
@[simp] theorem Ctx.complete_spadBytes (x : Ctx) (w : Flow) : (x.complete w).spadBytes = x.spadBytes := by
  unfold Ctx.complete; cases w <;> simp
@[simp] theorem Ctx.setG_job (x : Ctx) (r : Reg) (v : Word) : (x.setG r v).job = x.job := by unfold Ctx.setG; split <;> rfl
@[simp] theorem Ctx.setP_job (x : Ctx) (i : Pred) (b : Bool) : (x.setP i b).job = x.job := by unfold Ctx.setP; split <;> rfl
@[simp] theorem Ctx.loopStep_job (x : Ctx) : x.loopStep.job = x.job := by
  unfold Ctx.loopStep; dsimp only; repeat (first | rfl | split)
@[simp] theorem Ctx.complete_job (x : Ctx) (w : Flow) : (x.complete w).job = x.job := by
  unfold Ctx.complete; cases w <;> simp
@[simp] theorem Ctx.setG_fabric (x : Ctx) (r : Reg) (v : Word) : (x.setG r v).fabric = x.fabric := by unfold Ctx.setG; split <;> rfl
@[simp] theorem Ctx.setP_fabric (x : Ctx) (i : Pred) (b : Bool) : (x.setP i b).fabric = x.fabric := by unfold Ctx.setP; split <;> rfl
@[simp] theorem Ctx.loopStep_fabric (x : Ctx) : x.loopStep.fabric = x.fabric := by
  unfold Ctx.loopStep; dsimp only; repeat (first | rfl | split)
@[simp] theorem Ctx.complete_fabric (x : Ctx) (w : Flow) : (x.complete w).fabric = x.fabric := by
  unfold Ctx.complete; cases w <;> simp
@[simp] theorem Ctx.setG_staged (x : Ctx) (r : Reg) (v : Word) : (x.setG r v).staged = x.staged := by unfold Ctx.setG; split <;> rfl
@[simp] theorem Ctx.setP_staged (x : Ctx) (i : Pred) (b : Bool) : (x.setP i b).staged = x.staged := by unfold Ctx.setP; split <;> rfl
@[simp] theorem Ctx.loopStep_staged (x : Ctx) : x.loopStep.staged = x.staged := by
  unfold Ctx.loopStep; dsimp only; repeat (first | rfl | split)
@[simp] theorem Ctx.complete_staged (x : Ctx) (w : Flow) : (x.complete w).staged = x.staged := by
  unfold Ctx.complete; cases w <;> simp
@[simp] theorem Ctx.setG_btok (x : Ctx) (r : Reg) (v : Word) : (x.setG r v).btok = x.btok := by unfold Ctx.setG; split <;> rfl
@[simp] theorem Ctx.setP_btok (x : Ctx) (i : Pred) (b : Bool) : (x.setP i b).btok = x.btok := by unfold Ctx.setP; split <;> rfl
@[simp] theorem Ctx.loopStep_btok (x : Ctx) : x.loopStep.btok = x.btok := by
  unfold Ctx.loopStep; dsimp only; repeat (first | rfl | split)
@[simp] theorem Ctx.complete_btok (x : Ctx) (w : Flow) : (x.complete w).btok = x.btok := by
  unfold Ctx.complete; cases w <;> simp
@[simp] theorem Ctx.setG_mma (x : Ctx) (r : Reg) (v : Word) : (x.setG r v).mma = x.mma := by unfold Ctx.setG; split <;> rfl
@[simp] theorem Ctx.setP_mma (x : Ctx) (i : Pred) (b : Bool) : (x.setP i b).mma = x.mma := by unfold Ctx.setP; split <;> rfl
@[simp] theorem Ctx.loopStep_mma (x : Ctx) : x.loopStep.mma = x.mma := by
  unfold Ctx.loopStep; dsimp only; repeat (first | rfl | split)
@[simp] theorem Ctx.complete_mma (x : Ctx) (w : Flow) : (x.complete w).mma = tabDel x.mma x.th.toNat := by
  unfold Ctx.complete; cases w <;> simp
@[simp] theorem Ctx.setG_attn (x : Ctx) (r : Reg) (v : Word) : (x.setG r v).attn = x.attn := by unfold Ctx.setG; split <;> rfl
@[simp] theorem Ctx.setP_attn (x : Ctx) (i : Pred) (b : Bool) : (x.setP i b).attn = x.attn := by unfold Ctx.setP; split <;> rfl
@[simp] theorem Ctx.loopStep_attn (x : Ctx) : x.loopStep.attn = x.attn := by
  unfold Ctx.loopStep; dsimp only; repeat (first | rfl | split)
@[simp] theorem Ctx.complete_attn (x : Ctx) (w : Flow) : (x.complete w).attn = tabDel x.attn x.th.toNat := by
  unfold Ctx.complete; cases w <;> simp
@[simp] theorem Ctx.setG_afterDrain (x : Ctx) (r : Reg) (v : Word) : (x.setG r v).afterDrain = x.afterDrain := by unfold Ctx.setG; split <;> rfl
@[simp] theorem Ctx.setP_afterDrain (x : Ctx) (i : Pred) (b : Bool) : (x.setP i b).afterDrain = x.afterDrain := by unfold Ctx.setP; split <;> rfl
@[simp] theorem Ctx.loopStep_afterDrain (x : Ctx) : x.loopStep.afterDrain = x.afterDrain := by
  unfold Ctx.loopStep; dsimp only; repeat (first | rfl | split)
@[simp] theorem Ctx.complete_afterDrain (x : Ctx) (w : Flow) : (x.complete w).afterDrain = x.afterDrain := by
  unfold Ctx.complete; cases w <;> simp
@[simp] theorem Ctx.setG_parts (x : Ctx) (r : Reg) (v : Word) : (x.setG r v).parts = x.parts := by unfold Ctx.setG; split <;> rfl
@[simp] theorem Ctx.setP_parts (x : Ctx) (i : Pred) (b : Bool) : (x.setP i b).parts = x.parts := by unfold Ctx.setP; split <;> rfl
@[simp] theorem Ctx.loopStep_parts (x : Ctx) : x.loopStep.parts = x.parts := by
  unfold Ctx.loopStep; dsimp only; repeat (first | rfl | split)
@[simp] theorem Ctx.complete_parts (x : Ctx) (w : Flow) : (x.complete w).parts = x.parts := by
  unfold Ctx.complete; cases w <;> simp
@[simp] theorem Ctx.setG_residence (x : Ctx) (r : Reg) (v : Word) : (x.setG r v).residence = x.residence := by unfold Ctx.setG; split <;> rfl
@[simp] theorem Ctx.setP_residence (x : Ctx) (i : Pred) (b : Bool) : (x.setP i b).residence = x.residence := by unfold Ctx.setP; split <;> rfl
@[simp] theorem Ctx.loopStep_residence (x : Ctx) : x.loopStep.residence = x.residence := by
  unfold Ctx.loopStep; dsimp only; repeat (first | rfl | split)
@[simp] theorem Ctx.complete_residence (x : Ctx) (w : Flow) : (x.complete w).residence = x.residence := by
  unfold Ctx.complete; cases w <;> simp
@[simp] theorem Ctx.setG_yielded (x : Ctx) (r : Reg) (v : Word) : (x.setG r v).yielded = x.yielded := by unfold Ctx.setG; split <;> rfl
@[simp] theorem Ctx.setP_yielded (x : Ctx) (i : Pred) (b : Bool) : (x.setP i b).yielded = x.yielded := by unfold Ctx.setP; split <;> rfl
@[simp] theorem Ctx.loopStep_yielded (x : Ctx) : x.loopStep.yielded = x.yielded := by
  unfold Ctx.loopStep; dsimp only; repeat (first | rfl | split)
@[simp] theorem Ctx.complete_yielded (x : Ctx) (w : Flow) : (x.complete w).yielded = x.yielded := by
  unfold Ctx.complete; cases w <;> simp
@[simp] theorem Ctx.setG_eligible (x : Ctx) (r : Reg) (v : Word) : (x.setG r v).eligible = x.eligible := by unfold Ctx.setG; split <;> rfl
@[simp] theorem Ctx.setP_eligible (x : Ctx) (i : Pred) (b : Bool) : (x.setP i b).eligible = x.eligible := by unfold Ctx.setP; split <;> rfl
@[simp] theorem Ctx.loopStep_eligible (x : Ctx) : x.loopStep.eligible = x.eligible := by
  unfold Ctx.loopStep; dsimp only; repeat (first | rfl | split)
@[simp] theorem Ctx.complete_eligible (x : Ctx) (w : Flow) : (x.complete w).eligible = x.eligible := by
  unfold Ctx.complete; cases w <;> simp
@[simp] theorem Ctx.setG_since (x : Ctx) (r : Reg) (v : Word) : (x.setG r v).since = x.since := by unfold Ctx.setG; split <;> rfl
@[simp] theorem Ctx.setP_since (x : Ctx) (i : Pred) (b : Bool) : (x.setP i b).since = x.since := by unfold Ctx.setP; split <;> rfl
@[simp] theorem Ctx.loopStep_since (x : Ctx) : x.loopStep.since = x.since := by
  unfold Ctx.loopStep; dsimp only; repeat (first | rfl | split)
@[simp] theorem Ctx.complete_since (x : Ctx) (w : Flow) : (x.complete w).since = x.since := by
  unfold Ctx.complete; cases w <;> simp

@[simp] theorem State.setCore_core (s : State) (n : Nat) (c : Core) : (s.setCore n c).core n = c := by
  simp [State.core, State.setCore, tabGet_tabPut]
theorem State.setCore_core_ne (s : State) {n m : Nat} (h : m ≠ n) (c : Core) : (s.setCore n c).core m = s.core m := by
  simp [State.core, State.setCore, tabGet_tabPut_ne _ h]
@[simp] theorem State.setCore_setCore (s : State) (n : Nat) (c d : Core) : (s.setCore n c).setCore n d = s.setCore n d := by
  simp [State.setCore, tabPut_tabPut]
@[simp] theorem State.setDay_core (s : State) (n : Nat) (x : Option Ctx) : (s.setDay n x).core n = { s.core n with day := x } := by
  simp [State.setDay]
theorem State.setDay_core_ne (s : State) {n m : Nat} (h : m ≠ n) (x : Option Ctx) : (s.setDay n x).core m = s.core m := by
  simp [State.setDay, State.setCore_core_ne _ h]
@[simp] theorem State.setDay_setDay (s : State) (n : Nat) (x y : Option Ctx) : (s.setDay n x).setDay n y = s.setDay n y := by
  simp [State.setDay]
@[simp] theorem State.consume_core (s : State) (ag : Agent) (n : Nat) : (s.consume ag).core n = s.core n := rfl
theorem State.consume_setDay (s : State) (ag : Agent) (n : Nat) (x : Option Ctx) :
    (s.consume ag).setDay n x = (s.setDay n x).consume ag := rfl
@[simp] theorem State.setCtx_ctx (s : State) (x : Ctx) : (s.setCtx x).ctx = some x := by
  simp [State.ctx, State.setCtx]
@[simp] theorem State.setCtx_core (s : State) (x : Ctx) : (s.setCtx x).core s.cur = { s.core s.cur with day := some x } := by
  simp [State.setCtx]
theorem State.setCtx_core_ne (s : State) {n : Nat} (h : n ≠ s.cur) (x : Ctx) : (s.setCtx x).core n = s.core n := by
  simp [State.setCtx, State.setDay_core_ne _ h]
@[simp] theorem State.setCtx_setDay (s : State) (x : Ctx) (y : Option Ctx) : (s.setCtx x).setDay s.cur y = s.setDay s.cur y := by
  simp [State.setCtx]
@[simp] theorem State.setCtx_setCtx (s : State) (x y : Ctx) : (s.setCtx x).setCtx y = s.setCtx y := by
  simp [State.setCtx]
@[simp] theorem State.setCtx_now (s : State) (x y : Ctx) : (s.setCtx x).now y = x := by simp [State.now]
@[simp] theorem Ctx.g_zero (x : Ctx) : x.g 0#6 = 0 := rfl
@[simp] theorem Ctx.p_zero (x : Ctx) : x.p 0#4 = true := rfl
@[simp] theorem Ctx.setG_zero (x : Ctx) (v : Word) : x.setG 0#6 v = x := rfl
@[simp] theorem Ctx.setP_zero (x : Ctx) (b : Bool) : x.setP 0#4 b = x := rfl

/-- Reading a register after writing one: g0 reads zero, and a write to it is discarded. -/
theorem Ctx.g_setG (x : Ctx) (r d : Reg) (v : Word) : (x.setG d v).g r = if r = d ∧ d ≠ 0 then v else x.g r := by
  by_cases hd : d = 0
  · subst hd; simp
  · by_cases hr : r = 0
    · subst hr
      have : ¬ 0#6 = d := fun e => hd e.symm
      simp [this]
    · have hd' : ¬ d = 0#6 := hd
      have hr' : ¬ r = 0#6 := hr
      by_cases h : r = d
      · subst h; simp [Ctx.g, Ctx.setG, hr']
      · have hn : d.toNat ≠ r.toNat := fun e => h (BitVec.eq_of_toNat_eq e.symm)
        simp [Ctx.g, Ctx.setG, hd', hr', h, hn]
@[simp] theorem Ctx.g_setP (x : Ctx) (r : Reg) (i : Pred) (b : Bool) : (x.setP i b).g r = x.g r := by simp [Ctx.g]
/-- Reading a predicate after writing one: p0 reads 1, and a write to it is discarded. -/
theorem Ctx.p_setP (x : Ctx) (r d : Pred) (v : Bool) : (x.setP d v).p r = if r = d ∧ d ≠ 0 then v else x.p r := by
  by_cases hd : d = 0
  · subst hd; simp
  · by_cases hr : r = 0
    · subst hr
      have : ¬ 0#4 = d := fun e => hd e.symm
      simp [this]
    · have hd' : ¬ d = 0#4 := hd
      have hr' : ¬ r = 0#4 := hr
      by_cases h : r = d
      · subst h; simp [Ctx.p, Ctx.setP, hr']
      · have hn : d.toNat ≠ r.toNat := fun e => h (BitVec.eq_of_toNat_eq e.symm)
        simp [Ctx.p, Ctx.setP, hd', hr', h, hn]
@[simp] theorem Ctx.p_setG (x : Ctx) (i : Pred) (r : Reg) (v : Word) : (x.setG r v).p i = x.p i := by simp [Ctx.p]
@[simp] theorem Ctx.g_complete (x : Ctx) (w : Flow) (r : Reg) : (x.complete w).g r = x.g r := by simp [Ctx.g]
@[simp] theorem Ctx.p_complete (x : Ctx) (w : Flow) (i : Pred) : (x.complete w).p i = x.p i := by simp [Ctx.p]

end Sys2Proof.Machine
end

