-- ==== Sys2Proof/Laws/Control.lean ====
section
/-! SUPPORT. What the issue of a control word does, once for all of them: the meanings' statements cite these and never unfold it. -/

namespace Sys2Proof.Machine

theorem State.setDay_self (s : State) (x y : Ctx) : (s.setCtx x).setDay s.cur (some y) = s.setCtx y := by
  simp [State.setCtx]

/-- An instruction that leaves the machine with the task as y, and goes on at the next word. -/
theorem State.setCtx_ended (s : State) (x y : Ctx) : (s.setCtx y).ended s x = s.retired x y := by
  simp [State.ended, State.finish, State.retired, State.consume_setDay]; rfl

/-- The word that completes plays no part where no trap follows. -/
theorem State.finish_seq (s : State) (n : Nat) (w : Word) : s.finish n w .seq = s.finish n 0 .seq := rfl

theorem State.setCtx_finish_jump (s : State) (x y : Ctx) (w pc : Word) :
    ((s.setCtx y).consume (s.me x)).finish s.cur w (.jump pc) = s.jumped x y pc := by
  simp [State.finish, State.jumped, State.consume_setDay]; rfl


/-- A control word that issues: its body runs, and completes, waits or traps. -/
theorem control_ready {i : Instr} {g : Guard} {priv : Bool} {s : State} {x : Ctx}
    {body : State → Ctx → Res (State × Flow)} (h : s.ready x g) (hp : priv = true → x.sup = true) :
    control i g priv s body = match body s x with
      | .ok (t, f) => .next ((t.consume (s.me x)).finish s.cur (encode i) f)
      | .error e => .next (s.interrupt x (encode i) e) := by
  obtain ⟨h1, h2, h3⟩ := h
  cases priv with
  | false => simp only [control, h1, h2, h3]; rfl
  | true => simp only [control, h1, h2, h3, hp rfl]; rfl

/-- A privileged control word in task mode takes PRIV. -/
theorem control_priv {i : Instr} {g : Guard} {s : State} {x : Ctx} {body : State → Ctx → Res (State × Flow)}
    (h1 : s.ctx = some x) (h2 : x.issues = true) (h3 : x.sup = false) :
    control i g true s body = .next (s.trapped x i .priv (encode i)) := by
  simp [control, h1, h2, h3, State.interrupt, State.trapped, State.stampReads]

/-- A control word whose guard does not hold changes nothing but the count and the PC. -/
theorem control_unguarded {i : Instr} {g : Guard} {priv : Bool} {s : State} {x : Ctx}
    {body : State → Ctx → Res (State × Flow)} (h1 : s.ctx = some x) (h2 : x.issues = true) (h3 : x.holds g = false)
    (hp : priv = true → x.sup = true) : control i g priv s body = .next (s.setCtx (x.complete .seq)) := by
  cases priv with
  | false => simp [control, h1, h2, h3]
  | true => simp [control, h1, h2, h3, hp rfl]

/-- A core with no task that may issue does nothing. -/
theorem control_idle {i : Instr} {g : Guard} {priv : Bool} {s : State} {body : State → Ctx → Res (State × Flow)}
    (h : ∀ x, s.ctx = some x → x.issues = false) : control i g priv s body = .next s := by
  unfold control
  cases hc : s.ctx with
  | none => rfl
  | some x => simp [h x hc]

/-- A body that completes at the next word. -/
theorem control_seq {i : Instr} {g : Guard} {priv : Bool} {s t : State} {x : Ctx} {body : State → Ctx → Res (State × Flow)}
    (h : s.ready x g) (hp : priv = true → x.sup = true) (hb : body s x = .ok (t, .seq)) :
    control i g priv s body = .next (t.ended s x) := by
  rw [control_ready h hp, hb]; rfl

/-- A body that changes the task alone and completes at the next word. -/
theorem control_retired {i : Instr} {g : Guard} {priv : Bool} {s : State} {x y : Ctx} {body : State → Ctx → Res (State × Flow)}
    (h : s.ready x g) (hp : priv = true → x.sup = true) (hb : body s x = .ok (s.setCtx y, .seq)) :
    control i g priv s body = .next (s.retired x y) := by
  rw [control_seq h hp hb, State.setCtx_ended]

/-- A body that changes the task alone and jumps. -/
theorem control_jumped {i : Instr} {g : Guard} {priv : Bool} {s : State} {x y : Ctx} {pc : Word}
    {body : State → Ctx → Res (State × Flow)}
    (h : s.ready x g) (hp : priv = true → x.sup = true) (hb : body s x = .ok (s.setCtx y, .jump pc)) :
    control i g priv s body = .next (s.jumped x y pc) := by
  rw [control_ready h hp, hb]
  exact congrArg _ (State.setCtx_finish_jump s x y _ pc)

/-- A body that traps: nothing it would have done has happened. -/
theorem control_trap {i : Instr} {g : Guard} {priv : Bool} {s : State} {x : Ctx} {code : TrapCode} {val : Word} {sub : Byte}
    {body : State → Ctx → Res (State × Flow)}
    (h : s.ready x g) (hp : priv = true → x.sup = true) (hb : body s x = trapWith code val sub) :
    control i g priv s body = .next (s.trapped x i code val sub) := by
  rw [control_ready h hp, hb]; rfl

/-- A body that waits: the task stays at its instruction. -/
theorem control_wait {i : Instr} {g : Guard} {priv : Bool} {s : State} {x : Ctx} {w : Wait} {body : State → Ctx → Res (State × Flow)}
    (h : s.ready x g) (hp : priv = true → x.sup = true) (hb : body s x = .error (.wait w)) (hw : ∀ l t, w ≠ .seqw l t) :
    control i g priv s body = .next (s.waitAt x w) := by
  rw [control_ready h hp, hb]
  cases w <;> first | rfl | exact absurd rfl (hw _ _)

/-- An instruction that changes the task's own registers alone. -/
theorem simple_ready {i : Instr} {g : Guard} {s : State} {x : Ctx} {f : Ctx → Ctx} (h : s.ready x g) :
    simple i g s f = .next (s.retired x (f x)) := control_retired h (by simp) rfl

/-- In every state an instruction that changes the task's own registers alone answers a next state: as it was, with the PC moved, or
with the registers changed. -/
theorem simple_cases (i : Instr) (g : Guard) (s : State) (f : Ctx → Ctx) :
    (simple i g s f = .next s ∧ ∀ x, s.ctx = some x → x.issues = false) ∨
    (∃ x, s.ctx = some x ∧ x.issues = true ∧ x.holds g = false ∧ simple i g s f = .next (s.setCtx (x.complete .seq))) ∨
    (∃ x, s.ready x g ∧ simple i g s f = .next (s.retired x (f x))) := by
  cases hc : s.ctx with
  | none => exact .inl ⟨control_idle (by simp [hc]), by simp⟩
  | some x =>
    by_cases hi : x.issues = true
    · by_cases hg : x.holds g = true
      · exact .inr (.inr ⟨x, ⟨hc, hi, hg⟩, simple_ready ⟨hc, hi, hg⟩⟩)
      · refine .inr (.inl ⟨x, rfl, hi, by simpa using hg, control_unguarded hc hi (by simpa using hg) (by simp)⟩)
    · refine .inl ⟨control_idle ?_, ?_⟩
      · intro y hy; rw [hc] at hy; cases hy; simpa using hi
      · intro y hy; cases hy; simpa using hi

theorem require_ok {b : Bool} {code : TrapCode} {v : Word} {sub : Byte} (h : b = true) : require b code v sub = .ok () := by
  simp [require, h]
theorem require_no {b : Bool} {code : TrapCode} {v : Word} {sub : Byte} (h : b = false) : require b code v sub = trapWith code v sub := by
  simp [require, h]
theorem await_ok {b : Bool} {w : Wait} (h : b = true) : await b w = .ok () := by simp [await, h]
theorem Res.ok_bind {α β : Type} (a : α) (f : α → Res β) : ((.ok a : Res α) >>= f) = f a := rfl
theorem Res.error_bind {α β : Type} (e : Exc) (f : α → Res β) : ((.error e : Res α) >>= f) = .error e := rfl
/-- A sequence of operations that answered has answered at each. -/
theorem Res.bind_ok {α β : Type} {x : Res α} {f : α → Res β} {r : β} (h : (x >>= f) = .ok r) : ∃ a, x = .ok a ∧ f a = .ok r := by
  cases x with
  | error e => cases h
  | ok a => exact ⟨a, rfl, h⟩

end Sys2Proof.Machine
end

