-- ==== Sys2Proof/Laws/Dispatch.lean ====
section
/-! SUPPORT. The meaning behind each constructor, one lemma each, so that no proof unfolds the whole dispatch. -/

namespace Sys2Proof.Machine

theorem exec_add g d a b (s : State) : exec (.add g d a b) s = execAdd g d a b s := rfl
theorem exec_sub g d a b (s : State) : exec (.sub g d a b) s = execSub g d a b s := rfl
theorem exec_mul g d a b (s : State) : exec (.mul g d a b) s = execMul g d a b s := rfl
theorem exec_mulh g d a b (s : State) : exec (.mulh g d a b) s = execMulh g d a b s := rfl
theorem exec_mulhz g d a b (s : State) : exec (.mulhz g d a b) s = execMulhz g d a b s := rfl
theorem exec_div g d a b (s : State) : exec (.div g d a b) s = execDiv g d a b s := rfl
theorem exec_divz g d a b (s : State) : exec (.divz g d a b) s = execDivz g d a b s := rfl
theorem exec_rem g d a b (s : State) : exec (.rem g d a b) s = execRem g d a b s := rfl
theorem exec_remz g d a b (s : State) : exec (.remz g d a b) s = execRemz g d a b s := rfl
theorem exec_and g d a b (s : State) : exec (.and g d a b) s = execAnd g d a b s := rfl
theorem exec_or g d a b (s : State) : exec (.or g d a b) s = execOr g d a b s := rfl
theorem exec_xor g d a b (s : State) : exec (.xor g d a b) s = execXor g d a b s := rfl
theorem exec_andn g d a b (s : State) : exec (.andn g d a b) s = execAndn g d a b s := rfl
theorem exec_shlReg g d a b (s : State) : exec (.shlReg g d a b) s = execShlReg g d a b s := rfl
theorem exec_shlImm g d a n (s : State) : exec (.shlImm g d a n) s = execShlImm g d a n s := rfl
theorem exec_shrReg g d a b (s : State) : exec (.shrReg g d a b) s = execShrReg g d a b s := rfl
theorem exec_shrImm g d a n (s : State) : exec (.shrImm g d a n) s = execShrImm g d a n s := rfl
theorem exec_shaReg g d a b (s : State) : exec (.shaReg g d a b) s = execShaReg g d a b s := rfl
theorem exec_shaImm g d a n (s : State) : exec (.shaImm g d a n) s = execShaImm g d a n s := rfl
theorem exec_rotReg g d a b (s : State) : exec (.rotReg g d a b) s = execRotReg g d a b s := rfl
theorem exec_rotImm g d a n (s : State) : exec (.rotImm g d a n) s = execRotImm g d a n s := rfl
theorem exec_min g d a b (s : State) : exec (.min g d a b) s = execMin g d a b s := rfl
theorem exec_max g d a b (s : State) : exec (.max g d a b) s = execMax g d a b s := rfl
theorem exec_minz g d a b (s : State) : exec (.minz g d a b) s = execMinz g d a b s := rfl
theorem exec_maxz g d a b (s : State) : exec (.maxz g d a b) s = execMaxz g d a b s := rfl
theorem exec_clz g d a (s : State) : exec (.clz g d a) s = execClz g d a s := rfl
theorem exec_popc g d a (s : State) : exec (.popc g d a) s = execPopc g d a s := rfl
theorem exec_bfx g d a b c (s : State) : exec (.bfx g d a b c) s = execBfx g d a b c s := rfl
theorem exec_bfxS g d a b c (s : State) : exec (.bfxS g d a b c) s = execBfxS g d a b c s := rfl
theorem exec_bfi g d a b c (s : State) : exec (.bfi g d a b c) s = execBfi g d a b c s := rfl
theorem exec_addsh g d a b n (s : State) : exec (.addsh g d a b n) s = execAddsh g d a b n s := rfl
theorem exec_mad g d a b c (s : State) : exec (.mad g d a b c) s = execMad g d a b c s := rfl
theorem exec_cmp g pd a b cond (s : State) : exec (.cmp g pd a b cond) s = execCmp g pd a b cond s := rfl
theorem exec_sel g d pc a b (s : State) : exec (.sel g d pc a b) s = execSel g d pc a b s := rfl
theorem exec_movi g d imm (s : State) : exec (.movi g d imm) s = execMovi g d imm s := rfl
theorem exec_movhi g d imm (s : State) : exec (.movhi g d imm) s = execMovhi g d imm s := rfl
theorem exec_addi g d a imm (s : State) : exec (.addi g d a imm) s = execAddi g d a imm s := rfl
theorem exec_pand g pd pa pb na nb (s : State) : exec (.pand g pd pa pb na nb) s = execPand g pd pa pb na nb s := rfl
theorem exec_por g pd pa pb na nb (s : State) : exec (.por g pd pa pb na nb) s = execPor g pd pa pb na nb s := rfl
theorem exec_pnot g pd pa (s : State) : exec (.pnot g pd pa) s = execPnot g pd pa s := rfl
theorem exec_br g off (s : State) : exec (.br g off) s = execBr g off s := rfl
theorem exec_jal g off (s : State) : exec (.jal g off) s = execJal g off s := rfl
theorem exec_jr g d a (s : State) : exec (.jr g d a) s = execJr g d a s := rfl
theorem exec_brcL1 g off (s : State) : exec (.brcL1 g off) s = execBrcL1 g off s := rfl
theorem exec_brcAll g off (s : State) : exec (.brcAll g off) s = execBrcAll g off s := rfl
theorem exec_loop g lvl1 a len (s : State) : exec (.loop g lvl1 a len) s = execLoop g lvl1 a len s := rfl
theorem exec_loopi g lvl1 len cnt (s : State) : exec (.loopi g lvl1 len cnt) s = execLoopi g lvl1 len cnt s := rfl
theorem exec_nop g (s : State) : exec (.nop g) s = execNop g s := rfl
theorem exec_ld g d m sp sx sz (s : State) : exec (.ld g d m sp sx sz) s = execLd g d m sp sx sz s := rfl
theorem exec_st g d m sp sz (s : State) : exec (.st g d m sp sz) s = execSt g d m sp sz s := rfl
theorem exec_csrr g d n (s : State) : exec (.csrr g d n) s = execCsrr g d n s := rfl
theorem exec_csrw g n a (s : State) : exec (.csrw g n a) s = execCsrw g n a s := rfl
theorem exec_csrwSet g n a (s : State) : exec (.csrwSet g n a) s = execCsrwSet g n a s := rfl
theorem exec_csrwClr g n a (s : State) : exec (.csrwClr g n a) s = execCsrwClr g n a s := rfl
theorem exec_trap g code (s : State) : exec (.trap g code) s = execTrap g code s := rfl
theorem exec_eret g (s : State) : exec (.eret g) s = execEret g s := rfl
theorem exec_eretTask g (s : State) : exec (.eretTask g) s = execEretTask g s := rfl
theorem exec_wfe g limit (s : State) : exec (.wfe g limit) s = execWfe g limit s := rfl
theorem exec_sevAll g (s : State) : exec (.sevAll g) s = execSevAll g s := rfl
theorem exec_sevOne g core (s : State) : exec (.sevOne g core) s = execSevOne g core s := rfl
theorem exec_sevClus g (s : State) : exec (.sevClus g) s = execSevClus g s := rfl
theorem exec_hintSpin g (s : State) : exec (.hintSpin g) s = execHintSpin g s := rfl
theorem exec_hintPf g off (s : State) : exec (.hintPf g off) s = execHintPf g off s := rfl
theorem exec_mma g d a b c ty bt (s : State) : exec (.mma g d a b c ty bt) s = execMma g d a b c ty bt s := rfl
theorem exec_mmas g d a b c ty bt (s : State) : exec (.mmas g d a b c ty bt) s = execMmas g d a b c ty bt s := rfl
theorem exec_prune g d a b c ty bt (s : State) : exec (.prune g d a b c ty bt) s = execPrune g d a b c ty bt s := rfl
theorem exec_mzero g d (s : State) : exec (.mzero g d) s = execMzero g d s := rfl
theorem exec_mld g d a ty rnd (s : State) : exec (.mld g d a ty rnd) s = execMld g d a ty rnd s := rfl
theorem exec_mst g d a ty rnd sat (s : State) : exec (.mst g d a ty rnd sat) s = execMst g d a ty rnd sat s := rfl
theorem exec_aadd g d a b form rnd sat (s : State) : exec (.aadd g d a b form rnd sat) s = execAadd g d a b form rnd sat s := rfl
theorem exec_amul g d a b form rnd sat (s : State) : exec (.amul g d a b form rnd sat) s = execAmul g d a b form rnd sat s := rfl
theorem exec_afma g d a b c form rnd sat (s : State) : exec (.afma g d a b c form rnd sat) s = execAfma g d a b c form rnd sat s := rfl
theorem exec_amax g d a b form (s : State) : exec (.amax g d a b form) s = execAmax g d a b form s := rfl
theorem exec_amin g d a b form (s : State) : exec (.amin g d a b form) s = execAmin g d a b form s := rfl
theorem exec_aexp2 g d a sat (s : State) : exec (.aexp2 g d a sat) s = execAexp2 g d a sat s := rfl
theorem exec_alog2 g d a sat (s : State) : exec (.alog2 g d a sat) s = execAlog2 g d a sat s := rfl
theorem exec_arcp g d a sat (s : State) : exec (.arcp g d a sat) s = execArcp g d a sat s := rfl
theorem exec_arsq g d a sat (s : State) : exec (.arsq g d a sat) s = execArsq g d a sat s := rfl
theorem exec_asig g d a sat (s : State) : exec (.asig g d a sat) s = execAsig g d a sat s := rfl
theorem exec_asigTanh g d a sat (s : State) : exec (.asigTanh g d a sat) s = execAsigTanh g d a sat s := rfl
theorem exec_asigSilu g d a sat (s : State) : exec (.asigSilu g d a sat) s = execAsigSilu g d a sat s := rfl
theorem exec_asigExpe g d a sat (s : State) : exec (.asigExpe g d a sat) s = execAsigExpe g d a sat s := rfl
theorem exec_aredSum g d a rnd sat (s : State) : exec (.aredSum g d a rnd sat) s = execAredSum g d a rnd sat s := rfl
theorem exec_aredMax g d a (s : State) : exec (.aredMax g d a) s = execAredMax g d a s := rfl
theorem exec_aredMin g d a (s : State) : exec (.aredMin g d a) s = execAredMin g d a s := rfl
theorem exec_abcast g d a (s : State) : exec (.abcast g d a) s = execAbcast g d a s := rfl
theorem exec_abcastRow g d a ty (s : State) : exec (.abcastRow g d a ty) s = execAbcastRow g d a ty s := rfl
theorem exec_abcastColv g d a ty (s : State) : exec (.abcastColv g d a ty) s = execAbcastColv g d a ty s := rfl
theorem exec_amov g d a (s : State) : exec (.amov g d a) s = execAmov g d a s := rfl
theorem exec_acvt g d a b ty rnd sat (s : State) : exec (.acvt g d a b ty rnd sat) s = execAcvt g d a b ty rnd sat s := rfl
theorem exec_acvtB32 g d a b ty rnd sat (s : State) : exec (.acvtB32 g d a b ty rnd sat) s = execAcvtB32 g d a b ty rnd sat s := rfl
theorem exec_rngld g a b (s : State) : exec (.rngld g a b) s = execRngld g a b s := rfl
theorem exec_rngst g d b (s : State) : exec (.rngst g d b) s = execRngst g d b s := rfl
theorem exec_rand g d (s : State) : exec (.rand g d) s = execRand g d s := rfl
theorem exec_abind g slot a b lse (s : State) : exec (.abind g slot a b lse) s = execAbind g slot a b lse s := rfl
theorem exec_attn g slot d a b c tri (s : State) : exec (.attn g slot d a b c tri) s = execAttn g slot d a b c tri s := rfl
theorem exec_tmerge g d a b (s : State) : exec (.tmerge g d a b) s = execTmerge g d a b s := rfl
theorem exec_kvmap g d a b (s : State) : exec (.kvmap g d a b) s = execKvmap g d a b s := rfl
theorem exec_kvapp g a b c (s : State) : exec (.kvapp g a b c) s = execKvapp g a b c s := rfl
theorem exec_kvfork g d a (s : State) : exec (.kvfork g d a) s = execKvfork g d a s := rfl
theorem exec_kvforkCow g d a (s : State) : exec (.kvforkCow g d a) s = execKvforkCow g d a s := rfl
theorem exec_kvtrunc g a b (s : State) : exec (.kvtrunc g a b) s = execKvtrunc g a b s := rfl
theorem exec_kvrel g a (s : State) : exec (.kvrel g a) s = execKvrel g a s := rfl
theorem exec_kvret g a b c (s : State) : exec (.kvret g a b c) s = execKvret g a b c s := rfl
theorem exec_kvcompact g a b c (s : State) : exec (.kvcompact g a b c) s = execKvcompact g a b c s := rfl
theorem exec_kvqLen g d a (s : State) : exec (.kvqLen g d a) s = execKvqLen g d a s := rfl
theorem exec_kvqMap g d a (s : State) : exec (.kvqMap g d a) s = execKvqMap g d a s := rfl
theorem exec_kvqFrame g d a (s : State) : exec (.kvqFrame g d a) s = execKvqFrame g d a s := rfl
theorem exec_kvqState g d a (s : State) : exec (.kvqState g d a) s = execKvqState g d a s := rfl
theorem exec_pxlkp g d a b (s : State) : exec (.pxlkp g d a b) s = execPxlkp g d a b s := rfl
theorem exec_pxlkpDrop g d a b (s : State) : exec (.pxlkpDrop g d a b) s = execPxlkpDrop g d a b s := rfl
theorem exec_pxins g d a b (s : State) : exec (.pxins g d a b) s = execPxins g d a b s := rfl
theorem exec_cfg g a (s : State) : exec (.cfg g a) s = execCfg g a s := rfl
theorem exec_cfgStg g a (s : State) : exec (.cfgStg g a) s = execCfgStg g a s := rfl
theorem exec_cfgsw g (s : State) : exec (.cfgsw g) s = execCfgsw g s := rfl
theorem exec_strm g port a b c mode ty sc sp (s : State) : exec (.strm g port a b c mode ty sc sp) s = execStrm g port a b c mode ty sc sp s := rfl
theorem exec_sbar g a (s : State) : exec (.sbar g a) s = execSbar g a s := rfl
theorem exec_sbarOrd g a (s : State) : exec (.sbarOrd g a) s = execSbarOrd g a s := rfl
theorem exec_btok g a id gm (s : State) : exec (.btok g a id gm) s = execBtok g a id gm s := rfl
theorem exec_argw g op a (s : State) : exec (.argw g op a) s = execArgw g op a s := rfl
theorem exec_tinj g ch a (s : State) : exec (.tinj g ch a) s = execTinj g ch a s := rfl
theorem exec_tpop g d ch (s : State) : exec (.tpop g d ch) s = execTpop g d ch s := rfl
theorem exec_fstat g d site (s : State) : exec (.fstat g d site) s = execFstat g d site s := rfl
theorem exec_fstatAll g d (s : State) : exec (.fstatAll g d) s = execFstatAll g d s := rfl
theorem exec_slotf g a b sp (s : State) : exec (.slotf g a b sp) s = execSlotf g a b sp s := rfl
theorem exec_cpyG2s g d a b c fe gm sc (s : State) : exec (.cpyG2s g d a b c fe gm sc) s = execCpyG2s g d a b c fe gm sc s := rfl
theorem exec_cpyS2g g d a b c gm sc (s : State) : exec (.cpyS2g g d a b c gm sc) s = execCpyS2g g d a b c gm sc s := rfl
theorem exec_cpyG2g g d a b c gm sc (s : State) : exec (.cpyG2g g d a b c gm sc) s = execCpyG2g g d a b c gm sc s := rfl
theorem exec_cpyS2s g d a b c fe gm sc (s : State) : exec (.cpyS2s g d a b c fe gm sc) s = execCpyS2s g d a b c fe gm sc s := rfl
theorem exec_cpyRing g a b gm (s : State) : exec (.cpyRing g a b gm) s = execCpyRing g a b gm s := rfl
theorem exec_tbinit g a n gm (s : State) : exec (.tbinit g a n gm) s = execTbinit g a n gm s := rfl
theorem exec_tbexp g a b gm (s : State) : exec (.tbexp g a b gm) s = execTbexp g a b gm s := rfl
theorem exec_tbarr g a gm sc (s : State) : exec (.tbarr g a gm sc) s = execTbarr g a gm sc s := rfl
theorem exec_tbwait g a ph gm sc (s : State) : exec (.tbwait g a ph gm sc) s = execTbwait g a ph gm sc s := rfl
theorem exec_tbtest g pd a ph gm sc (s : State) : exec (.tbtest g pd a ph gm sc) s = execTbtest g pd a ph gm sc s := rfl
theorem exec_amo g d m op dbl (s : State) : exec (.amo g d m op dbl) s = execAmo g d m op dbl s := rfl
theorem exec_red g d m op dbl (s : State) : exec (.red g d m op dbl) s = execRed g d m op dbl s := rfl
theorem exec_amof g d m op sp dbl (s : State) : exec (.amof g d m op sp dbl) s = execAmof g d m op sp dbl s := rfl
theorem exec_cas g d a b c sp dbl (s : State) : exec (.cas g d a b c sp dbl) s = execCas g d a b c sp dbl s := rfl
theorem exec_ldfe g d m clr sz (s : State) : exec (.ldfe g d m clr sz) s = execLdfe g d m clr sz s := rfl
theorem exec_stfe g d m sz (s : State) : exec (.stfe g d m sz) s = execStfe g d m sz s := rfl
theorem exec_pref g m l2 sz (s : State) : exec (.pref g m l2 sz) s = execPref g m l2 sz s := rfl
theorem exec_fence g sc (s : State) : exec (.fence g sc) s = execFence g sc s := rfl
theorem exec_chainCpy g a b sc (s : State) : exec (.chainCpy g a b sc) s = execChainCpy g a b sc s := rfl
theorem exec_chainColl g a b sc (s : State) : exec (.chainColl g a b sc) s = execChainColl g a b sc s := rfl
theorem exec_seqw g d a limit sp sc (s : State) : exec (.seqw g d a limit sp sc) s = execSeqw g d a limit sp sc s := rfl
theorem exec_collSum g d a b c ty (s : State) : exec (.collSum g d a b c ty) s = execCollSum g d a b c ty s := rfl
theorem exec_collMax g d a b c ty (s : State) : exec (.collMax g d a b c ty) s = execCollMax g d a b c ty s := rfl
theorem exec_collMin g d a b c ty (s : State) : exec (.collMin g d a b c ty) s = execCollMin g d a b c ty s := rfl
theorem exec_collBcast g d a b c ty (s : State) : exec (.collBcast g d a b c ty) s = execCollBcast g d a b c ty s := rfl
theorem exec_collAgath g d a b c ty (s : State) : exec (.collAgath g d a b c ty) s = execCollAgath g d a b c ty s := rfl
theorem exec_collRscat g d a b c ty (s : State) : exec (.collRscat g d a b c ty) s = execCollRscat g d a b c ty s := rfl
theorem exec_spl g slot a b c (s : State) : exec (.spl g slot a b c) s = execSpl g slot a b c s := rfl
theorem exec_fil g slot a b (s : State) : exec (.fil g slot a b) s = execFil g slot a b s := rfl
theorem exec_bslice g d a ty e (s : State) : exec (.bslice g d a ty e) s = execBslice g d a ty e s := rfl
theorem exec_bjoin g d a ty e (s : State) : exec (.bjoin g d a ty e) s = execBjoin g d a ty e s := rfl
theorem exec_lctx g slot a (s : State) : exec (.lctx g slot a) s = execLctx g slot a s := rfl
theorem exec_lsel g slot (s : State) : exec (.lsel g slot) s = execLsel g slot s := rfl
theorem exec_lrun g (s : State) : exec (.lrun g) s = execLrun g s := rfl
theorem exec_lstatPop g d a (s : State) : exec (.lstatPop g d a) s = execLstatPop g d a s := rfl
theorem exec_lstatWord g d a q (s : State) : exec (.lstatWord g d a q) s = execLstatWord g d a q s := rfl
theorem exec_lstatSlot g d slot (s : State) : exec (.lstatSlot g d slot) s = execLstatSlot g d slot s := rfl
theorem exec_lstatRuns g d (s : State) : exec (.lstatRuns g d) s = execLstatRuns g d s := rfl
theorem exec_tenq g a b (s : State) : exec (.tenq g a b) s = execTenq g a b s := rfl
theorem exec_launch g a (s : State) : exec (.launch g a) s = execLaunch g a s := rfl
theorem exec_launchArg g a b (s : State) : exec (.launchArg g a b) s = execLaunchArg g a b s := rfl
theorem exec_gsig g a b (s : State) : exec (.gsig g a b) s = execGsig g a b s := rfl
theorem exec_tend g (s : State) : exec (.tend g) s = execTend g s := rfl
theorem exec_tyield g (s : State) : exec (.tyield g) s = execTyield g s := rfl
theorem exec_rinvTag g d a (s : State) : exec (.rinvTag g d a) s = execRinvTag g d a s := rfl
theorem exec_rinvRange g d a b (s : State) : exec (.rinvRange g d a b) s = execRinvRange g d a b s := rfl
theorem exec_rinvAll g d (s : State) : exec (.rinvAll g d) s = execRinvAll g d s := rfl
theorem exec_rinvAsid g d a (s : State) : exec (.rinvAsid g d a) s = execRinvAsid g d a s := rfl
theorem exec_rstatLkp g d (s : State) : exec (.rstatLkp g d) s = execRstatLkp g d s := rfl
theorem exec_rstatHit g d (s : State) : exec (.rstatHit g d) s = execRstatHit g d s := rfl
theorem exec_rstatMiss g d (s : State) : exec (.rstatMiss g d) s = execRstatMiss g d s := rfl
theorem exec_rstatIns g d (s : State) : exec (.rstatIns g d) s = execRstatIns g d s := rfl
theorem exec_rstatProbe g d a (s : State) : exec (.rstatProbe g d a) s = execRstatProbe g d a s := rfl
theorem exec_rstatHeld g d (s : State) : exec (.rstatHeld g d) s = execRstatHeld g d s := rfl
theorem exec_rstatQuota g d (s : State) : exec (.rstatQuota g d) s = execRstatQuota g d s := rfl
theorem exec_illegalWord w (s : State) : exec (.illegalWord w) s = execIllegalWord w s := rfl
theorem exec_instructionFetchFault prot sub (s : State) : exec (.instructionFetchFault prot sub) s = execInstructionFetchFault prot sub s := rfl
theorem exec_registerWrite n v (s : State) : exec (.registerWrite n v) s = execRegisterWrite n v s := rfl
theorem exec_wfeTimeout c (s : State) : exec (.wfeTimeout c) s = execWfeTimeout c s := rfl
theorem exec_sevDelivery (s : State) : exec .sevDelivery s = execSevDelivery s := rfl
theorem exec_compactionDone die (s : State) : exec (.compactionDone die) s = execCompactionDone die s := rfl
theorem exec_slabRelocationStep die k (s : State) : exec (.slabRelocationStep die k) s = execSlabRelocationStep die k s := rfl
theorem exec_portReadAccess c p (s : State) : exec (.portReadAccess c p) s = execPortReadAccess c p s := rfl
theorem exec_portGatherAccess c p (s : State) : exec (.portGatherAccess c p) s = execPortGatherAccess c p s := rfl
theorem exec_portWriteAccess c p (s : State) : exec (.portWriteAccess c p) s = execPortWriteAccess c p s := rfl
theorem exec_portReductionAccess c p (s : State) : exec (.portReductionAccess c p) s = execPortReductionAccess c p s := rfl
theorem exec_portCondition c p (s : State) : exec (.portCondition c p) s = execPortCondition c p s := rfl
theorem exec_speculativeFetch c p (s : State) : exec (.speculativeFetch c p) s = execSpeculativeFetch c p s := rfl
theorem exec_portBarArrival c p (s : State) : exec (.portBarArrival c p) s = execPortBarArrival c p s := rfl
theorem exec_portDoneToken c p (s : State) : exec (.portDoneToken c p) s = execPortDoneToken c p s := rfl
theorem exec_portRetry c p (s : State) : exec (.portRetry c p) s = execPortRetry c p s := rfl
theorem exec_relatchToken c site (s : State) : exec (.relatchToken c site) s = execRelatchToken c site s := rfl
theorem exec_inputPacketExpand c site ch (s : State) : exec (.inputPacketExpand c site ch) s = execInputPacketExpand c site ch s := rfl
theorem exec_cfgkConsume c e ch (s : State) : exec (.cfgkConsume c e ch) s = execCfgkConsume c e ch s := rfl
theorem exec_repeatBlock c o (s : State) : exec (.repeatBlock c o) s = execRepeatBlock c o s := rfl
theorem exec_mergeIsect c o (s : State) : exec (.mergeIsect c o) s = execMergeIsect c o s := rfl
theorem exec_mergeUnion c o (s : State) : exec (.mergeUnion c o) s = execMergeUnion c o s := rfl
theorem exec_mergeChk c o (s : State) : exec (.mergeChk c o) s = execMergeChk c o s := rfl
theorem exec_radix c o (s : State) : exec (.radix c o) s = execRadix c o s := rfl
theorem exec_gate c o (s : State) : exec (.gate c o) s = execGate c o s := rfl
theorem exec_select c o (s : State) : exec (.select c o) s = execSelect c o s := rfl
theorem exec_stat c o (s : State) : exec (.stat c o) s = execStat c o s := rfl
theorem exec_xlat c o (s : State) : exec (.xlat c o) s = execXlat c o s := rfl
theorem exec_cbdec c o (s : State) : exec (.cbdec c o) s = execCbdec c o s := rfl
theorem exec_delta c o (s : State) : exec (.delta c o) s = execDelta c o s := rfl
theorem exec_fconv c o (s : State) : exec (.fconv c o) s = execFconv c o s := rfl
theorem exec_rle c o (s : State) : exec (.rle c o) s = execRle c o s := rfl
theorem exec_transp c o (s : State) : exec (.transp c o) s = execTransp c o s := rfl
theorem exec_mov c e (s : State) : exec (.mov c e) s = execMov c e s := rfl
theorem exec_iadd c e (s : State) : exec (.iadd c e) s = execIadd c e s := rfl
theorem exec_isub c e (s : State) : exec (.isub c e) s = execIsub c e s := rfl
theorem exec_imul c e (s : State) : exec (.imul c e) s = execImul c e s := rfl
theorem exec_imad c e (s : State) : exec (.imad c e) s = execImad c e s := rfl
theorem exec_iand c e (s : State) : exec (.iand c e) s = execIand c e s := rfl
theorem exec_ior c e (s : State) : exec (.ior c e) s = execIor c e s := rfl
theorem exec_ixor c e (s : State) : exec (.ixor c e) s = execIxor c e s := rfl
theorem exec_ishl c e (s : State) : exec (.ishl c e) s = execIshl c e s := rfl
theorem exec_ishr c e (s : State) : exec (.ishr c e) s = execIshr c e s := rfl
theorem exec_isra c e (s : State) : exec (.isra c e) s = execIsra c e s := rfl
theorem exec_imin c e (s : State) : exec (.imin c e) s = execImin c e s := rfl
theorem exec_imax c e (s : State) : exec (.imax c e) s = execImax c e s := rfl
theorem exec_icmp c e (s : State) : exec (.icmp c e) s = execIcmp c e s := rfl
theorem exec_elemSel c e (s : State) : exec (.elemSel c e) s = execElemSel c e s := rfl
theorem exec_cmpc c e (s : State) : exec (.cmpc c e) s = execCmpc c e s := rfl
theorem exec_deq c e (s : State) : exec (.deq c e) s = execDeq c e s := rfl
theorem exec_emit c e (s : State) : exec (.emit c e) s = execEmit c e s := rfl
theorem exec_fadd c e (s : State) : exec (.fadd c e) s = execFadd c e s := rfl
theorem exec_fsub c e (s : State) : exec (.fsub c e) s = execFsub c e s := rfl
theorem exec_fmul c e (s : State) : exec (.fmul c e) s = execFmul c e s := rfl
theorem exec_ffma c e (s : State) : exec (.ffma c e) s = execFfma c e s := rfl
theorem exec_fmin c e (s : State) : exec (.fmin c e) s = execFmin c e s := rfl
theorem exec_fmax c e (s : State) : exec (.fmax c e) s = execFmax c e s := rfl
theorem exec_fcmp c e (s : State) : exec (.fcmp c e) s = execFcmp c e s := rfl
theorem exec_fexp2 c e (s : State) : exec (.fexp2 c e) s = execFexp2 c e s := rfl
theorem exec_frcp c e (s : State) : exec (.frcp c e) s = execFrcp c e s := rfl
theorem exec_fcvtF32Bf16 c e (s : State) : exec (.fcvtF32Bf16 c e) s = execFcvtF32Bf16 c e s := rfl
theorem exec_fcvtF32F16 c e (s : State) : exec (.fcvtF32F16 c e) s = execFcvtF32F16 c e s := rfl
theorem exec_fcvtF32E4m3 c e (s : State) : exec (.fcvtF32E4m3 c e) s = execFcvtF32E4m3 c e s := rfl
theorem exec_fcvtF32E5m2 c e (s : State) : exec (.fcvtF32E5m2 c e) s = execFcvtF32E5m2 c e s := rfl
theorem exec_fcvtF32E2m1 c e (s : State) : exec (.fcvtF32E2m1 c e) s = execFcvtF32E2m1 c e s := rfl
theorem exec_fcvtF32S32 c e (s : State) : exec (.fcvtF32S32 c e) s = execFcvtF32S32 c e s := rfl
theorem exec_fcvtF32Z32 c e (s : State) : exec (.fcvtF32Z32 c e) s = execFcvtF32Z32 c e s := rfl
theorem exec_fcvtBf16F32 c e (s : State) : exec (.fcvtBf16F32 c e) s = execFcvtBf16F32 c e s := rfl
theorem exec_fcvtF16F32 c e (s : State) : exec (.fcvtF16F32 c e) s = execFcvtF16F32 c e s := rfl
theorem exec_fcvtE4m3F32 c e (s : State) : exec (.fcvtE4m3F32 c e) s = execFcvtE4m3F32 c e s := rfl
theorem exec_fcvtE5m2F32 c e (s : State) : exec (.fcvtE5m2F32 c e) s = execFcvtE5m2F32 c e s := rfl
theorem exec_fcvtE2m1F32 c e (s : State) : exec (.fcvtE2m1F32 c e) s = execFcvtE2m1F32 c e s := rfl
theorem exec_fcvtS32F32 c e (s : State) : exec (.fcvtS32F32 c e) s = execFcvtS32F32 c e s := rfl
theorem exec_fcvtZ32F32 c e (s : State) : exec (.fcvtZ32F32 c e) s = execFcvtZ32F32 c e s := rfl
theorem exec_vaddBf16 c e (s : State) : exec (.vaddBf16 c e) s = execVaddBf16 c e s := rfl
theorem exec_vmulBf16 c e (s : State) : exec (.vmulBf16 c e) s = execVmulBf16 c e s := rfl
theorem exec_vfmaBf16 c e (s : State) : exec (.vfmaBf16 c e) s = execVfmaBf16 c e s := rfl
theorem exec_vaddF16 c e (s : State) : exec (.vaddF16 c e) s = execVaddF16 c e s := rfl
theorem exec_vmulF16 c e (s : State) : exec (.vmulF16 c e) s = execVmulF16 c e s := rfl
theorem exec_vfmaF16 c e (s : State) : exec (.vfmaF16 c e) s = execVfmaF16 c e s := rfl
theorem exec_vaddS16 c e (s : State) : exec (.vaddS16 c e) s = execVaddS16 c e s := rfl
theorem exec_vmulS16 c e (s : State) : exec (.vmulS16 c e) s = execVmulS16 c e s := rfl
theorem exec_vaddS8 c e (s : State) : exec (.vaddS8 c e) s = execVaddS8 c e s := rfl
theorem exec_vmulS8 c e (s : State) : exec (.vmulS8 c e) s = execVmulS8 c e s := rfl
theorem exec_copySectorWrite c k sector (s : State) : exec (.copySectorWrite c k sector) s = execCopySectorWrite c k sector s := rfl
theorem exec_copySectorRetry c k sector (s : State) : exec (.copySectorRetry c k sector) s = execCopySectorRetry c k sector s := rfl
theorem exec_ringSlotCopy c k (s : State) : exec (.ringSlotCopy c k) s = execRingSlotCopy c k s := rfl
theorem exec_updateOnlyEvict c line (s : State) : exec (.updateOnlyEvict c line) s = execUpdateOnlyEvict c line s := rfl
theorem exec_chainEntryComplete c k (s : State) : exec (.chainEntryComplete c k) s = execChainEntryComplete c k s := rfl
theorem exec_seqwTimeout c (s : State) : exec (.seqwTimeout c) s = execSeqwTimeout c s := rfl
theorem exec_tableLoadEntry c slot entry (s : State) : exec (.tableLoadEntry c slot entry) s = execTableLoadEntry c slot entry s := rfl
theorem exec_dispatch p (s : State) : exec (.dispatch p) s = execDispatch p s := rfl
theorem exec_reuseLookup p node asid (s : State) : exec (.reuseLookup p node asid) s = execReuseLookup p node asid s := rfl
theorem exec_schedulerDusk p (s : State) : exec (.schedulerDusk p) s = execSchedulerDusk p s := rfl
theorem exec_tyieldAgeExpiry c (s : State) : exec (.tyieldAgeExpiry c) s = execTyieldAgeExpiry c s := rfl
theorem exec_asyncTrap c (s : State) : exec (.asyncTrap c) s = execAsyncTrap c s := rfl
theorem exec_prtInv v (s : State) : exec (.prtInv v) s = execPrtInv v s := rfl
theorem exec_invalidationComplete p (s : State) : exec (.invalidationComplete p) s = execInvalidationComplete p s := rfl
theorem exec_popMigrate asid (s : State) : exec (.popMigrate asid) s = execPopMigrate asid s := rfl
theorem exec_popDuplicate asid (s : State) : exec (.popDuplicate asid) s = execPopDuplicate asid s := rfl
theorem exec_popCollapse asid (s : State) : exec (.popCollapse asid) s = execPopCollapse asid s := rfl
theorem exec_pageOperationComplete p (s : State) : exec (.pageOperationComplete p) s = execPageOperationComplete p s := rfl
theorem exec_drainTimerExpiry c (s : State) : exec (.drainTimerExpiry c) s = execDrainTimerExpiry c s := rfl
theorem exec_drainTimeout c (s : State) : exec (.drainTimeout c) s = execDrainTimeout c s := rfl
theorem exec_tcmdResume (s : State) : exec .tcmdResume s = execTcmdResume s := rfl
theorem exec_tcmdEnd (s : State) : exec .tcmdEnd s = execTcmdEnd s := rfl
theorem exec_hotvalRead d (s : State) : exec (.hotvalRead d) s = execHotvalRead d s := rfl
theorem exec_frrEnable v (s : State) : exec (.frrEnable v) s = execFrrEnable v s := rfl
theorem exec_frrDisable v (s : State) : exec (.frrDisable v) s = execFrrDisable v s := rfl
theorem exec_schQuotaWrite v (s : State) : exec (.schQuotaWrite v) s = execSchQuotaWrite v s := rfl
theorem exec_prtDusk (s : State) : exec .prtDusk s = execPrtDusk s := rfl
theorem exec_duskStart c (s : State) : exec (.duskStart c) s = execDuskStart c s := rfl
theorem exec_markerPass c site (s : State) : exec (.markerPass c site) s = execMarkerPass c site s := rfl
theorem exec_writePortDrain c p (s : State) : exec (.writePortDrain c p) s = execWritePortDrain c p s := rfl
theorem exec_foreignMarkArrival c site ch (s : State) : exec (.foreignMarkArrival c site ch) s = execForeignMarkArrival c site ch s := rfl
theorem exec_setSwap c (s : State) : exec (.setSwap c) s = execSetSwap c s := rfl
theorem exec_taskResume c (s : State) : exec (.taskResume c) s = execTaskResume c s := rfl
theorem exec_prtRsz v (s : State) : exec (.prtRsz v) s = execPrtRsz v s := rfl
theorem exec_clusterRemovalComplete p cl (s : State) : exec (.clusterRemovalComplete p cl) s = execClusterRemovalComplete p cl s := rfl
theorem exec_prtMove v (s : State) : exec (.prtMove v) s = execPrtMove v s := rfl
theorem exec_ticketExport (s : State) : exec .ticketExport s = execTicketExport s := rfl
theorem exec_ticketImport asid (s : State) : exec (.ticketImport asid) s = execTicketImport asid s := rfl
theorem exec_doorbell p t (s : State) : exec (.doorbell p t) s = execDoorbell p t s := rfl
theorem exec_ringEntryNop p (s : State) : exec (.ringEntryNop p) s = execRingEntryNop p s := rfl
theorem exec_ringEntryGraph p (s : State) : exec (.ringEntryGraph p) s = execRingEntryGraph p s := rfl
theorem exec_ringEntryRecord p (s : State) : exec (.ringEntryRecord p) s = execRingEntryRecord p s := rfl
theorem exec_daybreak tag (s : State) : exec (.daybreak tag) s = execDaybreak tag s := rfl
theorem exec_partCreate tag args (s : State) : exec (.partCreate tag args) s = execPartCreate tag args s := rfl
theorem exec_partDestroy tag p (s : State) : exec (.partDestroy tag p) s = execPartDestroy tag p s := rfl
theorem exec_setTables tag atBase keyBase (s : State) : exec (.setTables tag atBase keyBase) s = execSetTables tag atBase keyBase s := rfl
theorem exec_asidSync tag asid (s : State) : exec (.asidSync tag asid) s = execAsidSync tag asid s := rfl
theorem exec_frrOwner tag range p (s : State) : exec (.frrOwner tag range p) s = execFrrOwner tag range p s := rfl
theorem exec_groupReg tag group members (s : State) : exec (.groupReg tag group members) s = execGroupReg tag group members s := rfl
theorem exec_aperture tag n device enable (s : State) : exec (.aperture tag n device enable) s = execAperture tag n device enable s := rfl
theorem exec_ticketKey tag key (s : State) : exec (.ticketKey tag key) s = execTicketKey tag key s := rfl
theorem exec_clusterMove tag p logical physical (s : State) : exec (.clusterMove tag p logical physical) s = execClusterMove tag p logical physical s := rfl
theorem exec_reset tag clearCount (s : State) : exec (.reset tag clearCount) s = execReset tag clearCount s := rfl
theorem exec_mailboxUnknown tag code (s : State) : exec (.mailboxUnknown tag code) s = execMailboxUnknown tag code s := rfl
theorem exec_hifErrClear v (s : State) : exec (.hifErrClear v) s = execHifErrClear v s := rfl
theorem exec_hostMemRequest req (s : State) : exec (.hostMemRequest req) s = execHostMemRequest req s := rfl
theorem exec_hostWriteSnoop addr bytes (s : State) : exec (.hostWriteSnoop addr bytes) s = execHostWriteSnoop addr bytes s := rfl
theorem exec_druatLoad port f (s : State) : exec (.druatLoad port f) s = execDruatLoad port f s := rfl
theorem exec_druatLoadResponse port f (s : State) : exec (.druatLoadResponse port f) s = execDruatLoadResponse port f s := rfl
theorem exec_druatStore port f (s : State) : exec (.druatStore port f) s = execDruatStore port f s := rfl
theorem exec_druatReduction port f op dbl (s : State) : exec (.druatReduction port f op dbl) s = execDruatReduction port f op dbl s := rfl
theorem exec_druatAcknowledge port f (s : State) : exec (.druatAcknowledge port f) s = execDruatAcknowledge port f s := rfl
theorem exec_druatCollectiveStream port f group rank (s : State) : exec (.druatCollectiveStream port f group rank) s = execDruatCollectiveStream port f group rank s := rfl
theorem exec_druatMigrationStream port f (s : State) : exec (.druatMigrationStream port f) s = execDruatMigrationStream port f s := rfl
theorem exec_druatIdle port f (s : State) : exec (.druatIdle port f) s = execDruatIdle port f s := rfl
theorem exec_flitCrcFail port (s : State) : exec (.flitCrcFail port) s = execFlitCrcFail port s := rfl
theorem exec_portRetrain port (s : State) : exec (.portRetrain port) s = execPortRetrain port s := rfl
theorem exec_portFailed port (s : State) : exec (.portFailed port) s = execPortFailed port s := rfl
theorem exec_powerOnStart (s : State) : exec .powerOnStart s = execPowerOnStart s := rfl
theorem exec_startTimeout (s : State) : exec .startTimeout s = execStartTimeout s := rfl
theorem exec_twilightStart ok step ucie0 (s : State) : exec (.twilightStart ok step ucie0) s = execTwilightStart ok step ucie0 s := rfl
theorem exec_twilightRetry (s : State) : exec .twilightRetry s = execTwilightRetry s := rfl
theorem exec_powerStep island up (s : State) : exec (.powerStep island up) s = execPowerStep island up s := rfl
theorem exec_claimStreamDone c (s : State) : exec (.claimStreamDone c) s = execClaimStreamDone c s := rfl
theorem exec_mailboxResultPosted (s : State) : exec .mailboxResultPosted s = execMailboxResultPosted s := rfl
theorem exec_startComplete failed lanes (s : State) : exec (.startComplete failed lanes) s = execStartComplete failed lanes s := rfl
theorem exec_retrainComplete port ok (s : State) : exec (.retrainComplete port ok) s = execRetrainComplete port ok s := rfl
theorem exec_hostCxlResponse r (s : State) : exec (.hostCxlResponse r) s = execHostCxlResponse r s := rfl
theorem exec_prtFqheadWrite v (s : State) : exec (.prtFqheadWrite v) s = execPrtFqheadWrite v s := rfl
theorem exec_powerLoss (s : State) : exec .powerLoss s = execPowerLoss s := rfl
theorem exec_trayPowerLimit w (s : State) : exec (.trayPowerLimit w) s = execTrayPowerLimit w s := rfl

end Sys2Proof.Machine
end

