-- ==== Sys2Proof/Laws/Memory.lean ====
section
/-! SUPPORT. Laws of device memory and the scratchpad through the operations that write them: what a write changes, and that it keeps the
canonical form. -/

namespace Sys2Proof.Machine

theorem State.foldCopy_wf {s : State} (h : Memory.wf s.mem = true) (line : Nat) (u : UpdateOnly) :
    Memory.wf (s.foldCopy line u).mem = true := by
  unfold State.foldCopy
  generalize u.partials = l
  induction l generalizing s with
  | nil => exact h
  | cons p r ih => exact ih (Memory.wf_setBytes h _ _)

/-- A recall keeps the canonical form. -/
theorem State.recall_wf {s : State} (h : Memory.wf s.mem = true) (line : Nat) : Memory.wf (s.recall line).mem = true := by
  unfold State.recall
  cases tabGet s.updates line with
  | none => exact h
  | some us =>
    have key : ∀ (l : List (Nat × UpdateOnly)) (t : State), Memory.wf t.mem = true →
        Memory.wf (l.foldl (fun t (_, u) => State.foldCopy t line u) t).mem = true := by
      intro l
      induction l with
      | nil => exact fun t h => h
      | cons p r ih => exact fun t h => ih _ (State.foldCopy_wf h _ _)
    exact key us _ h

/-- A line with no update-only copy has nothing to recall. -/
theorem State.recall_none {s : State} {line : Nat} (h : tabGet s.updates line = none) : s.recall line = s := by
  simp [State.recall, h]

theorem State.bumpGen_mem (s : State) (pa : Nat) : (s.bumpGen pa).mem = s.mem := by
  unfold State.bumpGen; split <;> rfl
theorem State.cleanPoison_mem (s : State) (pa n : Nat) : (s.cleanPoison pa n).mem = s.mem := by
  simp only [State.cleanPoison]; split <;> rfl

/-- What a write of device memory leaves there: the bytes, over the line with its update-only copies recalled. -/
theorem State.writeHbm_mem (s : State) (ag : Agent) (pa : Nat) (bs : List Byte) :
    (s.writeHbm ag pa bs).mem = Memory.setBytes (s.recall (lineOf pa)).mem pa bs := by
  unfold State.writeHbm
  simp only []
  split <;> simp [State.bumpGen_mem, State.cleanPoison_mem, State.stampWrites]

/-- A write of device memory keeps the canonical form. -/
theorem State.writeHbm_wf {s : State} (h : Memory.wf s.mem = true) (ag : Agent) (pa : Nat) (bs : List Byte) :
    Memory.wf (s.writeHbm ag pa bs).mem = true := by
  rw [State.writeHbm_mem]
  exact Memory.wf_setBytes (State.recall_wf h _) _ _

/-- A read of device memory keeps the canonical form: it may recall a line. -/
theorem State.readHbm_wf {s : State} (h : Memory.wf s.mem = true) (ag : Agent) (pa n : Nat) :
    Memory.wf (s.readHbm ag pa n).1.mem = true := by
  simp only [State.readHbm]
  split
  · exact h
  · simp only []
    split <;> exact State.recall_wf h _

/-- What a write of a scratchpad leaves there. -/
theorem Core.putSpad_spad (c : Core) (o : Nat) (bs : List Byte) : (c.putSpad o bs).spad = Memory.setBytes c.spad o bs := rfl
theorem Core.putSpad_wf {c : Core} (h : Memory.wf c.spad = true) (o : Nat) (bs : List Byte) :
    Memory.wf (c.putSpad o bs).spad = true := Memory.wf_setBytes h _ _

/-- Memory at reset lists nothing. -/
theorem State.reset_wf : Memory.wf State.reset.mem = true := rfl

/-- Reads of a walk that made none leave the state as it is. -/
@[simp] theorem State.stampReads_nil (s : State) (ag : Agent) : s.stampReads ag [] = s := rfl

/-- Where no page is known to be duplicated, a write by physical address collapses nothing. -/
theorem State.forPhysical_none {s : State} (h : s.dups = []) (ag : Agent) (pa n : Nat) :
    s.forPhysical ag pa n = .ok (s.markWritten pa n) := by
  simp only [State.forPhysical, h, List.filter_nil]; rfl

/-- An operation at the home answers where the host holds no line, no page migrates and none is known to be duplicated. -/
theorem State.atOnce_answers {b t : State} (hc : b.hostCopies = []) (hm : ∀ pa n, b.moving pa n = false) (hd : t.dups = [])
    (ag : Agent) (reads : List Nat) : ∃ u, b.atOnce t ag reads = .ok u := by
  have key : ∀ (l : List Nat) (t : State), t.dups = [] →
      ∃ u, l.foldlM (m := Res) (fun t k => State.forPhysical t ag (128 * k) 128) t = .ok u := by
    intro l
    induction l with
    | nil => exact fun t _ => ⟨t, rfl⟩
    | cons k r ih =>
      intro t h
      obtain ⟨u, hu⟩ := ih (t.markWritten (128 * k) 128) h
      exact ⟨u, by rw [List.foldlM_cons, State.forPhysical_none h]; exact hu⟩
  obtain ⟨u, hu⟩ := key ((t.lines.map (·.1)).filter fun k => (b.lineTs k).1 != (t.lineTs k).1) t hd
  have hf (l : List Nat) : (l.find? fun k => setHas b.hostCopies k) = none := by simp [hc, setHas]
  simp only [State.atOnce, hm, Bool.not_false, List.all_eq_true, await, hf, hu]
  simp [bind, Except.bind]

end Sys2Proof.Machine
end

