-- ==== Sys2Proof/Laws/PerInstr.lean ====
section
/-! SUPPORT. Per instruction: decoding the word that encodes a well-formed control instruction gives that instruction (R48 to R62). -/

set_option linter.unusedSimpArgs false

namespace Sys2Proof.Laws.RoundTrip

/-- An instruction that is well formed and has a word is what its word decodes to. -/
def Statement (i : Instr) : Prop := i.wf = true → encode i ≠ 0 → decode (encode i) = .ok i

theorem candR_01 (f : FR) (h : f.op = 0x01#8) : candidateR f =
    (some (.add f.g f.d f.a f.b)) := by
  cases f; cases h; rfl
theorem candR_02 (f : FR) (h : f.op = 0x02#8) : candidateR f =
    (some (.sub f.g f.d f.a f.b)) := by
  cases f; cases h; rfl
theorem candR_04 (f : FR) (h : f.op = 0x04#8) : candidateR f =
    (some (.mul f.g f.d f.a f.b)) := by
  cases f; cases h; rfl
theorem candR_05 (f : FR) (h : f.op = 0x05#8) : candidateR f =
    (some (.mulh f.g f.d f.a f.b)) := by
  cases f; cases h; rfl
theorem candR_06 (f : FR) (h : f.op = 0x06#8) : candidateR f =
    (some (.mulhz f.g f.d f.a f.b)) := by
  cases f; cases h; rfl
theorem candR_07 (f : FR) (h : f.op = 0x07#8) : candidateR f =
    (some (.div f.g f.d f.a f.b)) := by
  cases f; cases h; rfl
theorem candR_08 (f : FR) (h : f.op = 0x08#8) : candidateR f =
    (some (.divz f.g f.d f.a f.b)) := by
  cases f; cases h; rfl
theorem candR_09 (f : FR) (h : f.op = 0x09#8) : candidateR f =
    (some (.rem f.g f.d f.a f.b)) := by
  cases f; cases h; rfl
theorem candR_0A (f : FR) (h : f.op = 0x0A#8) : candidateR f =
    (some (.remz f.g f.d f.a f.b)) := by
  cases f; cases h; rfl
theorem candR_0B (f : FR) (h : f.op = 0x0B#8) : candidateR f =
    (some (.and f.g f.d f.a f.b)) := by
  cases f; cases h; rfl
theorem candR_0C (f : FR) (h : f.op = 0x0C#8) : candidateR f =
    (some (.or f.g f.d f.a f.b)) := by
  cases f; cases h; rfl
theorem candR_0D (f : FR) (h : f.op = 0x0D#8) : candidateR f =
    (some (.xor f.g f.d f.a f.b)) := by
  cases f; cases h; rfl
theorem candR_0E (f : FR) (h : f.op = 0x0E#8) : candidateR f =
    (some (.andn f.g f.d f.a f.b)) := by
  cases f; cases h; rfl
theorem candR_0F (f : FR) (h : f.op = 0x0F#8) : candidateR f =
    (if (f.fn).extractLsb' 6 5 = 0#5 then some (.shlReg f.g f.d f.a f.b)
    else if (f.fn).extractLsb' 6 5 = 1#5 then some (.shlImm f.g f.d f.a ((f.fn).extractLsb' 0 6))
    else none) := by
  cases f; cases h; rfl
theorem candR_10 (f : FR) (h : f.op = 0x10#8) : candidateR f =
    (if (f.fn).extractLsb' 6 5 = 0#5 then some (.shrReg f.g f.d f.a f.b)
    else if (f.fn).extractLsb' 6 5 = 1#5 then some (.shrImm f.g f.d f.a ((f.fn).extractLsb' 0 6))
    else none) := by
  cases f; cases h; rfl
theorem candR_11 (f : FR) (h : f.op = 0x11#8) : candidateR f =
    (if (f.fn).extractLsb' 6 5 = 0#5 then some (.shaReg f.g f.d f.a f.b)
    else if (f.fn).extractLsb' 6 5 = 1#5 then some (.shaImm f.g f.d f.a ((f.fn).extractLsb' 0 6))
    else none) := by
  cases f; cases h; rfl
theorem candR_12 (f : FR) (h : f.op = 0x12#8) : candidateR f =
    (if (f.fn).extractLsb' 6 5 = 0#5 then some (.rotReg f.g f.d f.a f.b)
    else if (f.fn).extractLsb' 6 5 = 1#5 then some (.rotImm f.g f.d f.a ((f.fn).extractLsb' 0 6))
    else none) := by
  cases f; cases h; rfl
theorem candR_13 (f : FR) (h : f.op = 0x13#8) : candidateR f =
    (some (.min f.g f.d f.a f.b)) := by
  cases f; cases h; rfl
theorem candR_14 (f : FR) (h : f.op = 0x14#8) : candidateR f =
    (some (.max f.g f.d f.a f.b)) := by
  cases f; cases h; rfl
theorem candR_15 (f : FR) (h : f.op = 0x15#8) : candidateR f =
    (some (.minz f.g f.d f.a f.b)) := by
  cases f; cases h; rfl
theorem candR_16 (f : FR) (h : f.op = 0x16#8) : candidateR f =
    (some (.maxz f.g f.d f.a f.b)) := by
  cases f; cases h; rfl
theorem candR_17 (f : FR) (h : f.op = 0x17#8) : candidateR f =
    (if (f.fn).extractLsb' 6 5 = 0#5 then some (.clz f.g f.d f.a)
    else if (f.fn).extractLsb' 6 5 = 1#5 then some (.popc f.g f.d f.a)
    else none) := by
  cases f; cases h; rfl
theorem candR_18 (f : FR) (h : f.op = 0x18#8) : candidateR f =
    (if (f.fn).extractLsb' 6 5 = 0#5 then some (.bfx f.g f.d f.a f.b f.c)
    else if (f.fn).extractLsb' 6 5 = 1#5 then some (.bfxS f.g f.d f.a f.b f.c)
    else none) := by
  cases f; cases h; rfl
theorem candR_19 (f : FR) (h : f.op = 0x19#8) : candidateR f =
    (some (.bfi f.g f.d f.a f.b f.c)) := by
  cases f; cases h; rfl
theorem candR_1C (f : FR) (h : f.op = 0x1C#8) : candidateR f =
    (some (.addsh f.g f.d f.a f.b ((f.fn).extractLsb' 0 6))) := by
  cases f; cases h; rfl
theorem candR_1D (f : FR) (h : f.op = 0x1D#8) : candidateR f =
    (some (.mad f.g f.d f.a f.b f.c)) := by
  cases f; cases h; rfl
theorem candR_1E (f : FR) (h : f.op = 0x1E#8) : candidateR f =
    (do let cond ← Cond.ofCode ((f.fn).extractLsb' 0 6); pure (.cmp f.g ((f.d).extractLsb' 0 4) f.a f.b cond)) := by
  cases f; cases h; rfl
theorem candR_1F (f : FR) (h : f.op = 0x1F#8) : candidateR f =
    (some (.sel f.g f.d ((f.c).extractLsb' 0 4) f.a f.b)) := by
  cases f; cases h; rfl
theorem candI_1A (f : FI) (h : f.op = 0x1A#8) : candidateI f =
    (some (.movi f.g f.d f.imm)) := by
  cases f; cases h; rfl
theorem candI_1B (f : FI) (h : f.op = 0x1B#8) : candidateI f =
    (some (.movhi f.g f.d f.imm)) := by
  cases f; cases h; rfl
theorem candI_03 (f : FI) (h : f.op = 0x03#8) : candidateI f =
    (some (.addi f.g f.d f.a f.imm)) := by
  cases f; cases h; rfl
theorem candR_26 (f : FR) (h : f.op = 0x26#8) : candidateR f =
    (some (.pand f.g ((f.d).extractLsb' 0 4) ((f.a).extractLsb' 0 4) ((f.b).extractLsb' 0 4) ((f.fn).getLsbD 0) ((f.fn).getLsbD 1))) := by
  cases f; cases h; rfl
theorem candR_27 (f : FR) (h : f.op = 0x27#8) : candidateR f =
    (some (.por f.g ((f.d).extractLsb' 0 4) ((f.a).extractLsb' 0 4) ((f.b).extractLsb' 0 4) ((f.fn).getLsbD 0) ((f.fn).getLsbD 1))) := by
  cases f; cases h; rfl
theorem candR_28 (f : FR) (h : f.op = 0x28#8) : candidateR f =
    (some (.pnot f.g ((f.d).extractLsb' 0 4) ((f.a).extractLsb' 0 4))) := by
  cases f; cases h; rfl
theorem candB_20 (f : FB) (h : f.op = 0x20#8) : candidateB f =
    (some (.br f.g f.off)) := by
  cases f; cases h; rfl
theorem candB_22 (f : FB) (h : f.op = 0x22#8) : candidateB f =
    (some (.jal f.g f.off)) := by
  cases f; cases h; rfl
theorem candR_23 (f : FR) (h : f.op = 0x23#8) : candidateR f =
    (some (.jr f.g f.d f.a)) := by
  cases f; cases h; rfl
theorem candB_21 (f : FB) (h : f.op = 0x21#8) : candidateB f =
    (if f.kind = 0#3 then some (.brcL1 f.g f.off)
    else if f.kind = 1#3 then some (.brcAll f.g f.off)
    else none) := by
  cases f; cases h; rfl
theorem candR_24 (f : FR) (h : f.op = 0x24#8) : candidateR f =
    (some (.loop f.g ((f.fn).getLsbD 10) f.a ((f.fn).extractLsb' 0 10))) := by
  cases f; cases h; rfl
theorem candI_25 (f : FI) (h : f.op = 0x25#8) : candidateI f =
    (some (.loopi f.g ((f.q).getLsbD 6) ((f.imm).extractLsb' 22 10) ((f.imm).extractLsb' 0 22))) := by
  cases f; cases h; rfl
theorem candX_29 (f : FX) (h : f.op = 0x29#8) : candidateX f =
    (some (.nop f.g)) := by
  cases f; cases h; rfl
theorem candM_30 (f : FM) (h : f.op = 0x30#8) : candidateM f =
    (do let sz ← Size.ofCode (f.size); pure (.ld f.g f.d ⟨f.base, f.index, f.scale, f.disp⟩ ((f.q).getLsbD 1) ((f.q).getLsbD 0) sz)) := by
  cases f; cases h; rfl
theorem candM_31 (f : FM) (h : f.op = 0x31#8) : candidateM f =
    (do let sz ← Size.ofCode (f.size); pure (.st f.g f.d ⟨f.base, f.index, f.scale, f.disp⟩ ((f.q).getLsbD 1) sz)) := by
  cases f; cases h; rfl
theorem candI_A2 (f : FI) (h : f.op = 0xA2#8) : candidateI f =
    (some (.csrr f.g f.d ((f.imm).extractLsb' 0 12))) := by
  cases f; cases h; rfl
theorem candI_A3 (f : FI) (h : f.op = 0xA3#8) : candidateI f =
    (if f.q = 0#7 then some (.csrw f.g ((f.imm).extractLsb' 0 12) f.a)
    else if f.q = 1#7 then some (.csrwSet f.g ((f.imm).extractLsb' 0 12) f.a)
    else if f.q = 2#7 then some (.csrwClr f.g ((f.imm).extractLsb' 0 12) f.a)
    else none) := by
  cases f; cases h; rfl
theorem candX_A0 (f : FX) (h : f.op = 0xA0#8) : candidateX f =
    (some (.trap f.g ((f.imm).extractLsb' 0 16))) := by
  cases f; cases h; rfl
theorem candX_A1 (f : FX) (h : f.op = 0xA1#8) : candidateX f =
    (if f.fn = 0#8 then some (.eret f.g)
    else if f.fn = 1#8 then some (.eretTask f.g)
    else none) := by
  cases f; cases h; rfl
theorem candX_A4 (f : FX) (h : f.op = 0xA4#8) : candidateX f =
    (some (.wfe f.g f.imm)) := by
  cases f; cases h; rfl
theorem candX_A5 (f : FX) (h : f.op = 0xA5#8) : candidateX f =
    (if f.fn = 0#8 then some (.sevAll f.g)
    else if f.fn = 1#8 then some (.sevOne f.g ((f.imm).extractLsb' 0 10))
    else if f.fn = 2#8 then some (.sevClus f.g)
    else none) := by
  cases f; cases h; rfl
theorem candX_A6 (f : FX) (h : f.op = 0xA6#8) : candidateX f =
    (if f.fn = 0#8 then some (.hintSpin f.g)
    else if f.fn = 1#8 then some (.hintPf f.g f.imm)
    else none) := by
  cases f; cases h; rfl
theorem candR_60 (f : FR) (h : f.op = 0x60#8) : candidateR f =
    (do let ty ← Ty.ofCode ((f.fn).extractLsb' 6 5); pure (.mma f.g f.d f.a f.b f.c ty (((f.fn).extractLsb' 0 2).getLsbD 0))) := by
  cases f; cases h; rfl
theorem candR_61 (f : FR) (h : f.op = 0x61#8) : candidateR f =
    (do let ty ← Ty.ofCode ((f.fn).extractLsb' 6 5); pure (.mmas f.g f.d f.a f.b f.c ty (((f.fn).extractLsb' 0 2).getLsbD 0))) := by
  cases f; cases h; rfl
theorem candR_65 (f : FR) (h : f.op = 0x65#8) : candidateR f =
    (do let ty ← Ty.ofCode ((f.fn).extractLsb' 6 5); pure (.prune f.g f.d f.a f.b f.c ty (((f.fn).extractLsb' 0 2).getLsbD 0))) := by
  cases f; cases h; rfl
theorem candR_62 (f : FR) (h : f.op = 0x62#8) : candidateR f =
    (some (.mzero f.g f.d)) := by
  cases f; cases h; rfl
theorem candR_63 (f : FR) (h : f.op = 0x63#8) : candidateR f =
    (do let ty ← Ty.ofCode ((f.fn).extractLsb' 6 5); let rnd ← Rnd.ofCode ((f.fn).extractLsb' 3 3); pure (.mld f.g f.d f.a ty rnd)) := by
  cases f; cases h; rfl
theorem candR_64 (f : FR) (h : f.op = 0x64#8) : candidateR f =
    (do let ty ← Ty.ofCode ((f.fn).extractLsb' 6 5); let rnd ← Rnd.ofCode ((f.fn).extractLsb' 3 3); pure (.mst f.g f.d f.a ty rnd ((f.fn).getLsbD 2))) := by
  cases f; cases h; rfl
theorem candR_70 (f : FR) (h : f.op = 0x70#8) : candidateR f =
    (do let rnd ← Rnd.ofCode ((f.fn).extractLsb' 3 3); let form ← OpForm.ofCode ((f.fn).extractLsb' 0 2); pure (.aadd f.g f.d f.a f.b form rnd ((f.fn).getLsbD 2))) := by
  cases f; cases h; rfl
theorem candR_71 (f : FR) (h : f.op = 0x71#8) : candidateR f =
    (do let rnd ← Rnd.ofCode ((f.fn).extractLsb' 3 3); let form ← OpForm.ofCode ((f.fn).extractLsb' 0 2); pure (.amul f.g f.d f.a f.b form rnd ((f.fn).getLsbD 2))) := by
  cases f; cases h; rfl
theorem candR_72 (f : FR) (h : f.op = 0x72#8) : candidateR f =
    (do let rnd ← Rnd.ofCode ((f.fn).extractLsb' 3 3); let form ← OpForm.ofCode ((f.fn).extractLsb' 0 2); pure (.afma f.g f.d f.a f.b f.c form rnd ((f.fn).getLsbD 2))) := by
  cases f; cases h; rfl
theorem candR_73 (f : FR) (h : f.op = 0x73#8) : candidateR f =
    (do let form ← OpForm.ofCode ((f.fn).extractLsb' 0 2); pure (.amax f.g f.d f.a f.b form)) := by
  cases f; cases h; rfl
theorem candR_74 (f : FR) (h : f.op = 0x74#8) : candidateR f =
    (do let form ← OpForm.ofCode ((f.fn).extractLsb' 0 2); pure (.amin f.g f.d f.a f.b form)) := by
  cases f; cases h; rfl
theorem candR_75 (f : FR) (h : f.op = 0x75#8) : candidateR f =
    (some (.aexp2 f.g f.d f.a ((f.fn).getLsbD 2))) := by
  cases f; cases h; rfl
theorem candR_76 (f : FR) (h : f.op = 0x76#8) : candidateR f =
    (some (.alog2 f.g f.d f.a ((f.fn).getLsbD 2))) := by
  cases f; cases h; rfl
theorem candR_77 (f : FR) (h : f.op = 0x77#8) : candidateR f =
    (some (.arcp f.g f.d f.a ((f.fn).getLsbD 2))) := by
  cases f; cases h; rfl
theorem candR_78 (f : FR) (h : f.op = 0x78#8) : candidateR f =
    (some (.arsq f.g f.d f.a ((f.fn).getLsbD 2))) := by
  cases f; cases h; rfl
theorem candR_79 (f : FR) (h : f.op = 0x79#8) : candidateR f =
    (if (f.fn).extractLsb' 0 2 = 0#2 then some (.asig f.g f.d f.a ((f.fn).getLsbD 2))
    else if (f.fn).extractLsb' 0 2 = 1#2 then some (.asigTanh f.g f.d f.a ((f.fn).getLsbD 2))
    else if (f.fn).extractLsb' 0 2 = 2#2 then some (.asigSilu f.g f.d f.a ((f.fn).getLsbD 2))
    else if (f.fn).extractLsb' 0 2 = 3#2 then some (.asigExpe f.g f.d f.a ((f.fn).getLsbD 2))
    else none) := by
  cases f; cases h; rfl
theorem candR_7A (f : FR) (h : f.op = 0x7A#8) : candidateR f =
    (if (f.fn).extractLsb' 0 2 = 0#2 then do let rnd ← Rnd.ofCode ((f.fn).extractLsb' 3 3); pure (.aredSum f.g f.d f.a rnd ((f.fn).getLsbD 2))
    else if (f.fn).extractLsb' 0 2 = 1#2 then some (.aredMax f.g f.d f.a)
    else if (f.fn).extractLsb' 0 2 = 2#2 then some (.aredMin f.g f.d f.a)
    else none) := by
  cases f; cases h; rfl
theorem candR_7B (f : FR) (h : f.op = 0x7B#8) : candidateR f =
    (if (f.fn).extractLsb' 0 2 = 0#2 then some (.abcast f.g f.d f.a)
    else if (f.fn).extractLsb' 0 2 = 1#2 then do let ty ← Ty.ofCode ((f.fn).extractLsb' 6 5); pure (.abcastRow f.g f.d f.a ty)
    else if (f.fn).extractLsb' 0 2 = 2#2 then do let ty ← Ty.ofCode ((f.fn).extractLsb' 6 5); pure (.abcastColv f.g f.d f.a ty)
    else none) := by
  cases f; cases h; rfl
theorem candR_7C (f : FR) (h : f.op = 0x7C#8) : candidateR f =
    (some (.amov f.g f.d f.a)) := by
  cases f; cases h; rfl
theorem candR_7D (f : FR) (h : f.op = 0x7D#8) : candidateR f =
    (if (f.fn).extractLsb' 0 2 = 0#2 then do let ty ← Ty.ofCode ((f.fn).extractLsb' 6 5); let rnd ← Rnd.ofCode ((f.fn).extractLsb' 3 3); pure (.acvt f.g f.d f.a f.b ty rnd ((f.fn).getLsbD 2))
    else if (f.fn).extractLsb' 0 2 = 1#2 then do let ty ← Ty.ofCode ((f.fn).extractLsb' 6 5); let rnd ← Rnd.ofCode ((f.fn).extractLsb' 3 3); pure (.acvtB32 f.g f.d f.a f.b ty rnd ((f.fn).getLsbD 2))
    else none) := by
  cases f; cases h; rfl
theorem candR_9F (f : FR) (h : f.op = 0x9F#8) : candidateR f =
    (if (f.fn).extractLsb' 6 5 = 0#5 then some (.rngld f.g f.a f.b)
    else if (f.fn).extractLsb' 6 5 = 1#5 then some (.rngst f.g f.d f.b)
    else if (f.fn).extractLsb' 6 5 = 2#5 then some (.rand f.g f.d)
    else none) := by
  cases f; cases h; rfl
theorem candR_80 (f : FR) (h : f.op = 0x80#8) : candidateR f =
    (some (.abind f.g ((f.fn).extractLsb' 0 3) f.a f.b ((f.fn).getLsbD 3))) := by
  cases f; cases h; rfl
theorem candR_81 (f : FR) (h : f.op = 0x81#8) : candidateR f =
    (some (.attn f.g ((f.fn).extractLsb' 0 3) f.d f.a f.b f.c ((f.fn).getLsbD 3))) := by
  cases f; cases h; rfl
theorem candR_82 (f : FR) (h : f.op = 0x82#8) : candidateR f =
    (some (.tmerge f.g f.d f.a f.b)) := by
  cases f; cases h; rfl
theorem candR_83 (f : FR) (h : f.op = 0x83#8) : candidateR f =
    (some (.kvmap f.g f.d f.a f.b)) := by
  cases f; cases h; rfl
theorem candR_84 (f : FR) (h : f.op = 0x84#8) : candidateR f =
    (some (.kvapp f.g f.a f.b f.c)) := by
  cases f; cases h; rfl
theorem candR_85 (f : FR) (h : f.op = 0x85#8) : candidateR f =
    (if f.fn = 0#11 then some (.kvfork f.g f.d f.a)
    else if f.fn = 1#11 then some (.kvforkCow f.g f.d f.a)
    else none) := by
  cases f; cases h; rfl
theorem candR_86 (f : FR) (h : f.op = 0x86#8) : candidateR f =
    (some (.kvtrunc f.g f.a f.b)) := by
  cases f; cases h; rfl
theorem candR_87 (f : FR) (h : f.op = 0x87#8) : candidateR f =
    (some (.kvrel f.g f.a)) := by
  cases f; cases h; rfl
theorem candR_88 (f : FR) (h : f.op = 0x88#8) : candidateR f =
    (some (.kvret f.g f.a f.b f.c)) := by
  cases f; cases h; rfl
theorem candR_89 (f : FR) (h : f.op = 0x89#8) : candidateR f =
    (some (.kvcompact f.g f.a f.b f.c)) := by
  cases f; cases h; rfl
theorem candR_8A (f : FR) (h : f.op = 0x8A#8) : candidateR f =
    (if f.fn = 0#11 then some (.kvqLen f.g f.d f.a)
    else if f.fn = 1#11 then some (.kvqMap f.g f.d f.a)
    else if f.fn = 2#11 then some (.kvqFrame f.g f.d f.a)
    else if f.fn = 3#11 then some (.kvqState f.g f.d f.a)
    else none) := by
  cases f; cases h; rfl
theorem candR_8B (f : FR) (h : f.op = 0x8B#8) : candidateR f =
    (if f.fn = 0#11 then some (.pxlkp f.g f.d f.a f.b)
    else if f.fn = 1#11 then some (.pxlkpDrop f.g f.d f.a f.b)
    else none) := by
  cases f; cases h; rfl
theorem candR_8C (f : FR) (h : f.op = 0x8C#8) : candidateR f =
    (some (.pxins f.g f.d f.a f.b)) := by
  cases f; cases h; rfl
theorem candS_40 (f : FS) (h : f.op = 0x40#8) : candidateS f =
    (if f.fn = 0#21 then some (.cfg f.g f.a)
    else if f.fn = 1#21 then some (.cfgStg f.g f.a)
    else none) := by
  cases f; cases h; rfl
theorem candS_41 (f : FS) (h : f.op = 0x41#8) : candidateS f =
    (some (.cfgsw f.g)) := by
  cases f; cases h; rfl
theorem candS_42 (f : FS) (h : f.op = 0x42#8) : candidateS f =
    (do let mode ← StrmMode.ofCode ((f.fn).extractLsb' 16 5); let ty ← Ty.ofCode ((f.fn).extractLsb' 11 5); let sc ← Scope.ofCode ((f.fn).extractLsb' 8 3); pure (.strm f.g ((f.port).extractLsb' 0 4) f.a f.b f.c mode ty sc ((f.fn).getLsbD 7))) := by
  cases f; cases h; rfl
theorem candS_43 (f : FS) (h : f.op = 0x43#8) : candidateS f =
    (if f.fn = 0#21 then some (.sbar f.g f.a)
    else if f.fn = 1#21 then some (.sbarOrd f.g f.a)
    else none) := by
  cases f; cases h; rfl
theorem candS_44 (f : FS) (h : f.op = 0x44#8) : candidateS f =
    (some (.btok f.g f.a ((f.fn).extractLsb' 0 5) ((f.fn).getLsbD 5))) := by
  cases f; cases h; rfl
theorem candS_45 (f : FS) (h : f.op = 0x45#8) : candidateS f =
    (some (.argw f.g ((f.port).extractLsb' 0 4) f.a)) := by
  cases f; cases h; rfl
theorem candS_46 (f : FS) (h : f.op = 0x46#8) : candidateS f =
    (some (.tinj f.g ((f.fn).extractLsb' 0 2) f.a)) := by
  cases f; cases h; rfl
theorem candS_47 (f : FS) (h : f.op = 0x47#8) : candidateS f =
    (some (.tpop f.g f.d ((f.fn).extractLsb' 0 2))) := by
  cases f; cases h; rfl
theorem candS_48 (f : FS) (h : f.op = 0x48#8) : candidateS f =
    (if f.fn = 0#21 then some (.fstat f.g f.d ((f.port).extractLsb' 0 5))
    else if f.fn = 1#21 then some (.fstatAll f.g f.d)
    else none) := by
  cases f; cases h; rfl
theorem candS_49 (f : FS) (h : f.op = 0x49#8) : candidateS f =
    (some (.slotf f.g f.a f.b ((f.fn).getLsbD 0))) := by
  cases f; cases h; rfl
theorem candR_50 (f : FR) (h : f.op = 0x50#8) : candidateR f =
    (if (f.fn).extractLsb' 8 3 = 0#3 then do let sc ← Scope.ofCode ((f.fn).extractLsb' 0 3); pure (.cpyG2s f.g f.d f.a f.b f.c ((f.fn).getLsbD 4) ((f.fn).getLsbD 3) sc)
    else if (f.fn).extractLsb' 8 3 = 1#3 then do let sc ← Scope.ofCode ((f.fn).extractLsb' 0 3); pure (.cpyS2g f.g f.d f.a f.b f.c ((f.fn).getLsbD 3) sc)
    else if (f.fn).extractLsb' 8 3 = 2#3 then do let sc ← Scope.ofCode ((f.fn).extractLsb' 0 3); pure (.cpyG2g f.g f.d f.a f.b f.c ((f.fn).getLsbD 3) sc)
    else if (f.fn).extractLsb' 8 3 = 3#3 then do let sc ← Scope.ofCode ((f.fn).extractLsb' 0 3); pure (.cpyS2s f.g f.d f.a f.b f.c ((f.fn).getLsbD 4) ((f.fn).getLsbD 3) sc)
    else if (f.fn).extractLsb' 8 3 = 4#3 then some (.cpyRing f.g f.a f.b ((f.fn).getLsbD 3))
    else none) := by
  cases f; cases h; rfl
theorem candI_51 (f : FI) (h : f.op = 0x51#8) : candidateI f =
    (some (.tbinit f.g f.a f.imm ((f.q).getLsbD 6))) := by
  cases f; cases h; rfl
theorem candR_52 (f : FR) (h : f.op = 0x52#8) : candidateR f =
    (some (.tbexp f.g f.a f.b ((f.fn).getLsbD 3))) := by
  cases f; cases h; rfl
theorem candR_53 (f : FR) (h : f.op = 0x53#8) : candidateR f =
    (do let sc ← Scope.ofCode ((f.fn).extractLsb' 0 3); pure (.tbarr f.g f.a ((f.fn).getLsbD 3) sc)) := by
  cases f; cases h; rfl
theorem candI_54 (f : FI) (h : f.op = 0x54#8) : candidateI f =
    (do let sc ← Scope.ofCode ((f.q).extractLsb' 3 3); pure (.tbwait f.g f.a ((f.imm).extractLsb' 0 4) ((f.q).getLsbD 6) sc)) := by
  cases f; cases h; rfl
theorem candI_55 (f : FI) (h : f.op = 0x55#8) : candidateI f =
    (do let sc ← Scope.ofCode ((f.q).extractLsb' 3 3); pure (.tbtest f.g ((f.d).extractLsb' 0 4) f.a ((f.imm).extractLsb' 0 4) ((f.q).getLsbD 6) sc)) := by
  cases f; cases h; rfl
theorem candM_35 (f : FM) (h : f.op = 0x35#8) : candidateM f =
    (do let op ← AmoOp.ofCode (f.q); pure (.amo f.g f.d ⟨f.base, f.index, f.scale, f.disp⟩ op ((f.size).getLsbD 0))) := by
  cases f; cases h; rfl
theorem candM_37 (f : FM) (h : f.op = 0x37#8) : candidateM f =
    (do let op ← AmoOp.ofCode (f.q); pure (.red f.g f.d ⟨f.base, f.index, f.scale, f.disp⟩ op ((f.size).getLsbD 0))) := by
  cases f; cases h; rfl
theorem candM_38 (f : FM) (h : f.op = 0x38#8) : candidateM f =
    (do let op ← AmoOp.ofCodeF ((f.q).extractLsb' 0 2); pure (.amof f.g f.d ⟨f.base, f.index, f.scale, f.disp⟩ op ((f.q).getLsbD 2) ((f.size).getLsbD 0))) := by
  cases f; cases h; rfl
theorem candR_36 (f : FR) (h : f.op = 0x36#8) : candidateR f =
    (some (.cas f.g f.d f.a f.b f.c ((f.fn).getLsbD 1) ((f.fn).getLsbD 0))) := by
  cases f; cases h; rfl
theorem candM_32 (f : FM) (h : f.op = 0x32#8) : candidateM f =
    (do let sz ← Size.ofCode (f.size); pure (.ldfe f.g f.d ⟨f.base, f.index, f.scale, f.disp⟩ ((f.q).getLsbD 0) sz)) := by
  cases f; cases h; rfl
theorem candM_33 (f : FM) (h : f.op = 0x33#8) : candidateM f =
    (do let sz ← Size.ofCode (f.size); pure (.stfe f.g f.d ⟨f.base, f.index, f.scale, f.disp⟩ sz)) := by
  cases f; cases h; rfl
theorem candM_34 (f : FM) (h : f.op = 0x34#8) : candidateM f =
    (do let sz ← Size.ofCode (f.size); pure (.pref f.g ⟨f.base, f.index, f.scale, f.disp⟩ ((f.q).getLsbD 0) sz)) := by
  cases f; cases h; rfl
theorem candX_39 (f : FX) (h : f.op = 0x39#8) : candidateX f =
    (do let sc ← Scope.ofCode ((f.fn).extractLsb' 0 3); pure (.fence f.g sc)) := by
  cases f; cases h; rfl
theorem candR_56 (f : FR) (h : f.op = 0x56#8) : candidateR f =
    (if (f.fn).extractLsb' 8 3 = 0#3 then do let sc ← Scope.ofCode ((f.fn).extractLsb' 0 3); pure (.chainCpy f.g f.a f.b sc)
    else if (f.fn).extractLsb' 8 3 = 1#3 then do let sc ← Scope.ofCode ((f.fn).extractLsb' 0 3); pure (.chainColl f.g f.a f.b sc)
    else none) := by
  cases f; cases h; rfl
theorem candI_57 (f : FI) (h : f.op = 0x57#8) : candidateI f =
    (do let sc ← Scope.ofCode ((f.q).extractLsb' 3 3); pure (.seqw f.g f.d f.a f.imm ((f.q).getLsbD 6) sc)) := by
  cases f; cases h; rfl
theorem candR_58 (f : FR) (h : f.op = 0x58#8) : candidateR f =
    (if (f.fn).extractLsb' 8 3 = 0#3 then do let ty ← Ty.ofCode ((f.fn).extractLsb' 3 5); pure (.collSum f.g f.d f.a f.b f.c ty)
    else if (f.fn).extractLsb' 8 3 = 1#3 then do let ty ← Ty.ofCode ((f.fn).extractLsb' 3 5); pure (.collMax f.g f.d f.a f.b f.c ty)
    else if (f.fn).extractLsb' 8 3 = 2#3 then do let ty ← Ty.ofCode ((f.fn).extractLsb' 3 5); pure (.collMin f.g f.d f.a f.b f.c ty)
    else if (f.fn).extractLsb' 8 3 = 3#3 then do let ty ← Ty.ofCode ((f.fn).extractLsb' 3 5); pure (.collBcast f.g f.d f.a f.b f.c ty)
    else if (f.fn).extractLsb' 8 3 = 4#3 then do let ty ← Ty.ofCode ((f.fn).extractLsb' 3 5); pure (.collAgath f.g f.d f.a f.b f.c ty)
    else if (f.fn).extractLsb' 8 3 = 5#3 then do let ty ← Ty.ofCode ((f.fn).extractLsb' 3 5); pure (.collRscat f.g f.d f.a f.b f.c ty)
    else none) := by
  cases f; cases h; rfl
theorem candR_3A (f : FR) (h : f.op = 0x3A#8) : candidateR f =
    (some (.spl f.g ((f.fn).extractLsb' 0 4) f.a f.b f.c)) := by
  cases f; cases h; rfl
theorem candR_3B (f : FR) (h : f.op = 0x3B#8) : candidateR f =
    (some (.fil f.g ((f.fn).extractLsb' 0 4) f.a f.b)) := by
  cases f; cases h; rfl
theorem candR_90 (f : FR) (h : f.op = 0x90#8) : candidateR f =
    (do let ty ← Ty.ofCode ((f.fn).extractLsb' 6 5); pure (.bslice f.g f.d f.a ty ((f.fn).extractLsb' 0 6))) := by
  cases f; cases h; rfl
theorem candR_91 (f : FR) (h : f.op = 0x91#8) : candidateR f =
    (do let ty ← Ty.ofCode ((f.fn).extractLsb' 6 5); pure (.bjoin f.g f.d f.a ty ((f.fn).extractLsb' 0 6))) := by
  cases f; cases h; rfl
theorem candR_92 (f : FR) (h : f.op = 0x92#8) : candidateR f =
    (some (.lctx f.g ((f.fn).extractLsb' 0 2) f.a)) := by
  cases f; cases h; rfl
theorem candR_93 (f : FR) (h : f.op = 0x93#8) : candidateR f =
    (some (.lsel f.g ((f.fn).extractLsb' 0 2))) := by
  cases f; cases h; rfl
theorem candR_94 (f : FR) (h : f.op = 0x94#8) : candidateR f =
    (some (.lrun f.g)) := by
  cases f; cases h; rfl
theorem candR_95 (f : FR) (h : f.op = 0x95#8) : candidateR f =
    (if (f.fn).extractLsb' 8 3 = 0#3 then some (.lstatPop f.g f.d f.a)
    else if (f.fn).extractLsb' 8 3 = 1#3 then some (.lstatWord f.g f.d f.a ((f.fn).extractLsb' 0 2))
    else if (f.fn).extractLsb' 8 3 = 2#3 then some (.lstatSlot f.g f.d ((f.fn).extractLsb' 0 2))
    else if (f.fn).extractLsb' 8 3 = 3#3 then some (.lstatRuns f.g f.d)
    else none) := by
  cases f; cases h; rfl
theorem candR_98 (f : FR) (h : f.op = 0x98#8) : candidateR f =
    (some (.tenq f.g f.a f.b)) := by
  cases f; cases h; rfl
theorem candR_99 (f : FR) (h : f.op = 0x99#8) : candidateR f =
    (if f.fn = 0#11 then some (.launch f.g f.a)
    else if f.fn = 1#11 then some (.launchArg f.g f.a f.b)
    else none) := by
  cases f; cases h; rfl
theorem candR_9A (f : FR) (h : f.op = 0x9A#8) : candidateR f =
    (some (.gsig f.g f.a f.b)) := by
  cases f; cases h; rfl
theorem candX_9B (f : FX) (h : f.op = 0x9B#8) : candidateX f =
    (some (.tend f.g)) := by
  cases f; cases h; rfl
theorem candX_9C (f : FX) (h : f.op = 0x9C#8) : candidateX f =
    (some (.tyield f.g)) := by
  cases f; cases h; rfl
theorem candR_9D (f : FR) (h : f.op = 0x9D#8) : candidateR f =
    (if (f.fn).extractLsb' 8 3 = 0#3 then some (.rinvTag f.g f.d f.a)
    else if (f.fn).extractLsb' 8 3 = 1#3 then some (.rinvRange f.g f.d f.a f.b)
    else if (f.fn).extractLsb' 8 3 = 2#3 then some (.rinvAll f.g f.d)
    else if (f.fn).extractLsb' 8 3 = 3#3 then some (.rinvAsid f.g f.d f.a)
    else none) := by
  cases f; cases h; rfl
theorem candR_9E (f : FR) (h : f.op = 0x9E#8) : candidateR f =
    (if (f.fn).extractLsb' 8 3 = 0#3 then some (.rstatLkp f.g f.d)
    else if (f.fn).extractLsb' 8 3 = 1#3 then some (.rstatHit f.g f.d)
    else if (f.fn).extractLsb' 8 3 = 2#3 then some (.rstatMiss f.g f.d)
    else if (f.fn).extractLsb' 8 3 = 3#3 then some (.rstatIns f.g f.d)
    else if (f.fn).extractLsb' 8 3 = 4#3 then some (.rstatProbe f.g f.d f.a)
    else if (f.fn).extractLsb' 8 3 = 5#3 then some (.rstatHeld f.g f.d)
    else if (f.fn).extractLsb' 8 3 = 6#3 then some (.rstatQuota f.g f.d)
    else none) := by
  cases f; cases h; rfl
theorem add (g d a b) : Statement (.add g d a b) := fun hw _ => decode_R 0x01#8 (by decide) (by decide) rfl rfl rfl hw
theorem sub (g d a b) : Statement (.sub g d a b) := fun hw _ => decode_R 0x02#8 (by decide) (by decide) rfl rfl rfl hw
theorem mul (g d a b) : Statement (.mul g d a b) := fun hw _ => decode_R 0x04#8 (by decide) (by decide) rfl rfl rfl hw
theorem mulh (g d a b) : Statement (.mulh g d a b) := fun hw _ => decode_R 0x05#8 (by decide) (by decide) rfl rfl rfl hw
theorem mulhz (g d a b) : Statement (.mulhz g d a b) := fun hw _ => decode_R 0x06#8 (by decide) (by decide) rfl rfl rfl hw
theorem div (g d a b) : Statement (.div g d a b) := fun hw _ => decode_R 0x07#8 (by decide) (by decide) rfl rfl rfl hw
theorem divz (g d a b) : Statement (.divz g d a b) := fun hw _ => decode_R 0x08#8 (by decide) (by decide) rfl rfl rfl hw
theorem rem (g d a b) : Statement (.rem g d a b) := fun hw _ => decode_R 0x09#8 (by decide) (by decide) rfl rfl rfl hw
theorem remz (g d a b) : Statement (.remz g d a b) := fun hw _ => decode_R 0x0A#8 (by decide) (by decide) rfl rfl rfl hw
theorem and (g d a b) : Statement (.and g d a b) := fun hw _ => decode_R 0x0B#8 (by decide) (by decide) rfl rfl rfl hw
theorem or (g d a b) : Statement (.or g d a b) := fun hw _ => decode_R 0x0C#8 (by decide) (by decide) rfl rfl rfl hw
theorem xor (g d a b) : Statement (.xor g d a b) := fun hw _ => decode_R 0x0D#8 (by decide) (by decide) rfl rfl rfl hw
theorem andn (g d a b) : Statement (.andn g d a b) := fun hw _ => decode_R 0x0E#8 (by decide) (by decide) rfl rfl rfl hw
theorem shlReg (g d a b) : Statement (.shlReg g d a b) := fun hw _ => decode_R 0x0F#8 (by decide) (by decide) rfl rfl (by rw [candR_0F _ rfl]; simp) hw
theorem shlImm (g d a n) : Statement (.shlImm g d a n) := fun hw _ => decode_R 0x0F#8 (by decide) (by decide) rfl rfl (by rw [candR_0F _ rfl]; simp) hw
theorem shrReg (g d a b) : Statement (.shrReg g d a b) := fun hw _ => decode_R 0x10#8 (by decide) (by decide) rfl rfl (by rw [candR_10 _ rfl]; simp) hw
theorem shrImm (g d a n) : Statement (.shrImm g d a n) := fun hw _ => decode_R 0x10#8 (by decide) (by decide) rfl rfl (by rw [candR_10 _ rfl]; simp) hw
theorem shaReg (g d a b) : Statement (.shaReg g d a b) := fun hw _ => decode_R 0x11#8 (by decide) (by decide) rfl rfl (by rw [candR_11 _ rfl]; simp) hw
theorem shaImm (g d a n) : Statement (.shaImm g d a n) := fun hw _ => decode_R 0x11#8 (by decide) (by decide) rfl rfl (by rw [candR_11 _ rfl]; simp) hw
theorem rotReg (g d a b) : Statement (.rotReg g d a b) := fun hw _ => decode_R 0x12#8 (by decide) (by decide) rfl rfl (by rw [candR_12 _ rfl]; simp) hw
theorem rotImm (g d a n) : Statement (.rotImm g d a n) := fun hw _ => decode_R 0x12#8 (by decide) (by decide) rfl rfl (by rw [candR_12 _ rfl]; simp) hw
theorem min (g d a b) : Statement (.min g d a b) := fun hw _ => decode_R 0x13#8 (by decide) (by decide) rfl rfl rfl hw
theorem max (g d a b) : Statement (.max g d a b) := fun hw _ => decode_R 0x14#8 (by decide) (by decide) rfl rfl rfl hw
theorem minz (g d a b) : Statement (.minz g d a b) := fun hw _ => decode_R 0x15#8 (by decide) (by decide) rfl rfl rfl hw
theorem maxz (g d a b) : Statement (.maxz g d a b) := fun hw _ => decode_R 0x16#8 (by decide) (by decide) rfl rfl rfl hw
theorem clz (g d a) : Statement (.clz g d a) := fun hw _ => decode_R 0x17#8 (by decide) (by decide) rfl rfl (by rw [candR_17 _ rfl]; simp) hw
theorem popc (g d a) : Statement (.popc g d a) := fun hw _ => decode_R 0x17#8 (by decide) (by decide) rfl rfl (by rw [candR_17 _ rfl]; simp) hw
theorem bfx (g d a b c) : Statement (.bfx g d a b c) := fun hw _ => decode_R 0x18#8 (by decide) (by decide) rfl rfl (by rw [candR_18 _ rfl]; simp) hw
theorem bfxS (g d a b c) : Statement (.bfxS g d a b c) := fun hw _ => decode_R 0x18#8 (by decide) (by decide) rfl rfl (by rw [candR_18 _ rfl]; simp) hw
theorem bfi (g d a b c) : Statement (.bfi g d a b c) := fun hw _ => decode_R 0x19#8 (by decide) (by decide) rfl rfl rfl hw
theorem addsh (g d a b n) : Statement (.addsh g d a b n) := fun hw _ => decode_R 0x1C#8 (by decide) (by decide) rfl rfl (by rw [candR_1C _ rfl]; simp) hw
theorem mad (g d a b c) : Statement (.mad g d a b c) := fun hw _ => decode_R 0x1D#8 (by decide) (by decide) rfl rfl rfl hw
theorem cmp (g pd a b cond) : Statement (.cmp g pd a b cond) := fun hw _ => decode_R 0x1E#8 (by decide) (by decide) rfl rfl (by rw [candR_1E _ rfl]; simp) hw
theorem sel (g d pc a b) : Statement (.sel g d pc a b) := fun hw _ => decode_R 0x1F#8 (by decide) (by decide) rfl rfl (by rw [candR_1F _ rfl]; simp) hw
theorem movi (g d imm) : Statement (.movi g d imm) := fun hw _ => decode_I 0x1A#8 (by decide) (by decide) rfl rfl rfl hw
theorem movhi (g d imm) : Statement (.movhi g d imm) := fun hw _ => decode_I 0x1B#8 (by decide) (by decide) rfl rfl rfl hw
theorem addi (g d a imm) : Statement (.addi g d a imm) := fun hw _ => decode_I 0x03#8 (by decide) (by decide) rfl rfl rfl hw
theorem pand (g pd pa pb na nb) : Statement (.pand g pd pa pb na nb) := fun hw _ => decode_R 0x26#8 (by decide) (by decide) rfl rfl (by rw [candR_26 _ rfl]; simp) hw
theorem por (g pd pa pb na nb) : Statement (.por g pd pa pb na nb) := fun hw _ => decode_R 0x27#8 (by decide) (by decide) rfl rfl (by rw [candR_27 _ rfl]; simp) hw
theorem pnot (g pd pa) : Statement (.pnot g pd pa) := fun hw _ => decode_R 0x28#8 (by decide) (by decide) rfl rfl (by rw [candR_28 _ rfl]; simp) hw
theorem br (g off) : Statement (.br g off) := fun hw _ => decode_B 0x20#8 (by decide) (by decide) rfl rfl rfl hw
theorem jal (g off) : Statement (.jal g off) := fun hw _ => decode_B 0x22#8 (by decide) (by decide) rfl rfl rfl hw
theorem jr (g d a) : Statement (.jr g d a) := fun hw _ => decode_R 0x23#8 (by decide) (by decide) rfl rfl rfl hw
theorem brcL1 (g off) : Statement (.brcL1 g off) := fun hw _ => decode_B 0x21#8 (by decide) (by decide) rfl rfl rfl hw
theorem brcAll (g off) : Statement (.brcAll g off) := fun hw _ => decode_B 0x21#8 (by decide) (by decide) rfl rfl rfl hw
theorem loop (g lvl1 a len) : Statement (.loop g lvl1 a len) := fun hw _ => decode_R 0x24#8 (by decide) (by decide) rfl rfl (by rw [candR_24 _ rfl]; simp) hw
theorem loopi (g lvl1 len cnt) : Statement (.loopi g lvl1 len cnt) := fun hw _ => decode_I 0x25#8 (by decide) (by decide) rfl rfl (by rw [candI_25 _ rfl]; simp) hw
theorem nop (g) : Statement (.nop g) := fun hw _ => decode_X 0x29#8 (by decide) (by decide) rfl rfl rfl hw
theorem ld (g d m sp sx sz) : Statement (.ld g d m sp sx sz) := fun hw _ => decode_M 0x30#8 (by decide) (by decide) rfl rfl (by rw [candM_30 _ rfl]; simp) hw
theorem st (g d m sp sz) : Statement (.st g d m sp sz) := fun hw _ => decode_M 0x31#8 (by decide) (by decide) rfl rfl (by rw [candM_31 _ rfl]; simp) hw
theorem csrr (g d n) : Statement (.csrr g d n) := fun hw _ => decode_I 0xA2#8 (by decide) (by decide) rfl rfl (by rw [candI_A2 _ rfl]; simp) hw
theorem csrw (g n a) : Statement (.csrw g n a) := fun hw _ => decode_I 0xA3#8 (by decide) (by decide) rfl rfl (by rw [candI_A3 _ rfl]; simp) hw
theorem csrwSet (g n a) : Statement (.csrwSet g n a) := fun hw _ => decode_I 0xA3#8 (by decide) (by decide) rfl rfl (by rw [candI_A3 _ rfl]; simp) hw
theorem csrwClr (g n a) : Statement (.csrwClr g n a) := fun hw _ => decode_I 0xA3#8 (by decide) (by decide) rfl rfl (by rw [candI_A3 _ rfl]; simp) hw
theorem trap (g code) : Statement (.trap g code) := fun hw _ => decode_X 0xA0#8 (by decide) (by decide) rfl rfl (by rw [candX_A0 _ rfl]; simp) hw
theorem eret (g) : Statement (.eret g) := fun hw _ => decode_X 0xA1#8 (by decide) (by decide) rfl rfl rfl hw
theorem eretTask (g) : Statement (.eretTask g) := fun hw _ => decode_X 0xA1#8 (by decide) (by decide) rfl rfl rfl hw
theorem wfe (g limit) : Statement (.wfe g limit) := fun hw _ => decode_X 0xA4#8 (by decide) (by decide) rfl rfl rfl hw
theorem sevAll (g) : Statement (.sevAll g) := fun hw _ => decode_X 0xA5#8 (by decide) (by decide) rfl rfl rfl hw
theorem sevOne (g core) : Statement (.sevOne g core) := fun hw _ => decode_X 0xA5#8 (by decide) (by decide) rfl rfl (by rw [candX_A5 _ rfl]; simp) hw
theorem sevClus (g) : Statement (.sevClus g) := fun hw _ => decode_X 0xA5#8 (by decide) (by decide) rfl rfl rfl hw
theorem hintSpin (g) : Statement (.hintSpin g) := fun hw _ => decode_X 0xA6#8 (by decide) (by decide) rfl rfl rfl hw
theorem hintPf (g off) : Statement (.hintPf g off) := fun hw _ => decode_X 0xA6#8 (by decide) (by decide) rfl rfl rfl hw
theorem mma (g d a b c ty bt) : Statement (.mma g d a b c ty bt) := fun hw _ => decode_R 0x60#8 (by decide) (by decide) rfl rfl (by rw [candR_60 _ rfl]; simp) hw
theorem mmas (g d a b c ty bt) : Statement (.mmas g d a b c ty bt) := fun hw _ => decode_R 0x61#8 (by decide) (by decide) rfl rfl (by rw [candR_61 _ rfl]; simp) hw
theorem prune (g d a b c ty bt) : Statement (.prune g d a b c ty bt) := fun hw _ => decode_R 0x65#8 (by decide) (by decide) rfl rfl (by rw [candR_65 _ rfl]; simp) hw
theorem mzero (g d) : Statement (.mzero g d) := fun hw _ => decode_R 0x62#8 (by decide) (by decide) rfl rfl rfl hw
theorem mld (g d a ty rnd) : Statement (.mld g d a ty rnd) := fun hw _ => decode_R 0x63#8 (by decide) (by decide) rfl rfl (by rw [candR_63 _ rfl]; simp) hw
theorem mst (g d a ty rnd sat) : Statement (.mst g d a ty rnd sat) := fun hw _ => decode_R 0x64#8 (by decide) (by decide) rfl rfl (by rw [candR_64 _ rfl]; simp) hw
theorem aadd (g d a b form rnd sat) : Statement (.aadd g d a b form rnd sat) := fun hw _ => decode_R 0x70#8 (by decide) (by decide) rfl rfl (by rw [candR_70 _ rfl]; simp) hw
theorem amul (g d a b form rnd sat) : Statement (.amul g d a b form rnd sat) := fun hw _ => decode_R 0x71#8 (by decide) (by decide) rfl rfl (by rw [candR_71 _ rfl]; simp) hw
theorem afma (g d a b c form rnd sat) : Statement (.afma g d a b c form rnd sat) := fun hw _ => decode_R 0x72#8 (by decide) (by decide) rfl rfl (by rw [candR_72 _ rfl]; simp) hw
theorem amax (g d a b form) : Statement (.amax g d a b form) := fun hw _ => decode_R 0x73#8 (by decide) (by decide) rfl rfl (by rw [candR_73 _ rfl]; simp) hw
theorem amin (g d a b form) : Statement (.amin g d a b form) := fun hw _ => decode_R 0x74#8 (by decide) (by decide) rfl rfl (by rw [candR_74 _ rfl]; simp) hw
theorem aexp2 (g d a sat) : Statement (.aexp2 g d a sat) := fun hw _ => decode_R 0x75#8 (by decide) (by decide) rfl rfl (by rw [candR_75 _ rfl]; simp) hw
theorem alog2 (g d a sat) : Statement (.alog2 g d a sat) := fun hw _ => decode_R 0x76#8 (by decide) (by decide) rfl rfl (by rw [candR_76 _ rfl]; simp) hw
theorem arcp (g d a sat) : Statement (.arcp g d a sat) := fun hw _ => decode_R 0x77#8 (by decide) (by decide) rfl rfl (by rw [candR_77 _ rfl]; simp) hw
theorem arsq (g d a sat) : Statement (.arsq g d a sat) := fun hw _ => decode_R 0x78#8 (by decide) (by decide) rfl rfl (by rw [candR_78 _ rfl]; simp) hw
theorem asig (g d a sat) : Statement (.asig g d a sat) := fun hw _ => decode_R 0x79#8 (by decide) (by decide) rfl rfl (by rw [candR_79 _ rfl]; simp) hw
theorem asigTanh (g d a sat) : Statement (.asigTanh g d a sat) := fun hw _ => decode_R 0x79#8 (by decide) (by decide) rfl rfl (by rw [candR_79 _ rfl]; simp) hw
theorem asigSilu (g d a sat) : Statement (.asigSilu g d a sat) := fun hw _ => decode_R 0x79#8 (by decide) (by decide) rfl rfl (by rw [candR_79 _ rfl]; simp) hw
theorem asigExpe (g d a sat) : Statement (.asigExpe g d a sat) := fun hw _ => decode_R 0x79#8 (by decide) (by decide) rfl rfl (by rw [candR_79 _ rfl]; simp) hw
theorem aredSum (g d a rnd sat) : Statement (.aredSum g d a rnd sat) := fun hw _ => decode_R 0x7A#8 (by decide) (by decide) rfl rfl (by rw [candR_7A _ rfl]; simp) hw
theorem aredMax (g d a) : Statement (.aredMax g d a) := fun hw _ => decode_R 0x7A#8 (by decide) (by decide) rfl rfl rfl hw
theorem aredMin (g d a) : Statement (.aredMin g d a) := fun hw _ => decode_R 0x7A#8 (by decide) (by decide) rfl rfl rfl hw
theorem abcast (g d a) : Statement (.abcast g d a) := fun hw _ => decode_R 0x7B#8 (by decide) (by decide) rfl rfl rfl hw
theorem abcastRow (g d a ty) : Statement (.abcastRow g d a ty) := fun hw _ => decode_R 0x7B#8 (by decide) (by decide) rfl rfl (by rw [candR_7B _ rfl]; simp) hw
theorem abcastColv (g d a ty) : Statement (.abcastColv g d a ty) := fun hw _ => decode_R 0x7B#8 (by decide) (by decide) rfl rfl (by rw [candR_7B _ rfl]; simp) hw
theorem amov (g d a) : Statement (.amov g d a) := fun hw _ => decode_R 0x7C#8 (by decide) (by decide) rfl rfl rfl hw
theorem acvt (g d a b ty rnd sat) : Statement (.acvt g d a b ty rnd sat) := fun hw _ => decode_R 0x7D#8 (by decide) (by decide) rfl rfl (by rw [candR_7D _ rfl]; simp) hw
theorem acvtB32 (g d a b ty rnd sat) : Statement (.acvtB32 g d a b ty rnd sat) := fun hw _ => decode_R 0x7D#8 (by decide) (by decide) rfl rfl (by rw [candR_7D _ rfl]; simp) hw
theorem rngld (g a b) : Statement (.rngld g a b) := fun hw _ => decode_R 0x9F#8 (by decide) (by decide) rfl rfl (by rw [candR_9F _ rfl]; simp) hw
theorem rngst (g d b) : Statement (.rngst g d b) := fun hw _ => decode_R 0x9F#8 (by decide) (by decide) rfl rfl (by rw [candR_9F _ rfl]; simp) hw
theorem rand (g d) : Statement (.rand g d) := fun hw _ => decode_R 0x9F#8 (by decide) (by decide) rfl rfl (by rw [candR_9F _ rfl]; simp) hw
theorem abind (g slot a b lse) : Statement (.abind g slot a b lse) := fun hw _ => decode_R 0x80#8 (by decide) (by decide) rfl rfl (by rw [candR_80 _ rfl]; simp) hw
theorem attn (g slot d a b c tri) : Statement (.attn g slot d a b c tri) := fun hw _ => decode_R 0x81#8 (by decide) (by decide) rfl rfl (by rw [candR_81 _ rfl]; simp) hw
theorem tmerge (g d a b) : Statement (.tmerge g d a b) := fun hw _ => decode_R 0x82#8 (by decide) (by decide) rfl rfl rfl hw
theorem kvmap (g d a b) : Statement (.kvmap g d a b) := fun hw _ => decode_R 0x83#8 (by decide) (by decide) rfl rfl rfl hw
theorem kvapp (g a b c) : Statement (.kvapp g a b c) := fun hw _ => decode_R 0x84#8 (by decide) (by decide) rfl rfl rfl hw
theorem kvfork (g d a) : Statement (.kvfork g d a) := fun hw _ => decode_R 0x85#8 (by decide) (by decide) rfl rfl rfl hw
theorem kvforkCow (g d a) : Statement (.kvforkCow g d a) := fun hw _ => decode_R 0x85#8 (by decide) (by decide) rfl rfl rfl hw
theorem kvtrunc (g a b) : Statement (.kvtrunc g a b) := fun hw _ => decode_R 0x86#8 (by decide) (by decide) rfl rfl rfl hw
theorem kvrel (g a) : Statement (.kvrel g a) := fun hw _ => decode_R 0x87#8 (by decide) (by decide) rfl rfl rfl hw
theorem kvret (g a b c) : Statement (.kvret g a b c) := fun hw _ => decode_R 0x88#8 (by decide) (by decide) rfl rfl rfl hw
theorem kvcompact (g a b c) : Statement (.kvcompact g a b c) := fun hw _ => decode_R 0x89#8 (by decide) (by decide) rfl rfl rfl hw
theorem kvqLen (g d a) : Statement (.kvqLen g d a) := fun hw _ => decode_R 0x8A#8 (by decide) (by decide) rfl rfl rfl hw
theorem kvqMap (g d a) : Statement (.kvqMap g d a) := fun hw _ => decode_R 0x8A#8 (by decide) (by decide) rfl rfl rfl hw
theorem kvqFrame (g d a) : Statement (.kvqFrame g d a) := fun hw _ => decode_R 0x8A#8 (by decide) (by decide) rfl rfl rfl hw
theorem kvqState (g d a) : Statement (.kvqState g d a) := fun hw _ => decode_R 0x8A#8 (by decide) (by decide) rfl rfl rfl hw
theorem pxlkp (g d a b) : Statement (.pxlkp g d a b) := fun hw _ => decode_R 0x8B#8 (by decide) (by decide) rfl rfl rfl hw
theorem pxlkpDrop (g d a b) : Statement (.pxlkpDrop g d a b) := fun hw _ => decode_R 0x8B#8 (by decide) (by decide) rfl rfl rfl hw
theorem pxins (g d a b) : Statement (.pxins g d a b) := fun hw _ => decode_R 0x8C#8 (by decide) (by decide) rfl rfl rfl hw
theorem cfg (g a) : Statement (.cfg g a) := fun hw _ => decode_S 0x40#8 (by decide) (by decide) rfl rfl rfl hw
theorem cfgStg (g a) : Statement (.cfgStg g a) := fun hw _ => decode_S 0x40#8 (by decide) (by decide) rfl rfl rfl hw
theorem cfgsw (g) : Statement (.cfgsw g) := fun hw _ => decode_S 0x41#8 (by decide) (by decide) rfl rfl rfl hw
theorem strm (g port a b c mode ty sc sp) : Statement (.strm g port a b c mode ty sc sp) := fun hw _ => decode_S 0x42#8 (by decide) (by decide) rfl rfl (by rw [candS_42 _ rfl]; simp) hw
theorem sbar (g a) : Statement (.sbar g a) := fun hw _ => decode_S 0x43#8 (by decide) (by decide) rfl rfl rfl hw
theorem sbarOrd (g a) : Statement (.sbarOrd g a) := fun hw _ => decode_S 0x43#8 (by decide) (by decide) rfl rfl rfl hw
theorem btok (g a id gm) : Statement (.btok g a id gm) := fun hw _ => decode_S 0x44#8 (by decide) (by decide) rfl rfl (by rw [candS_44 _ rfl]; simp) hw
theorem argw (g op a) : Statement (.argw g op a) := fun hw _ => decode_S 0x45#8 (by decide) (by decide) rfl rfl (by rw [candS_45 _ rfl]; simp) hw
theorem tinj (g ch a) : Statement (.tinj g ch a) := fun hw _ => decode_S 0x46#8 (by decide) (by decide) rfl rfl (by rw [candS_46 _ rfl]; simp) hw
theorem tpop (g d ch) : Statement (.tpop g d ch) := fun hw _ => decode_S 0x47#8 (by decide) (by decide) rfl rfl (by rw [candS_47 _ rfl]; simp) hw
theorem fstat (g d site) : Statement (.fstat g d site) := fun hw _ => decode_S 0x48#8 (by decide) (by decide) rfl rfl (by rw [candS_48 _ rfl]; simp) hw
theorem fstatAll (g d) : Statement (.fstatAll g d) := fun hw _ => decode_S 0x48#8 (by decide) (by decide) rfl rfl rfl hw
theorem slotf (g a b sp) : Statement (.slotf g a b sp) := fun hw _ => decode_S 0x49#8 (by decide) (by decide) rfl rfl (by rw [candS_49 _ rfl]; simp) hw
theorem cpyG2s (g d a b c fe gm sc) : Statement (.cpyG2s g d a b c fe gm sc) := fun hw _ => decode_R 0x50#8 (by decide) (by decide) rfl rfl (by rw [candR_50 _ rfl]; simp) hw
theorem cpyS2g (g d a b c gm sc) : Statement (.cpyS2g g d a b c gm sc) := fun hw _ => decode_R 0x50#8 (by decide) (by decide) rfl rfl (by rw [candR_50 _ rfl]; simp) hw
theorem cpyG2g (g d a b c gm sc) : Statement (.cpyG2g g d a b c gm sc) := fun hw _ => decode_R 0x50#8 (by decide) (by decide) rfl rfl (by rw [candR_50 _ rfl]; simp) hw
theorem cpyS2s (g d a b c fe gm sc) : Statement (.cpyS2s g d a b c fe gm sc) := fun hw _ => decode_R 0x50#8 (by decide) (by decide) rfl rfl (by rw [candR_50 _ rfl]; simp) hw
theorem cpyRing (g a b gm) : Statement (.cpyRing g a b gm) := fun hw _ => decode_R 0x50#8 (by decide) (by decide) rfl rfl (by rw [candR_50 _ rfl]; simp) hw
theorem tbinit (g a n gm) : Statement (.tbinit g a n gm) := fun hw _ => decode_I 0x51#8 (by decide) (by decide) rfl rfl (by rw [candI_51 _ rfl]; simp) hw
theorem tbexp (g a b gm) : Statement (.tbexp g a b gm) := fun hw _ => decode_R 0x52#8 (by decide) (by decide) rfl rfl (by rw [candR_52 _ rfl]; simp) hw
theorem tbarr (g a gm sc) : Statement (.tbarr g a gm sc) := fun hw _ => decode_R 0x53#8 (by decide) (by decide) rfl rfl (by rw [candR_53 _ rfl]; simp) hw
theorem tbwait (g a ph gm sc) : Statement (.tbwait g a ph gm sc) := fun hw _ => decode_I 0x54#8 (by decide) (by decide) rfl rfl (by rw [candI_54 _ rfl]; simp) hw
theorem tbtest (g pd a ph gm sc) : Statement (.tbtest g pd a ph gm sc) := fun hw _ => decode_I 0x55#8 (by decide) (by decide) rfl rfl (by rw [candI_55 _ rfl]; simp) hw
theorem amo (g d m op dbl) : Statement (.amo g d m op dbl) := fun hw _ => decode_M 0x35#8 (by decide) (by decide) rfl rfl (by rw [candM_35 _ rfl]; simp) hw
theorem red (g d m op dbl) : Statement (.red g d m op dbl) := fun hw _ => decode_M 0x37#8 (by decide) (by decide) rfl rfl (by rw [candM_37 _ rfl]; simp) hw
theorem amof (g d m op sp dbl) : Statement (.amof g d m op sp dbl) := fun hw _ => decode_M 0x38#8 (by decide) (by decide) rfl rfl (by rw [candM_38 _ rfl]; simp; cases op <;> first | rfl | simp_all [Instr.wf, AmoOp.amofOk]) hw
theorem cas (g d a b c sp dbl) : Statement (.cas g d a b c sp dbl) := fun hw _ => decode_R 0x36#8 (by decide) (by decide) rfl rfl (by rw [candR_36 _ rfl]; simp) hw
theorem ldfe (g d m clr sz) : Statement (.ldfe g d m clr sz) := fun hw _ => decode_M 0x32#8 (by decide) (by decide) rfl rfl (by rw [candM_32 _ rfl]; simp) hw
theorem stfe (g d m sz) : Statement (.stfe g d m sz) := fun hw _ => decode_M 0x33#8 (by decide) (by decide) rfl rfl (by rw [candM_33 _ rfl]; simp) hw
theorem pref (g m l2 sz) : Statement (.pref g m l2 sz) := fun hw _ => decode_M 0x34#8 (by decide) (by decide) rfl rfl (by rw [candM_34 _ rfl]; simp) hw
theorem fence (g sc) : Statement (.fence g sc) := fun hw _ => decode_X 0x39#8 (by decide) (by decide) rfl rfl (by rw [candX_39 _ rfl]; simp) hw
theorem chainCpy (g a b sc) : Statement (.chainCpy g a b sc) := fun hw _ => decode_R 0x56#8 (by decide) (by decide) rfl rfl (by rw [candR_56 _ rfl]; simp) hw
theorem chainColl (g a b sc) : Statement (.chainColl g a b sc) := fun hw _ => decode_R 0x56#8 (by decide) (by decide) rfl rfl (by rw [candR_56 _ rfl]; simp) hw
theorem seqw (g d a limit sp sc) : Statement (.seqw g d a limit sp sc) := fun hw _ => decode_I 0x57#8 (by decide) (by decide) rfl rfl (by rw [candI_57 _ rfl]; simp) hw
theorem collSum (g d a b c ty) : Statement (.collSum g d a b c ty) := fun hw _ => decode_R 0x58#8 (by decide) (by decide) rfl rfl (by rw [candR_58 _ rfl]; simp) hw
theorem collMax (g d a b c ty) : Statement (.collMax g d a b c ty) := fun hw _ => decode_R 0x58#8 (by decide) (by decide) rfl rfl (by rw [candR_58 _ rfl]; simp) hw
theorem collMin (g d a b c ty) : Statement (.collMin g d a b c ty) := fun hw _ => decode_R 0x58#8 (by decide) (by decide) rfl rfl (by rw [candR_58 _ rfl]; simp) hw
theorem collBcast (g d a b c ty) : Statement (.collBcast g d a b c ty) := fun hw _ => decode_R 0x58#8 (by decide) (by decide) rfl rfl (by rw [candR_58 _ rfl]; simp) hw
theorem collAgath (g d a b c ty) : Statement (.collAgath g d a b c ty) := fun hw _ => decode_R 0x58#8 (by decide) (by decide) rfl rfl (by rw [candR_58 _ rfl]; simp) hw
theorem collRscat (g d a b c ty) : Statement (.collRscat g d a b c ty) := fun hw _ => decode_R 0x58#8 (by decide) (by decide) rfl rfl (by rw [candR_58 _ rfl]; simp) hw
theorem spl (g slot a b c) : Statement (.spl g slot a b c) := fun hw _ => decode_R 0x3A#8 (by decide) (by decide) rfl rfl (by rw [candR_3A _ rfl]; simp) hw
theorem fil (g slot a b) : Statement (.fil g slot a b) := fun hw _ => decode_R 0x3B#8 (by decide) (by decide) rfl rfl (by rw [candR_3B _ rfl]; simp) hw
theorem bslice (g d a ty s) : Statement (.bslice g d a ty s) := fun hw _ => decode_R 0x90#8 (by decide) (by decide) rfl rfl (by rw [candR_90 _ rfl]; simp) hw
theorem bjoin (g d a ty s) : Statement (.bjoin g d a ty s) := fun hw _ => decode_R 0x91#8 (by decide) (by decide) rfl rfl (by rw [candR_91 _ rfl]; simp) hw
theorem lctx (g slot a) : Statement (.lctx g slot a) := fun hw _ => decode_R 0x92#8 (by decide) (by decide) rfl rfl (by rw [candR_92 _ rfl]; simp) hw
theorem lsel (g slot) : Statement (.lsel g slot) := fun hw _ => decode_R 0x93#8 (by decide) (by decide) rfl rfl (by rw [candR_93 _ rfl]; simp) hw
theorem lrun (g) : Statement (.lrun g) := fun hw _ => decode_R 0x94#8 (by decide) (by decide) rfl rfl rfl hw
theorem lstatPop (g d a) : Statement (.lstatPop g d a) := fun hw _ => decode_R 0x95#8 (by decide) (by decide) rfl rfl (by rw [candR_95 _ rfl]; simp) hw
theorem lstatWord (g d a q) : Statement (.lstatWord g d a q) := fun hw _ => decode_R 0x95#8 (by decide) (by decide) rfl rfl (by rw [candR_95 _ rfl]; simp) hw
theorem lstatSlot (g d slot) : Statement (.lstatSlot g d slot) := fun hw _ => decode_R 0x95#8 (by decide) (by decide) rfl rfl (by rw [candR_95 _ rfl]; simp) hw
theorem lstatRuns (g d) : Statement (.lstatRuns g d) := fun hw _ => decode_R 0x95#8 (by decide) (by decide) rfl rfl (by rw [candR_95 _ rfl]; simp) hw
theorem tenq (g a b) : Statement (.tenq g a b) := fun hw _ => decode_R 0x98#8 (by decide) (by decide) rfl rfl rfl hw
theorem launch (g a) : Statement (.launch g a) := fun hw _ => decode_R 0x99#8 (by decide) (by decide) rfl rfl rfl hw
theorem launchArg (g a b) : Statement (.launchArg g a b) := fun hw _ => decode_R 0x99#8 (by decide) (by decide) rfl rfl rfl hw
theorem gsig (g a b) : Statement (.gsig g a b) := fun hw _ => decode_R 0x9A#8 (by decide) (by decide) rfl rfl rfl hw
theorem tend (g) : Statement (.tend g) := fun hw _ => decode_X 0x9B#8 (by decide) (by decide) rfl rfl rfl hw
theorem tyield (g) : Statement (.tyield g) := fun hw _ => decode_X 0x9C#8 (by decide) (by decide) rfl rfl rfl hw
theorem rinvTag (g d a) : Statement (.rinvTag g d a) := fun hw _ => decode_R 0x9D#8 (by decide) (by decide) rfl rfl (by rw [candR_9D _ rfl]; simp) hw
theorem rinvRange (g d a b) : Statement (.rinvRange g d a b) := fun hw _ => decode_R 0x9D#8 (by decide) (by decide) rfl rfl (by rw [candR_9D _ rfl]; simp) hw
theorem rinvAll (g d) : Statement (.rinvAll g d) := fun hw _ => decode_R 0x9D#8 (by decide) (by decide) rfl rfl (by rw [candR_9D _ rfl]; simp) hw
theorem rinvAsid (g d a) : Statement (.rinvAsid g d a) := fun hw _ => decode_R 0x9D#8 (by decide) (by decide) rfl rfl (by rw [candR_9D _ rfl]; simp) hw
theorem rstatLkp (g d) : Statement (.rstatLkp g d) := fun hw _ => decode_R 0x9E#8 (by decide) (by decide) rfl rfl (by rw [candR_9E _ rfl]; simp) hw
theorem rstatHit (g d) : Statement (.rstatHit g d) := fun hw _ => decode_R 0x9E#8 (by decide) (by decide) rfl rfl (by rw [candR_9E _ rfl]; simp) hw
theorem rstatMiss (g d) : Statement (.rstatMiss g d) := fun hw _ => decode_R 0x9E#8 (by decide) (by decide) rfl rfl (by rw [candR_9E _ rfl]; simp) hw
theorem rstatIns (g d) : Statement (.rstatIns g d) := fun hw _ => decode_R 0x9E#8 (by decide) (by decide) rfl rfl (by rw [candR_9E _ rfl]; simp) hw
theorem rstatProbe (g d a) : Statement (.rstatProbe g d a) := fun hw _ => decode_R 0x9E#8 (by decide) (by decide) rfl rfl (by rw [candR_9E _ rfl]; simp) hw
theorem rstatHeld (g d) : Statement (.rstatHeld g d) := fun hw _ => decode_R 0x9E#8 (by decide) (by decide) rfl rfl (by rw [candR_9E _ rfl]; simp) hw
theorem rstatQuota (g d) : Statement (.rstatQuota g d) := fun hw _ => decode_R 0x9E#8 (by decide) (by decide) rfl rfl (by rw [candR_9E _ rfl]; simp) hw
theorem illegalWord (w) : Statement (.illegalWord w) := by
  intro h _
  have h' : (!opAssigned w) = true := h
  simp only [decode, encode, h', if_true]
theorem instructionFetchFault (a0 a1) : Statement (.instructionFetchFault a0 a1) := fun _ h => (h rfl).elim
theorem registerWrite (a0 a1) : Statement (.registerWrite a0 a1) := fun _ h => (h rfl).elim
theorem wfeTimeout (a0) : Statement (.wfeTimeout a0) := fun _ h => (h rfl).elim
theorem sevDelivery : Statement (.sevDelivery) := fun _ h => (h rfl).elim
theorem compactionDone (a0) : Statement (.compactionDone a0) := fun _ h => (h rfl).elim
theorem slabRelocationStep (a0 a1) : Statement (.slabRelocationStep a0 a1) := fun _ h => (h rfl).elim
theorem portReadAccess (a0 a1) : Statement (.portReadAccess a0 a1) := fun _ h => (h rfl).elim
theorem portGatherAccess (a0 a1) : Statement (.portGatherAccess a0 a1) := fun _ h => (h rfl).elim
theorem portWriteAccess (a0 a1) : Statement (.portWriteAccess a0 a1) := fun _ h => (h rfl).elim
theorem portReductionAccess (a0 a1) : Statement (.portReductionAccess a0 a1) := fun _ h => (h rfl).elim
theorem portCondition (a0 a1) : Statement (.portCondition a0 a1) := fun _ h => (h rfl).elim
theorem speculativeFetch (a0 a1) : Statement (.speculativeFetch a0 a1) := fun _ h => (h rfl).elim
theorem portBarArrival (a0 a1) : Statement (.portBarArrival a0 a1) := fun _ h => (h rfl).elim
theorem portDoneToken (a0 a1) : Statement (.portDoneToken a0 a1) := fun _ h => (h rfl).elim
theorem portRetry (a0 a1) : Statement (.portRetry a0 a1) := fun _ h => (h rfl).elim
theorem relatchToken (a0 a1) : Statement (.relatchToken a0 a1) := fun _ h => (h rfl).elim
theorem inputPacketExpand (a0 a1 a2) : Statement (.inputPacketExpand a0 a1 a2) := fun _ h => (h rfl).elim
theorem cfgkConsume (a0 a1 a2) : Statement (.cfgkConsume a0 a1 a2) := fun _ h => (h rfl).elim
theorem repeatBlock (a0 a1) : Statement (.repeatBlock a0 a1) := fun _ h => (h rfl).elim
theorem mergeIsect (a0 a1) : Statement (.mergeIsect a0 a1) := fun _ h => (h rfl).elim
theorem mergeUnion (a0 a1) : Statement (.mergeUnion a0 a1) := fun _ h => (h rfl).elim
theorem mergeChk (a0 a1) : Statement (.mergeChk a0 a1) := fun _ h => (h rfl).elim
theorem radix (a0 a1) : Statement (.radix a0 a1) := fun _ h => (h rfl).elim
theorem gate (a0 a1) : Statement (.gate a0 a1) := fun _ h => (h rfl).elim
theorem select (a0 a1) : Statement (.select a0 a1) := fun _ h => (h rfl).elim
theorem stat (a0 a1) : Statement (.stat a0 a1) := fun _ h => (h rfl).elim
theorem xlat (a0 a1) : Statement (.xlat a0 a1) := fun _ h => (h rfl).elim
theorem cbdec (a0 a1) : Statement (.cbdec a0 a1) := fun _ h => (h rfl).elim
theorem delta (a0 a1) : Statement (.delta a0 a1) := fun _ h => (h rfl).elim
theorem fconv (a0 a1) : Statement (.fconv a0 a1) := fun _ h => (h rfl).elim
theorem rle (a0 a1) : Statement (.rle a0 a1) := fun _ h => (h rfl).elim
theorem transp (a0 a1) : Statement (.transp a0 a1) := fun _ h => (h rfl).elim
theorem mov (a0 a1) : Statement (.mov a0 a1) := fun _ h => (h rfl).elim
theorem iadd (a0 a1) : Statement (.iadd a0 a1) := fun _ h => (h rfl).elim
theorem isub (a0 a1) : Statement (.isub a0 a1) := fun _ h => (h rfl).elim
theorem imul (a0 a1) : Statement (.imul a0 a1) := fun _ h => (h rfl).elim
theorem imad (a0 a1) : Statement (.imad a0 a1) := fun _ h => (h rfl).elim
theorem iand (a0 a1) : Statement (.iand a0 a1) := fun _ h => (h rfl).elim
theorem ior (a0 a1) : Statement (.ior a0 a1) := fun _ h => (h rfl).elim
theorem ixor (a0 a1) : Statement (.ixor a0 a1) := fun _ h => (h rfl).elim
theorem ishl (a0 a1) : Statement (.ishl a0 a1) := fun _ h => (h rfl).elim
theorem ishr (a0 a1) : Statement (.ishr a0 a1) := fun _ h => (h rfl).elim
theorem isra (a0 a1) : Statement (.isra a0 a1) := fun _ h => (h rfl).elim
theorem imin (a0 a1) : Statement (.imin a0 a1) := fun _ h => (h rfl).elim
theorem imax (a0 a1) : Statement (.imax a0 a1) := fun _ h => (h rfl).elim
theorem icmp (a0 a1) : Statement (.icmp a0 a1) := fun _ h => (h rfl).elim
theorem elemSel (a0 a1) : Statement (.elemSel a0 a1) := fun _ h => (h rfl).elim
theorem cmpc (a0 a1) : Statement (.cmpc a0 a1) := fun _ h => (h rfl).elim
theorem deq (a0 a1) : Statement (.deq a0 a1) := fun _ h => (h rfl).elim
theorem emit (a0 a1) : Statement (.emit a0 a1) := fun _ h => (h rfl).elim
theorem fadd (a0 a1) : Statement (.fadd a0 a1) := fun _ h => (h rfl).elim
theorem fsub (a0 a1) : Statement (.fsub a0 a1) := fun _ h => (h rfl).elim
theorem fmul (a0 a1) : Statement (.fmul a0 a1) := fun _ h => (h rfl).elim
theorem ffma (a0 a1) : Statement (.ffma a0 a1) := fun _ h => (h rfl).elim
theorem fmin (a0 a1) : Statement (.fmin a0 a1) := fun _ h => (h rfl).elim
theorem fmax (a0 a1) : Statement (.fmax a0 a1) := fun _ h => (h rfl).elim
theorem fcmp (a0 a1) : Statement (.fcmp a0 a1) := fun _ h => (h rfl).elim
theorem fexp2 (a0 a1) : Statement (.fexp2 a0 a1) := fun _ h => (h rfl).elim
theorem frcp (a0 a1) : Statement (.frcp a0 a1) := fun _ h => (h rfl).elim
theorem fcvtF32Bf16 (a0 a1) : Statement (.fcvtF32Bf16 a0 a1) := fun _ h => (h rfl).elim
theorem fcvtF32F16 (a0 a1) : Statement (.fcvtF32F16 a0 a1) := fun _ h => (h rfl).elim
theorem fcvtF32E4m3 (a0 a1) : Statement (.fcvtF32E4m3 a0 a1) := fun _ h => (h rfl).elim
theorem fcvtF32E5m2 (a0 a1) : Statement (.fcvtF32E5m2 a0 a1) := fun _ h => (h rfl).elim
theorem fcvtF32E2m1 (a0 a1) : Statement (.fcvtF32E2m1 a0 a1) := fun _ h => (h rfl).elim
theorem fcvtF32S32 (a0 a1) : Statement (.fcvtF32S32 a0 a1) := fun _ h => (h rfl).elim
theorem fcvtF32Z32 (a0 a1) : Statement (.fcvtF32Z32 a0 a1) := fun _ h => (h rfl).elim
theorem fcvtBf16F32 (a0 a1) : Statement (.fcvtBf16F32 a0 a1) := fun _ h => (h rfl).elim
theorem fcvtF16F32 (a0 a1) : Statement (.fcvtF16F32 a0 a1) := fun _ h => (h rfl).elim
theorem fcvtE4m3F32 (a0 a1) : Statement (.fcvtE4m3F32 a0 a1) := fun _ h => (h rfl).elim
theorem fcvtE5m2F32 (a0 a1) : Statement (.fcvtE5m2F32 a0 a1) := fun _ h => (h rfl).elim
theorem fcvtE2m1F32 (a0 a1) : Statement (.fcvtE2m1F32 a0 a1) := fun _ h => (h rfl).elim
theorem fcvtS32F32 (a0 a1) : Statement (.fcvtS32F32 a0 a1) := fun _ h => (h rfl).elim
theorem fcvtZ32F32 (a0 a1) : Statement (.fcvtZ32F32 a0 a1) := fun _ h => (h rfl).elim
theorem vaddBf16 (a0 a1) : Statement (.vaddBf16 a0 a1) := fun _ h => (h rfl).elim
theorem vmulBf16 (a0 a1) : Statement (.vmulBf16 a0 a1) := fun _ h => (h rfl).elim
theorem vfmaBf16 (a0 a1) : Statement (.vfmaBf16 a0 a1) := fun _ h => (h rfl).elim
theorem vaddF16 (a0 a1) : Statement (.vaddF16 a0 a1) := fun _ h => (h rfl).elim
theorem vmulF16 (a0 a1) : Statement (.vmulF16 a0 a1) := fun _ h => (h rfl).elim
theorem vfmaF16 (a0 a1) : Statement (.vfmaF16 a0 a1) := fun _ h => (h rfl).elim
theorem vaddS16 (a0 a1) : Statement (.vaddS16 a0 a1) := fun _ h => (h rfl).elim
theorem vmulS16 (a0 a1) : Statement (.vmulS16 a0 a1) := fun _ h => (h rfl).elim
theorem vaddS8 (a0 a1) : Statement (.vaddS8 a0 a1) := fun _ h => (h rfl).elim
theorem vmulS8 (a0 a1) : Statement (.vmulS8 a0 a1) := fun _ h => (h rfl).elim
theorem copySectorWrite (a0 a1 a2) : Statement (.copySectorWrite a0 a1 a2) := fun _ h => (h rfl).elim
theorem copySectorRetry (a0 a1 a2) : Statement (.copySectorRetry a0 a1 a2) := fun _ h => (h rfl).elim
theorem ringSlotCopy (a0 a1) : Statement (.ringSlotCopy a0 a1) := fun _ h => (h rfl).elim
theorem updateOnlyEvict (a0 a1) : Statement (.updateOnlyEvict a0 a1) := fun _ h => (h rfl).elim
theorem chainEntryComplete (a0 a1) : Statement (.chainEntryComplete a0 a1) := fun _ h => (h rfl).elim
theorem seqwTimeout (a0) : Statement (.seqwTimeout a0) := fun _ h => (h rfl).elim
theorem tableLoadEntry (a0 a1 a2) : Statement (.tableLoadEntry a0 a1 a2) := fun _ h => (h rfl).elim
theorem dispatch (a0) : Statement (.dispatch a0) := fun _ h => (h rfl).elim
theorem reuseLookup (a0 a1 a2) : Statement (.reuseLookup a0 a1 a2) := fun _ h => (h rfl).elim
theorem schedulerDusk (a0) : Statement (.schedulerDusk a0) := fun _ h => (h rfl).elim
theorem tyieldAgeExpiry (a0) : Statement (.tyieldAgeExpiry a0) := fun _ h => (h rfl).elim
theorem asyncTrap (a0) : Statement (.asyncTrap a0) := fun _ h => (h rfl).elim
theorem prtInv (a0) : Statement (.prtInv a0) := fun _ h => (h rfl).elim
theorem invalidationComplete (a0) : Statement (.invalidationComplete a0) := fun _ h => (h rfl).elim
theorem popMigrate (a0) : Statement (.popMigrate a0) := fun _ h => (h rfl).elim
theorem popDuplicate (a0) : Statement (.popDuplicate a0) := fun _ h => (h rfl).elim
theorem popCollapse (a0) : Statement (.popCollapse a0) := fun _ h => (h rfl).elim
theorem pageOperationComplete (a0) : Statement (.pageOperationComplete a0) := fun _ h => (h rfl).elim
theorem drainTimerExpiry (a0) : Statement (.drainTimerExpiry a0) := fun _ h => (h rfl).elim
theorem drainTimeout (a0) : Statement (.drainTimeout a0) := fun _ h => (h rfl).elim
theorem tcmdResume : Statement (.tcmdResume) := fun _ h => (h rfl).elim
theorem tcmdEnd : Statement (.tcmdEnd) := fun _ h => (h rfl).elim
theorem hotvalRead (a0) : Statement (.hotvalRead a0) := fun _ h => (h rfl).elim
theorem frrEnable (a0) : Statement (.frrEnable a0) := fun _ h => (h rfl).elim
theorem frrDisable (a0) : Statement (.frrDisable a0) := fun _ h => (h rfl).elim
theorem schQuotaWrite (a0) : Statement (.schQuotaWrite a0) := fun _ h => (h rfl).elim
theorem prtDusk : Statement (.prtDusk) := fun _ h => (h rfl).elim
theorem duskStart (a0) : Statement (.duskStart a0) := fun _ h => (h rfl).elim
theorem markerPass (a0 a1) : Statement (.markerPass a0 a1) := fun _ h => (h rfl).elim
theorem writePortDrain (a0 a1) : Statement (.writePortDrain a0 a1) := fun _ h => (h rfl).elim
theorem foreignMarkArrival (a0 a1 a2) : Statement (.foreignMarkArrival a0 a1 a2) := fun _ h => (h rfl).elim
theorem setSwap (a0) : Statement (.setSwap a0) := fun _ h => (h rfl).elim
theorem taskResume (a0) : Statement (.taskResume a0) := fun _ h => (h rfl).elim
theorem prtRsz (a0) : Statement (.prtRsz a0) := fun _ h => (h rfl).elim
theorem clusterRemovalComplete (a0 a1) : Statement (.clusterRemovalComplete a0 a1) := fun _ h => (h rfl).elim
theorem prtMove (a0) : Statement (.prtMove a0) := fun _ h => (h rfl).elim
theorem ticketExport : Statement (.ticketExport) := fun _ h => (h rfl).elim
theorem ticketImport (a0) : Statement (.ticketImport a0) := fun _ h => (h rfl).elim
theorem doorbell (a0 a1) : Statement (.doorbell a0 a1) := fun _ h => (h rfl).elim
theorem ringEntryNop (a0) : Statement (.ringEntryNop a0) := fun _ h => (h rfl).elim
theorem ringEntryGraph (a0) : Statement (.ringEntryGraph a0) := fun _ h => (h rfl).elim
theorem ringEntryRecord (a0) : Statement (.ringEntryRecord a0) := fun _ h => (h rfl).elim
theorem daybreak (a0) : Statement (.daybreak a0) := fun _ h => (h rfl).elim
theorem partCreate (a0 a1) : Statement (.partCreate a0 a1) := fun _ h => (h rfl).elim
theorem partDestroy (a0 a1) : Statement (.partDestroy a0 a1) := fun _ h => (h rfl).elim
theorem setTables (a0 a1 a2) : Statement (.setTables a0 a1 a2) := fun _ h => (h rfl).elim
theorem asidSync (a0 a1) : Statement (.asidSync a0 a1) := fun _ h => (h rfl).elim
theorem frrOwner (a0 a1 a2) : Statement (.frrOwner a0 a1 a2) := fun _ h => (h rfl).elim
theorem groupReg (a0 a1 a2) : Statement (.groupReg a0 a1 a2) := fun _ h => (h rfl).elim
theorem aperture (a0 a1 a2 a3) : Statement (.aperture a0 a1 a2 a3) := fun _ h => (h rfl).elim
theorem ticketKey (a0 a1) : Statement (.ticketKey a0 a1) := fun _ h => (h rfl).elim
theorem clusterMove (a0 a1 a2 a3) : Statement (.clusterMove a0 a1 a2 a3) := fun _ h => (h rfl).elim
theorem reset (a0 a1) : Statement (.reset a0 a1) := fun _ h => (h rfl).elim
theorem mailboxUnknown (a0 a1) : Statement (.mailboxUnknown a0 a1) := fun _ h => (h rfl).elim
theorem hifErrClear (a0) : Statement (.hifErrClear a0) := fun _ h => (h rfl).elim
theorem hostMemRequest (a0) : Statement (.hostMemRequest a0) := fun _ h => (h rfl).elim
theorem hostWriteSnoop (a0 a1) : Statement (.hostWriteSnoop a0 a1) := fun _ h => (h rfl).elim
theorem druatLoad (a0 a1) : Statement (.druatLoad a0 a1) := fun _ h => (h rfl).elim
theorem druatLoadResponse (a0 a1) : Statement (.druatLoadResponse a0 a1) := fun _ h => (h rfl).elim
theorem druatStore (a0 a1) : Statement (.druatStore a0 a1) := fun _ h => (h rfl).elim
theorem druatReduction (a0 a1 a2 a3) : Statement (.druatReduction a0 a1 a2 a3) := fun _ h => (h rfl).elim
theorem druatAcknowledge (a0 a1) : Statement (.druatAcknowledge a0 a1) := fun _ h => (h rfl).elim
theorem druatCollectiveStream (a0 a1 a2 a3) : Statement (.druatCollectiveStream a0 a1 a2 a3) := fun _ h => (h rfl).elim
theorem druatMigrationStream (a0 a1) : Statement (.druatMigrationStream a0 a1) := fun _ h => (h rfl).elim
theorem druatIdle (a0 a1) : Statement (.druatIdle a0 a1) := fun _ h => (h rfl).elim
theorem flitCrcFail (a0) : Statement (.flitCrcFail a0) := fun _ h => (h rfl).elim
theorem portRetrain (a0) : Statement (.portRetrain a0) := fun _ h => (h rfl).elim
theorem portFailed (a0) : Statement (.portFailed a0) := fun _ h => (h rfl).elim
theorem powerOnStart : Statement (.powerOnStart) := fun _ h => (h rfl).elim
theorem startTimeout : Statement (.startTimeout) := fun _ h => (h rfl).elim
theorem twilightStart (a0 a1 a2) : Statement (.twilightStart a0 a1 a2) := fun _ h => (h rfl).elim
theorem twilightRetry : Statement (.twilightRetry) := fun _ h => (h rfl).elim
theorem powerStep (a0 a1) : Statement (.powerStep a0 a1) := fun _ h => (h rfl).elim
theorem claimStreamDone (a0) : Statement (.claimStreamDone a0) := fun _ h => (h rfl).elim
theorem mailboxResultPosted : Statement (.mailboxResultPosted) := fun _ h => (h rfl).elim
theorem startComplete (a0 a1) : Statement (.startComplete a0 a1) := fun _ h => (h rfl).elim
theorem retrainComplete (a0 a1) : Statement (.retrainComplete a0 a1) := fun _ h => (h rfl).elim
theorem hostCxlResponse (a0) : Statement (.hostCxlResponse a0) := fun _ h => (h rfl).elim
theorem prtFqheadWrite (a0) : Statement (.prtFqheadWrite a0) := fun _ h => (h rfl).elim
theorem powerLoss : Statement (.powerLoss) := fun _ h => (h rfl).elim
theorem trayPowerLimit (a0) : Statement (.trayPowerLimit a0) := fun _ h => (h rfl).elim

end Sys2Proof.Laws.RoundTrip
end

