-- ==== Sys2Proof/Tests/Slice0.lean ====
section
/-! SUPPORT. Tests: what well-formedness refuses, words that the spec's own examples spell out, single steps with results from the spec's
rules, and for each statement with hypotheses a witness that meets them. -/

set_option maxRecDepth 100000

namespace Sys2Proof.Tests

open Sys2Proof Sys2Proof.Machine

/-- The guard of a word written without one. -/
abbrev always : Guard := ⟨0, false⟩

/-! Each check of well-formedness refuses an ill-formed term. -/

theorem test_wf_registers :
    Instr.wf (.ld always 7 ⟨5, 0, 0, 16⟩ false false .q) = false ∧ Instr.wf (.ld always 8 ⟨5, 0, 0, 16⟩ false true .d) = false ∧
    Instr.wf (.st always 9 ⟨5, 0, 0, 0⟩ false .q) = false ∧ Instr.wf (.csrr always 1 0xFFF) = false ∧
    Instr.wf (.csrw always 0xFFF 1) = false ∧ Instr.wf (.csrwSet always 0xFFF 1) = false ∧ Instr.wf (.csrwClr always 0xFFF 1) = false ∧
    Instr.wf (.rngld always 4 7) = false ∧ Instr.wf (.rngst always 4 7) = false ∧ Instr.wf (.registerWrite 0xFFF 0) = false := by decide
theorem test_wf_matrix :
    Instr.wf (.mma always 1 2 4 6 .s8 false) = false ∧ Instr.wf (.mma always 1 3 4 6 .bf16 false) = false ∧
    Instr.wf (.mma always 1 2 4 6 .c2x8 false) = false ∧ Instr.wf (.mma always 1 0 4 6 .e2m1 false) = false ∧
    Instr.wf (.mmas always 1 2 0 6 .bf16 false) = false ∧ Instr.wf (.prune always 2 4 1 1 .e2m1 false) = false ∧
    Instr.wf (.mld always 1 2 .f32 .rtz) = false ∧ Instr.wf (.mst always 2 1 .f64 .rne false) = false ∧
    Instr.wf (.abcastRow always 1 2 .e4m3) = false ∧ Instr.wf (.acvt always 3 1 2 .e4m3 .rne false) = false ∧
    Instr.wf (.acvtB32 always 2 1 2 .f32 .rne false) = false ∧ Instr.wf (.abcastColv always 1 2 .s8) = false := by decide
theorem test_wf_others :
    Instr.wf (.attn always 0 3 10 12 14 false) = false ∧ Instr.wf (.pxlkp always 1 3 4) = false ∧ Instr.wf (.pxlkpDrop always 1 3 4) = false ∧
    Instr.wf (.pxins always 1 3 4) = false ∧ Instr.wf (.strm always 0 1 2 3 .rd .f64 .core false) = false ∧
    Instr.wf (.strm always 0 1 2 3 .rd .s32 .part false) = false ∧ Instr.wf (.strm always 0 1 2 3 .sadd .s32 .core true) = false ∧
    Instr.wf (.tbinit always 1 0 false) = false ∧ Instr.wf (.tbinit always 1 0x100000 false) = false ∧
    Instr.wf (.tbarr always 1 false .part) = false ∧ Instr.wf (.tbwait always 1 0 false .part) = false ∧
    Instr.wf (.tbtest always 1 1 0 false .part) = false := by decide
theorem test_wf_memory :
    Instr.wf (.amo always 1 ⟨2, 0, 0, 0⟩ .fadd false) = false ∧ Instr.wf (.red always 1 ⟨2, 0, 0, 0⟩ .xchg false) = false ∧
    Instr.wf (.amof always 1 ⟨2, 0, 0, 0⟩ .add false false) = false ∧ Instr.wf (.ldfe always 1 ⟨2, 0, 0, 0⟩ false .q) = false ∧
    Instr.wf (.stfe always 2 ⟨2, 0, 0, 0⟩ .b) = false ∧ Instr.wf (.collSum always 1 2 3 4 .f16) = false ∧
    Instr.wf (.collBcast always 1 2 3 4 .e2m1) = false ∧ Instr.wf (.collRscat always 1 2 3 4 .s8) = false ∧
    Instr.wf (.bslice always 1 2 .f32 0) = false ∧ Instr.wf (.bjoin always 1 2 .bf16 0) = false ∧
    Instr.wf (.illegalWord 0x2900000000000000) = false := by decide
theorem test_wf_events :
    Instr.wf (.wfeTimeout 640) = false ∧ Instr.wf (.compactionDone 4) = false ∧ Instr.wf (.portReadAccess 0 16) = false ∧
    Instr.wf (.relatchToken 0 128) = false ∧ Instr.wf (.inputPacketExpand 0 0 4) = false ∧ Instr.wf (.mov 0 48) = false ∧
    Instr.wf (.radix 0 16) = false ∧ Instr.wf (.tableLoadEntry 0 4 0) = false ∧ Instr.wf (.dispatch 64) = false ∧
    Instr.wf (.druatIdle 48 ⟨0, 0, 0, [], 0⟩) = false := by decide

/-! Words that the spec's chapters spell out beside their assembly. -/

/-- Formats and opcode map; Control core instructions. -/
theorem test_decode_integer :
    decode 0x0110404000000000 = .ok (.add always 4 4 1) ∧ decode 0x1C1C018000070000 = .ok (.addsh always 7 0 6 7) ∧
    decode 0x1024500000410000 = .ok (.shrImm always 9 5 1) ∧ decode 0x0F28200000600000 = .ok (.shlImm always 10 2 32) ∧
    decode 0x1B30000000000080 = .ok (.movhi always 12 128) ∧ decode 0x1A5C0000000F0000 = .ok (.movi always 23 0xF0000) ∧
    decode 0x032C3000FFFFFFFF = .ok (.addi always 11 3 0xFFFFFFFF) ∧ decode 0x1E0420C000020000 = .ok (.cmp always 1 2 3 .lt) ∧
    decode 0x1E04600000000000 = .ok (.cmp always 1 6 0 .eq) := by decide
theorem test_decode_control :
    decode 0x200000FFFFFFFFFD = .ok (.br always 0xFFFFFFFFFD) ∧ decode 0x203800FFFFFFFFFD = .ok (.br ⟨3, true⟩ 0xFFFFFFFFFD) ∧
    decode 0x2303F00000000000 = .ok (.jr always 0 63) ∧ decode 0x2400500004010000 = .ok (.loop always true 5 1) ∧
    decode 0x2400500000100000 = .ok (.loop always false 5 16) ∧ decode 0x2900000000000000 = .ok (.nop always) ∧
    decode 0xA000000000000042 = .ok (.trap always 0x42) ∧ decode 0xA5010000000001B5 = .ok (.sevOne always 437) ∧
    decode 0xA2F0000000000013 = .ok (.csrr always 60 0x13) ∧ decode 0xA101000000000000 = .ok (.eretTask always) := by decide
theorem test_decode_memory :
    decode 0x301C500080000010 = .ok (.ld always 7 ⟨5, 0, 0, 16⟩ false false .w) ∧
    decode 0x30A0400100000000 = .ok (.ld always 40 ⟨4, 0, 0, 0⟩ false false .q) ∧
    decode 0x31A0600100000000 = .ok (.st always 40 ⟨6, 0, 0, 0⟩ false .q) ∧
    decode 0x35148000C0000008 = .ok (.amo always 5 ⟨8, 0, 0, 8⟩ .add true) ∧
    decode 0x370C4180A0000000 = .ok (.red always 3 ⟨4, 6, 2, 0⟩ .add false) ∧
    decode 0x3814800080000000 = .ok (.amof always 5 ⟨8, 0, 0, 0⟩ .fadd false false) ∧
    decode 0x32A0800101000000 = .ok (.ldfe always 40 ⟨8, 0, 0, 0⟩ true .q) := by decide
theorem test_decode_matrix :
    decode 0x625C000000000000 = .ok (.mzero always 23) ∧ decode 0x6050A30600C00000 = .ok (.mma always 20 10 12 6 .e4m3 false) ∧
    decode 0x7959400000000000 = .ok (.asig always 22 20 false) ∧ decode 0x7159650000000000 = .ok (.amul always 22 22 20 .range .rne false) ∧
    decode 0x712CB34000010000 = .ok (.amul always 11 11 13 .bc .rne false) ∧
    decode 0x7D61568000C40000 = .ok (.acvt always 24 21 26 .e4m3 .rne true) ∧
    decode 0x7A0CB00000000000 = .ok (.aredSum always 3 11 .rne false) ∧ decode 0x7734300000000000 = .ok (.arcp always 13 3 false) ∧
    decode 0x632D000000000000 = .ok (.mld always 11 16 .f32 .rne) ∧ decode 0x6440B00000000000 = .ok (.mst always 16 11 .f32 .rne false) ∧
    decode 0x9F00418000000000 = .ok (.rngld always 4 6) ∧ decode 0x9F24000000800000 = .ok (.rand always 9) := by decide
theorem test_decode_attention :
    decode 0x800070C000000000 = .ok (.abind always 0 7 3 false) ∧ decode 0x8150A30E00000000 = .ok (.attn always 0 20 10 12 14 false) ∧
    decode 0x8503C00000010000 = .ok (.kvforkCow always 0 60) := by decide
theorem test_decode_fabric :
    decode 0x4000800000000000 = .ok (.cfg always 8) ∧ decode 0x4200128000019000 = .ok (.strm always 0 1 10 0 .fib .s32 .core false) ∧
    decode 0x4200400000449100 = .ok (.strm always 2 4 0 0 .sadd .s32 .part false) ∧
    decode 0x4400900000000001 = .ok (.btok always 9 1 false) ∧ decode 0x471C000000000001 = .ok (.tpop always 7 1) := by decide
theorem test_decode_sync :
    decode 0x5100800000000001 = .ok (.tbinit always 8 1 false) ∧ decode 0x5200824000000000 = .ok (.tbexp always 8 9 false) ∧
    decode 0x504411C800000000 = .ok (.cpyG2s always 17 1 7 8 false false .core) ∧
    decode 0x5011D6C801000000 = .ok (.cpyS2g always 4 29 27 8 false .core) ∧ decode 0x5300800000000000 = .ok (.tbarr always 8 false .core) ∧
    decode 0x5300400000090000 = .ok (.tbarr always 4 true .part) ∧ decode 0x5400800000000001 = .ok (.tbwait always 8 1 false .core) ∧
    decode 0x5400304800000000 = .ok (.tbwait always 3 0 true .part) ∧
    decode 0x5724400000000000 = .ok (.seqw always 9 4 0 false .core) ∧
    decode 0x5851524A00080000 = .ok (.collSum always 20 21 9 10 .bf16) := by decide
theorem test_decode_lookup :
    decode 0x905D100005000000 = .ok (.bslice always 23 17 .z8 0) ∧ decode 0x905D100005880000 = .ok (.bslice always 23 17 .z32 8) ∧
    decode 0x9149700005000000 = .ok (.bjoin always 18 23 .z8 0) ∧ decode 0x9200400000010000 = .ok (.lctx always 1 4) ∧
    decode 0x9300000000020000 = .ok (.lsel always 2) ∧ decode 0x9400000000000000 = .ok (.lrun always) ∧
    decode 0x9525800000000000 = .ok (.lstatPop always 9 24) ∧ decode 0x9525900001030000 = .ok (.lstatWord always 9 25 3) ∧
    decode 0x9524000002010000 = .ok (.lstatSlot always 9 1) := by decide
theorem test_decode_tasks :
    decode 0x9800108000000000 = .ok (.tenq always 1 2) ∧ decode 0x9900518000010000 = .ok (.launchArg always 5 6) ∧
    decode 0x9A0051C000000000 = .ok (.gsig always 5 7) ∧ decode 0x9B00000000000000 = .ok (.tend always) ∧
    decode 0x9B00100000000000 = .ok (.tend ⟨1, false⟩) ∧ decode 0x9C00000000000000 = .ok (.tyield always) ∧
    decode 0x9D24A00000000000 = .ok (.rinvTag always 9 10) ∧ decode 0x9D24000002000000 = .ok (.rinvAll always 9) ∧
    decode 0x9E24000001000000 = .ok (.rstatHit always 9) := by decide
/-- Control core instructions: the integer words of R73 to R80. -/
theorem test_decode_integer_rest :
    decode 0x020C108000000000 = .ok (.sub always 3 1 2) ∧ decode 0x040C108000000000 = .ok (.mul always 3 1 2) ∧
    decode 0x050C108000000000 = .ok (.mulh always 3 1 2) ∧ decode 0x060C108000000000 = .ok (.mulhz always 3 1 2) ∧
    decode 0x070C108000000000 = .ok (.div always 3 1 2) ∧ decode 0x080C108000000000 = .ok (.divz always 3 1 2) ∧
    decode 0x090C108000000000 = .ok (.rem always 3 1 2) ∧ decode 0x0A0C108000000000 = .ok (.remz always 3 1 2) ∧
    decode 0x0B0C108000000000 = .ok (.and always 3 1 2) ∧ decode 0x0C0C108000000000 = .ok (.or always 3 1 2) ∧
    decode 0x0D0C108000000000 = .ok (.xor always 3 1 2) ∧ decode 0x0E0C108000000000 = .ok (.andn always 3 1 2) ∧
    decode 0x0F0C108000000000 = .ok (.shlReg always 3 1 2) ∧ decode 0x100C108000000000 = .ok (.shrReg always 3 1 2) ∧
    decode 0x110C108000000000 = .ok (.shaReg always 3 1 2) ∧ decode 0x110C1000007F0000 = .ok (.shaImm always 3 1 63) ∧
    decode 0x120C108000000000 = .ok (.rotReg always 3 1 2) ∧ decode 0x120C100000410000 = .ok (.rotImm always 3 1 1) ∧
    decode 0x130C108000000000 = .ok (.min always 3 1 2) ∧ decode 0x140C108000000000 = .ok (.max always 3 1 2) ∧
    decode 0x150C108000000000 = .ok (.minz always 3 1 2) ∧ decode 0x160C108000000000 = .ok (.maxz always 3 1 2) ∧
    decode 0x170C100000000000 = .ok (.clz always 3 1) ∧ decode 0x170C100000400000 = .ok (.popc always 3 1) ∧
    decode 0x180C108400000000 = .ok (.bfx always 3 1 2 4) ∧ decode 0x180C108400400000 = .ok (.bfxS always 3 1 2 4) ∧
    decode 0x190C108400000000 = .ok (.bfi always 3 1 2 4) ∧ decode 0x1D0C108400000000 = .ok (.mad always 3 1 2 4) ∧
    decode 0x1F0C108500000000 = .ok (.sel always 3 5 1 2) ∧ decode 0x260C108000010000 = .ok (.pand always 3 1 2 true false) ∧
    decode 0x270C108000020000 = .ok (.por always 3 1 2 false true) ∧ decode 0x280C100000000000 = .ok (.pnot always 3 1) := by decide
/-- Control core instructions: transfers, loops, registers and system words (R82 to R104). -/
theorem test_decode_control_rest :
    decode 0x220000FFFFFFFFFF = .ok (.jal always 0xFFFFFFFFFF) ∧ decode 0x2100000000000002 = .ok (.brcL1 always 2) ∧
    decode 0x2101000000000002 = .ok (.brcAll always 2) ∧ decode 0x2500004000800064 = .ok (.loopi always true 2 100) ∧
    decode 0xA300400000000010 = .ok (.csrw always 0x10 4) ∧ decode 0xA300400100000010 = .ok (.csrwSet always 0x10 4) ∧
    decode 0xA300400200000010 = .ok (.csrwClr always 0x10 4) ∧ decode 0xA100000000000000 = .ok (.eret always) ∧
    decode 0xA4000000000001F4 = .ok (.wfe always 500) ∧ decode 0xA500000000000000 = .ok (.sevAll always) ∧
    decode 0xA502000000000000 = .ok (.sevClus always) ∧ decode 0xA601000000000020 = .ok (.hintPf always 32) ∧
    decode 0xA600000000000000 = .ok (.hintSpin always) := by decide
/-- Matrix and accumulator instructions (R143 to R160). -/
theorem test_decode_matrix_rest :
    decode 0x6150A30600810000 = .ok (.mmas always 20 10 12 6 .f16 true) ∧
    decode 0x6510604200400000 = .ok (.prune always 4 6 1 2 .bf16 false) ∧
    decode 0x705147C000120000 = .ok (.aadd always 20 20 31 .sc .rdn false) ∧
    decode 0x721461C800250000 = .ok (.afma always 5 6 7 8 .bc .rsr true) ∧ decode 0x731461C000020000 = .ok (.amax always 5 6 7 .sc) ∧
    decode 0x741461C000000000 = .ok (.amin always 5 6 7 .range) ∧ decode 0x7514600000040000 = .ok (.aexp2 always 5 6 true) ∧
    decode 0x7614600000000000 = .ok (.alog2 always 5 6 false) ∧ decode 0x7814600000000000 = .ok (.arsq always 5 6 false) ∧
    decode 0x7914600000010000 = .ok (.asigTanh always 5 6 false) ∧ decode 0x7914600000020000 = .ok (.asigSilu always 5 6 false) ∧
    decode 0x7914600000030000 = .ok (.asigExpe always 5 6 false) ∧ decode 0x7A14600000010000 = .ok (.aredMax always 5 6) ∧
    decode 0x7A14600000020000 = .ok (.aredMin always 5 6) ∧ decode 0x7B14600000000000 = .ok (.abcast always 5 6) ∧
    decode 0x7B14600000410000 = .ok (.abcastRow always 5 6 .bf16) ∧ decode 0x7B14600000820000 = .ok (.abcastColv always 5 6 .f16) ∧
    decode 0x7C14600000000000 = .ok (.amov always 5 6) ∧ decode 0x7D61568001590000 = .ok (.acvtB32 always 24 21 26 .e2m1 .rup false) ∧
    decode 0x9F0C018000400000 = .ok (.rngst always 3 6) := by decide
/-- Attention and cache instructions (R200). -/
theorem test_decode_attention_rest :
    decode 0x8251454000000000 = .ok (.tmerge always 20 20 21) ∧ decode 0x830C108000000000 = .ok (.kvmap always 3 1 2) ∧
    decode 0x8400360900000000 = .ok (.kvapp always 3 24 9) ∧ decode 0x850C100000000000 = .ok (.kvfork always 3 1) ∧
    decode 0x8600108000000000 = .ok (.kvtrunc always 1 2) ∧ decode 0x8700100000000000 = .ok (.kvrel always 1) ∧
    decode 0x8800108300000000 = .ok (.kvret always 1 2 3) ∧ decode 0x8900108300000000 = .ok (.kvcompact always 1 2 3) ∧
    decode 0x8A0C100000000000 = .ok (.kvqLen always 3 1) ∧ decode 0x8A0C100000010000 = .ok (.kvqMap always 3 1) ∧
    decode 0x8A0C100000020000 = .ok (.kvqFrame always 3 1) ∧ decode 0x8A0C100000030000 = .ok (.kvqState always 3 1) ∧
    decode 0x8B0C404000000000 = .ok (.pxlkp always 3 4 1) ∧ decode 0x8B0C404000010000 = .ok (.pxlkpDrop always 3 4 1) ∧
    decode 0x8C0C404000000000 = .ok (.pxins always 3 4 1) := by decide
/-- Streams and fixed operators (R317). -/
theorem test_decode_fabric_rest :
    decode 0x4000800000000001 = .ok (.cfgStg always 8) ∧ decode 0x4100000000000000 = .ok (.cfgsw always) ∧
    decode 0x4300800000000000 = .ok (.sbar always 8) ∧ decode 0x4300800000000001 = .ok (.sbarOrd always 8) ∧
    decode 0x4500800002600000 = .ok (.argw always 3 8) ∧ decode 0x4600800000000002 = .ok (.tinj always 2 8) ∧
    decode 0x4814000002200000 = .ok (.fstat always 5 17) ∧ decode 0x4814000000000001 = .ok (.fstatAll always 5) ∧
    decode 0x4900824000000001 = .ok (.slotf always 8 9 true) := by decide
/-- Copies, barriers, atomics, fences, chains, collectives and spills (R352 to R371). -/
theorem test_decode_sync_rest :
    decode 0x504411C8020B0000 = .ok (.cpyG2g always 17 1 7 8 true .fab) ∧
    decode 0x504411C803100000 = .ok (.cpyS2s always 17 1 7 8 true false .core) ∧
    decode 0x5000824004080000 = .ok (.cpyRing always 8 9 true) ∧ decode 0x5508805000000009 = .ok (.tbtest always 2 8 9 true .dev) ∧
    decode 0x3614818700010000 = .ok (.cas always 5 8 6 7 false true) ∧ decode 0x33204180F0000010 = .ok (.stfe always 8 ⟨4, 6, 3, 16⟩ .d) ∧
    decode 0x3400800080000000 = .ok (.pref always ⟨8, 0, 0, 0⟩ false .w) ∧
    decode 0x3400800101000000 = .ok (.pref always ⟨8, 0, 0, 0⟩ true .q) ∧ decode 0x3902000000000000 = .ok (.fence always .dev) ∧
    decode 0x5600824000030000 = .ok (.chainCpy always 8 9 .fab) ∧ decode 0x5600824001040000 = .ok (.chainColl always 8 9 .sys) ∧
    decode 0x580420C401000000 = .ok (.collMax always 1 2 3 4 .f32) ∧ decode 0x580420C402900000 = .ok (.collMin always 1 2 3 4 .s32) ∧
    decode 0x580420C403A00000 = .ok (.collBcast always 1 2 3 4 .z8) ∧ decode 0x580420C404400000 = .ok (.collAgath always 1 2 3 4 .f64) ∧
    decode 0x580420C405B00000 = .ok (.collRscat always 1 2 3 4 .z32) ∧ decode 0x3A0107C500020000 = .ok (.spl always 2 16 31 5) ∧
    decode 0x3B0107C0000F0000 = .ok (.fil always 15 16 31) := by decide
/-- Lookup cells, tasks and reuse (R387, R411, R428). -/
theorem test_decode_tasks_rest :
    decode 0x9524000003000000 = .ok (.lstatRuns always 9) ∧ decode 0x9900500000000000 = .ok (.launch always 5) ∧
    decode 0x9D0C108001000000 = .ok (.rinvRange always 3 1 2) ∧ decode 0x9D0C100003000000 = .ok (.rinvAsid always 3 1) ∧
    decode 0x9E0C000000000000 = .ok (.rstatLkp always 3) ∧ decode 0x9E0C000002000000 = .ok (.rstatMiss always 3) ∧
    decode 0x9E0C000003000000 = .ok (.rstatIns always 3) ∧ decode 0x9E0C400004000000 = .ok (.rstatProbe always 3 4) ∧
    decode 0x9E0C000005000000 = .ok (.rstatHeld always 3) ∧ decode 0x9E0C000006000000 = .ok (.rstatQuota always 3) := by decide
/-- Every element operation at its code in the grid of R69, in otherwise equal words (fields alone; CFG checks them further); unassigned ops are
refused. -/
theorem test_decode_element_ops :
    let word (k : Nat) : Word := BitVec.ofNat 64 (0x0000003C00000000 + k * 2 ^ 25 + 13 * 2 ^ 21 + 13 * 2 ^ 17 + 13 * 2 ^ 13)
    let row (k : Nat) (l : List ElemOp) : Bool :=
      l.zipIdx.all fun (o, i) => ElemWord.ofWord (word (k + i)) == some ⟨0, 0, 0, 0, 0, 7, true, o, 13, 13, 13, 0, 0, 0, 0⟩
    row 0 [.empty, .mov, .iadd, .isub, .imul, .imad, .iand, .ior, .ixor, .ishl, .ishr, .isra, .imin, .imax, .icmp, .sel] = true ∧
    row 0x10 [.cmpc, .deq, .emit] = true ∧ row 0x20 [.fadd, .fsub, .fmul, .ffma, .fmin, .fmax, .fcmp, .fexp2, .frcp] = true ∧
    row 0x30 [.fcvtF32Bf16, .fcvtF32F16, .fcvtF32E4m3, .fcvtF32E5m2, .fcvtF32E2m1, .fcvtF32S32, .fcvtF32Z32] = true ∧
    row 0x38 [.fcvtBf16F32, .fcvtF16F32, .fcvtE4m3F32, .fcvtE5m2F32, .fcvtE2m1F32, .fcvtS32F32, .fcvtZ32F32] = true ∧
    row 0x40 [.vaddBf16, .vmulBf16, .vfmaBf16] = true ∧ row 0x44 [.vaddF16, .vmulF16, .vfmaF16] = true ∧
    row 0x48 [.vaddS16, .vmulS16] = true ∧ row 0x4C [.vaddS8, .vmulS8] = true ∧
    (∀ k ∈ [0x13, 0x1F, 0x29, 0x37, 0x3F, 0x43, 0x47, 0x4A, 0x4B, 0x4E, 0x50, 0x7F], ElemWord.ofWord (word k) = none) := by decide
/-- The guard of each of the six formats (R48, R50). -/
theorem test_decode_guards :
    decode 0x020C108058000000 = .ok (.sub ⟨5, true⟩ 3 1 2) ∧
    decode 0x03105A8000000009 = .ok (.addi ⟨10, true⟩ 4 5 9) ∧
    decode 0x301C503E80000010 = .ok (.ld ⟨15, true⟩ 7 ⟨5, 0, 0, 16⟩ false false .w) ∧
    decode 0x2290000000000003 = .ok (.jal ⟨9, false⟩ 3) ∧
    decode 0x4000800060000000 = .ok (.cfg ⟨6, false⟩ 8) ∧
    decode 0xA400C80000000007 = .ok (.wfe ⟨12, true⟩ 7) := by decide
/-- Words the P640 does not accept: opcode 0x00, an unassigned opcode, a reserved type code, and a field that must be zero. -/
theorem test_decode_refused :
    decode 0 = .ok (.illegalWord 0) ∧ decode 0xB000000000000000 = .ok (.illegalWord 0xB000000000000000) ∧
    decode 0x6050A30602400000 = .error .reservedValue ∧ decode 0x0110404000000001 = .error .unusedField := by decide
/-- Element words of Program: sparse scatter and of Element instructions. -/
theorem test_decode_elements :
    decodeElem 0x0000110803100202 = some ⟨0, 0, 1, 1, 0, 1, false, .mov, 8, 8, 0, 1, 0, 0, 1⟩ ∧
    decodeElem 0x0200100004010200 = some ⟨2, 0, 1, 0, 0, 0, false, .iadd, 0, 0, 8, 1, 0, 0, 0⟩ ∧
    decodeElem 0x0102100040102290 = some ⟨1, 2, 1, 0, 0, 0, false, .fadd, 0, 8, 1, 1, 1, 1, 0⟩ := by decide

/-! Small states for single steps and witnesses. -/

/-- A machine whose core 0 runs a task of ASID 0 in a partition of one cluster, its address 0 mapped to one page with every permission. -/
def base : State := State.reset.placed 0x2900000000000000
/-- The task that runs there. -/
def worker : Ctx := { Ctx.entry 0 0 0 false 0 with cols := 1024, spadBytes := 0x80000 }
/-- The same machine with another task on core 0. -/
def run (x : Ctx) : State := base.setCore 0 { Core.idle with day := some x }
/-- A task with values in registers. -/
def holding (rs : List (Reg × Word)) : Ctx := rs.foldl (fun x r => x.setG r.1 r.2) worker
/-- A supervisor with values in registers. -/
def chief (rs : List (Reg × Word)) : Ctx := { holding rs with sup := true }

/-! Single steps, with results from the rules' own words. -/

/-- R73: sums wrap; a write to g0 is discarded. -/
theorem test_add_wraps : ∃ t x, exec (.add always 3 1 2) (run (holding [(1, 0xFFFFFFFFFFFFFFFF), (2, 2)])) = .next t ∧
    t.ctx = some x ∧ x.g 3 = 1 ∧ x.pc = 8 := ⟨_, _, rfl, rfl, by decide⟩
theorem test_add_discards : ∃ t x, exec (.add always 0 1 1) (run (holding [(1, 5)])) = .next t ∧ t.ctx = some x ∧ x.g 0 = 0 :=
  ⟨_, _, rfl, rfl, by decide⟩
/-- R74: the sign of a remainder is the dividafter's. -/
theorem test_rem_sign : ∃ t x, exec (.rem always 3 1 2) (run (holding [(1, 0xFFFFFFFFFFFFFFF9), (2, 2)])) = .next t ∧
    t.ctx = some x ∧ x.g 3 = 0xFFFFFFFFFFFFFFFF := ⟨_, _, rfl, rfl, by decide⟩
/-- R77: the pair MOVI, MOVHI of the epilogue, its second word. -/
theorem test_movhi : ∃ t x, exec (.movhi always 12 128) (run (holding [(12, 0x20000)])) = .next t ∧ t.ctx = some x ∧
    x.g 12 = 0x0000008000020000 := ⟨_, _, rfl, rfl, by decide⟩
/-- R90, R91: .s extends the sign of a byte. -/
theorem test_load_extends : ∃ t x, exec (.ld always 3 ⟨1, 0, 0, 0⟩ true true .b)
    { run (holding [(1, 0x10)]) with cores := [(0, { Core.idle with day := some (holding [(1, 0x10)]), spad := [(0x10, 0x80)] })] } = .next t ∧
    t.ctx = some x ∧ x.g 3 = 0xFFFFFFFFFFFFFF80 := ⟨_, _, rfl, rfl, by decide⟩
/-- R87, R88: a branch back takes no loop step. -/
theorem test_branch_back : ∃ t x, exec (.br always 0xFFFFFFFFFF) (run { worker with pc := 0x100, loop1 := ⟨0x80, 0x100, 3, 3⟩ }) = .next t ∧
    t.ctx = some x ∧ x.pc = 0xF8 ∧ x.loop1.count = 3 := ⟨_, _, rfl, rfl, by decide⟩
/-- R126: a rounding at the middle goes to the even neighbour (1 + 2^-24). -/
theorem test_round_even : f32Add 0x3F800000 0x33800000 = 0x3F800000 := by decide
/-- R107, R117: 7 in .e2m1 with .sat is 6. -/
theorem test_narrow_saturates : Ty.e2m1.narrow .rne 0 true (.fin false 7 0) = 7 := by decide

/-! Witnesses: for each statement with hypotheses, states and operands that meet them together, one for each clause. -/

/-- For SumsAndProductsComplete, DivisionCompletes, OneWordResultsComplete, ComparesAndSelectsComplete, StreamRegistersComplete and every clause
whose one hypothesis is that the task is ready: it runs, and the guard holds. -/
theorem witness_ready : (run worker).ready worker always := ⟨rfl, rfl, rfl⟩
theorem witness_StepRunsDecoded :
    (let p := base.pass
     ∃ x, base.agenda = [] ∧ p.ctx = some x ∧ p.alive = true ∧ x.issues = true ∧ (p.core p.cur).stopped x = false ∧ x.traps = [] ∧
      (∃ u, p.fetch x = .ok (u, 0x2900000000000000)) ∧ setHas x.patched 0 = false ∧
      ∃ w, p.translate (p.me x) x.pc .fetch = .ok w ∧ p.region w.pa = .hbm ∧ p.rangePoisoned w.pa 8 = false) ∧
    decode 0x2900000000000000 = .ok (.nop always) ∧
    (let s := State.reset.placed 0x0110404000000001
     ∃ x, s.agenda = [] ∧ s.pass.ctx = some x ∧ s.pass.alive = true ∧ x.issues = true ∧ (s.pass.core s.pass.cur).stopped x = false ∧
      ∃ u, s.pass.fetch x = .ok (u, 0x0110404000000001)) ∧
    decode 0x0110404000000001 = .error .unusedField ∧
    (let s := run { worker with pc := 0x100000000 }
     ∃ x t, s.pass.ctx = some x ∧ s.pass.fetch x = .error (.trap t) ∧ t.code = .page) ∧
    (let x := { worker with traps := [⟨.poison, 0, 0, none, 0xFF, 0xF, 0, false, []⟩] }; x.traps ≠ [] ∧ x.atBoundary = true) ∧
    fromOutside (.hifErrClear 1) = true ∧ fromOutside .sevDelivery = true :=
  ⟨⟨_, rfl, rfl, rfl, rfl, rfl, rfl, ⟨_, rfl⟩, rfl, _, rfl, rfl, rfl⟩, by decide, ⟨_, rfl, rfl, rfl, rfl, rfl, _, rfl⟩, by decide,
    ⟨_, _, rfl, rfl, rfl⟩, by decide, by decide, by decide⟩
theorem witness_DecodingFollowsTheTables : opAssigned 0 = false ∧ opAssigned 0xA600000000000000 = true ∧
    decode 0xA600000000000000 = .ok (.hintSpin always) ∧ Instr.wf (.hintSpin always) = true ∧ encode (.hintSpin always) ≠ 0 := by decide
theorem witness_MemoryStaysCanonical : Memory.wf base.mem = true ∧ ∃ t, step base = .next t := ⟨by decide, _, rfl⟩
theorem witness_MemoryReadsBack : Memory.wf base.mem = true ∧ 0x300FF % 128 + [(7 : Byte)].length ≤ 128 ∧
    0x30080 % 128 + (List.replicate 128 (7 : Byte)).length ≤ 128 ∧ tabGet base.updates 0 = none ∧ Memory.wf (base.core 0).spad = true :=
  ⟨by decide, by decide, by simp, rfl, rfl⟩
theorem witness_TrapsTakeTheirRoute :
    (let x := { chief [] with svec := 0x400 }; x.sup = true ∧ x.sh = false ∧ x.svec ≠ 0) ∧
    (let x := { chief [] with sh := true }; x.sup = true ∧ (x.sh = true ∨ x.svec = 0)) ∧
    (let x := { worker with thv := 0x400 }; x.sup = false ∧ x.taskRoute ⟨.kvcow, 0, 0, none, 0xFF, 0xF, 0, false, []⟩ = true) ∧
    (let t : Trap := ⟨.page, 0, 0, none, 0xFF, 0xF, 0, false, []⟩
     worker.sup = false ∧ worker.taskRoute t = false ∧ t.code ≠ .purity ∧
     ∃ q, base.part worker.part = some q ∧ q.fqLen.toNat ≤ (q.fqTail - q.fqHead).toNat) ∧
    (∃ q, (base.setPart 0 { Partition.fresh 0 1 [(0, 0)] 1 with fqLen := 4 }).part 0 = some q ∧ (q.fqTail - q.fqHead).toNat < q.fqLen.toNat) :=
  ⟨by decide, by decide, by decide, ⟨by decide, by decide, by decide, _, rfl, by decide⟩, _, rfl, by decide⟩
theorem witness_GuardsAndPrivilegeHold :
    Instr.guard (.eret ⟨1, false⟩) = some ⟨1, false⟩ ∧ Instr.privileged (.eret ⟨1, false⟩) = true ∧ (run worker).ctx = some worker ∧
    worker.issues = true ∧ worker.sup = false ∧ worker.holds ⟨1, false⟩ = false ∧ Instr.guard (.nop ⟨1, false⟩) = some ⟨1, false⟩ ∧
    Instr.privileged (.nop ⟨1, false⟩) = false ∧ opAssigned 0 = false ∧ decode 0x0110404000000001 = .error .unusedField :=
  ⟨rfl, rfl, rfl, rfl, rfl, rfl, rfl, rfl, rfl, by decide⟩
theorem witness_RegisterInstructionsFrame :
    (run worker).ctx = some worker ∧ (∃ t, exec (.mad always 1 2 3 4) (run worker) = .next t) ∧
    ∃ t, exec (.cmp always 1 2 3 .eq) (run worker) = .next t := ⟨rfl, ⟨_, rfl⟩, _, rfl⟩
theorem witness_LoadsAndStoresFrame :
    let x := holding [(1, 0x7FFF0), (2, 0xFFF0)]
    let s := run x
    let m : MemOp := ⟨1, 0, 0, 0⟩
    let e : MemOp := ⟨2, 0, 0, 0⟩
    s.ready x always ∧ (x.ea m).toNat % 16 = 0 ∧ (x.ea m).toNat + 16 ≤ x.spadBytes ∧ (s.core s.cur).spadReady (x.ea m).toNat 16 = true ∧
    (s.core s.cur).spadPoisoned (x.ea m).toNat 16 = false ∧ (∃ t, exec (.ld always 4 m true false .q) s = .next t) ∧
    (∃ t, exec (.st always 4 m true .q) s = .next t) ∧ Memory.wf s.mem = true ∧ (x.ea e).toNat % 16 = 0 ∧
    (∃ w, s.translate (s.me x) (x.ea e) .store = .ok w ∧ s.region w.pa = .hbm ∧ entryDup w.leaf = false) ∧
    (∃ u, s.store (s.me x) (x.ea e) (x.storeBytes 4 .q) = .ok u) ∧ (∃ t, exec (.st always 4 e false .q) s = .next t) ∧
    s.updates = [] ∧ s.dups = [] ∧ (∃ w, s.translate (s.me x) (x.ea e) .load = .ok w ∧ s.region w.pa = .hbm) ∧
    (∃ u bs, s.load (s.me x) (x.ea e) 16 = .ok (u, bs)) ∧ ∃ t, exec (.ld always 4 e false false .q) s = .next t :=
  ⟨⟨rfl, rfl, rfl⟩, by decide, by decide, by decide, by decide, ⟨_, rfl⟩, ⟨_, rfl⟩, by decide, by decide, ⟨_, rfl, rfl, rfl⟩, ⟨_, rfl⟩,
    ⟨_, rfl⟩, rfl, rfl, ⟨_, rfl, rfl⟩, ⟨_, _, rfl⟩, _, rfl⟩
/-- A machine whose one page lies elsewhere: in host memory, or in a view. -/
def paged (x : Ctx) (leaf : Nat) : State := { run x with
  mem := Memory.setBytes (run x).mem 0x22000 (natLe 8 leaf)
  ranges := [(0, { FormatRange.reset with ctl := 0x80000000, plen := 0x10000, vbase := 0x100000000000 })] }
theorem witness_LoadsAndStoresFrame_elsewhere :
    let x := holding [(2, 0xFFF0)]
    let s := paged x 0x20000001001F
    let ea := x.ea ⟨2, 0, 0, 0⟩
    (∃ w v w', s.translate (s.me x) ea .store = .ok w ∧ (s.stampWalk (s.me x) w).forWrite (s.me x) ea 16 .store w = .ok (v, w') ∧
      v.region w'.pa = .host) ∧
    (∃ u, s.store (s.me x) ea (x.storeBytes 4 .q) = .ok u) ∧ (∃ t, exec (.st always 4 ⟨2, 0, 0, 0⟩ false .q) s = .next t) ∧
    ∃ w, (paged x 0x10000000001F).lookUp ((paged x 0x10000000001F).me x) ea = .ok w ∧ (paged x 0x10000000001F).region w.pa = .view :=
  ⟨⟨_, _, _, rfl, rfl, rfl⟩, ⟨_, rfl⟩, ⟨_, rfl⟩, _, rfl, rfl⟩
theorem witness_AnOffDeviceDoesNothing : ({ base with power := .off } : State).power = .off ∧ fromOutside (.hifErrClear 1) = true ∧
    ({ base with power := .off } : State).agenda = [] := ⟨rfl, by decide, rfl⟩
theorem witness_NumbersFollowTheirFormats : FVal.isNan .nan = true ∧ (F32.val 0x7FC00000).isNan = true ∧
    Fmt.e4m3 ∈ [Fmt.f64, Fmt.f32, Fmt.bf16, Fmt.f16, Fmt.e4m3, Fmt.e5m2, Fmt.e2m1] ∧ 0xFE < 2 ^ (1 + Fmt.e4m3.eb + Fmt.e4m3.mb) ∧
    (Fmt.e4m3.decode 0xFE).isNan = false := by decide
theorem witness_DivisionCompletes :
    let x := holding [(1, 0x8000000000000000), (2, 0xFFFFFFFFFFFFFFFF)]
    (run x).ready x always ∧ x.g 1 = 0x8000000000000000 ∧ x.g 2 = 0xFFFFFFFFFFFFFFFF := ⟨⟨rfl, rfl, rfl⟩, by decide, by decide⟩
theorem witness_TransfersAndLoopsComplete :
    let x := holding [(1, 0x108), (2, 0x10C)]
    (run x).ready x always ∧ (x.g 1).toNat % 8 = 0 ∧ (x.g 2).toNat % 8 ≠ 0 := ⟨⟨rfl, rfl, rfl⟩, by decide, by decide⟩
theorem witness_LoopStepFollows :
    let on (c0 c1 : BitVec 32) (e0 e1 : Word) : Ctx := { worker with pc := 0x100, loop0 := ⟨0x40, e0, c0, 5⟩, loop1 := ⟨0x80, e1, c1, 4⟩ }
    let inner (x : Ctx) := x.th = false ∧ x.loop1.count ≠ 0 ∧ x.pc = x.loop1.last
    let outer (x : Ctx) := x.th = false ∧ x.loop0.count ≠ 0 ∧ x.pc = x.loop0.last
    (¬inner (on 0 0 0x100 0x100) ∧ ¬outer (on 0 0 0x100 0x100)) ∧
    (inner (on 2 2 0x100 0x100) ∧ (on 2 2 0x100 0x100).loop1.count ≠ 1) ∧
    (inner (on 2 1 0x108 0x100) ∧ (on 2 1 0x108 0x100).loop1.count = 1 ∧ ¬outer (on 2 1 0x108 0x100)) ∧
    (inner (on 2 1 0x100 0x100) ∧ (on 2 1 0x100 0x100).loop1.count = 1 ∧ outer (on 2 1 0x100 0x100) ∧ (on 2 1 0x100 0x100).loop0.count ≠ 1) ∧
    (inner (on 1 1 0x100 0x100) ∧ (on 1 1 0x100 0x100).loop1.count = 1 ∧ outer (on 1 1 0x100 0x100) ∧ (on 1 1 0x100 0x100).loop0.count = 1) ∧
    (¬inner (on 1 0 0x100 0x100) ∧ outer (on 1 0 0x100 0x100)) := by decide
theorem witness_ScratchpadAccessesComplete :
    let x := holding [(1, 0x7FFF0)]
    let s := run x
    s.ready x always ∧ (x.ea ⟨1, 0, 0, 0⟩).toNat % 16 = 0 ∧ (x.ea ⟨1, 0, 0, 0⟩).toNat + 16 ≤ x.spadBytes ∧
    (s.core s.cur).spadReady (x.ea ⟨1, 0, 0, 0⟩).toNat 16 = true ∧ (s.core s.cur).spadPoisoned (x.ea ⟨1, 0, 0, 0⟩).toNat 16 = false :=
  ⟨⟨rfl, rfl, rfl⟩, by decide, by decide, by decide, by decide⟩
theorem witness_GlobalAccessesComplete :
    let x := holding [(2, 0xFFF0)]
    let s := run x
    s.ready x always ∧ (x.ea ⟨2, 0, 0, 0⟩).toNat % sizeBytes .q = 0 ∧
    (∃ t bs, s.load (s.me x) (x.ea ⟨2, 0, 0, 0⟩) (sizeBytes .q) = .ok (t, bs)) ∧
    ∃ t, s.store (s.me x) (x.ea ⟨2, 0, 0, 0⟩) (x.storeBytes 4 .q) = .ok t := ⟨⟨rfl, rfl, rfl⟩, by decide, ⟨_, _, rfl⟩, _, rfl⟩
theorem witness_MisusedAccessesTrap :
    let x := holding [(1, 0x80000), (2, 0xFFF1)]
    (run x).ready x always ∧ (x.ea ⟨2, 0, 0, 0⟩).toNat % sizeBytes .h ≠ 0 ∧ (x.ea ⟨1, 0, 0, 0⟩).toNat % sizeBytes .b = 0 ∧
    x.spadBytes < (x.ea ⟨1, 0, 0, 0⟩).toNat + sizeBytes .b := ⟨⟨rfl, rfl, rfl⟩, by decide, by decide, by decide⟩
/-- Register 0x13 is CC_TVAL, and 0xFFF is no register (R96). -/
theorem witness_RegisterSpaceAccessesComplete :
    let s := run worker
    s.ready worker always ∧ csrPriv 0x13 = false ∧ Csr.assigned 0x13 = true ∧ (∃ t v, s.csrRead worker 0x13 = .ok (t, v)) ∧
    (∃ t, s.csrWrite worker (encode (.csrw always 0x13 1)) 0x13 (worker.g 1) = .ok t) ∧
    (∃ old t, s.csrOld worker 0x13 = .ok old ∧ s.csrWrite worker (encode (.csrwSet always 0x13 1)) 0x13 (old ||| worker.g 1) = .ok t) ∧
    (∃ old t, s.csrOld worker 0x13 = .ok old ∧ s.csrWrite worker (encode (.csrwClr always 0x13 1)) 0x13 (old &&& ~~~(worker.g 1)) = .ok t) ∧
    Csr.assigned 0xFFF = false ∧ csrPriv 0xFFF = false ∧ ∃ t, s.csrWrite worker 0 0x13 7 = .ok t :=
  ⟨⟨rfl, rfl, rfl⟩, by decide, by decide, ⟨_, _, rfl⟩, ⟨_, rfl⟩, ⟨_, _, rfl, rfl⟩, ⟨_, _, rfl, rfl⟩, by decide, by decide, _, rfl⟩
theorem witness_TrapsAndReturnsComplete :
    (let x := { chief [] with epc := 0x108 }; (run x).ready x always ∧ x.sup = true ∧ x.epc.toNat % 8 = 0) ∧
    (let x := { chief [] with epc := 0x104 }; (run x).ready x always ∧ x.sup = true ∧ x.epc.toNat % 8 ≠ 0) ∧
    (let x := { worker with th := true, tepc := 0x108 }; (run x).ready x always ∧ x.th = true ∧ x.tepc.toNat % 8 = 0) ∧
    (let x := { worker with th := true, tepc := 0x104 }; (run x).ready x always ∧ x.th = true ∧ x.tepc.toNat % 8 ≠ 0) ∧
    worker.th = false ∧ (run worker).ctx = some worker ∧ worker.issues = true :=
  ⟨⟨⟨rfl, rfl, rfl⟩, rfl, by decide⟩, ⟨⟨rfl, rfl, rfl⟩, rfl, by decide⟩, ⟨⟨rfl, rfl, rfl⟩, rfl, by decide⟩,
    ⟨⟨rfl, rfl, rfl⟩, rfl, by decide⟩, rfl, rfl, rfl⟩
theorem witness_EventsComplete :
    (let x := { worker with ev := true }; (run x).ready x always ∧ x.ev = true) ∧ worker.ev = false ∧
    (∃ n, (run worker).physicalCore 0 33 = some n) ∧ (run worker).physicalCore 0 2 = none ∧
    (let e : Event := ⟨0, ⟨0, []⟩⟩
     let s := { run worker with events := [e] }
     s.alive = true ∧ s.events.find? s.eventReady = some e ∧ (run worker).events.find? (run worker).eventReady = none) ∧
    (let x := { worker with wait := .event 5 0, cycle := 7 }
     ((run x).core 0).day = some x ∧ (run x).alive = true ∧ x.issues = true ∧ x.wait = .event 5 0 ∧ 5 ≤ (x.cycle - 0).toNat) :=
  ⟨⟨⟨rfl, rfl, rfl⟩, rfl⟩, rfl, ⟨_, rfl⟩, rfl, ⟨rfl, rfl, rfl⟩, rfl, rfl, rfl, rfl, by decide⟩
/-- The format range 2 belongs to partition 0 and is off. -/
theorem witness_RegisterSpaceAccessesComplete_fields :
    let x := chief []
    let s := { run x with frrSel := 2 }
    let q := Partition.fresh 0 1 [(0, 0)] 1
    let moved := s.setPart 0 { q with fqTail := 1 }
    let dark := s.setNight 0 (some worker)
    s.ctx = some x ∧ x.sup = true ∧ s.part x.part = some q ∧ q.fqHead = q.fqTail ∧
    (∃ r, moved.part x.part = some r ∧ r.fqHead ≠ r.fqTail) ∧ s.anyNight q = false ∧ dark.anyNight q = true ∧
    (let m := (s.recall (lineOf (s.asidAddr q.asel 0))).mem
     s.region (s.asidAddr q.asel 0) = .hbm ∧ s.sectorPoisoned (s.asidAddr q.asel 0) = false ∧
     entryPart (leWord (Memory.bytes m (s.asidAddr q.asel 0) 8)) = x.part) ∧
    (let y := { x with part := 1 }
     let t := { run y with parts := [(1, q)] }
     t.ctx = some y ∧ t.part y.part = some q ∧
     entryPart (leWord (Memory.bytes (t.recall (lineOf (t.asidAddr q.asel 0))).mem (t.asidAddr q.asel 0) 8)) ≠ y.part) ∧
    (s.range s.frrSel.toNat).owner = x.part % 64 ∧ (s.range s.frrSel.toNat).en = false ∧ s.performed (s.me x) .fab = true ∧
    worker.sup = false := by decide +kernel
/-- A chain of accesses that all succeed. -/
def succeeds {α : Type} (r : Res α) : Bool := match r with | .ok _ => true | .error _ => false
/-- A condition between them. -/
def given (b : Bool) : Res Unit := if b then .ok () else trapWith .shape 0

/-- A column-range word (R135). -/
def range (first n : Nat) : Word := BitVec.ofNat 64 (first + 1024 * (n - 1))

theorem mayUse_of {s : State} {x : Ctx} {r : Reg} {c : Cols}
    (h : decide ((x.g r).toNat = c.first + 1024 * (c.n - 1) ∧ 1 ≤ c.n ∧ c.first + c.n ≤ 1024 ∧ c.first + c.n ≤ x.cols) = true)
    (k : (s.core s.cur).colsReady c.first c.n = true) : s.mayUse x r c := by
  obtain ⟨h1, h2, h3, h4⟩ := of_decide_eq_true h
  exact ⟨h1, h2, h3, h4, k⟩

theorem witness_MatrixProductsComplete :
    let x := holding [(20, range 1008 16), (10, 0x0000001000000000), (12, 0x0000002000010000), (6, 16), (7, 32 + 2 ^ 32 * 0x20000), (8, 16)]
    let s := run x
    let da : Desc := ⟨0, 16, 0, 0, false, 0⟩
    let db : Desc := ⟨0x10000, 32, 0, 0, false, 0⟩
    s.ready x always ∧ s.mayUse x 20 ⟨1008, 16⟩ ∧ x.holdsDesc 10 da ∧ x.holdsDesc 12 db ∧ (claimA x da .e4m3 16 = .ok () ∧ s.readyA x da .e4m3 16 = .ok ()) ∧
    (x.g 6).toNat = 16 ∧ depthOk .e4m3 (da.sc || db.sc) false 16 = true ∧ (claimB x db .e4m3 false 16 16 = .ok () ∧ s.readyB x db .e4m3 false 16 16 = .ok ()) ∧
    (claimA x da .e4m3 32 = .ok () ∧ s.readyA x da .e4m3 32 = .ok ()) ∧ (x.g 7).toNat = 32 + 2 ^ 32 * 0x20000 ∧ depthOk .e4m3 (da.sc || db.sc) true 32 = true ∧
    (claimB x db .e4m3 false 16 16 = .ok () ∧ s.readyB x db .e4m3 false 16 16 = .ok ()) ∧ 0x20000 + 16 * (32 / 8) ≤ x.spadBytes ∧
    (s.core s.cur).spadPoisoned 0x20000 (16 * (32 / 8)) = false :=
  ⟨⟨rfl, rfl, rfl⟩, mayUse_of rfl rfl, ⟨fun _ => rfl, rfl⟩, ⟨fun _ => rfl, rfl⟩, ⟨rfl, rfl⟩, rfl, rfl, ⟨rfl, rfl⟩, ⟨rfl, rfl⟩, rfl, rfl, ⟨rfl, rfl⟩,
    by decide, rfl⟩
/-- A fabric whose channels of MA and MB are wired and hold given tokens. -/
def matrixFabric (ts : List Token) : Fabric :=
  ⟨[], [], [], [], [(640, ⟨ts, false, 0, none⟩), (641, ⟨ts, false, 0, none⟩), (648, ⟨ts, false, 0, none⟩), (649, ⟨ts, false, 0, none⟩)], [], []⟩
theorem witness_MatrixProductsComplete_channels :
    let f := matrixFabric []
    let x := { holding [(20, range 0 16), (6, 16)] with fabric := some f }
    let m : MmaSaved := ⟨0, 0, [], []⟩
    let taken (ts : List Token) := (takeWords 80 ((16 * 128 * Ty.bf16.bits / 32 - m.wa.length) / 2) (matrixFabric ts) m.wa).1
    (run x).ready x always ∧ (run x).mayUse x 20 ⟨0, 16⟩ ∧ x.fabric = some f ∧ x.mmaSaved = m ∧ (x.g 6).toNat = 16 ∧
    depthOk .bf16 false false 16 = true ∧ f.wiredIn 80 0 = true ∧ f.wiredIn 80 1 = true ∧ f.wiredIn 81 0 = true ∧ f.wiredIn 81 1 = true ∧
    m.done * 16 ≠ 16 ∧ (1 : Nat) * 16 = 16 ∧ taken [] = .short ∧ taken [Token.eof 0] = .wrong ∧ taken (List.replicate 512 (Token.data 1)) = .all := by
  refine ⟨⟨rfl, rfl, rfl⟩, mayUse_of rfl rfl, rfl, rfl, rfl, rfl, rfl, rfl, rfl, rfl, by decide, by decide, ?_, ?_, ?_⟩ <;> decide +kernel
theorem witness_TileInstructionsComplete :
    let x := holding [(20, range 1022 2), (10, 0x0000002000000000), (12, 0x0000001000010000), (6, 16), (7, 32 + 2 ^ 32 * 0x20000),
      (14, 0x0000001000000000), (15, 0x0002000000000000 + 2 ^ 39)]
    let s := run x
    let c := s.core s.cur
    let da : Desc := ⟨0, 32, 0, 0, false, 0⟩
    let dd : Desc := ⟨0x10000, 16, 0, 0, false, 0⟩
    let ds : Desc := ⟨0, 16, 0, 0, true, 0x200⟩
    s.ready x always ∧ x.holdsDesc 10 da ∧ x.holdsDesc 12 dd ∧ (x.g 6).toNat = 16 ∧ (x.g 7).toNat = 32 + 2 ^ 32 * 0x20000 ∧
    depthOk .e4m3 false true 32 = true ∧ (claimB x da .e4m3 false 32 16 = .ok () ∧ s.readyB x da .e4m3 false 32 16 = .ok ()) ∧ dd.claim x Ty.e4m3.bits 16 16 = .ok () ∧
    s.mayUse x 20 ⟨1022, 2⟩ ∧ da.claim x Ty.f32.bits 128 2 = .ok () ∧ c.spadReady 0 x.spadBytes = true ∧
    c.tilePoison da Ty.f32.bits 128 2 = .ok () ∧ x.holdsDesc 14 ds ∧ ds.scale + 128 * (32 / 32) ≤ x.spadBytes ∧
    c.spadPoisoned ds.scale (128 * (32 / 32)) = false :=
  ⟨⟨rfl, rfl, rfl⟩, ⟨fun _ => rfl, rfl⟩, ⟨fun _ => rfl, rfl⟩, rfl, rfl, rfl, ⟨rfl, rfl⟩, rfl, mayUse_of rfl rfl, rfl, rfl, rfl, ⟨fun _ => rfl, rfl⟩,
    by decide, rfl⟩
theorem witness_ColumnWritesTouchTheirRange : Cells.wf (w := 32) Core.idle.acc = true := rfl
theorem witness_ElementwiseVectorsComplete :
    let x := holding [(20, range 0 8), (21, range 1016 8), (22, range 100 1), (23, 0x3F800000)]
    let s := run x
    s.ready x always ∧ s.mayUse x 20 ⟨0, 8⟩ ∧ s.mayUse x 21 ⟨1016, 8⟩ ∧ s.mayTake x 21 .range 8 (some ⟨1016, 8⟩) ∧
    s.mayTake x 22 .bc 8 (some ⟨100, 1⟩) ∧ s.mayTake x 23 .sc 8 none :=
  ⟨⟨rfl, rfl, rfl⟩, mayUse_of rfl rfl, mayUse_of rfl rfl, ⟨_, rfl, rfl, mayUse_of rfl rfl⟩, ⟨_, rfl, rfl, mayUse_of rfl rfl⟩, ⟨rfl, by decide⟩⟩
theorem witness_VectorMovesComplete :
    let x := holding [(20, range 0 1), (21, range 1016 8), (22, range 100 1), (23, 0x7FE00), (12, 0x0000001000010000), (24, 0x40000)]
    let s := run x
    let o := s.core s.cur
    let dd : Desc := ⟨0x10000, 16, 0, 0, false, 0⟩
    s.ready x always ∧ s.mayUse x 20 ⟨0, 1⟩ ∧ s.mayUse x 21 ⟨1016, 8⟩ ∧ s.mayUse x 22 ⟨100, 1⟩ ∧ (x.g 23).toNat % 16 = 0 ∧
    (x.g 23).toNat + 128 * Ty.f32.bytes ≤ x.spadBytes ∧ o.spadReady 0x7FE00 512 = true ∧ o.spadPoisoned 0x7FE00 512 = false ∧
    x.holdsDesc 12 dd ∧ (x.g 24).toNat = 0x40000 ∧ dd.claim x Ty.e4m3.bits 128 8 = .ok () ∧ 0x40000 + 128 * (8 / 8) ≤ x.spadBytes ∧
    o.spadReady 0 x.spadBytes = true :=
  ⟨⟨rfl, rfl, rfl⟩, mayUse_of rfl rfl, mayUse_of rfl rfl, mayUse_of rfl rfl, by decide, by decide, rfl, rfl, ⟨fun _ => rfl, rfl⟩, rfl, rfl, by decide, rfl⟩

/-- A sequence of one head, dimension 4 and one layer group, with n tokens (R210). -/
def sequence (n : Nat) : Sequence :=
  ⟨0, 0, #v[0x0000010100040001, 0x0000008000000100, 0x0000006000400000, 0], 0, 0, if n = 0 then [] else [(0, n)], [], none⟩
/-- A machine whose die 0 holds it as sequence 0, its first page in frame 0 with a count and a fill. -/
def caching (x : Ctx) (n count fill : Nat) : State :=
  (((run x).setKv 0 { Kv.reset with
    en := true, ftBase := 0x100000, ftLen := 4, frSz := 0x1000, seqMax := 4, seqs := [(0, sequence n)], slabs := [(0, 0)], pxLen := 4 }).setMapEntry 0
      (sequence n) 0 (entryOf 0)).setFrame 0 0 ⟨count, fill, false, false, 0x200000⟩

/-- The bytes of its descriptor. -/
def descBytes : List Byte := (sequence 0).desc.toList.flatMap fun w => natLe 8 w.toNat

/-- The machine as a KV instruction of the task finds it at the home of die 0. -/
def home (s : State) (x : Ctx) : State := s.atHome x 0
theorem witness_CacheSequencesChange :
    let x := holding [(1, 0x100), (2, 0x1000000), (3, 1), (4, 3)]
    let y := x.impure
    let fresh := { run x with mem := Memory.setBytes (run x).mem 0x30100 descBytes }
    let h := home (fresh.setKv 0 (State.kv (caching x 0 0 0) 0)) x
    let q : Sequence := { sequence 0 with slabLog := ceilLog 1 }
    let k := home (caching x 16 2 16) x
    (∃ t, (h.kv 0).en = true ∧ (x.g 3).toNat < 2 ^ 16 ∧ h.loadN (h.me y) (x.g 1) 32 = .ok (t, descBytes) ∧
      (x.g 1).toNat % 32 = 0 ∧ (t.kv 0).room = true ∧ (t.kv 0).findSlab 0 = some 1 ∧
      ∃ u, h.atOnce (((t.newSeq 0 1 q).1.clearSlab 0 1 0).setCtx ((((t.newSeq 0 1 q).1.clearSlab 0 1 0).now y).setG 9
        ((t.newSeq 0 1 q).2.setWidth 64))) (kvAgent 0) [] = .ok u) ∧
    (sequence 0).descOk 0x1000 = true ∧ (∀ b p, k.mayCache y 0 b p (sequence 16)) ∧
    (∃ fs, k.mapFrames 0 (sequence 16) = .ok fs ∧ (∀ p ∈ fs, (k.frame 0 p.2).count + (fs.filter (·.2 == p.2)).length ≤ 65535) ∧
      ∃ u, k.atOnce ((k.forkSeq 0 (sequence 16) 1 fs).1.setCtx (y.setG 9 ((k.forkSeq 0 (sequence 16) 1 fs).2.setWidth 64))) (kvAgent 0)
        (k.kvReads 0 true fun q => List.range (2 ^ q.slabLog)) = .ok u) ∧
    (k.kv 0).room = true ∧ (k.kv 0).findSlab 0 = some 1 ∧ k.pageFrame 0 (sequence 16) 0 0 = .ok 0 ∧ 1 < (k.frame 0 0).count ∧
    (k.freeFrames 0).head? = some 1 ∧
    (∃ u, k.atOnce ((k.replaceFrame 0 (sequence 16) 0 0 0 1).setG y 9 (BitVec.ofNat 64 1)) (kvAgent 0)
      (k.kvReads 0 true (pageEntry 0) ++ k.cowReads 0) = .ok u) ∧ x.isPure = false ∧
    ((home (caching x 16 1 16) x).frame 0 0).count ≤ 1 := by
  refine ⟨⟨_, rfl, by decide, rfl, by decide, rfl, rfl, _, rfl⟩, by decide, fun b p w => ?_, ⟨_, rfl, by decide, _, rfl⟩, rfl, rfl, rfl,
    by decide, rfl, ⟨_, rfl⟩, rfl, by decide⟩
  cases b <;> cases p <;> rfl
theorem witness_CacheSequencesChange_tokens :
    let x := holding [(2, 0x1000), (3, 1), (5, 4), (6, 2 ^ 32)]
    let y := x.impure
    let s := caching x 8 1 8
    let h := home s x
    let q := sequence 8
    let v := h.openPage 0 0 q 0 0 none none
    s.ready x always ∧ (∀ b p, h.mayCache y 0 b p q) ∧ (x.g 2).toNat % 32 = 0 ∧
    (∃ data, h.stagedSlots y (x.g 2).toNat q 1 = .ok data ∧ ∃ t, v.1.appendSlots 0 v.2 0 8 data = .ok t ∧
      ∃ u, h.atOnce (t.setSeq 0 0 (v.2.setT 0 9)) (kvAgent 0)
        (h.kvReads 0 true fun q => [q.t 0 / 16 * q.groups + 0]) = .ok u) ∧
    h.pageShared 0 q 0 0 = .ok false ∧ ¬q.pages 0 ≤ 0 ∧ (x.g 5).toNat ≤ 2 ^ 20 ∧
    (∃ t q', h.cutTo 0 q (x.g 5).toNat = .ok (t, q') ∧ ∃ u, h.atOnce (t.setSeq 0 0 q') (kvAgent 0)
      (h.kvReads 0 true fun q => (List.range q.groups).flatMap fun k =>
        ((List.range (q.pages k)).filter fun p => decide ((x.g 5).toNat / 16 ≤ p)).map fun p => p * q.groups + k) = .ok u) ∧
    (∃ u, h.atOnce (h.releaseSeq 0 0 q) (kvAgent 0) (h.kvReads 0 true fun q => List.range (2 ^ q.slabLog)) = .ok u) ∧
    (x.g 6).toNat = 0 + 2 ^ 32 * 1 ∧ 0 + 1 ≤ q.t 0 ∧ (∃ bs, h.readSpad h.cur y (x.g 2) (1 * q.heads) = .ok bs ∧
      ∃ u, h.atOnce (h.putRetention 0 (h.frame 0 0).base q 0 1 bs) (kvAgent 0)
        (h.kvReads 0 true fun q => [0 / 16 * q.groups + 0]) = .ok u) ∧
    h.pageFrame 0 q 0 0 = .ok 0 ∧ (h.frame 0 0).count ≤ 1 ∧ x.isPure = false := by
  refine ⟨⟨rfl, rfl, rfl⟩, fun b p w => ?_, by decide, ⟨_, rfl, _, rfl, _, rfl⟩, rfl, by decide, by decide, ⟨_, _, rfl, _, rfl⟩, ⟨_, rfl⟩,
    by decide, by decide, ⟨_, rfl, _, rfl⟩, rfl, by decide, rfl⟩
  cases b <;> cases p <;> rfl
theorem witness_CacheEnginesWork :
    let x := holding [(1, 0), (2, 7), (3, 0x7FFF0)]
    let y := x.impure
    let s := caching x 16 1 16
    let s := s.setCore s.cur ((s.core s.cur).putSpad 0x7FFF0 (Bar.bytes ⟨true, false, x.asid, 0, 1, 1, 0⟩))
    let h := home s x
    let q : Sequence := { sequence 16 with reloc := some (0, 0, 0), slab := 1, slabLog := 1 }
    (s.ready x always ∧ (∀ b p, h.mayCache y 0 b p (sequence 16)) ∧ (x.g 2).toNat < 2 ^ 8 ∧ (x.g 3).toNat % 16 = 0 ∧
      (x.g 3).toNat + 16 ≤ x.spadBytes ∧
      (∃ t e, h.barChecked h.cur (h.me y) ⟨false, x.g 3⟩ = .ok (t, e) ∧ (sequence 16).pages 0 ≤ (t.freeFrames 0).length ∧
        ∃ u, h.atOnce (t.setSeq 0 0 { sequence 16 with compacting := [0] }) (kvAgent 0) [] = .ok u) ∧ x.isPure = false) ∧
    (let k := s.setKv 0 { s.kv 0 with seqs := [(0, q)], relocs := [0] }
     let b := k.recallAll
     k.alive = true ∧ (k.kv 0).relocs[0]? = some 0 ∧ tabGet (k.kv 0).seqs 0 = some q ∧ q.reloc = some (0, 0, 0) ∧
      b.sectorPoisoned ((k.kv 0).entryAddr 0) = false ∧
      succeeds (b.atOnce (b.writeEngine (compactor 0) ((k.kv 0).entryAddr 1) (b.seen ((k.kv 0).entryAddr 0) 8)) (compactor 0)
        [lineOf ((k.kv 0).entryAddr 0)]) = true) := by
  refine ⟨⟨⟨rfl, rfl, rfl⟩, fun b p w => ?_, by decide, by decide, by decide, ⟨_, _, rfl, by decide, _, rfl⟩, rfl⟩, rfl, rfl, rfl, rfl,
    by decide +kernel, by decide +kernel⟩
  cases b <;> cases p <;> rfl
/-- The same with a prefix index, and the PX mark of frame 0. -/
def indexed (x : Ctx) (len : Word) (px : List (BitVec 13 × BitVec 128 × Nat)) (mark : Bool) : State :=
  let s := caching x 16 1 16
  (s.setKv 0 { s.kv 0 with px := px, pxLen := len }).setFrame 0 0 ⟨1, 16, mark, false, 0x200000⟩

theorem witness_CacheQueriesComplete :
    let x := holding [(3, 2 ^ 48)]
    let y := x.impure
    let q := sequence 16
    let none' := home (indexed x 4 [] false) x
    let some' (f : Nat) (m : Bool) := home (indexed x 4 [(0, 0, f)] m) x
    let marked := home (indexed x 4 [] true) x
    let full := home (indexed x 0 [] false) x
    (indexed x 4 [] false).ready x always ∧ (∀ b p, none'.mayCache y 0 b p q) ∧ (∃ e, none'.mapEntry 0 q 0 = .ok e) ∧
    none'.mayCache y (x.g 3) false false q ∧ q.t 0 = 16 * pageNum (x.g 3) ∧ x.pxKey 4 = 0 ∧ (none'.kv 0).pxFind x.asid 0 = none ∧
    ((some' 0 false).kv 0).pxFind x.asid 0 = some 0 ∧ (∃ room, q.canHold ((some' 0 false).kv 0) (x.g 3) 1 = .ok room) ∧
    (some' 0 false).frameOk 0 0 = .ok () ∧ ((some' 0 false).frame 0 0).count < 65535 ∧ pageNum 0 < q.t 0 / 16 ∧
    none'.pageFrame 0 q 0 0 = .ok 0 ∧ (none'.frame 0 0).fill = 16 ∧ (none'.frame 0 0).px = false ∧ (marked.frame 0 0).px = true ∧
    (full.kv 0).pxLen.toNat ≤ (full.kv 0).px.length ∧ (none'.kv 0).px.length < (none'.kv 0).pxLen.toNat ∧
    ((some' 1 false).kv 0).pxFind x.asid 0 = some 1 ∧ (some' 1 false).frameOk 0 1 = .ok () ∧ ((some' 1 false).frame 0 1).count < 65535 ∧
    x.isPure = false ∧ ∃ u, none'.atOnce (none'.setG y 9 (pxOutcome 0 0)) (kvAgent 0) (none'.pxReads y 4 3) = .ok u := by
  refine ⟨⟨rfl, rfl, rfl⟩, fun b p w => ?_, ⟨_, rfl⟩, fun _ => rfl, by decide, by decide, rfl, rfl, ⟨_, rfl⟩, rfl, by decide, by decide, rfl,
    by decide, by decide, by decide, by decide, by decide, rfl, rfl, by decide, rfl, _, rfl⟩
  cases b <;> cases p <;> rfl

/-- A binding descriptor of dimension 4, blocks of 4 slots and .bf16 at address 0x100, with its SCORE at 0x180: one word MOV d0, in0. -/
def bindingWords : List Word := [0x180, 0, 0, 0x0000000100040004, 0x140, 0, 0, 0]
theorem witness_AttentionCompletes :
    let x := holding [(1, 0x100), (2, 0)]
    let s := (run x).setKv 0 { Kv.reset with en := true, seqs := [(0, sequence 16)] }
    let m := Memory.setBytes (Memory.setBytes s.mem 0x30100 (bindingWords.flatMap fun w => natLe 8 w.toNat)) 0x30180
      (natLe 8 0x10001 ++ natLe 8 0x0000000002100000)
    let s := { s with mem := m }
    s.ready x always ∧ (x.g 1).toNat % 64 = 0 ∧ (∃ t, s.loadN (s.me x) (x.g 1) 64 = .ok (t, bindingWords.flatMap fun w => natLe 8 w.toNat) ∧
      ∃ t1, t.readStage (s.me x) 0x180 = .ok (t1, 0x10001, [0x0000000002100000]) ∧ ∃ q, t1.liveSeq x (x.g 2) = .ok q ∧
        pageGroup (x.g 2) < q.groups ∧ q.dim = 4 ∧ q.tyCode = 1) ∧
    bindingShape 0x0000000100040004 = true ∧ (x.g 2).toNat < 2 ^ 48 ∧ (∀ w, colRange w 0 = .ok ⟨0, 1⟩) ∧
    (stageOf 1 0x10001 [0x0000000002100000]).isSome = true :=
  ⟨⟨rfl, rfl, rfl⟩, by decide, ⟨_, rfl, _, rfl, _, rfl, by decide, by decide, by decide⟩, by decide, by decide, fun _ => rfl, by decide⟩
theorem witness_AttentionCompletes_pass :
    let bd : Binding := ⟨⟨[0x0000000002100000], 0, 0⟩, none, none, 4, 4, .bf16, .f32, false, 0x140, 0, 0, 0, false⟩
    let x := { holding [(10, 0x0000002000000000), (12, 0), (14, 2 ^ 33), (20, 0x0000002000010000), (22, range 1 7), (23, range 8 7), (24, range 15 7)]
      with bindings := (Vector.replicate 8 none).set 0 (some bd) }
    let s := caching x 16 1 16
    let ag := s.attnAgent x
    let qd : Desc := ⟨0, 32, 0, 0, false, 0⟩
    s.ready x always ∧ x.passed = none ∧ x.bindings[0] = some bd ∧ (x.g 14).toNat = 0 + 2 ^ 32 * 2 + 2 ^ 48 * 0 ∧
    (x.g 12).toNat = 0 + 2 ^ 32 * 0 ∧
    (∀ w, s.attnChecks x bd w 20 10 false 0 2 0 0 = .ok (qd, ⟨0x10000, 32, 0, 0, false, 0⟩, ⟨0, 0⟩, ⟨0, 1⟩)) ∧
    (∀ w, s.attnChecks x bd w 22 10 true 0 2 0 0 = .ok (qd, qd, ⟨1, 7⟩, ⟨0, 1⟩)) ∧
    (∃ t p, (∀ w, s.startPass x bd w qd 2 0 0 0 = .ok (t, p)) ∧
      State.blocks (s.attnAgent x) (t.kv 0).frSz.toNat 0 2 0 0 0 (s.before 0) t p = .ok (t, p)) ∧
    (∃ t v cb, (∀ w, s.recallAll.snapshot x bd w 0 0 = .ok (t, sequence 16, [])) ∧
      t.loadN ag (bd.consts + BitVec.ofNat 64 (32 * 0)) 32 = .ok (v, cb) ∧ (v.core v.cur).spadReady 0 x.spadBytes = true ∧
      (v.core v.cur).tilePoison qd bd.ty.bits 2 bd.dim = .ok () ∧ v.positions (sequence 16) [] 0 0 = .ok []) ∧
    (let p : Pass := ⟨x.pc, 9, bd, sequence 16, [], [], [], [], [], ⟨0, 0, 0, 0⟩⟩
     ({ x with attn := [(0, p)] } : Ctx).passed = some p) ∧
    s.mayUse x 22 ⟨1, 7⟩ ∧ s.mayUse x 23 ⟨8, 7⟩ ∧ s.mayUse x 24 ⟨15, 7⟩ :=
  ⟨⟨rfl, rfl, rfl⟩, rfl, rfl, by decide, by decide, fun _ => rfl, fun _ => rfl, ⟨_, _, fun _ => rfl, rfl⟩,
    ⟨_, _, _, fun _ => rfl, rfl, rfl, rfl, rfl⟩, rfl, mayUse_of rfl rfl, mayUse_of rfl rfl, mayUse_of rfl rfl⟩
/-! Fabrics. -/

def bare : Fabric := ⟨[], [], [], [], [], [], []⟩
def portOf (word : Word) (st : Option Stream) : Port := ⟨word, [], st, [], false, [], 0, 0, none, 0, 0, none, .first, false, none, false, false, false, false, .core⟩
def opOf (kind mode : Byte) : Operator := ⟨kind, mode, 0, 0, [], [], [], [], 0, 0, none, none, 0, 0, 0, 0, false, .first, none, false⟩
def elemOf (w : Word) : Element := ⟨Vector.replicate 8 0, 0, 0, (Vector.replicate 16 0).set 0 w, 0, false⟩
def fed (ts : List Token) : InQ := ⟨ts, false, 0, none⟩
def streamOf (mode : StrmMode) (ty : Ty) : Stream := ⟨mode, ty, .core, true, 0x40, 4, 4, 0, 0, 0, [], []⟩
/-- Core 0 with a fabric, port 0 among it. -/
def withFabric (f : Fabric) : Ctx := { worker with fabric := some f }
def onPort (q : Port) (ins : List (Nat × InQ)) : Fabric := { bare with ports := [(64, q)], ins := ins, outs := [(512, ⟨[], false⟩)] }
def onOp (q : Operator) (ins : List (Nat × InQ)) : Fabric :=
  { bare with ops := [(48, q)], ins := ins, outs := [(384, ⟨[], false⟩), (385, ⟨[], false⟩)] }

theorem witness_FabricInstructionsComplete :
    let wire : Word := 0xffe90ffe90000000
    let img : Image := ⟨[], [], [], [wire]⟩
    let m : Staged := ⟨[], [], [], []⟩
    let x := { holding [(8, 0x140)] with fabric := some bare, staged := some m }
    let loaded := { run x with mem := Memory.setBytes (run x).mem 0x30140 (natLe 8 0 ++ natLe 8 0x10000 ++ natLe 8 wire.toNat) }
    let y := { x with wait := .quiescence (some m) }
    loaded.ready x always ∧ (∃ t, (∀ w, loaded.readImage (loaded.me x) (x.g 8) w = .ok (t, img)) ∧
      ∃ ws, ∀ w, t.checkImage x img w (x.g 8) = .ok ws) ∧ (∀ k, x.wait ≠ .quiescence (some k)) ∧ x.quiescent = true ∧
    (withFabric (onPort (portOf 0 none) [(512, fed [Token.data 5])])).quiescent = false ∧ x.staged = some m ∧
    ((run y).ready y always ∧ y.wait = .quiescence (some m) ∧ (∃ u, (run y).activate y m = .ok u) ∧
      ∃ t f, (run y).fabricOf y m = .ok (t, f)) := by
  refine ⟨⟨rfl, rfl, rfl⟩, ⟨_, fun _ => rfl, _, fun _ => rfl⟩, by simp [holding, worker, Ctx.setG, Ctx.entry], rfl, rfl, rfl, ⟨rfl, rfl, rfl⟩, rfl,
    ⟨_, rfl⟩, _, _, rfl⟩
theorem witness_FabricInstructionsComplete_streams :
    let fp := { onPort (portOf 0 none) [(656, fed [Token.data 7])] with ops := [(48, opOf 8 0)], outs := [(512, ⟨[], false⟩), (656, ⟨[], false⟩)] }
    let full := { fp with ins := [(656, fed [])], outs := [(656, ⟨List.replicate 4 (Token.data 0), false⟩)] }
    let y := { holding [(1, 0x40), (3, 1), (4, 2 ^ 32 + 4)] with fabric := some fp }
    (run y).ready y always ∧ y.fabric = some fp ∧ tabGet fp.ports 64 = some (portOf 0 none) ∧ readMode .rd = true ∧
    fp.wiredOut 64 0 = true ∧ (y.g 1).toNat % Ty.f32.bytes = 0 ∧ (y.g 3).toNat < 2 ^ 16 ∧
    (BitVec.ofNat 32 (y.g 4).toNat).toNat % Ty.f32.bytes = 0 ∧ ((portOf 0 none).queue.filter PortItem.isStream).length < 3 ∧
    ((portOf 0 none).running = none ∧ (∀ i ∈ (portOf 0 none).queue, i.isStream = false) ∧
      (run y).performed (portAgent (run y).cur 0 y) (portOf 0 none).reach = true) ∧
    (∃ t w, State.barChecked { run y with cores := [(0, { Core.idle with day := some y, spad := [(1, 1), (3, 0x10), (13, 0x40)] })] } 0
      ((run y).me y) ⟨false, y.g 0⟩ = .ok (t, w)) ∧
    tabGet fp.ops 48 = some (opOf 8 0) ∧ (opOf 8 0).kind = 8 ∧ (Token.ofWord (y.g 1)).cls = 0 ∧ (Token.ofWord (y.g 1)).bad = false ∧
    fp.wiredOut 82 0 = true ∧ (fp.outq (chKey 82 0)).toks.length < 4 ∧ 4 ≤ (full.outq (chKey 82 0)).toks.length ∧ fp.wiredIn 82 0 = true ∧
    fp.head 82 0 = some (Token.data 7) ∧ full.head 82 0 = none ∧ worker.fabric = none ∧ tabGet fp.ports 65 = none ∧ tabGet fp.ops 49 = none := by
  refine ⟨⟨rfl, rfl, rfl⟩, rfl, rfl, rfl, rfl, by decide, by decide, by decide, by decide, ⟨rfl, by decide, rfl⟩, ⟨_, _, rfl⟩, rfl, rfl, by decide,
    by decide, rfl, by decide, by decide, rfl, rfl, rfl, rfl, rfl, rfl⟩
theorem witness_PortsMoveElements :
    let q (m : StrmMode) (t : Ty) := portOf 0 (some (streamOf m t))
    let d := [(512, fed [Token.data 3]), (513, fed [Token.data 1])]
    let f (m : StrmMode) (t : Ty) := onPort (q m t) d
    let x (m : StrmMode) (t : Ty) := withFabric (f m t)
    let s (m : StrmMode) (t : Ty) := run (x m t)
    let v (m : StrmMode) (t : Ty) := (s m t).gated 0 0 (x m t) (q m t)
    let ag := portAgent 0 0 (withFabric bare)
    let cond := portOf 0x4000000 (some (streamOf .rd .s32))
    let spec := portOf 0x10000000 (some (streamOf .rd .s32))
    (s .rd .s32).streams 0 0 (x .rd .s32) (f .rd .s32) (q .rd .s32) (streamOf .rd .s32) ∧
    (q .rd .s32).gate = true ∧ condition (f .rd .s32) 64 (q .rd .s32) = some (f .rd .s32) ∧ readMode .fib = true ∧
    (streamOf .rd .s32).done ≠ (streamOf .rd .s32).count ∧
    (∃ t bs, (v .rd .s32).streamLoad 0 (x .rd .s32) ag [] true 0x40 4 = .ok (t, bs)) ∧
    (∃ t a, (v .fib .s32).entryLoad 0 (x .fib .s32) ag [] true 0x40 = .ok (t, a)) ∧
    (f .wr .s32).head 64 0 = some (Token.data 3) ∧ (Token.data 3).isData = true ∧
    (let (va, ls) := gatherAddr (f .gath .s32) 64 (q .gath .s32) (streamOf .gath .s32) 3
     ∃ t bs, (v .gath .s32).streamLoad 0 (x .gath .s32) ag ls true va 4 = .ok (t, bs)) ∧
    (∃ t, (v .wr .s32).streamStore 0 (x .wr .s32) ag [] true 0x40 (natLe 4 3) = .ok t) ∧
    (∃ w, (v .sadd .s32).latchedWalk ag [] 0x40 .atomic = .ok w ∧
      ∃ t, (v .sadd .s32).reduceVia ag 0x40 (redOf .sadd .s32) false 3 .core w = .ok t) ∧
    cond.cuse = true ∧ (onPort cond d).head 64 1 = some (Token.data 1) ∧ cond.csense = false ∧ writeMode .wr = true ∧
    spec.spec? = true ∧ spec.held = false ∧ spec.spec = none ∧ (onPort spec []).head 64 1 = none ∧
    (Token.bar 3).isBar = true ∧ (v .wr .s32).performed ag .core = true ∧
    ({ cond with due := 1 } : Port).due ≠ 0 ∧ ({ cond with retry := some .quiet } : Port).retry = some .quiet := by
  refine ⟨⟨⟨rfl, rfl⟩, rfl, rfl, rfl, rfl, rfl, rfl, .inl rfl⟩, rfl, rfl, rfl, by decide, ⟨_, _, rfl⟩, ⟨_, _, rfl⟩, rfl, rfl, ⟨_, _, rfl⟩, ⟨_, rfl⟩,
    ⟨_, rfl, _, rfl⟩, rfl, rfl, rfl, rfl, rfl, rfl, rfl, rfl, rfl, rfl, by decide, rfl⟩
theorem witness_PortsMoveElements_barrier :
    let y := { withFabric (onPort (portOf 0 (some (streamOf .wr .s32))) [(512, fed [Token.bar 3])]) with btok := [(3, ⟨false, 0x40⟩)] }
    let s := { run y with cores := [(0, { Core.idle with day := some y, spad := [(0x41, 1), (0x43, 0x10), (0x4D, 0x40)] })] }
    tabGet y.btok 3 = some ⟨false, 0x40⟩ ∧ ∃ t, s.barUpdate 0 (portAgent 0 0 y) ⟨false, 0x40⟩ 1 0 = .ok t := ⟨rfl, _, rfl⟩
theorem witness_SitesTakeTheirTokens :
    let p := { portOf 0 none with relatch := true }
    let o := { opOf 7 0 with relatch := true }
    let f := onPort p [(512, fed [Token.data 1, ⟨3, 7, 0x10⟩]), (0, fed [⟨9, 5, 0⟩])]
    let g := { f with elems := [(0, elemOf 0)] }
    let s := run (withFabric g)
    let l : Latch := ⟨0x100, 0, 65536, none, 0, 0, .page, 0, true, 0⟩
    s.runsFabric 0 (withFabric g) g ∧ tabGet g.ports 64 = some p ∧ p.relatch = true ∧
    (∃ t ls, s.relatch (portAgent 0 0 (withFabric g)) p.latches = .ok (t, ls)) ∧
    tabGet (onOp o []).ops 48 = some o ∧ o.relatch = true ∧ ((onOp o []).outq (chKey 48 0)).toks.length < 4 ∧
    l.stale = true ∧ ({ l with stale := false } : Latch).stale = false ∧ (∃ t l', s.latch (s.me (withFabric g)) l.va = .ok (t, l')) ∧
    (g.inq (chKey 64 0)).toks = [Token.data 1] ++ ⟨3, 7, 0x10⟩ :: [] ∧ (∀ t ∈ [Token.data 1], t.cls ≠ 7) ∧ (⟨3, 7, 0x10⟩ : Token).bad = false ∧
    tabGet g.elems 0 = some (elemOf 0) ∧ (g.inq (chKey 0 0)).toks = ⟨9, 5, 0⟩ :: [] ∧ s.halted 0 g 0 = false ∧
    g.choice 0 (elemOf 0) = none := by
  refine ⟨⟨rfl, rfl⟩, rfl, rfl, ⟨_, _, rfl⟩, rfl, rfl, by decide, rfl, rfl, ⟨_, _, rfl⟩, rfl, by decide, rfl, rfl, rfl, rfl, rfl⟩
/-- The firing of IADD d0, d0, in0 under f1, the word of the spec's example. -/
theorem witness_FabricElementsFire :
    let el := { elemOf 0x0200100004010200 with f := 2 }
    let f := { bare with elems := [(0, el)], ins := [(0, fed [Token.data 5])] }
    let s := run (withFabric f)
    s.runsFabric 0 (withFabric f) f ∧ tabGet f.elems 0 = some el ∧ s.halted 0 f 0 = false ∧ el.stall = 0 ∧
    (∃ w, f.choice 0 el = some w ∧ w.op = .iadd) ∧ ({ el with stall := 3 } : Element).stall ≠ 0 := by
  refine ⟨⟨rfl, rfl⟩, rfl, rfl, rfl, ⟨_, rfl, rfl⟩, by decide⟩
/-- Core 0 running a fabric of one operator. -/
abbrev operating (f : Fabric) (k : Byte) (q : Operator) : Prop := (run (withFabric f)).operates 0 0 (withFabric f) f k q
theorem witness_OperatorsStep :
    let rep := opOf 1 0
    let two := onOp (opOf 2 0) [(384, fed [Token.coordTok 3, Token.data 1]), (385, fed [Token.coordTok 5, Token.data 2])]
    let f := onOp rep [(384, fed [Token.data 1]), (385, fed [Token.data 2])]
    let after' := onOp { rep with buf := [Token.data 1] } [(384, fed [Token.eof 0])]
    operating f 1 rep ∧ f.head 48 0 = some (Token.data 1) ∧ f.wiredIn 48 1 = true ∧
    f.head 48 1 = some (Token.data 2) ∧ ({ rep with rep := 2, buf := [Token.data 1, Token.eof 0] } : Operator).buf[0]? = some (Token.data 1) ∧
    after'.head 48 0 = some (Token.eof 0) ∧ after'.wiredIn 48 1 = false ∧
    operating two 2 (opOf 2 0) ∧ two.entry 48 0 none = .entry 3 (Token.data 1) ∧ two.entry 48 1 none = .entry 5 (Token.data 2) ∧
    operating (onOp (opOf 2 2) two.ins) 2 (opOf 2 2) ∧ operating (onOp (opOf 3 0) two.ins) 3 (opOf 3 0) ∧
    (onOp (opOf 3 0) two.ins).head 48 0 = some (Token.coordTok 3) := by
  refine ⟨⟨⟨rfl, rfl⟩, rfl, rfl, rfl, rfl, rfl⟩, rfl, rfl, rfl, rfl, rfl, rfl, ⟨⟨rfl, rfl⟩, rfl, rfl, rfl, rfl, rfl⟩, rfl, rfl,
    ⟨⟨rfl, rfl⟩, rfl, rfl, rfl, rfl, rfl⟩, ⟨⟨rfl, rfl⟩, rfl, rfl, rfl, rfl, rfl⟩, rfl⟩
theorem witness_OperatorsStep_values :
    let ins := [(384, fed [Token.data 1]), (385, fed [Token.data 2]), (386, fed [Token.data 0])]
    let l : Latch := ⟨0x100, 0, 65536, some 0x30000, 0x3001F, 0, .page, 0, false, 0⟩
    let x7 : Operator := { opOf 7 0 with w1 := 0x0000000000010A, latches := [l] }
    let fd := onOp (opOf 9 0) [(384, fed [Token.data 1]), (385, fed [Token.coordTok 0, Token.data 2])]
    let tr := { opOf 12 0 with buf := [Token.data 1, Token.eof 0] }
    let fe := onOp tr [(384, fed [Token.eof 1])]
    (∀ k : Byte, operating (onOp (opOf k 0) ins) k (opOf k 0)) ∧
    (onOp (opOf 4 0) ins).head 48 0 = some (Token.data 1) ∧ (onOp (opOf 4 0) ins).head 48 1 = some (Token.data 2) ∧
    (onOp (opOf 5 0) ins).head 48 2 = some (Token.data 0) ∧ (onOp (opOf 6 0) [(384, fed [Token.eof 0])]).head 48 0 = some (Token.eof 0) ∧
    fd.entry 48 1 none = .entry 0 (Token.data 2) ∧ (onOp (opOf 8 0) [(384, fed [Token.data 1])]).wiredIn 48 1 = false ∧
    (onOp (opOf 8 0) ins).wiredIn 48 1 = true ∧ (opOf 8 0).pos = 0 ∧
    ElemOp.ofCode ((0x30 : Byte).setWidth 7) = some .fcvtF32Bf16 ∧ fe.head 48 0 = some (Token.eof 1) ∧
    (∀ r ∈ blockRows tr.buf, r.length = 1) ∧ blockRows tr.buf ≠ [] ∧ x7.latches[0]? = some l ∧ l.pbase = some 0x30000 ∧
    ({ opOf 11 0 with count := 1, high := 1 } : Operator).count ≠ 0 := by
  refine ⟨fun k => ⟨⟨rfl, rfl⟩, rfl, rfl, rfl, rfl, rfl⟩, rfl, rfl, rfl, rfl, rfl, rfl, rfl, rfl, rfl, rfl, by decide, by decide, rfl, rfl, by decide⟩
/-- A task beside a transaction barrier of one arrival, at scratchpad offset 0x40, as the spec's example has it; granule 8 is full. -/
def besideBarrier (x : Ctx) : State :=
  { run x with cores := [(0, { Core.idle with day := some x, spad := [(0x41, 1), (0x43, 0x10), (0x4D, 0x40)], full := [8] })] }
/-- The barrier of that offset. -/
def nearBar : BarRef := ⟨false, 0x40⟩
/-- A store to another device that nothing has acknowledged. -/
def awaiting (s : State) (x : Ctx) : State := { s with remote := [⟨1, 0, 3, (s.me x).num, (s.me x).task, x.asid, .store, 0, 4, [], 1, false, false, 0, 0⟩] }

theorem witness_BarriersComplete :
    let x := holding [(1, 0x40), (2, 0x7FFFFFFFFFFF), (3, 0x800000000000)]
    let s := besideBarrier x
    let ag := s.me x
    s.ready x always ∧ (∃ t, s.barWrite s.cur ag nearBar ⟨true, false, x.asid, 0, 1, 1, 0⟩ = .ok t) ∧ (x.g 2).toNat < 2 ^ 47 ∧
    (∃ t, s.barUpdate s.cur ag nearBar 0 (x.g 2).toNat = .ok t) ∧ 2 ^ 47 ≤ (x.g 3).toNat ∧ s.performed ag .part = true ∧
    (∃ t, s.barUpdate s.cur ag nearBar 1 0 = .ok t) ∧ (awaiting s x).performed ag .fab = false ∧
    (∃ t o, s.barChecked s.cur ag nearBar = .ok (t, o) ∧ o.phase = (0 : BitVec 4).toNat ∧ o.phase ≠ (1 : BitVec 4).toNat) ∧
    (∃ c, Bar.update ⟨true, false, 0, 0, 1, 1, 15⟩ 1 0 = some (c, true) ∧ c.phase = 0) ∧
    ∃ c, Bar.update ⟨true, false, 0, 2 ^ 47 - 2, 1, 1, 15⟩ 1 1 = some (c, false) := by
  refine ⟨⟨rfl, rfl, rfl⟩, ⟨_, rfl⟩, by decide, ⟨_, rfl⟩, by decide, rfl, ⟨_, rfl⟩, by decide, ⟨_, _, rfl, by decide, by decide⟩, ⟨_, rfl, by decide⟩,
    _, rfl⟩
theorem witness_AtomicsComplete :
    let x := holding [(1, 0x7FF8), (2, 5), (3, 0x7FFF8), (4, 0x80), (5, 0x90)]
    let s := besideBarrier x
    let at' (r : Reg) : MemOp := ⟨r, 0, 0, 0⟩
    let k := s.core s.cur
    s.ready x always ∧ (x.ea (at' 1)).toNat % 8 = 0 ∧
    (∃ t bs, s.update (s.me x) (x.ea (at' 1)) 8 (.reduce .add true true) (natLe 8 5)
      (fun u => natLe 8 (AmoOp.apply .add true (leWord u) 5).toNat) = .ok (t, bs)) ∧
    (∃ t, s.reduce (s.me x) (x.ea (at' 1)) .add true 5 .core = .ok t) ∧ (x.ea (at' 3)).toNat % 8 = 0 ∧
    (x.ea (at' 3)).toNat + 8 ≤ x.spadBytes ∧ k.spadReady (x.ea (at' 3)).toNat 8 = true ∧ k.spadPoisoned (x.ea (at' 3)).toNat 8 = false ∧
    (∃ t bs, s.update (s.me x) (x.g 1) 8 (.cas true 5) (natLe 8 5) (fun u => natLe 8 (leWord u).toNat) = .ok (t, bs)) ∧
    (x.ea (at' 4)).toNat % 16 = 0 ∧ k.isFull (x.ea (at' 4)) = true ∧ k.spadPoisoned 0x80 16 = false ∧ k.isFull (x.ea (at' 5)) = false ∧
    s.performed (s.me x) .sys = true ∧ (awaiting s x).performed (s.me x) .sys = false := by
  refine ⟨⟨rfl, rfl, rfl⟩, by decide, ⟨_, _, rfl⟩, ⟨_, rfl⟩, by decide, by decide, rfl, rfl, ⟨_, _, rfl⟩, by decide, by decide, rfl, by decide,
    rfl, by decide⟩
theorem witness_ChainsAndSequencesComplete :
    let x := holding [(1, 0x40), (2, 0x48), (3, 0x10), (4, 0x10)]
    let s := run x
    let h : Chain := ⟨0, 0, 0, false, 0x40, none, 0x48, .core, .copy 9, 0, 0⟩
    let c := s.setCore 0 { s.core 0 with chains := [(3, { h with run := .idle }), (4, h)] }
    let u : UpdateOnly := ⟨.add, false, 0, [(0, 1)]⟩
    s.ready x always ∧ (x.g 1).toNat % 64 = 0 ∧ (x.g 2).toNat % 8 = 0 ∧ (s.core s.cur).copyQueue < 16 ∧
    s.collQueue (coreDie s.cur) < 16 ∧ (∃ t, s.seqLoad x (x.g 3) true = .ok (t, 0)) ∧
    (x.g 5).toNat ≤ (0 : Word).toNat ∧ (0 : Word).toNat < (x.g 4).toNat ∧ tabGet (c.core 0).chains 3 = some { h with run := .idle } ∧
    tabGet (c.core 0).chains 4 = some h ∧ h.run ≠ .idle ∧
    (∃ t, c.chainDone 0 h = some (t, none) ∧ t.performed (chainAgent 0 h) h.sc = true ∧
      ∃ u, t.store (chainAgent 0 h) h.seqAddr (natLe 8 h.seq.toNat) = .ok u) ∧
    tabGet ({ s with updates := [(3, [(7, u)])] } : State).updates 3 = some [(7, u)] ∧ tabGet [(7, u)] 7 = some u := by
  refine ⟨⟨rfl, rfl, rfl⟩, by decide, by decide, by decide, by decide, ⟨_, rfl⟩, by decide, by decide, rfl, rfl, by decide,
    ⟨_, rfl, rfl, _, rfl⟩, rfl, rfl⟩
theorem witness_ChainsAndSequencesComplete_limit :
    let x := { (State.reset.placed 0x5724400000000000).ctx.getD worker with regs := (holding [(4, 0x10)]).regs, wait := .seqw 5 0, cycle := 5 }
    let w := { (State.reset.placed 0x5724400000000000) with cores := [(0, { Core.idle with day := some x })] }
    w.alive = true ∧ (w.core 0).day = some x ∧ x.issues = true ∧ x.wait = .seqw 5 0 ∧ 5 ≤ (x.cycle - 0).toNat ∧
    (∃ r, w.fetch x = .ok (r, 0x5724400000000000)) ∧ instrOf 0x5724400000000000 = .seqw always 9 4 0 false .core ∧
    (∃ u v, w.seqLoad x (x.g 4) false = .ok (u, v)) ∧
    ∃ e, (paged worker 0x20000001001F).seqLoad worker 0 false = .error e ∧ ∀ f, e ≠ .trap f := by
  refine ⟨rfl, rfl, rfl, rfl, by decide, ⟨_, rfl⟩, by decide, ⟨_, _, rfl⟩, _, rfl, by simp⟩
theorem witness_CopiesAndRingsComplete :
    let x := holding [(1, 0x100), (2, 0x7FFE0), (3, 0x20), (4, 0x40), (5, 0x7E0)]
    let s := besideBarrier x
    let p := Copy.fresh .command 0 0 0 0 0x200 0x100 64 false (some nearBar) .core
    let c := s.setCore 0 { s.core 0 with copies := [(3, p)] }
    let q := { p with withheld := [], retry := [] }
    s.ready x always ∧ (x.g 2).toNat % 32 = 0 ∧ (x.g 1).toNat % 32 = 0 ∧ (x.g 3).toNat % 32 = 0 ∧ (x.g 3).toNat ≤ 2 ^ 40 ∧
    (∃ t o, s.barChecked s.cur (s.me x) ⟨false, x.g 4⟩ = .ok (t, o) ∧ (t.core t.cur).copyQueue < 16) ∧
    (x.g 2).toNat + (x.g 3).toNat ≤ x.spadBytes ∧ (x.g 1).toNat + (x.g 3).toNat ≤ (x.g 2).toNat ∧
    (c.alive = true ∧ tabGet (c.core 0).copies 3 = some p ∧ 1 < p.sectors ∧ setHas p.counted 1 = false ∧ setHas p.done 1 = false ∧ p.fe = false ∧
      ∃ t bs, c.copyRead 0 p 1 = .ok (t, bs, false) ∧ ∃ u, t.copyWrite 0 p 1 bs false = .ok u ∧
        ∃ v q', u.sectorCount 0 { q with done := setAdd q.done 1 } 1 = .ok (v, q')) ∧
    tabGet p.withheld 1 = none ∧ tabGet ({ p with retry := [(1, .quiet)] } : Copy).retry 1 = some .quiet := by
  refine ⟨⟨rfl, rfl, rfl⟩, by decide, by decide, by decide, by decide, ⟨_, _, rfl, by decide⟩, by decide, by decide,
    ⟨rfl, rfl, by decide, rfl, rfl, rfl, _, _, rfl, _, rfl, _, _, rfl⟩, rfl, rfl⟩
/-- The bytes of a ring descriptor: source 0, destination 0x400, slots of 32 bytes, four of them, 128 bytes in all (R357). -/
def ringBytes : List Byte := natLe 8 0 ++ natLe 8 0x400 ++ natLe 8 (0x20 + 2 ^ 32 * 4 + 2 ^ 48) ++ natLe 8 128
theorem witness_CopiesAndRingsComplete_ring :
    let x := holding [(1, 0x800), (2, 4), (3, 1), (4, 0x40), (5, 0x10)]
    let s := { run x with cores := [(0, { Core.idle with day := some x, spad := Memory.setBytes [] 0x800 ringBytes })] }
    let k := s.core s.cur
    let wd (j : Nat) : Word := leWord (((Memory.bytes k.spad 0x800 64).drop (8 * j)).take 8)
    let r : Ring := ⟨0, 0, 0, false, 0x800, 0, 0x400, 32, 4, true, false, 128, 0, [], none, none⟩
    let c (v : Word) := s.setCore 0 { k with rings := [(3, r)], spad := Memory.setBytes k.spad 0x820 (natLe 8 v.toNat) }
    s.ready x always ∧ (x.g 1).toNat % 64 = 0 ∧ k.spadReady 0x800 64 = true ∧ k.spadPoisoned 0x800 64 = false ∧
    wd 2 = (0 : BitVec 14) ++ BitVec.ofBool false ++ (1 : BitVec 1) ++ (4 : BitVec 16) ++ (0x20 : BitVec 32) ∧ wd 3 = 128 ∧ wd 6 = 0 ∧
    wd 7 = 0 ∧ (wd 0).toNat % 32 = 0 ∧ (wd 1).toNat % 32 = 0 ∧ (x.g 2).toNat ≤ (4 : BitVec 16).toNat ∧ (wd 1).toNat + 4 * 32 ≤ x.spadBytes ∧
    k.copyQueue < 16 ∧ k.rings.length < 4 ∧
    (∀ v ∈ [(0 : Word), 2], (c v).alive = true ∧ tabGet ((c v).core 0).rings 3 = some r ∧
      ∃ t, (c v).ringAdvance 0 3 r = .ok t ∧ tabGet (t.core 0).rings 3 = some r ∧ ∃ u w, t.ringRead 0 r 4 = .ok (u, w) ∧ w = v ∧
        ∃ y, u.ringWrite 0 r 4 (w - 1) = .ok y) ∧
    ((x.g 0).toNat = 0 ∧ (x.g 3).toNat < 2 ^ 16) ∧
    (∃ t w, s.loadWord (s.me x) (x.g 4 + 16) true = .ok (t, w) ∧ ∃ u w', t.loadWord (t.me x) (x.g 4 + 32) true = .ok (u, w') ∧
      w.toNat / 2 ^ 32 % 2 ^ 16 < w'.toNat + (x.g 3).toNat) ∧
    (x.g 1 + 16).toNat + 8 ≤ x.spadBytes ∧
    leNat (Memory.bytes k.spad 0x820 8) + 4 ≤ leNat (Memory.bytes k.spad 0x810 8) / 2 ^ 32 % 2 ^ 16 := by
  refine ⟨⟨rfl, rfl, rfl⟩, by decide, rfl, rfl, by decide, by decide, by decide, by decide, by decide, by decide, by decide, by decide, by decide,
    by decide, ?_, by decide, ⟨_, _, rfl, _, _, rfl, by decide⟩, by decide, by decide⟩
  intro v h
  simp only [List.mem_cons, List.not_mem_nil, or_false] at h
  rcases h with rfl | rfl <;> exact ⟨rfl, rfl, _, rfl, rfl, _, _, rfl, by decide, _, rfl⟩
/-- The same ring in device memory, with two credits. -/
theorem witness_CopiesAndRingsComplete_credit :
    let x := holding [(1, 0x800), (3, 1)]
    let s := { run x with mem := Memory.setBytes (Memory.setBytes (run x).mem 0x30800 ringBytes) 0x30820 (natLe 8 2) }
    let r : Ring := ⟨0, 0, 0, true, 0x800, 0, 0x400, 32, 4, true, false, 128, 0, [], none, none⟩
    let ag := copyAgent 0 0 0
    r.gm = true ∧ (∃ t, s.swapWord ag (r.desc + 32) 2 1 = .ok (t, true)) ∧
    (∃ w, s.translate ag 0x820 .atomic = .ok w ∧ s.region w.pa ≠ .host ∧ ∃ t bs, s.updateVia ag 0x820 8 (.cas true 2) (natLe 8 1)
      (fun o => if leWord o = 2 then natLe 8 1 else o) w = .ok (t, bs)) ∧
    ∃ t w, s.loadWord (s.me x) (x.g 1 + 16) true = .ok (t, w) ∧ ∃ u w', t.loadWord (t.me x) (x.g 1 + 32) true = .ok (u, w') ∧
      w'.toNat + (x.g 3).toNat ≤ w.toNat / 2 ^ 32 % 2 ^ 16 ∧
      ∃ v, u.swapWord (u.me x) (x.g 1 + 32) w' (w' + BitVec.ofNat 64 (x.g 3).toNat) = .ok (v, true) :=
  ⟨rfl, ⟨_, rfl⟩, ⟨_, rfl, by decide, _, _, rfl⟩, _, _, rfl, _, _, rfl, by decide, _, rfl⟩
theorem witness_SpillsComplete :
    let x := { chief [(3, 0x200)] with cols := 1008 }
    let y := { x with cols := 1024 }
    let s := run x
    let k := (run y).core 0
    s.ready x always ∧ x.sup = true ∧ (x.g 3).toNat % 512 = 0 ∧
    (∃ c, ({ s.core s.cur with spills := tabDel (s.core s.cur).spills 2 } : Core).spillColumn = some c) ∧
    ({ k with spills := tabDel k.spills 2 } : Core).spillColumn = none ∧ (∃ t, (run y).storeN ((run y).me y) (y.g 3) (natLe 8 5) = .ok t) ∧
    tabGet k.spills 2 = none ∧ (∃ t bs, (run y).loadN ((run y).me y) 0x200 8 = .ok (t, bs)) ∧
    tabGet ({ k with spills := [(2, ⟨4, 4, [5], some 1023, 0, 0⟩)] } : Core).spills 2 = some ⟨4, 4, [5], some 1023, 0, 0⟩ := by
  refine ⟨⟨rfl, rfl, rfl⟩, rfl, by decide, ⟨_, rfl⟩, by decide, ⟨_, rfl⟩, rfl, ⟨_, _, rfl⟩, rfl⟩
/-! Task graphs. -/

/-- Core 0's page with words at an address of it. -/
def words (m : Memory) (va : Nat) (ws : List Word) : Memory := Memory.setBytes m (0x30000 + va) (ws.flatMap fun w => natLe 8 w.toNat)
/-- A partition whose scheduler knows one queued record of the task node at 0x1000. -/
def partition : Partition :=
  { Partition.fresh 0 1 [(0, 0)] 1 with nodes := [(0x1000, 0)], queued := [⟨0x1000, 0, 0, 0⟩] }
/-- A task beside that node, whose queue holds some of two records: head 0, the given tail; the record at 0x2000 is pure or not, and its code
header stands at 0x4000. -/
def besideNode (x : Ctx) (tail : Word) (pure : Bool) : State :=
  let m := words (run x).mem 0x1000 [0x11, 0x2000, tail * 0x100000000, 0, 0, 0, 0, 0, 0x3000]
  let m := words m 0x2000 [0x4000, if pure then 0x110 else 0]
  let m := if pure then words (words m 0x2060 [0x5000, 32]) 0x20E0 [0x6000, 32] else m
  { run x with mem := words m 0x4000 [if pure then 0x10000 else 0, 8], parts := [(0, partition)] }

theorem succeeds_bind {α β : Type} {r : Res α} {f : α → Res β} : succeeds (r >>= f) = true ↔ ∃ a, r = .ok a ∧ succeeds (f a) = true := by
  rcases r with e | a
  · simp [bind, Except.bind, succeeds]
  · exact ⟨fun h => ⟨a, rfl, h⟩, fun ⟨_, h, k⟩ => by cases h; exact k⟩
theorem bind_ok {α β : Type} {r : Res α} {a : α} {f : α → Res β} (h : r = .ok a) : (r >>= f) = f a := by rw [h]; rfl
theorem given_ok {b : Bool} {u : Unit} (h : given b = .ok u) : b = true := by cases b <;> simp_all [given, trapWith]
theorem given_succeeds {b : Bool} (h : succeeds (given b) = true) : b = true := by cases b <;> simp_all [given, trapWith, succeeds]
/-- The node's queue has room, and nothing else holds its lines. -/
def mayEnqueue (s : State) (ag : Agent) (p : Nat) (va : Word) (bs : List Byte) : Bool :=
  s.hostCopies.isEmpty && s.parts.all (fun q => q.2.pop.isNone) && succeeds (do
    let (t, n) ← s.readHead ag va
    given (!n.full)
    let (u, m) ← t.enqueueRecord ag p va n bs
    let v ← u.writeNode ag va m
    given v.dups.isEmpty)
/-- An enqueue answers there. -/
theorem enqueues {s : State} {ag : Agent} {p : Nat} {va : Word} {bs : List Byte} (h : mayEnqueue s ag p va bs = true) :
    ∃ w, s.enqueueOp ag p va bs = .ok w := by
  simp only [mayEnqueue, Bool.and_eq_true, List.isEmpty_iff, List.all_eq_true] at h
  obtain ⟨⟨hc, hp⟩, h⟩ := h
  have hm (pa k : Nat) : s.moving pa k = false := by
    simp only [State.moving, List.any_eq_false]
    exact fun q hq => by rw [Option.isNone_iff_eq_none.1 (hp q hq)]; simp
  obtain ⟨⟨t, n⟩, h1, h⟩ := succeeds_bind.1 h
  obtain ⟨_, h2, h⟩ := succeeds_bind.1 h
  obtain ⟨⟨u, m⟩, h3, h⟩ := succeeds_bind.1 h
  obtain ⟨v, h4, h⟩ := succeeds_bind.1 h
  have hd : v.dups = [] := by
    cases hv : v.dups with
    | nil => rfl
    | cons a b => simp [hv, given, trapWith, succeeds] at h
  obtain ⟨w, hw⟩ := State.atOnce_answers hc hm hd ag (s.bufferLines ag va 128)
  exact ⟨w.releaseAt ag (.node ag.asid va), by
    simp [State.enqueueOp, h1, (by simpa using given_ok h2 : n.full = false), h3, h4, hw, await, bind, Except.bind]⟩
theorem witness_TasksComplete :
    let x := holding [(1, 0x1000), (2, 0x3000), (3, 1)]
    let s := besideNode x 1 false
    s.ready x always ∧ (x.g 2).toNat % 64 = 0 ∧ ∃ t n, s.nodeCheck x (x.g 1) = .ok (t, n) ∧ n.kind = 1 ∧
    ∃ u ptr, t.loadWord (t.me x) (x.g 1 + 8) = .ok (u, ptr) ∧ ptr ≠ 0 ∧ ∃ v bs, u.loadN (u.me x) (x.g 2) 256 = .ok (v, bs) ∧
    ∃ p, v.purity (v.me x) (x.g 1) 128 true = .ok p ∧ ∃ w, p.enqueueOp (p.me x) x.part (x.g 1) bs = .ok w :=
  ⟨⟨rfl, rfl, rfl⟩, by decide, _, _, rfl, rfl, _, _, rfl, by decide, _, _, rfl, _, rfl,
    enqueues (by decide +kernel)⟩
theorem witness_TasksComplete_arg :
    let x := holding [(1, 0x1000), (2, 0x3000), (3, 1)]
    let s := besideNode x 1 false
    ∃ t n, s.nodeCheck x (x.g 1) = .ok (t, n) ∧ n.kind = 1 ∧ ∃ u ptr, t.loadWord (t.me x) (x.g 1 + 64) = .ok (u, ptr) ∧ ptr ≠ 0 ∧
    ∃ v bs, u.loadN (u.me x) ptr 256 = .ok (v, bs) ∧ ∃ p, v.purity (v.me x) (x.g 1) 128 true = .ok p ∧
    ∃ w, p.enqueueOp (p.me x) x.part (x.g 1) (bs.take 32 ++ natLe 8 (x.g 2).toNat ++ bs.drop 40) = .ok w :=
  ⟨_, _, rfl, rfl, _, _, rfl, by decide, _, _, rfl, _, rfl, enqueues (by decide +kernel)⟩
theorem witness_TasksComplete_full :
    let x := holding [(1, 0x1000), (2, 0x3000), (3, 1)]
    let s := besideNode x 2 false
    ∃ t n, s.nodeCheck x (x.g 1) = .ok (t, n) ∧ n.kind = 1 ∧ ∃ u ptr, t.loadWord (t.me x) (x.g 1 + 8) = .ok (u, ptr) ∧ ptr ≠ 0 ∧
    ∃ v bs, u.loadN (u.me x) (x.g 2) 256 = .ok (v, bs) ∧ ∃ p, v.purity (v.me x) (x.g 1) 128 true = .ok p ∧
    p.enqueueOp (p.me x) x.part (x.g 1) bs = .error (.wait .queueFull) :=
  ⟨_, _, rfl, rfl, _, _, rfl, by decide, _, _, rfl, _, rfl, rfl⟩
theorem witness_TasksComplete_end :
    let x := holding []
    let busy := (run x).setCore 0 { (run x).core 0 with copies := [(3, Copy.fresh .command 0 0 0 1 0x100 0 32 false none .core)] }
    let q := { portOf 0 (some { streamOf .wr .s32 with count := 0 }) with queue := [.stream (streamOf .wr .s32)] }
    let y := withFabric (onPort q [])
    x.sup = false ∧ (run x).stopStreams x = none ∧ (run x).tendReady x = true ∧ busy.tendReady x = false ∧ (chief []).sup = true ∧
    ((run x).core 0).night = none ∧ (((run x).setNight 0 (some x)).core 0).night ≠ none ∧ ((run y).stopStreams y).isSome = true ∧
    x.job = none ∧ ({ x with job := some ⟨0, true, [], 0, 0, none, [], false, false, false⟩ } : Ctx).job.isSome = true := by decide +kernel
theorem witness_TasksComplete_launch :
    let x := holding [(1, 0x1000), (3, 1)]
    let s := { run x with mem := words (run x).mem 0x1000 [0x10002, 0, 0, 1] }
    (∀ k ∈ [none, some 1], succeeds (do
      let (t, _) ← s.nodeCheck x (x.g 1)
      let v ← t.purity (t.me x) (x.g 1) 128 true
      v.nodeOp (v.me x) x.part (x.g 1) k 64) = true) ∧ 1 ≤ (x.g 3).toNat ∧ (x.g 3).toNat < 65536 ∧
    (match s.nodeCheck x (x.g 1) with | .ok (_, n) => n.kind != 1 | .error _ => false) = true := by decide +kernel
theorem witness_TasksComplete_zero :
    let x := holding [(1, 0), (2, 5)]
    let s := { run x with mem := words (run x).mem 0 [2, 0, 0, 7] }
    s.ready x always ∧ (∃ t n, s.nodeCheck x (x.g 1) = .ok (t, n)) ∧ 1 ≤ (x.g 2).toNat ∧ (x.g 2).toNat < 65536 ∧ x.g 1 = 0 :=
  ⟨⟨rfl, rfl, rfl⟩, ⟨_, _, rfl⟩, by decide, by decide, rfl⟩
theorem witness_ReuseInstructionsComplete :
    let x := holding [(4, 1)]
    let y := chief []
    (run x).ready x always ∧ (4 : Reg).toNat % 2 = 0 ∧ 1 ≤ (x.g 4).toNat ∧ (x.g 4).toNat ≤ 2 ^ 40 ∧ y.sup = true ∧
    ∃ u, (run y).ownAsid ((run y).me y) ((y.g 5).extractLsb' 0 13) y.part (y.g 5) = .ok u :=
  ⟨⟨rfl, rfl, rfl⟩, by decide, by decide, by decide, rfl, _, rfl⟩
theorem witness_SchedulerWorks :
    let s := ((besideNode worker 1 false).resumeErrands 0).lookHeads 0
    let ag := s.schedAgent 0 0
    (match s.choice 0 with | some (c, n) => n == 1 && c.work == .head 0x1000 0 | none => false) = true ∧ (s.part 0).isSome = true ∧
    succeeds (do
      let (u, n) ← (s.acquire ag (.node 0 0x1000)).readHead ag 0x1000
      let (v, r) ← u.recordCheck ag (n.slot n.head)
      let o ← v.evictSpills 1 0 r.cols
      o.takeRecord 0 0 0x1000) = true := by
  refine ⟨?_, ?_, ?_⟩ <;> decide +kernel
/-- A record whose code header is not one is dropped: its check traps, and HEAD advances. -/
theorem witness_SchedulerWorks_dropped :
    let s := besideNode worker 1 false
    let s := (({ s with mem := words s.mem 0x4000 [0x30, 8] } : State).resumeErrands 0).lookHeads 0
    let ag := s.schedAgent 0 0
    (match s.choice 0 with | some (c, n) => n == 1 && c.work == .head 0x1000 0 | none => false) = true ∧
    succeeds (do
      let (u, n) ← (s.acquire ag (.node 0 0x1000)).readHead ag 0x1000
      given (match u.recordCheck ag (n.slot n.head) with | .error (.trap _) => true | _ => false)
      u.takeRecord 0 0 0x1000) = true := by
  refine ⟨?_, ?_⟩ <;> decide +kernel
theorem witness_SchedulerWorks_lookup :
    let s := besideNode worker 1 true
    let ag := s.schedAgent 0 0
    s.alive = true ∧ (match s.part 0 with | some q => q.waiting 0x1000 0 | none => false) = true ∧
    succeeds (do
      let (o, own) ← (s.acquire ag (.node 0 0x1000)).asidOf ag 0 0
      let (h, n) ← o.readHead ag 0x1000
      given (own && n.kind == 1 && n.depth != 0)
      let (t, bs) ← h.loadN ag (n.slot n.head) 16
      given (recPure bs)
      let (u, r) ← t.recordCheck ag (n.slot n.head)
      let (v, f) ← u.lookupRecord 0 0 0x1000 r
      given (f == .run none [])
      v.takeRecord 0 0 0x1000) = true := by
  refine ⟨?_, ?_, ?_⟩ <;> decide +kernel
theorem witness_SchedulerWorks_watch :
    let y := { worker with yielded := true, eligible := false }
    let z := { worker with eligible := true, since := 5 }
    let t : Trap := ⟨.poison, 0, 0, none, 0xFF, 0xF, 0, false, []⟩
    let x := { worker with traps := [t] }
    let late := { run worker with time := 1000000 }
    (late.setNight 0 (some y)).alive = true ∧ (∃ q, (late.setNight 0 (some y)).part 0 = some q ∧
      y.since.toNat + max 1 q.ageq.toNat ≤ (late.setNight 0 (some y)).time.toNat) ∧
    (let s := base.setCore 0 { Core.idle with night := some z }
     (s.core 0).night = some z ∧ ∃ k n, s.choice 0 = some (k, n) ∧ k.work = .parked 0) ∧
    (run x).alive = true ∧ ((run x).core 0).day = some x ∧ x.traps = t :: [] ∧ x.halted = false ∧ x.cond = .run ∧ x.atBoundary = true ∧
    ((base.setCore 0 Core.idle).core 0).night = none := by
  refine ⟨rfl, ⟨_, rfl, by decide⟩, ⟨rfl, _, _, rfl, by decide⟩, rfl, rfl, rfl, rfl, rfl, by decide, rfl⟩
/-- A task of priority 0 runs on the one core and another waits in its node's queue with priority 16: the scheduler asks for a dusk. -/
theorem witness_SchedulerWorks_dusk :
    let q := { partition with preempt := 1 }
    let s := { besideNode worker 1 false with parts := [(0, q)] }
    s.alive = true ∧ s.part 0 = some q ∧ q.preempt ≠ 0 ∧ (s.core 0).dusk = none ∧ (s.core 0).asked = none := by decide +kernel
/-! Compactions end on their barrier. -/

theorem witness_CacheEnginesWork_barrier :
    let s := caching (holding []) 16 1 16
    let c : Compaction := ⟨0, 0, 7, 0, 0x40, 0, 0⟩
    let k := (s.setKv 0 { s.kv 0 with compactions := [c] }).setCore 0
      { s.core 0 with spad := [(0x41, 1), (0x43, 0x10), (0x4D, 0x40)] }
    (k.alive = true ∧ (k.kv 0).compactions = [c] ∧ tabGet (k.kv 0).seqs 0 = some (sequence 16)) ∧
    succeeds (do
      let t ← k.recallAll.compact 0 c (sequence 16)
      let _ ← (t.setKv 0 { t.kv 0 with compactions := [] }).barUpdate c.core
        { compactor 0 with core := c.core, task := c.task, asid := c.asid } ⟨false, c.bar⟩ 1 0
      .ok ()) = true := by
  refine ⟨⟨rfl, rfl, rfl⟩, ?_⟩; decide +kernel
/-! Collectives. -/

/-- A task beside group 7 of two participants of this device, whose descriptor for rank 0 stands at 0x1000. -/
def besideGroup (x : Ctx) (parties : List Party) (outcome : List (Nat × Nat × Option Trap)) : State :=
  { run x with
    mem := words (run x).mem 0x1000 [0x20007, 0], device := some 0
    groups := [(7, ⟨[⟨0, 0, 0⟩, ⟨0, 0, 1⟩], parties, [], [], outcome⟩)] }

theorem witness_CollectivesComplete :
    let x := holding [(1, 0x100), (2, 0x200), (3, 1), (4, 0x1000)]
    let read (s : State) := s.collRead (s.me x) x.part s.cur 0 0 .s32 (x.g 1) (x.g 2) (x.g 3) (x.g 4)
    let tr : Trap := ⟨.sync, 0x1000, 0, none, 0xFF, 0xF, 0, false, []⟩
    (besideGroup x [] []).ready x always ∧
    succeeds (do
      let (t, q) ← read (besideGroup x [] [(0, 0, none)])
      given (match t.collTake x.id q with | some (_, none) => true | _ => false)) = true ∧
    succeeds (do
      let (t, q) ← read (besideGroup x [] [(0, 0, some tr)])
      given (match t.collTake x.id q with | some (_, some _) => true | _ => false)) = true ∧
    (∀ b ∈ [true, false], succeeds (do
      let s := besideGroup x [] []
      let s := if b then s.setGroup 7 ⟨[⟨0, 0, 0⟩, ⟨0, 0, 1⟩], [], [], [⟨0, 0, x.id, 0, 0x200, []⟩], []⟩ else s
      let (t, q) ← read s
      given ((t.collTake x.id q).isNone && t.collReady (t.me x) q)
      let u ← t.collJoin 0 x.id x.asid (t.me x) q
      given (match u.collTake x.id q with | some (_, none) => b | some _ => false | none => !b)) = true) := by
  refine ⟨⟨rfl, rfl, rfl⟩, ?_⟩; decide +kernel
/-- The destination of a participant of group 7 has one sector left, or none. -/
theorem witness_CollectivesComplete_writes :
    let g (bs : List Byte) : Group := ⟨[⟨0, 0, 0⟩, ⟨0, 0, 1⟩], [], [], [⟨0, 0, 0, 0, 0x100, bs⟩], []⟩
    (g [1, 2]).writes = ⟨0, 0, 0, 0, 0x100, [1, 2]⟩ :: [] ∧ succeeds ((run worker).storeN (collAgent 0 0 0) 0x100 [1, 2]) = true ∧
    (g []).writes = ⟨0, 0, 0, 0, 0x100, []⟩ :: [] ∧ (run worker).performed (collAgent 0 0 0) .fab = true := by
  refine ⟨rfl, ?_, rfl, rfl⟩; decide +kernel
/-! Lookup cells. -/

theorem witness_LookupCellsComplete :
    let cell : Cell := ⟨0x8000000000000000, [0, 1, 2, 3, 4, 5]⟩
    let x := holding [(1, 0x70000), (2, 0x78000), (3, 0x101FF), (4, 2111), (5, 0x1F0820)]
    let y : Ctx := { x with lcSel := some 1, lcSlots := x.lcSlots.set 1 (.resident [cell]) }
    let mine (z : Ctx) : State := (run z).setCore 0 { (run z).core 0 with planeTask := some z.id }
    let s := mine x
    s.ready x always ∧ s.takePlane x = .ok s ∧ s.now x = x ∧ (∃ t, (run x).takePlane x = .ok t) ∧
    (x.g 3).toNat = 511 + 65536 * (2 - 1) ∧ 511 + 2 ≤ 2048 ∧ (6 : BitVec 6).toNat + 2 ≤ Ty.s8.bits ∧
    (x.g 1).toNat % 16 = 0 ∧ (x.g 1).toNat < 2 ^ 32 ∧ (x.g 1).toNat + 32 * Ty.s8.bits ≤ x.spadBytes ∧
    (s.core s.cur).spadReady 0x70000 (32 * Ty.s8.bits) = true ∧ (s.core s.cur).spadPoisoned 0x70000 (32 * Ty.s8.bits) = false ∧
    x.lcSlot 0 = .empty false ∧ (mine y).ready y always ∧ (mine y).takePlane y = .ok (mine y) ∧ y.lcSel = some 1 ∧
    y.lcSlot 1 = .resident [cell] ∧ (x.g 4).toNat = 2111 ∧ (2111 : Nat) < 2112 ∧ (x.g 5).toNat = 2080 + 65536 * (32 - 1) ∧
    2080 + 32 ≤ 2112 ∧ (Cells.wf ([] : Cells 256)) = true := by
  refine ⟨⟨rfl, rfl, rfl⟩, rfl, rfl, ⟨_, rfl⟩, by decide, by decide, by decide, by decide, by decide, by decide, rfl, rfl, rfl, ⟨rfl, rfl, rfl⟩, rfl, rfl, rfl,
    by decide, by decide, by decide, by decide, rfl⟩
theorem witness_LookupCellsComplete_load :
    let x := { worker with lcSlots := worker.lcSlots.set 1 (.loading 0x200 none [] none none) }
    let y := { worker with lcSlots := worker.lcSlots.set 1 (.loading 0x200 (some 1) [] none none) }
    let m := words (run x).mem 0x200 [1, 0, 0, 0, 0x8000000000000000, 0x0003000200010000, 0x50004, 0]
    let ag (z : Ctx) := coreAgent 1 0 13 z.id z.asid
    let wd (bs : List Byte) (k : Nat) : Word := leWord ((bs.drop (8 * k)).take 8)
    (run x).loader 0 1 0 = some x ∧ x.lcSlots[1]? = some (.loading 0x200 none [] none none) ∧
    (run y).loader 0 1 0 = some y ∧ y.lcSlots[1]? = some (.loading 0x200 (some 1) [] none none) ∧
    (match ({ run x with mem := m } : State).load (ag x) 0x200 32 with
      | .ok (_, bs) => wd bs 0 == 1 && wd bs 1 == 0 && wd bs 2 == 0 && wd bs 3 == 0 | .error _ => false) = true ∧
    (match ({ run y with mem := m } : State).load (ag y) 0x220 32 with
      | .ok (_, bs) => cellOf (wd bs 0) (wd bs 1) (wd bs 2) (wd bs 3) == some ⟨0x8000000000000000, [0, 1, 2, 3, 4, 5]⟩
      | .error _ => false) = true := by
  decide +kernel
/-! The supervisor, its partition and its node sets. -/

theorem witness_SupervisorEffectsComplete :
    let x := chief []
    let s := run x
    let halted := (s.setPart 0 { Partition.fresh 0 1 [(0, 0)] 1 with tsel := 0x400, tkAddr := 0xFFFFFFFFF000 }).setNight 0 (some { worker with cond := .held })
    s.ctx = some x ∧ x.issues = true ∧ x.sup = true ∧ (run worker).ctx = some worker ∧ worker.issues = true ∧ worker.sup = false ∧
    (succeeds (s.writeInv x 0 0) && succeeds (s.writePop x 1 0) && succeeds (s.writePop x 2 0) && succeeds (s.writePop x 3 0) &&
      succeeds (halted.tcmdResume x 0) && succeeds (halted.tcmdEnd x) && succeeds (s.readHot x) && succeeds (s.writeCtl x 0x80000000) &&
      succeeds (s.writeCtl x 0) && succeeds (s.writeQuota x 0) && succeeds (s.writeDusk x) && succeeds (s.writeRsz x 0) &&
      succeeds (s.writeMove x 0) && succeeds (s.writeFqHead x 0)) = true ∧
    s.performed (s.me x) .fab = true ∧ (awaiting s x).performed ((awaiting s x).me x) .fab = false ∧
    succeeds (s.exportTicket x) = true ∧ succeeds (halted.importTicket x 0) = true := by
  refine ⟨rfl, rfl, rfl, rfl, rfl, rfl, ?_, rfl, ?_, ?_, ?_⟩ <;> decide +kernel
/-- What an answer gives beside the state meets a condition. -/
def answers {α : Type} (r : Res (State × α)) (f : α → Bool) : Bool := match r with | .ok (_, a) => f a | .error _ => false
/-- What a supervisor's writes leave, clause by clause: a good and a bad word of PRT_INV, a page operation that is refused and one that
begins, the selected sets, a dusk, the resizes and moves, and a ticket's place. -/
theorem witness_SupervisorEffectsComplete_requests :
    let x := chief []
    let s := run x
    let q := Partition.fresh 0 1 [(0, 0)] 1
    let at' (q : Partition) : State := s.setPart 0 q
    let held := at' { q with tsel := 0x400 }
    let geom (g : Word) := s.writeRsz x g
    s.part x.part = some q ∧ answers (s.asidOf (s.me x) 0 0) id = true ∧
    answers (({ s with mem := Memory.setBytes s.mem 0x1F0 [4] } : State).asidOf (s.me x) 31 0) not = true ∧ q.invBusy = false ∧
    q.pop = none ∧ succeeds ((s.setPart 0 { q with inv := 0, invBusy := true }).applyRoots 0 0) = true ∧
    ({ s with rootsNext := [(0, 5)] } : State).rootsNext = [(0, 5)] ∧
    (∀ c ∈ [TaskCond.held, .drained, .timedOut], (match (held.setNight 0 (some { worker with cond := c })).selected x { q with tsel := 0x400 } with
      | .ok (n, night, y) => n == 0 && night && y.cond == c | .error _ => false) = true) ∧
    s.physicalCore 0 0 = some 0 ∧ (s.core 0).dusk = none ∧ s.supervised 0 = true ∧
    (let t := s.setCore 1 { Core.idle with day := some worker }
     t.supervised 1 = false ∧ (t.core 1).night = none ∧ (t.core 1).day ≠ none ∧ (t.core 1).asked = none) ∧
    q.resize = none ∧ succeeds (geom q.geom) = true ∧ placeClusters s.heldClusters [] = some [] ∧ placeClusters (List.range 160) [1] = none ∧
    s.moveRefused q 0 1 = some 4 ∧ s.moveRefused { q with supCore := 40 } 0 1 = none ∧
    s.ticketPlace 0x100000 = true ∧ s.ticketPlace 0xFFFFFFFFF000 = false ∧ s.ticketHeld 0 { worker with cond := .held } = true ∧
    s.ticketHeld 0 worker = false := by
  refine ⟨?_, ?_, ?_, ?_, ?_, ?_, ?_, ?_, ?_, ?_, ?_, ?_, ?_, ?_, ?_, ?_, ?_, ?_, ?_, ?_, ?_, ?_⟩
  all_goals decide +kernel
/-- A page operation with an address that no leaf maps; one that is refused, and a migration that begins. -/
theorem witness_SupervisorEffectsComplete_page :
    let s := run (chief [])
    let q := Partition.fresh 0 1 [(0, 0)] 1
    let ag := dieAgent (s.schedDie 0) 4 0
    (match s.walk ag 0xFFFFFFFFF000 with | .error (.trap _) => true | _ => false) = true ∧
    succeeds (do
      let w ← s.walk ag q.popVa
      let (_, r, _) ← (s.stampWalk ag w).popRefused ag 1 0 0 8 w
      given r.isSome) = true ∧
    succeeds (do
      let w ← s.walk ag q.popVa
      let (t, r, page) ← (s.stampWalk ag w).popRefused ag 1 0 0 0x100000 w
      given r.isNone
      let o : PageOp := ⟨1, 0, q.popVa, 0x100000, w.entry, w.leaf, w.size, false, none⟩
      let u ← (t.setPart 0 { q with pop := some o }).writeLeaf (migAgent (hbmDie page)) o (w.leaf ||| 0x80)
      u.startInv 0 o.scope) = true := by
  refine ⟨?_, ?_, ?_⟩ <;> decide +kernel
theorem readHbm_keeps (s : State) (ag : Agent) (pa n : Nat) (u : s.updates = []) :
    (s.readHbm ag pa n).1.power = s.power ∧ (s.readHbm ag pa n).1.poison = s.poison ∧ (s.readHbm ag pa n).1.updates = [] := by
  simp only [State.readHbm]
  cases h : s.servedBy ag (lineOf pa)
  rotate_left
  · simp [State.raiseClock, u]
  · have : s.recall (lineOf pa) = s := by simp [State.recall, u, tabGet]
    rw [this]
    by_cases c : (s.stampLoad ag (lineOf pa)).rangePoisoned (128 * lineOf pa) 128 = true
    · simp only [if_pos c]
      exact ⟨rfl, rfl, u⟩
    · simp only [if_neg c]
      exact ⟨rfl, rfl, u⟩
theorem getLines_ok {ag : Agent} : ∀ (fuel : Nat) (s : State) (pa n : Nat), s.power ≠ .twilight → s.poison = [] → s.updates = [] →
    pa + n ≤ hbmEnd → ∃ t bs, getLines ag fuel s pa n = .ok (t, bs)
  | 0, s, pa, n, _, _, _, _ => ⟨_, _, rfl⟩
  | fuel + 1, s, pa, n, h, p, u, b => by
    unfold getLines
    by_cases z : n = 0
    · simp [z]
    · have r : s.region pa = .hbm := by
        have : pa < hbmEnd := by omega
        simp [State.region, h, this]
      have k := readHbm_keeps s (ag.atHome (hbmDie pa)) pa (min n (128 - pa % 128)) u
      obtain ⟨t, bs, e⟩ := getLines_ok (ag := ag) fuel (s.readHbm (ag.atHome (hbmDie pa)) pa (min n (128 - pa % 128))).1 (pa + min n (128 - pa % 128))
        (n - min n (128 - pa % 128)) (by rw [k.1]; exact h) (by rw [k.2.1]; exact p) k.2.2 (by omega)
      have q : s.rangePoisoned pa (min n (128 - pa % 128)) = false := by simp [State.rangePoisoned, p, setHas]
      have a : s.readAt ag (BitVec.ofNat 64 pa) pa (min n (128 - pa % 128)) true =
          .ok (s.readHbm (ag.atHome (hbmDie pa)) pa (min n (128 - pa % 128))) := by
        simp only [State.readAt, r, q]; rfl
      simp [z, a, bind, Except.bind, e]
/-- The bytes of a ticket's place in device memory are read. -/
theorem witness_SupervisorEffectsComplete_ticket :
    let s := run (chief [])
    s.ticketPlace 0x100000 = true ∧ ∃ t bs, s.getRange (dieAgent (coreDie 0) 4 0) 0x100000 0x181000 = .ok (t, bs) :=
  ⟨by decide +kernel, getLines_ok _ _ _ _ (by decide) rfl rfl (by decide)⟩
theorem witness_PartitionWorkCompletes :
    let q := Partition.fresh 0 1 [(0, 0)] 1
    let o : PageOp := ⟨1, 0, 0, 0x100000000, 0, 0, 65536, false, none⟩
    let at' (q : Partition) : State := base.setPart 0 q
    let inv := at' { q with invBusy := true, inv := 4 }
    let idle := (at' { q with resize := some (.shrink q.geom [0] []) }).setCore 0 Core.idle
    let due := { inv with remote := [⟨1, 0, 3, 0, 0, 0, .store, 0, 4, [], 1, false, false, 0, 0⟩] }
    base.alive = true ∧ inv.part 0 = some { q with invBusy := true, inv := 4 } ∧ inv.nodesDue 0 4 = false ∧ inv.remoteDue 0 4 = false ∧
    due.remoteDue 0 4 = true ∧
    ((at' { q with pop := some o }).part 0).bind (·.pop) = some o ∧ (at' { q with pop := some o }).nodesDue 0 o.scope = false ∧
    (at' { q with pop := some o }).remoteDue 0 o.scope = false ∧ ({ o with ending := some 0 } : PageOp).ending = some 0 ∧
    idle.alive = true ∧ q.physical 0 = some 0 ∧ ((clusterCores 0).all fun n => (idle.core n).vacant) = true ∧ 0 ∈ [0] ∧
    ((clusterCores 0).all fun n => (base.core n).vacant) = false ∧
    ((at' { q with resize := some (.move 0 1 false) }).part 0).bind (·.resize) = some (.move 0 1 false) := by
  decide +kernel
/-- A migration whose leaf has changed is cancelled, a collapse whose leaf has changed ends at once, and a leaf that is poisoned is not read. -/
theorem witness_PartitionWorkCompletes_finish :
    let s := base.setPart 0 (Partition.fresh 0 1 [(0, 0)] 1)
    let o (op : Nat) : PageOp := ⟨op, 0, 0, 0xFFFFFFF00000, 0x20000, 1, 65536, false, none⟩
    succeeds (do
      let (u, r, again) ← s.popFinish (o 1)
      given (r == 2 && again)
      u.startInv 0 (o 1).scope) = true ∧
    answers (s.popFinish (o 3)) (· == (2, false)) = true ∧
    (match ({ s with poison := [0x1000] } : State).popFinish (o 1) with | .error (.trap _) => true | _ => false) = true := by
  refine ⟨?_, ?_, ?_⟩ <;> decide +kernel
theorem witness_DuskGoesItsWay :
    let d : Dusk := ⟨true, false, 0, none⟩
    let s := base.setCore 1 { Core.idle with day := some worker, asked := some d }
    let x := withFabric (onPort (portOf 0 none) [])
    let t := base.setCore 1 { Core.idle with day := some x, dusk := some d }
    let f := onPort (portOf 0 none) []
    let q := { portOf 0 (some (streamOf .wr .s32)) with passed := true }
    let w : Wire := ⟨ownCore, 64, 0, ownCore, 64, 0, false⟩
    let g := { onPort q [(512, { fed [] with mark := true })] with wires := [w] }
    let y := withFabric g
    let z := { worker with eligible := true, residence := .leaving, spadBytes := 0xC0000 }
    let busy := s.setNight 1 (some worker)
    (s.alive = true ∧ (s.core 1).asked = some d ∧ (s.core 1).day = some worker ∧ worker.cond = .run ∧ worker.traps = [] ∧ (s.core 1).dusk = none ∧
      s.duskRefused 1 d = false ∧ busy.duskRefused 1 d = true ∧ ({ worker with cond := .held } : Ctx).cond = .held ∧
      worker.taskRoute ⟨.page, 0, 0, none, 0xFF, 0xF, 0, false, []⟩ = false) ∧
    (t.runsFabric 1 x f ∧ (t.core 1).dusk ≠ none ∧ 64 ∈ f.sites ∧ f.passed 64 = false ∧ f.mayPass 64 = true) ∧
    (let u := base.setCore 1 { Core.idle with day := some y, dusk := some d }
     u.runsFabric 1 y g ∧ (u.core 1).dusk ≠ none ∧ tabGet g.ports (64 + 0) = some q ∧ q.passed = true ∧ q.drains = true ∧ q.saved = false ∧
      (∀ w ∈ g.wiresInto (64 + 0), g.marked w = true) ∧ u.performed (portAgent 1 0 y) q.reach = true) ∧
    (let b := base.setCore 1 { Core.idle with day := some worker, dusk := some d }
     b.alive = true ∧ (b.core 1).dusk = some d ∧ (b.core 1).day = some worker ∧ worker.fabric = none ∧ worker.atBoundary = true ∧
      worker.traps = [] ∧ (b.core 1).night = none) ∧
    (let r := { z with residence := .resident }
     r.eligible = true ∧ r.plane = none ∧ d.ret = true) ∧
    claimsMeet worker z = true ∧ z.residence = .leaving ∧ claimsMeet worker { z with spadBytes := 0, cols := 0 } = false := by
  refine ⟨⟨rfl, rfl, rfl, rfl, rfl, rfl, by decide, by decide, rfl, by decide⟩, ⟨⟨rfl, rfl⟩, by decide, by decide, rfl, rfl⟩,
    ⟨⟨rfl, rfl⟩, by decide, rfl, rfl, rfl, rfl, by decide, rfl⟩, ⟨rfl, rfl, rfl, rfl, by decide, rfl, rfl⟩, ⟨rfl, rfl, rfl⟩, by decide, rfl,
    by decide⟩
theorem witness_DuskGoesItsWay_mark :
    let a : Wire := ⟨1, 64, 0, ownCore, 64, 0, false⟩
    let b : Wire := ⟨ownCore, 64, 0, 0, 64, 0, false⟩
    let x := withFabric { bare with wires := [a] }
    let g := { bare with wires := [b], outs := [(512, ⟨[], true⟩)] }
    let s := (base.setCore 0 { Core.idle with day := some x }).setCore 1 { Core.idle with day := some (withFabric g) }
    s.runsFabric 0 x { bare with wires := [a] } ∧
    [a].find? (fun w => w.dstCore == ownCore && !w.localTo && w.dstSite.toNat == 64 && w.dstCh.toNat == 0) = some a ∧
    s.physicalCore x.part a.srcCore.toNat = some 1 ∧ s.liveEnd x (a.absolute (s.logicalCore x.part 0)) 1 = some (withFabric g, g) ∧
    (g.outq (chKey a.srcSite.toNat a.srcCh.toNat)).mark = true ∧ (g.outq (chKey a.srcSite.toNat a.srcCh.toNat)).toks = [] :=
  ⟨⟨rfl, rfl⟩, by decide, by decide, rfl, rfl, rfl⟩
/-- A parked task whose plane a running task waits for; its claim has gone or is on its way back; a task whose set an export awaits. -/
theorem witness_DuskGoesItsWay_streams :
    let z := { worker with id := 5, part := 7, cols := 0, spadBytes := 0 }
    let s := base.setCore 1 { Core.idle with day := some { worker with wait := .plane }, night := some z, planeTask := some 5 }
    let out := base.setCore 1 { Core.idle with day := some worker, night := some { z with residence := .out } }
    let back := base.setCore 1 { Core.idle with night := some { z with plane := some [] } }
    s.alive = true ∧ (s.core 1).night = some z ∧ z.residence = .resident ∧ z.plane = none ∧ (s.core 1).planeTask = some z.id ∧
    s.saveParts 1 z = .ok s ∧ claimsMeet worker z = false ∧ (out.core 1).night = some { z with residence := .out } ∧
    (back.core 1).day = none ∧ (back.core 1).night = some { z with plane := some [] } ∧
    (∃ q, s.part worker.part = some q ∧ q.ticket ≠ some 1) := by
  refine ⟨rfl, rfl, rfl, rfl, rfl, rfl, by decide, rfl, rfl, rfl, _, rfl, by decide⟩
theorem witness_DuskGoesItsWay_drain :
    let q : Port := { portOf 0 none with withheld := some ⟨.page, 0, 0, none, 0xFF, 0xF, 0, false, []⟩ }
    let x := withFabric (onPort q [])
    let late : State := { base with time := 0x100000000 }
    let s := late.setCore 1 { Core.idle with day := some x, limit := some 0 }
    let d : Dusk := ⟨false, true, 0, none⟩
    let t := (late.setPart 0 { Partition.fresh 0 1 [(0, 0)] 1 with fqLen := 4, fqBase := 0x100000 }).setCore 1
      { Core.idle with day := some worker, dusk := some d }
    (s.core 1).day = some x ∧ (s.core 1).limit = some 0 ∧ x.heldNodes ≠ 0 ∧ worker.heldNodes = 0 ∧
    (0 : Word).toNat + s.drainLimit x.part ≤ s.time.toNat ∧ (s.core 1).dusk = none ∧ (s.core 1).asked = none ∧ t.alive = true ∧
    (t.core 1).dusk = some d ∧ (t.core 1).day = some worker ∧ d.since.toNat + t.drainLimit worker.part ≤ t.time.toNat ∧
    (let fr := faultRecord ⟨.timeout, 0, 0, none, 0xFF, 0xF, 0, false, []⟩ false false 0 t.time 0 1 0
     let late (t : State) := t.setCore 1 { t.core 1 with
       dusk := none, day := some { worker with cond := .timedOut, fr := fr, wait := .none, fabric := none } }
     (∃ u, (late t).pushFault 0 fr = .ok u) ∧
     ∃ e, (late (t.setPart 0 { Partition.fresh 0 1 [(0, 0)] 1 with fqLen := 0 })).pushFault 0 fr = .error e) :=
  ⟨rfl, rfl, by decide, by decide, by decide, rfl, rfl, rfl, rfl, rfl, by decide, ⟨_, rfl⟩, _, rfl⟩
/-- A task that waits for a slot of the fault queue when its drain is asked for, and an ingress and a port that owe an access. -/
theorem witness_DuskGoesItsWay_owes :
    let d : Dusk := ⟨false, true, 0, none⟩
    let fr := faultRecord ⟨.page, 0, 0, none, 0xFF, 0xF, 0, false, []⟩ false false 0 0 0 1 0
    let x := { worker with cond := .slotWait fr }
    let s := base.setCore 1 { Core.idle with day := some x, asked := some d }
    let q := { portOf 0 (some (streamOf .rd .s32)) with asking := true }
    let f := onPort q []
    let y := withFabric f
    let t := base.setCore 1 { Core.idle with day := some y, dusk := some d }
    (s.alive = true ∧ (s.core 1).asked = some d ∧ (s.core 1).day = some x ∧ d.drain = true) ∧ t.runsFabric 1 y f ∧ (t.core 1).dusk ≠ none ∧
    64 ∈ f.sites ∧ f.passed 64 = false ∧ f.mayPass 64 = true ∧ ∃ q, tabGet f.ports 64 = some q ∧ q.ingress = true ∧ q.pending = true :=
  ⟨⟨rfl, rfl, rfl, rfl⟩, ⟨rfl, rfl⟩, by decide, by decide, rfl, rfl, _, rfl, rfl, rfl⟩
/-! The host and the links. -/

/-- A partition whose ring, at physical address 0x40000, has one entry of given words to take; ASID 31 belongs to partition 1. -/
def withEntry (ws : List Word) : State :=
  { base with
    mem := Memory.setBytes ((words base.mem 0x1000 [0x11, 0x2000, 0, 0, 0, 0, 0, 0, 0x3000]).setBytes 0x1F0 [4]) 0x40000 (ws.flatMap fun w => natLe 8 w.toNat)
    parts := [(0, { Partition.fresh 0 1 [(0, 0)] 1 with ringBase := 0x40000, ringLog := 4, completion := 0x50000, head := 3, tail := 4 })] }
/-- The words of an entry three places into that ring. -/
def ringEntry (ws : List Word) : State := withEntry (List.replicate 24 0 ++ ws)
theorem witness_HostRingsComplete :
    let s := ringEntry [0, 0, 0, 7]
    let q : Partition := { Partition.fresh 0 1 [(0, 0)] 1 with ringBase := 0x40000, ringLog := 4, completion := 0x50000, head := 3, tail := 4 }
    s.alive = true ∧ s.part 1 = none ∧ s.part 0 = some q ∧
    ((q.tail - q.head).toNat < ((8 : BitVec 32) - q.head).toNat ∧ ((8 : BitVec 32) - q.head).toNat ≤ 2 ^ q.ringLog) ∧
    ¬(q.tail - q.head).toNat < ((3 : BitVec 32) - q.head).toNat ∧ q.head ≠ q.tail ∧ s.moving q.completion.toNat 8 = false ∧
    q.seqDue = none ∧ (let due := { q with seqDue := some 7 }
      let u := s.setPart 0 due
      u.part 0 = some due ∧ due.seqDue = some 7 ∧ u.performed (u.cmdAgent 0 0) .sys = true ∧
      succeeds (((u.setPart 0 { due with seqDue := none, lastSeq := 7 }).publish (u.cmdAgent 0 0) .sys).putPhys (u.cmdAgent 0 0) q.completion.toNat
        (natLe 8 7)) = true ∧
      ({ u with hostWrites := [⟨1, (u.cmdAgent 0 0).num, 5, []⟩] } : State).performed (u.cmdAgent 0 0) .sys = false) :=
  ⟨rfl, rfl, rfl, by decide, by decide, by decide, rfl, rfl, rfl, rfl, rfl, by decide +kernel, by decide⟩
/-- What a statement about an entry asks: its kind's work, or for the last, an ASID of another partition. -/
def entryWorks (ws : List Word) (k : Nat) : Bool :=
  let s := ringEntry ws
  let w (bs : List Byte) (k : Nat) : Word := leWord ((bs.drop (8 * k)).take 8)
  succeeds (do
    let (t, bs) ← s.readAt (s.cmdAgent 0 0) (0x40000 + 64 * 3) (0x40000 + 64 * 3) 64 true
    let asid := (w bs 0).extractLsb' 8 13
    let (t, own) ← t.asidOf (s.cmdAgent 0 asid) asid 0
    given (entryShape (w bs) && own == decide (k < 3))
    match k with
    | 1 => (t.runGraph 0 (s.cmdAgent 0 asid) (w bs 1)).map fun _ => ()
    | 2 => (t.runRecord 0 (s.cmdAgent 0 asid) (w bs 1) (w bs 2)).map fun _ => ()
    | _ => .ok ())
theorem witness_HostRingsComplete_entries : entryWorks [0, 0, 0, 7] 0 = true ∧ entryWorks [0x1F00, 0, 0, 7] 3 = true := by decide +kernel
theorem witness_HostRingsComplete_graph : entryWorks [1, 0x3000, 0, 8] 1 = true := by decide +kernel
/-- A graph header and a record whose addresses are not aligned. -/
theorem witness_HostRingsComplete_refused :
    let s := ringEntry [0, 0, 0, 7]
    (match s.runGraph 0 (s.cmdAgent 0 0) 0x3001 with | .error (.trap _) => true | _ => false) = true ∧
    (match s.runRecord 0 (s.cmdAgent 0 0) 0x1001 0 with | .error (.trap _) => true | _ => false) = true := by decide +kernel
theorem witness_HostRingsComplete_record : entryWorks [2, 0x1000, 0x2000, 9] 2 = true := by
  have h : succeeds (do
      let (t, bs) ← (ringEntry [2, 0x1000, 0x2000, 9]).readAt ((ringEntry [2, 0x1000, 0x2000, 9]).cmdAgent 0 0)
        (0x40000 + 64 * 3) (0x40000 + 64 * 3) 64 true
      let w (k : Nat) : Word := leWord ((bs.drop (8 * k)).take 8)
      let asid := (w 0).extractLsb' 8 13
      let ag := (ringEntry [2, 0x1000, 0x2000, 9]).cmdAgent 0 asid
      let (v, own) ← t.asidOf ag asid 0
      given (entryShape w && own == decide (2 < 3))
      let _ ← require ((w 1).toNat % 128 == 0) .align (w 1)
      let _ ← require ((w 2).toNat % 64 == 0) .align (w 2)
      let (t, n) ← v.readHead ag (w 1)
      let _ ← require (n.kind == 1 && n.base != 0) .shape (w 1)
      let (t, bs) ← t.loadN ag (w 2) 256
      given (mayEnqueue t ag 0 (w 1) bs)) = true := by decide +kernel
  obtain ⟨⟨t, bs⟩, h1, h⟩ := succeeds_bind.1 h
  obtain ⟨⟨v, own⟩, h2, h⟩ := succeeds_bind.1 h
  obtain ⟨_, h3, h⟩ := succeeds_bind.1 h
  obtain ⟨_, h4, h⟩ := succeeds_bind.1 h
  obtain ⟨_, h5, h⟩ := succeeds_bind.1 h
  obtain ⟨⟨u, n⟩, h6, h⟩ := succeeds_bind.1 h
  obtain ⟨_, h7, h⟩ := succeeds_bind.1 h
  obtain ⟨⟨r, cs⟩, h8, h⟩ := succeeds_bind.1 h
  obtain ⟨z, hz⟩ := enqueues (given_succeeds h)
  have k : v.runRecord 0 _ _ _ = .ok z := (bind_ok h4).trans <| (bind_ok h5).trans <| (bind_ok h6).trans <| (bind_ok h7).trans <|
    (bind_ok h8).trans hz
  unfold entryWorks
  exact succeeds_bind.2 ⟨_, h1, succeeds_bind.2 ⟨_, h2, succeeds_bind.2 ⟨_, h3, congrArg (fun r => succeeds (r.map fun _ => ())) k⟩⟩⟩
theorem witness_HostAccessesComplete :
    base.alive = true ∧ base.hostMay 0x100 16 = true ∧ base.moving 0x100 (List.replicate 16 (1 : Byte)).length = false ∧ 0x58 % 8 = 0 ∧
    (0x110 / 128 = (0x110 + (List.replicate 16 (1 : Byte)).length - 1) / 128) ∧
    setHas ({ base with hostAsked := [5] } : State).hostAsked 5 = true ∧ (List.replicate 128 (0 : Byte)).length = 128 ∧
    base.region 0x100 = .hbm ∧ setHas base.hostCopies (lineOf 0x100) = false ∧
    setHas ({ base with hostCopies := [2] } : State).hostCopies (lineOf 0x100) = true ∧ (16 : Nat) ≠ 0 ∧ (0x100 / 128 = (0x100 + 16 - 1) / 128) ∧
    succeeds (base.hostWrite 0x100 (List.replicate 16 1)) = true := by decide +kernel
theorem witness_MailboxTakesCommands :
    base.listening = true ∧ base.mbPending = none ∧
    ({ base with mbPending := some (1, .unknown 99) } : State).mbPending = some (1, .unknown 99) := by decide
theorem witness_MailboxCommandsEnd :
    let q := Partition.fresh 0 1 [(0, 0)] 1
    let s := { base with device := some 3, mbArg := 0x800000000000 }
    let busy := s.setPart 0 { q with tail := 1 }
    let owned := { s with ranges := [(2, { s.range 2 with ctl := 0x80000000 })] }
    let moved := (s.setPart 0 { q with resize := some (.move 0 1 true) }).setCore 0 Core.idle
    let ms : List Member := [⟨3, 0, 0⟩, ⟨4, 63, 639⟩]
    s.power = .normal ∧ (0x10000 : Word) &&& 0xFFFFFFFF0000 = 0x10000 ∧ (0x20 : Word) &&& 0xFFFFFFFFFFE0 = 0x20 ∧
    State.reset.parts = [] ∧ (0x8000 : Word) &&& 0xFFFFFFFF0000 ≠ 0x8000 ∧ s.part 5 = none ∧
    (busy.part 0 = some { q with tail := 1 } ∧ (q.head ≠ ({ q with tail := 1 } : Partition).tail)) ∧
    ((s.setPart 0 q).setCore 0 Core.idle).part 0 = some q ∧ ((s.setPart 0 q).setCore 0 Core.idle).anyTask q = false ∧ q.head = q.tail ∧
    (run worker).anyTask q = true ∧ (owned.range 2).en = true ∧ s.device ≠ none ∧ 2 ≤ ms.length ∧ ms.length ≤ 1024 ∧
    (∀ m ∈ ms, m.part < 64 ∧ m.core < 640) ∧ s.groupBusy 7 = false ∧ ({ s with power := .hold } : State).power = .hold ∧
    Command.unknown 9 ≠ .daybreak true ∧ Command.unknown 9 ≠ .daybreak false ∧ Command.unknown 9 ≠ .reset true ∧
    Command.unknown 9 ≠ .reset false ∧ (Command.unknown 9).hasArg = false ∧ (Command.partDestroy 9).hasArg = true ∧ s.argOk = true ∧
    base.argOk = false ∧ (match s.hostLine (lineOf s.mbArg.toNat) with | .ok _ => false | .error _ => true) = true ∧
    (match ({ s with hostLines := [(lineOf s.mbArg.toNat, [])] } : State).hostLine (lineOf s.mbArg.toNat) with | .ok _ => true | .error _ => false) = true ∧
    s.performed mailAgent .sys = true ∧ ({ s with hostWrites := [⟨1, mailAgent.num, 5, []⟩] } : State).performed mailAgent .sys = false ∧
    (match s.applyRoots 0 2 with
      | .ok u =>
        let t := { u.markNodes 0 2 with mbPending := some (1, .asidSync 0 true) }
        t.nodesDue 0 2 == false && t.remoteDue 0 2 == false
      | .error _ => false) = true ∧
    s.moveRefused q 0 1 = some 4 ∧ s.moveRefused { q with supCore := 40 } 0 1 = none ∧
    (moved.part 0).bind (·.resize) = some (.move 0 1 true) ∧ q.physical 0 = some 0 ∧
    ((clusterCores 0).all fun n => (moved.core n).vacant) = true := by
  decide +kernel
/-- Arguments of PART_CREATE: partition 1 on cluster 1, whose supervisor has ASID 31 and its code header at 0x4000. -/
theorem witness_MailboxCommandsEnd_create :
    let m := words (Memory.setBytes base.mem 0x1F0 (natLe 8 0x10005)) 0x4000 [0x10101, 8]
    let s := { base with device := some 3, mbArg := 0x800000000000, mem := m }
    let a : PartArgs := ⟨1, 0x10001, 1, 0x40000, 4, 0x50000, 1, 31, 0x4000⟩
    s.power ≠ .twilight ∧ s.parts ≠ [] ∧ s.partArgsOk a = true ∧ s.partArgsOk { a with number := 64 } = false ∧ s.part 1 = none ∧
    s.served 0 < 16 ∧ (∀ k ∈ geomClusters a.geom, k ∉ s.heldClusters) ∧ (∃ k ∈ geomClusters 0x10000, k ∈ s.heldClusters) ∧
    answers (s.supClaim 0 a.supAsid a.supCode) (· == some (32, 16384)) = true ∧
    answers (s.asidWord mailAgent a.supAsid 0) (fun e => e.any fun w => w.getLsbD 0 && (w.extractLsb' 2 6).toNat == a.number) = true ∧
    answers (s.asidWord mailAgent 30 0) (fun e => !e.any fun w => w.getLsbD 0 && (w.extractLsb' 2 6).toNat == a.number) = true ∧
    answers (s.supClaim 0 a.supAsid 0x4008) Option.isNone = true ∧
    ({ s with power := .twilight } : State).power = .twilight := by
  decide +kernel
/-- A device with port 3 active. -/
def linked : State :=
  { base with ports := [(3, { DruatPort.down with state := 2 })], groups := [(7, ⟨[⟨0, 0, 0⟩, ⟨1, 0, 0⟩], [], [], [], []⟩)] }
theorem witness_FlitsArrive :
    let p := { DruatPort.down with state := 2 }
    let f : Flit := ⟨5, 1, 0x100, [(4, 7), (5, 0)], 0⟩
    linked.alive = true ∧ tabGet linked.ports 3 = some p ∧ p.state = 2 ∧ f.seq = BitVec.ofNat 32 (p.received + 1) ∧
    ({ f with seq := 2 } : Flit).seq ≠ BitVec.ofNat 32 (p.received + 1) ∧ linked.region f.addr = .hbm ∧ linked.moving 0x100 128 = false ∧
    linked.moving 0x100 8 = false ∧ f.addr % 8 = 0 ∧ f.addr % 4 = 0 ∧ setHas linked.hostCopies (lineOf 0x100) = false ∧
    setHas ({ linked with hostCopies := [2] } : State).hostCopies (lineOf 0x100) = true ∧
    (List.replicate 4 ((0 : Nat), (7 : Byte))).length = 4 ∧ (List.replicate 8 ((0 : Nat), (7 : Byte))).length = 2 * 4 ∧
    (tabGet linked.groups 7).isSome = true ∧ succeeds (linked.writeFlit 3 0x100 [(4, 7), (5, 0)]) = true ∧ linked.moving 0x100 224 = false ∧
    (∀ l ∈ linesOf 0x100 224, setHas linked.hostCopies l = false) ∧ linked.rangePoisoned 0x100 8 = false ∧
    ({ linked with poison := [8] } : State).rangePoisoned 0x100 8 = true ∧
    succeeds (State.forPhysical (linked.recall (lineOf 0x100)) (portDevice 3) 0x100 8) = true := by
  decide +kernel
theorem witness_PortsRetrainAndFail :
    let p : DruatPort := { DruatPort.down with state := 3, failedRetrains := 2 }
    let q : DruatPort := { p with failedRetrains := 3 }
    let f (n : Nat) : Sent := ⟨1, 3, 0, 5, 0x100, [(0, 7)], .store, n⟩
    linked.alive = true ∧ tabGet linked.ports 3 = some { DruatPort.down with state := 2 } ∧
    (∀ n ∈ [0, 6, 7], ({ DruatPort.down with state := 2, sent := [f n] } : DruatPort).sent = f n :: [] ∧ (n < 7 ∨ 7 ≤ (f n).replays)) ∧
    tabGet (linked.setPort 3 p).ports 3 = some p ∧ p.state = 3 ∧ p.failedRetrains < 3 ∧ tabGet (linked.setPort 3 q).ports 3 = some q ∧
    q.state = 3 ∧ 3 ≤ q.failedRetrains ∧ (∀ e ∈ (f 0).bytes, e.1 < 128) ∧ (f 0).kind ≠ 6 ∧ (f 0).kind ≠ 7 := by
  decide +kernel
/-- A store that a running task left behind, one of a task that is gone, and one of no task. -/
theorem witness_PortsRetrainAndFail_lost :
    let s := run { worker with id := 5 }
    let r (task : Nat) : Remote := ⟨1, 3, 5, 0, task, 0, .store, 0, 4, [], 1, false, false, 0, 0⟩
    (match s.cores.find? fun (_, c) => (c.find (r 5).task).isSome with | some (n, _) => n == 0 | none => false) = true ∧
    (∀ k ∈ [9, 0], (s.cores.find? fun (_, c) => (c.find (r k).task).isSome) = none) ∧ (r 9).task ≠ 0 ∧ (r 0).task = 0 := by
  decide +kernel
theorem witness_StartsAndPower :
    ({ base with power := .off } : State).power = .off ∧ ({ base with power := .starting } : State).power = .starting ∧
    ({ base with power := .twilightStarting } : State).power = .twilightStarting ∧
    ({ base with power := .hold, trained := false } : State).power = .hold ∧ ({ base with power := .hold, trained := false } : State).trained = false ∧
    base.alive = true ∧ Island.ofNumber 0 = some (.cluster 0) ∧ (tabGet base.islands 0).getD 0 ≤ (Island.cluster 0).steps ∧
    base.mayStep (.cluster 0) = true ∧ ({ base with power := .twilight } : State).mayStep (.cluster 0) = false ∧
    2 ≤ (tabGet ({ base with islands := [(0, 2)] } : State).islands 0).getD 0 ∧ (tabGet base.islands 0).getD 0 ≤ 1 ∧
    Island.ofNumber 168 = none := by
  decide

end Sys2Proof.Tests
end

section
/-! PROOFS. Reading back what was written (R6, R326, R328, R339). A write of device memory recalls its line's update-only copies, and a
read at the home recalls those that are left: none, where the table of update-only lines names each line once, and then the bytes read
back. MemoryReadsBack asks it of every state, also of one whose table names the line twice, where the read folds in the second entry. -/

namespace Sys2Proof.Machine

/-! A table after an entry is removed. -/

theorem tabDel_of_tabGet_none {α : Type} {t : List (Nat × α)} {k : Nat} (h : tabGet t k = none) : tabDel t k = t := by
  induction t with
  | nil => rfl
  | cons c r ih =>
    obtain ⟨j, x⟩ := c
    by_cases hj : j = k
    · simp [tabGet, hj] at h
    · have hr : tabGet r k = none := by simpa [tabGet, hj] using h
      simp [tabDel, hj, ih hr]

theorem tabGet_of_not_key {α : Type} {t : List (Nat × α)} {k : Nat} (h : k ∉ t.map Prod.fst) : tabGet t k = none := by
  induction t with
  | nil => rfl
  | cons c r ih =>
    obtain ⟨j, x⟩ := c
    obtain ⟨hj, hr⟩ : k ≠ j ∧ k ∉ r.map Prod.fst := by simpa using h
    simpa [tabGet, hj.symm] using ih hr

/-- Of a table that names no key twice: `tabDel` removes one entry only. -/
theorem tabGet_tabDel {α : Type} {t : List (Nat × α)} (h : (t.map Prod.fst).Nodup) (k : Nat) : tabGet (tabDel t k) k = none := by
  induction t with
  | nil => rfl
  | cons c r ih =>
    obtain ⟨j, x⟩ := c
    obtain ⟨hj, hr⟩ : j ∉ r.map Prod.fst ∧ (r.map Prod.fst).Nodup := List.nodup_cons.mp h
    by_cases e : j = k
    · simpa [tabDel, e] using tabGet_of_not_key (e ▸ hj)
    · simpa [tabDel, tabGet, e] using ih hr

/-! The update-only copies that a recall and a write leave. -/

@[simp] theorem State.foldCopy_updates (s : State) (line : Nat) (u : UpdateOnly) : (s.foldCopy line u).updates = s.updates := by
  unfold State.foldCopy
  induction u.partials generalizing s with
  | nil => rfl
  | cons p r ih => exact ih _

theorem State.foldCopies_updates (line : Nat) (us : List (Nat × UpdateOnly)) (s : State) :
    (us.foldl (fun t (_, u) => State.foldCopy t line u) s).updates = s.updates := by
  induction us generalizing s with
  | nil => rfl
  | cons p r ih => exact (ih _).trans (State.foldCopy_updates s line p.2)

theorem State.recall_updates (s : State) (line : Nat) : (s.recall line).updates = tabDel s.updates line := by
  cases h : tabGet s.updates line with
  | none => rw [State.recall_none h, tabDel_of_tabGet_none h]
  | some us => simpa [State.recall, h, State.combine] using State.foldCopies_updates line us _

@[simp] theorem State.bumpGen_updates (s : State) (pa : Nat) : (s.bumpGen pa).updates = s.updates := by
  unfold State.bumpGen; split <;> rfl

@[simp] theorem State.cleanPoison_updates (s : State) (pa n : Nat) : (s.cleanPoison pa n).updates = s.updates := by
  simp only [State.cleanPoison]; split <;> rfl

theorem State.writeHbm_updates (s : State) (ag : Agent) (pa : Nat) (bs : List Byte) :
    (s.writeHbm ag pa bs).updates = tabDel s.updates (lineOf pa) := by
  rw [← State.recall_updates]
  simp only [State.writeHbm]
  split <;> simp [State.stampWrites]

/-! Bytes of a memory. -/

theorem Memory.bytes_eq_map (m : Memory) (a n : Nat) : Memory.bytes m a n = (List.range n).map fun k => Memory.byte m (a + k) := by
  induction n generalizing a with
  | zero => rfl
  | succ n ih => simp [Memory.bytes, ih, List.range_succ_eq_map, Nat.add_assoc, Nat.add_comm 1]

/-- Bytes written read back as they were written. -/
theorem Memory.bytes_setBytes {m : Memory} (h : m.wf = true) (a : Nat) (bs : List Byte) :
    Memory.bytes (m.setBytes a bs) a bs.length = bs := by
  rw [Memory.bytes_eq_map]
  refine List.ext_getElem (by simp) fun k hk _ => ?_
  have hb : k < bs.length := by simpa using hk
  simp [Memory.byte_setBytes h, hb]

/-- A read that no leased copy serves is of the bytes at the home, the line's update-only copies recalled (R328, R339). -/
theorem State.readHbm_home {s : State} {ag : Agent} {pa : Nat} (h : s.servedBy ag (lineOf pa) = none) (n : Nat) :
    (s.readHbm ag pa n).2 = Memory.bytes (s.recall (lineOf pa)).mem pa n := by
  simp only [State.readHbm, h]
  split <;> rfl

/-- The clause of MemoryReadsBack that fails, under the premise it lacks: that the table of update-only lines, whose keys stand in rising
order where the model's operations built it, names no line twice. -/
theorem State.readHbm_writeHbm {s : State} (h : Memory.wf s.mem = true) (keys : (s.updates.map Prod.fst).Nodup) (ag other : Agent)
    (pa : Nat) (bs : List Byte) (home : (s.writeHbm ag pa bs).servedBy other (lineOf pa) = none) :
    ((s.writeHbm ag pa bs).readHbm other pa bs.length).2 = bs := by
  have nothingLeft : tabGet (s.writeHbm ag pa bs).updates (lineOf pa) = none := by
    rw [State.writeHbm_updates]; exact tabGet_tabDel keys _
  rw [State.readHbm_home home, State.recall_none nothingLeft, State.writeHbm_mem]
  exact Memory.bytes_setBytes (State.recall_wf h _) pa bs

/-! The other clauses of MemoryReadsBack, which hold as they stand. -/

/-- Every other byte stays as the recall left it. -/
theorem State.byte_writeHbm {s : State} (h : Memory.wf s.mem = true) (ag : Agent) (pa : Nat) (bs : List Byte) (a : Nat) :
    Memory.byte (s.writeHbm ag pa bs).mem a =
      if pa ≤ a ∧ a < pa + bs.length then bs.getD (a - pa) 0 else Memory.byte (s.recall (lineOf pa)).mem a := by
  rw [State.writeHbm_mem, Memory.byte_setBytes (State.recall_wf h _)]

theorem Core.byte_putSpad {c : Core} (h : Memory.wf c.spad = true) (o a : Nat) (bs : List Byte) :
    Memory.byte (c.putSpad o bs).spad a = if o ≤ a ∧ a < o + bs.length then bs.getD (a - o) 0 else Memory.byte c.spad a := by
  rw [Core.putSpad_spad, Memory.byte_setBytes h]

theorem State.staleCopy_lease {s : State} {ag : Agent} {line key : Nat} {c : LineCopy} (h : s.staleCopy ag line key = some c) :
    s.clock ag ≤ c.lease := by
  obtain ⟨-, hc⟩ := Option.filter_eq_some_iff.mp h
  simp only [Bool.and_eq_true, decide_eq_true_eq] at hc
  exact hc.2

/-- A copy serves until its lease ends: it is the core's own or the RDC's, and neither is one whose lease has ended (R328). -/
theorem State.servedBy_lease {s : State} {ag : Agent} {line : Nat} {c : LineCopy} (h : s.servedBy ag line = some c) :
    s.clock ag ≤ c.lease := by
  have own : (if ag.core < Config.cores then s.staleCopy ag line (coreCopy ag.core line) else none) = some c → s.clock ag ≤ c.lease := by
    split
    · exact State.staleCopy_lease
    · exact nofun
  simp only [State.servedBy] at h
  split at h
  · cases h
  · split at h
    · cases h
    · exact own h
    · exact State.staleCopy_lease h

theorem natLe_length (k v : Nat) : (natLe k v).length = k := by
  induction k generalizing v with
  | zero => rfl
  | succ k ih => simp [natLe, ih]

/-- The bytes of a number, least significant first, are the number (R6). -/
theorem leNat_natLe (k v : Nat) : leNat (natLe k v) = v % 256 ^ k := by
  induction k generalizing v with
  | zero => simp [natLe, leNat, Nat.mod_one]
  | succ k ih => simp [natLe, leNat, ih, Nat.pow_succ', Nat.mod_mul]

/-! The counterexample. -/

/-- Reset, but the table of update-only lines names line 0 twice: once with a copy in core 0, once with one in core 1, and each copy holds
the partial 1 of a 32-bit sum at offset 0. -/
def lineTwice : State :=
  let copy : UpdateOnly := ⟨.add, false, 0, [(0, 1)]⟩
  { State.reset with updates := [(0, [(0, copy)]), (0, [(1, copy)])] }

/-- The write folds in the copy of core 0 and puts 7 over it; the read then folds in the copy of core 1 and answers 8. -/
theorem readHbm_lineTwice : ((lineTwice.writeHbm hostAgent 0 [7]).readHbm hostAgent 0 1).2 = [8] := by decide

/-- Refutes O7: with a line named twice in the table of update-only lines, the recall of the write takes the first entry alone, and that of
the read after it adds the second to the bytes written. -/
theorem not_memoryReadsBack : ¬ Obligations.MemoryReadsBack := by
  unfold Obligations.MemoryReadsBack
  rintro ⟨readsBack, -⟩
  obtain ⟨read, -⟩ := readsBack lineTwice hostAgent hostAgent 0 [7] (by decide) (by decide)
  have seven : ((lineTwice.writeHbm hostAgent 0 [7]).readHbm hostAgent 0 1).2 = [7] := read rfl
  rw [readHbm_lineTwice] at seven
  exact absurd seven (by decide)

end Sys2Proof.Machine
end

section
/-! PROOFS. Guards, privilege and refused words (R50, R51, R62, R94, R98). The one idea: the meaning of every control word is a body handed
to `control` under the word's own guard, privileged exactly where `Instr.privileged` says so. What `control` does before it runs a body
(Laws/Control) then holds of all of them. -/

namespace Sys2Proof.Machine

/-! The operations that the meanings of control words share: each hands a body to `control`. -/

/-- The outcome o is that of `control` for the word i under the guard g, with some body. -/
def IsControl (i : Instr) (g : Guard) (priv : Bool) (s : State) (o : Out) : Prop := ∃ body, o = control i g priv s body

theorem simple_isControl i g s f : IsControl i g false s (simple i g s f) := ⟨_, rfl⟩
theorem writes_isControl i g d f s : IsControl i g false s (writes i g d f s) := simple_isControl ..
theorem binary_isControl i g d a b f s : IsControl i g false s (binary i g d a b f s) := writes_isControl ..
theorem csrw_isControl i g n s f : IsControl i g (csrPriv n.toNat) s (csrw i g n s f) := ⟨_, rfl⟩
theorem vector1_isControl i g d a s f : IsControl i g false s (vector1 i g d a s f) := ⟨_, rfl⟩
theorem vector2_isControl i g d a b third form rnd s f : IsControl i g false s (vector2 i g d a b third form rnd s f) := ⟨_, rfl⟩
theorem reduceCols_isControl i g d a rnd s step one last : IsControl i g false s (reduceCols i g d a rnd s step one last) := ⟨_, rfl⟩
theorem spreadSpad_isControl i g d a ty s count which : IsControl i g false s (spreadSpad i g d a ty s count which) := ⟨_, rfl⟩
theorem convertTile_isControl i g d a b ty rnd sat b32 s : IsControl i g false s (convertTile i g d a b ty rnd sat b32 s) := ⟨_, rfl⟩
theorem kvControl_isControl i g home reads s body : IsControl i g false s (kvControl i g home reads s body) := ⟨_, rfl⟩
theorem copyInstr_isControl i g dir d a b c fe gm sc s : IsControl i g false s (copyInstr i g dir d a b c fe gm sc s) := ⟨_, rfl⟩
theorem chain_isControl i g coll a b sc s : IsControl i g false s (chain i g coll a b sc s) := ⟨_, rfl⟩
theorem collective_isControl i g op d a b c ty s : IsControl i g false s (collective i g op d a b c ty s) := ⟨_, rfl⟩
theorem lookup_isControl i g s body : IsControl i g false s (lookup i g s body) := ⟨_, rfl⟩
theorem rstat_isControl i g d s f : IsControl i g false s (rstat i g d s f) := ⟨_, rfl⟩

/-- The cases go by the shared operation behind the word; the words that name their own encoding before the body have their meaning
unfolded, so that the operation under that name shows. -/
theorem exec_isControl {i : Instr} {g : Guard} (h : i.guard = some g) (s : State) : IsControl i g i.privileged s (exec i s) := by
  cases i with
  | cmp | pand | por | pnot | rngld | rngst | rand | fstat | fstatAll => cases h; simp only [exec]; exact simple_isControl ..
  | shlImm | shrImm | shaImm | rotImm | clz | popc | bfx | bfxS | bfi | addsh | mad | sel | movi | movhi | addi =>
    cases h; simp only [exec]; exact writes_isControl ..
  | add | sub | mul | mulh | mulhz | div | divz | rem | remz | and | or | xor | andn | shlReg | shrReg | shaReg | rotReg | min | max |
    minz | maxz =>
    cases h; simp only [exec]; exact binary_isControl ..
  | csrw | csrwSet | csrwClr => cases h; simp only [exec]; exact csrw_isControl ..
  | aexp2 | alog2 | arcp | arsq | asig | asigTanh | asigSilu | asigExpe | amov => cases h; simp only [exec]; exact vector1_isControl ..
  | aadd | amul | afma | amax | amin => cases h; simp only [exec]; exact vector2_isControl ..
  | aredSum | aredMax | aredMin => cases h; simp only [exec]; exact reduceCols_isControl ..
  | abcastRow | abcastColv => cases h; simp only [exec]; exact spreadSpad_isControl ..
  | acvt | acvtB32 => cases h; simp only [exec]; exact convertTile_isControl ..
  | kvmap | kvapp | kvfork | kvforkCow | kvtrunc | kvrel | kvret | kvcompact | kvqLen | kvqMap | kvqFrame | kvqState | pxlkp |
    pxlkpDrop | pxins =>
    cases h
    simp only [exec, execKvmap, execKvapp, execKvfork, execKvforkCow, execKvtrunc, execKvrel, execKvret, execKvcompact, execKvqLen,
      execKvqMap, execKvqFrame, execKvqState, execPxlkp, execPxlkpDrop, execPxins]
    exact kvControl_isControl ..
  | cpyG2s | cpyS2g | cpyG2g | cpyS2s => cases h; simp only [exec]; exact copyInstr_isControl ..
  | chainCpy | chainColl => cases h; simp only [exec]; exact chain_isControl ..
  | collSum | collMax | collMin | collBcast | collAgath | collRscat => cases h; simp only [exec]; exact collective_isControl ..
  | lctx | lsel | lstatSlot | lstatRuns => cases h; simp only [exec]; exact lookup_isControl ..
  | bslice | bjoin | lrun | lstatPop | lstatWord =>
    cases h
    simp only [exec, execBslice, execBjoin, execLrun, execLstatPop, execLstatWord]
    exact lookup_isControl ..
  | rstatLkp | rstatHit | rstatMiss | rstatIns | rstatHeld | rstatQuota => cases h; simp only [exec]; exact rstat_isControl ..
  | br | jal | jr | brcL1 | brcAll | loop | loopi | nop | ld | st | csrr | trap | eret | eretTask | wfe | sevAll | sevOne | sevClus |
    hintSpin | hintPf | abcast | cfg | cfgStg | cfgsw | sbar | sbarOrd | btok | tbinit | tbexp | tbarr | tbwait | tbtest | amo | red |
    amof | cas | ldfe | stfe | pref | fence | seqw | launch | tend | tyield | rinvTag | rinvRange | rinvAll | rinvAsid | rstatProbe =>
    cases h; simp only [exec]; exact ⟨_, rfl⟩
  | mma | mmas | prune | mzero | mld | mst | abind | attn | tmerge | strm | argw | tinj | tpop | slotf | cpyRing | spl | fil | tenq |
    launchArg | gsig =>
    cases h
    simp only [exec, execMma, execMmas, execPrune, execMzero, execMld, execMst, execAbind, execAttn, execTmerge, execStrm, execArgw,
      execTinj, execTpop, execSlotf, execCpyRing, execSpl, execFil, execTenq, execLaunchArg, execGsig]
    exact ⟨_, rfl⟩
  | _ => cases h

/-! The clauses of GuardsAndPrivilegeHold. -/

theorem exec_priv {i : Instr} {g : Guard} {s : State} {x : Ctx} (hg : i.guard = some g) (hc : s.ctx = some x) (hi : x.issues = true)
    (hp : i.privileged = true) (hs : x.sup = false) : exec i s = .next (s.trapped x i .priv (encode i)) := by
  obtain ⟨body, hb⟩ := exec_isControl hg s
  rw [hb, hp]
  exact control_priv hc hi hs

theorem exec_unguarded {i : Instr} {g : Guard} {s : State} {x : Ctx} (hg : i.guard = some g) (hc : s.ctx = some x) (hi : x.issues = true)
    (hh : x.holds g = false) (hp : i.privileged = true → x.sup = true) : exec i s = .next (s.setCtx (x.complete .seq)) := by
  obtain ⟨body, hb⟩ := exec_isControl hg s
  rw [hb]
  exact control_unguarded hc hi hh hp

/-- A word that the checks of R62 refuse, by its opcode or by a field, is run as the one instruction that takes ILLEGAL. -/
theorem instrOf_refused {w : Word} (h : opAssigned w = false ∨ ∃ why, decode w = .error why) : instrOf w = .illegalWord w := by
  obtain hop | ⟨why, hd⟩ := h
  · have hd : decode w = .ok (.illegalWord w) := by simp [decode, hop]
    simp [instrOf, hd]
  · simp [instrOf, hd]

theorem exec_illegalWord_issues {s : State} {x : Ctx} (hc : s.ctx = some x) (hi : x.issues = true) (w : Word) :
    exec (.illegalWord w) s = .next (s.takeTrap s.cur x ⟨.illegal, w, 0, none, 0xFF, 0xF, 0, false, []⟩ w x.pc false) := by
  simp [exec_illegalWord, execIllegalWord, hc, hi]

/-- Settles O9: every control word goes through `control`, and a refused word is the one that takes ILLEGAL. -/
theorem guardsAndPrivilegeHold : Obligations.GuardsAndPrivilegeHold := by
  unfold Obligations.GuardsAndPrivilegeHold
  intro i g s x hg hc hi
  refine ⟨exec_priv hg hc hi, exec_unguarded hg hc hi, fun w hw => ?_⟩
  rw [instrOf_refused hw]
  exact exec_illegalWord_issues hc hi w

end Sys2Proof.Machine
end

section
/-! PROOFS. Quotients, remainders, selections, immediates, predicate logic and comparisons (R74, R77 to R80). Each is an instruction that
changes the task's registers alone, so its completion is `simple_ready`; what is left is the value, an equation for each shared operation. -/

namespace Sys2Proof.Machine

/-! How the instructions that write a general register complete. -/

section
variable {i : Instr} {g : Guard} {s : State} {x : Ctx} {d a b : Reg}

theorem writes_ready {f : Ctx → Word} (h : s.ready x g) : writes i g d f s = .next (s.retired x (x.setG d (f x))) := simple_ready h

theorem binary_ready {f : Word → Word → Word} (h : s.ready x g) :
    binary i g d a b f s = .next (s.retired x (x.setG d (f (x.g a) (x.g b)))) := writes_ready h

end

/-! The values of the divisions (R74). -/

theorem divS_eq (a b : Word) :
    divS a b = if b = 0 then 0xFFFFFFFFFFFFFFFF else BitVec.ofInt 64 (a.toInt.tdiv b.toInt) := by
  have quotient : a.sdiv b = BitVec.ofInt 64 (a.toInt.tdiv b.toInt) :=
    BitVec.eq_of_toInt_eq (by rw [BitVec.toInt_sdiv, BitVec.toInt_ofInt])
  simp only [divS, beq_iff_eq, quotient]

theorem divU_eq (a b : Word) : divU a b = if b = 0 then 0xFFFFFFFFFFFFFFFF else BitVec.ofNat 64 (a.toNat / b.toNat) := by
  have quotient : a / b = BitVec.ofNat 64 (a.toNat / b.toNat) := by rw [← BitVec.toNat_udiv, BitVec.ofNat_toNat, BitVec.setWidth_eq]
  simp only [divU, beq_iff_eq, quotient]

theorem remS_eq (a b : Word) : remS a b = if b = 0 then a else BitVec.ofInt 64 (a.toInt.tmod b.toInt) := by
  have remainder : a.srem b = BitVec.ofInt 64 (a.toInt.tmod b.toInt) := by rw [← BitVec.toInt_srem, BitVec.ofInt_toInt]
  simp only [remS, beq_iff_eq, remainder]

theorem remU_eq (a b : Word) : remU a b = if b = 0 then a else BitVec.ofNat 64 (a.toNat % b.toNat) := by
  have remainder : a % b = BitVec.ofNat 64 (a.toNat % b.toNat) := by rw [← BitVec.toNat_umod, BitVec.ofNat_toNat, BitVec.setWidth_eq]
  simp only [remU, beq_iff_eq, remainder]

/-- The quotient 2^63 is no signed word: it wraps to the dividend. -/
theorem divS_overflow : divS 0x8000000000000000 0xFFFFFFFFFFFFFFFF = 0x8000000000000000 := by decide

theorem remS_overflow : remS 0x8000000000000000 0xFFFFFFFFFFFFFFFF = 0 := by decide

/-- Settles O15: the four forms complete with `divS`, `divU`, `remS` and `remU` of their sources, whose values the equations above give. -/
theorem divisionCompletes : Obligations.DivisionCompletes := by
  unfold Obligations.DivisionCompletes
  intro s x g d a b h
  have div : exec (.div g d a b) s = .next (s.retired x (x.setG d (divS (x.g a) (x.g b)))) :=
    (exec_div ..).trans (binary_ready h)
  have divz : exec (.divz g d a b) s = .next (s.retired x (x.setG d (divU (x.g a) (x.g b)))) :=
    (exec_divz ..).trans (binary_ready h)
  have rem : exec (.rem g d a b) s = .next (s.retired x (x.setG d (remS (x.g a) (x.g b)))) :=
    (exec_rem ..).trans (binary_ready h)
  have remz : exec (.remz g d a b) s = .next (s.retired x (x.setG d (remU (x.g a) (x.g b)))) :=
    (exec_remz ..).trans (binary_ready h)
  refine ⟨?_, ?_, ?_, ?_, fun ha hb => ⟨?_, ?_⟩⟩
  · rw [div, divS_eq]
  · rw [divz, divU_eq]
  · rw [rem, remS_eq]
  · rw [remz, remU_eq]
  · rw [div, ha, hb, divS_overflow]
  · rw [rem, ha, hb, remS_overflow]

/-! The value of MOVHI (R77). That of MOVI needs no equation: `BitVec.signExtend` is by definition the word of the signed number. -/

/-- A word from its halves. -/
theorem append_low_eq_ofNat (hi : BitVec 32) (w : Word) :
    hi ++ w.extractLsb' 0 32 = BitVec.ofNat 64 (hi.toNat * 2 ^ 32 + w.toNat % 2 ^ 32) := by
  have low : (w.extractLsb' 0 32).toNat = w.toNat % 2 ^ 32 := by simp
  have halves : (hi ++ w.extractLsb' 0 32).toNat = hi.toNat * 2 ^ 32 + w.toNat % 2 ^ 32 := by
    rw [BitVec.toNat_append, ← Nat.shiftLeft_add_eq_or_of_lt (BitVec.isLt _), Nat.shiftLeft_eq, low]
  rw [← halves, BitVec.ofNat_toNat, BitVec.setWidth_eq]

/-! A write of a predicate (R26, R49). -/

theorem Ctx.setP_frame (x : Ctx) (d : Pred) (v : Bool) : x.setP d v = { x with preds := (x.setP d v).preds } := by
  unfold Ctx.setP; split <;> rfl

/-! When each condition holds (R78): an equation for each code. -/

section
variable (a b : Word)

theorem condHolds_eq : condHolds .eq a b = decide (a = b) := rfl
theorem condHolds_ne : condHolds .ne a b = decide (a ≠ b) := by simp [condHolds, bne, Bool.beq_eq_decide_eq]
theorem condHolds_lt : condHolds .lt a b = decide (a.toInt < b.toInt) := rfl
theorem condHolds_ge : condHolds .ge a b = decide (a.toInt ≥ b.toInt) := by
  simp [condHolds, BitVec.slt_eq_decide, ← decide_not]
theorem condHolds_le : condHolds .le a b = decide (a.toInt ≤ b.toInt) := rfl
theorem condHolds_gt : condHolds .gt a b = decide (a.toInt > b.toInt) := by
  simp [condHolds, BitVec.sle_eq_decide, ← decide_not]
theorem condHolds_ltz : condHolds .ltz a b = decide (a.toNat < b.toNat) := rfl
theorem condHolds_gez : condHolds .gez a b = decide (a.toNat ≥ b.toNat) := by
  simp [condHolds, BitVec.ult_eq_decide, ← decide_not]
theorem condHolds_lez : condHolds .lez a b = decide (a.toNat ≤ b.toNat) := rfl
theorem condHolds_gtz : condHolds .gtz a b = decide (a.toNat > b.toNat) := by
  simp [condHolds, BitVec.ule_eq_decide, ← decide_not]

theorem and_eq_zero_iff_getLsbD : a &&& b = 0 ↔ ∀ i < 64, (a.getLsbD i && b.getLsbD i) = false := by
  simp only [← BitVec.getLsbD_and]
  refine ⟨fun h i _ => ?_, fun h => BitVec.eq_of_getLsbD_eq fun i hi => ?_⟩
  · rw [h]; exact BitVec.getLsbD_zero
  · rw [h i hi]; exact BitVec.getLsbD_zero.symm

theorem condHolds_ntst : condHolds .ntst a b = !(List.range 64).any fun i => a.getLsbD i && b.getLsbD i := by
  rw [Bool.eq_iff_iff]
  simp only [condHolds, beq_iff_eq, and_eq_zero_iff_getLsbD]
  simp

theorem condHolds_tst : condHolds .tst a b = (List.range 64).any fun i => a.getLsbD i && b.getLsbD i := by
  have opposite : condHolds .tst a b = !condHolds .ntst a b := rfl
  rw [opposite, condHolds_ntst, Bool.not_not]

end

/-- Settles O17: SEL, MOVI and MOVHI write a general register, the others a predicate; a comparison writes what `condHolds` answers, whose
value has an equation for each of the twelve codes. -/
theorem comparesAndSelectsComplete : Obligations.ComparesAndSelectsComplete := by
  unfold Obligations.ComparesAndSelectsComplete
  refine ⟨⟨?predicates, ?registers⟩, ?compare⟩
  case predicates => exact fun x r d v => ⟨x.p_zero, x.setP_zero v, x.p_setP r d v, x.setP_frame d v⟩
  case registers =>
    intro s x g d a b pd pa pb na nb imm h
    have movhi : exec (.movhi g d imm) s = .next (s.retired x (x.setG d (imm ++ (x.g d).extractLsb' 0 32))) :=
      (exec_movhi ..).trans (writes_ready h)
    rw [append_low_eq_ofNat] at movhi
    exact ⟨(exec_sel ..).trans (writes_ready h), (exec_movi ..).trans (writes_ready h), movhi, (exec_pand ..).trans (simple_ready h),
      (exec_por ..).trans (simple_ready h), (exec_pnot ..).trans (simple_ready h)⟩
  case compare =>
    intro s x g pd a b cond h
    have cmp : exec (.cmp g pd a b cond) s = .next (s.retired x (x.setP pd (condHolds cond (x.g a) (x.g b)))) :=
      (exec_cmp ..).trans (simple_ready h)
    rw [cmp]
    cases cond with
    | eq => rw [condHolds_eq]
    | ne => rw [condHolds_ne]
    | lt => rw [condHolds_lt]
    | ge => rw [condHolds_ge]
    | le => rw [condHolds_le]
    | gt => rw [condHolds_gt]
    | ltz => rw [condHolds_ltz]
    | gez => rw [condHolds_gez]
    | lez => rw [condHolds_lez]
    | gtz => rw [condHolds_gtz]
    | tst => rw [condHolds_tst]
    | ntst => rw [condHolds_ntst]

end Sys2Proof.Machine
end

section
/-! PROOFS. Number formats (R106, R107, R111, R114, R115). The one idea: an encoding is its sign, its exponent field and its mantissa field,
and by these fields it stands for one of four things (`Fmt.Encodes`). A finite one stands for its mantissa times the very power of two that a
rounding of that value takes as its unit, so the rounding drops nothing. -/

namespace Sys2Proof

/-! Minimum and maximum (R114). -/

theorem FVal.min_of_isNan {a b : FVal} (h : a.isNan = true ∨ b.isNan = true) : a.min b = .nan := by
  simp [FVal.min, h]

theorem FVal.max_of_isNan {a b : FVal} (h : a.isNan = true ∨ b.isNan = true) : a.max b = .nan := by
  simp [FVal.max, h]

/-- Zeros of either sign and any exponent compare equal; `min` and `max` tell them apart by their sign. -/
theorem FVal.cmp_zero_zero (s t : Bool) (d e : Int) : FVal.cmp (.fin s 0 d) (.fin t 0 e) = 0 := by
  cases s <;> cases t <;> simp [FVal.cmp, signedInt]

theorem FVal.min_zero_zero (s t : Bool) (d e : Int) :
    FVal.min (.fin s 0 d) (.fin t 0 e) = if t then .fin t 0 e else .fin s 0 d := by
  cases t <;> simp [FVal.min, FVal.isNan, FVal.cmp_zero_zero, FVal.isNegZero]

theorem FVal.max_zero_zero (s t : Bool) (d e : Int) :
    FVal.max (.fin s 0 d) (.fin t 0 e) = if s then .fin t 0 e else .fin s 0 d := by
  cases s <;> simp [FVal.max, FVal.isNan, FVal.cmp_zero_zero, FVal.isNegZero]

/-! NaN results (R111). -/

theorem Fmt.round_nan (f : Fmt) (rnd : Rnd) (draw : Nat) (sat : Bool) : f.round rnd draw sat .nan = f.nan := rfl

theorem f32_nan : f32 .nan = 0x7FC00000 := by decide

/-! A rounding to a multiple of a power of two (R115). -/

/-- Whether a rounding goes from the lower neighbour `lo` to the one above, where the part dropped is `part` of 2^k and not 0. -/
def roundsUp (rnd : Rnd) (draw : Nat) (neg : Bool) (lo part k : Nat) : Bool :=
  match rnd with
  | .rne => decide (2 ^ k < 2 * part) || (2 * part == 2 ^ k && lo % 2 == 1)
  | .rtz => false
  | .rdn => neg
  | .rup => !neg
  | .rsr => decide (draw < part * 65536 / 2 ^ k)

/-- To nearest even stays below where the lower neighbour is nearer, or as near and even. -/
theorem roundsUp_rne (draw : Nat) (neg : Bool) (lo part k : Nat) :
    roundsUp .rne draw neg lo part k = true ↔ ¬ (2 * part < 2 ^ k ∨ 2 * part = 2 ^ k ∧ lo % 2 = 0) := by
  simp only [roundsUp, Bool.or_eq_true, Bool.and_eq_true, decide_eq_true_eq, beq_iff_eq]
  omega

section
variable (rnd : Rnd) (draw : Nat) (neg : Bool) (m k : Nat) (e : Int)

theorem roundAt_self : roundAt rnd draw neg m e e = m := by simp [roundAt]

theorem roundAt_eq : roundAt rnd draw neg m e (e + k) =
    if m % 2 ^ k = 0 then m / 2 ^ k
    else if roundsUp rnd draw neg (m / 2 ^ k) (m % 2 ^ k) k then m / 2 ^ k + 1 else m / 2 ^ k := by
  obtain rfl | hk := Nat.eq_zero_or_pos k
  · simp [roundAt_self, Nat.mod_one]
  · have below : ¬ e ≥ e + k := by omega
    have width : (e + k - e).toNat = k := by omega
    simp only [roundAt, below, width, if_false, beq_iff_eq]
    cases rnd <;> rfl

end

/-! The fields of an encoding (R106). -/

/-- The widths that the special encodings of each kind are laid out for: `Fmt.decode` and `Fmt.maxBits` name those of .e4m3 and .e2m1 as
numbers. A mantissa is short enough for `bitLen` to count its bits. -/
def Fmt.Laid (f : Fmt) : Prop :=
  f.mb < 4095 ∧ (f.kind = .e4m3 → f.eb = 4 ∧ f.mb = 3) ∧ (f.kind = .e2m1 → f.eb = 2 ∧ f.mb = 1)

theorem Fmt.laid_of_mem : ∀ f ∈ [Fmt.f64, Fmt.f32, Fmt.bf16, Fmt.f16, Fmt.e4m3, Fmt.e5m2, Fmt.e2m1], f.Laid := by
  unfold Fmt.Laid; decide

/-- An encoding is put together from its sign, its exponent field and its mantissa field. -/
theorem Fmt.eq_sign_add_fields (f : Fmt) {x : Nat} (hx : x < 2 ^ (1 + f.eb + f.mb)) :
    x = f.sign (x / 2 ^ (f.mb + f.eb) % 2 == 1) + (x / 2 ^ f.mb % 2 ^ f.eb * 2 ^ f.mb + x % 2 ^ f.mb) := by
  have low : x % 2 ^ (f.mb + f.eb) = x / 2 ^ f.mb % 2 ^ f.eb * 2 ^ f.mb + x % 2 ^ f.mb := by
    rw [Nat.pow_add, Nat.mod_mul, Nat.mul_comm, Nat.add_comm]
  have split : x = 2 ^ (f.mb + f.eb) * (x / 2 ^ (f.mb + f.eb)) + x % 2 ^ (f.mb + f.eb) := (Nat.div_add_mod ..).symm
  have signBit : x / 2 ^ (f.mb + f.eb) < 2 := by
    rw [Nat.div_lt_iff_lt_mul (by positivity)]
    calc x < 2 ^ (1 + f.eb + f.mb) := hx
      _ = 2 * 2 ^ (f.mb + f.eb) := by ring
  rw [← low]
  obtain h | h := Nat.le_one_iff_eq_zero_or_eq_one.mp (Nat.le_of_lt_succ signBit) <;>
  · rw [h] at split ⊢; simpa [Fmt.sign] using split

/-! What an encoding stands for (R106, R107). -/

/-- The encoding x of the format f stands for the value v: a NaN, an infinity, a subnormal or zero, or a normal with exponent field E. -/
inductive Fmt.Encodes (f : Fmt) : (x : Nat) → (v : FVal) → Prop where
  | nan (x : Nat) : f.Encodes x .nan
  | inf (neg : Bool) : f.Encodes (f.infBits neg) (.inf neg)
  | subnormal (neg : Bool) (m : Nat) (hm : m < 2 ^ f.mb) (hmax : m ≤ f.maxBits) :
    f.Encodes (f.sign neg + m) (.fin neg m (1 - f.bias - f.mb))
  | normal (neg : Bool) (E m : Nat) (hE : 1 ≤ E) (hm : m < 2 ^ f.mb) (hmax : E * 2 ^ f.mb + m ≤ f.maxBits) :
    f.Encodes (f.sign neg + (E * 2 ^ f.mb + m)) (.fin neg (m + 2 ^ f.mb) (E - f.bias - f.mb))

/-- Fields that are not set aside for a NaN or an infinity are at most those of the largest finite value. -/
theorem Fmt.fields_le_maxBits {f : Fmt} (hf : f.Laid) {E m : Nat} (hE : E < 2 ^ f.eb) (hm : m < 2 ^ f.mb)
    (ieee : f.kind = .ieee → E ≠ 2 ^ f.eb - 1) (e4m3 : f.kind = .e4m3 → E = 2 ^ f.eb - 1 → m ≠ 7) : E * 2 ^ f.mb + m ≤ f.maxBits := by
  obtain ⟨-, widthE4m3, widthE2m1⟩ := hf
  cases h : f.kind with
  | ieee =>
    have next : (E + 1) * 2 ^ f.mb ≤ (2 ^ f.eb - 1) * 2 ^ f.mb := Nat.mul_le_mul_right _ (by have := ieee h; omega)
    rw [Nat.succ_mul] at next
    simp only [Fmt.maxBits, h]
    omega
  | e4m3 =>
    have notNan := e4m3 h
    obtain ⟨heb, hmb⟩ := widthE4m3 h
    rw [heb] at hE notNan; rw [hmb] at hm
    simp only [Fmt.maxBits, h, hmb]
    omega
  | e2m1 =>
    obtain ⟨heb, hmb⟩ := widthE2m1 h
    rw [heb] at hE; rw [hmb] at hm
    simp only [Fmt.maxBits, h, hmb]
    omega

theorem Fmt.encodes_decode {f : Fmt} (hf : f.Laid) {x : Nat} (hx : x < 2 ^ (1 + f.eb + f.mb)) : f.Encodes x (f.decode x) := by
  have fields := f.eq_sign_add_fields hx
  have hm : x % 2 ^ f.mb < 2 ^ f.mb := Nat.mod_lt _ (by positivity)
  have hE : x / 2 ^ f.mb % 2 ^ f.eb < 2 ^ f.eb := Nat.mod_lt _ (by positivity)
  simp only [Fmt.decode]
  generalize x % 2 ^ f.mb = m at *
  generalize x / 2 ^ f.mb % 2 ^ f.eb = E at *
  generalize (x / 2 ^ (f.mb + f.eb) % 2 == 1) = neg at *
  subst fields
  split
  next top =>
    obtain ⟨ieee, hE⟩ : f.kind = .ieee ∧ E = 2 ^ f.eb - 1 := by simpa using top
    split
    next zero =>
      obtain rfl : m = 0 := by simpa using zero
      have bits : f.infBits neg = f.sign neg + (E * 2 ^ f.mb + 0) := by simp [Fmt.infBits, ieee, hE]
      rw [← bits]
      exact .inf neg
    next => exact .nan _
  next notIeeeTop =>
    split
    next => exact .nan _
    next notE4m3Nan =>
      have hmax : E * 2 ^ f.mb + m ≤ f.maxBits :=
        Fmt.fields_le_maxBits hf hE hm (by simpa using notIeeeTop) (by simpa using notE4m3Nan)
      split
      next zero =>
        obtain rfl : E = 0 := by simpa using zero
        rw [Nat.zero_mul, Nat.zero_add] at hmax ⊢
        exact .subnormal neg m hm hmax
      next nonzero => exact .normal neg E m (Nat.one_le_iff_ne_zero.mpr (by simpa using nonzero)) hm hmax

/-! The bits of a mantissa. -/

theorem bitLenAux_le_iff {fuel n w : Nat} (hw : w ≤ fuel) (h : n < 2 ^ w) (k : Nat) : bitLenAux fuel n ≤ k ↔ n < 2 ^ k := by
  replace h : n < 2 ^ fuel := h.trans_le (Nat.pow_le_pow_right two_pos hw)
  clear hw
  induction fuel generalizing n k with
  | zero =>
    obtain rfl : n = 0 := by simpa using h
    simp [bitLenAux]
  | succ fuel ih =>
    by_cases h0 : n = 0
    · simp [bitLenAux, h0]
    · cases k with
      | zero => simp [bitLenAux, h0]
      | succ k =>
        rw [Nat.pow_succ] at h
        have half := ih (n := n / 2) k (by omega)
        simp only [bitLenAux, beq_iff_eq, h0, if_false, Nat.pow_succ]
        omega

theorem bitLen_le_iff {n w : Nat} (hw : w ≤ 4096) (h : n < 2 ^ w) (k : Nat) : bitLen n ≤ k ↔ n < 2 ^ k := bitLenAux_le_iff hw h k

/-- A normal mantissa, its hidden bit set, is one bit longer than the stored one. -/
theorem bitLen_add_two_pow {m k : Nat} (hk : k < 4095) (hm : m < 2 ^ k) : bitLen (m + 2 ^ k) = k + 1 := by
  have hlt : m + 2 ^ k < 2 ^ (k + 1) := by rw [Nat.pow_succ]; omega
  have upper := (bitLen_le_iff (by omega) hlt (k + 1)).mpr hlt
  have lower := (bitLen_le_iff (by omega) hlt k).not.mpr (by omega)
  omega

/-! Rounding an encoding's own value (R115). -/

section
variable {f : Fmt} (rnd : Rnd) (draw : Nat) (neg : Bool)

/-- A magnitude whose exponent is the unit that its rounding takes keeps all its bits. -/
theorem Fmt.round_of_unit {m : Nat} {e : Int} {code : Nat} (hm : m ≠ 0) (unit : max (e + bitLen m - 1) (1 - f.bias) - f.mb = e)
    (hlt : m < 2 ^ (f.mb + 1)) (hcode : (if m < 2 ^ f.mb then m else (e + f.mb + f.bias).toNat * 2 ^ f.mb + (m - 2 ^ f.mb)) = code)
    (hmax : code ≤ f.maxBits) : f.round rnd draw false (.fin neg m e) = f.sign neg + code := by
  have noCarry : ¬ 2 ^ (f.mb + 1) ≤ m := by omega
  have noOverflow : ¬ f.maxBits < code := by omega
  simp [Fmt.round, hm, unit, roundAt_self, noCarry, hcode, noOverflow]

theorem Fmt.round_subnormal (hf : f.Laid) {m : Nat} (hm : m < 2 ^ f.mb) (hmax : m ≤ f.maxBits) :
    f.round rnd draw false (.fin neg m (1 - f.bias - f.mb)) = f.sign neg + m := by
  obtain ⟨hmb, -⟩ := hf
  by_cases h0 : m = 0
  · simp [Fmt.round, h0]
  · have short : bitLen m ≤ f.mb := (bitLen_le_iff (by omega) hm f.mb).mpr hm
    exact Fmt.round_of_unit rnd draw neg h0 (by omega) (by rw [Nat.pow_succ]; omega) (if_pos hm) hmax

theorem Fmt.round_normal (hf : f.Laid) {E m : Nat} (hE : 1 ≤ E) (hm : m < 2 ^ f.mb) (hmax : E * 2 ^ f.mb + m ≤ f.maxBits) :
    f.round rnd draw false (.fin neg (m + 2 ^ f.mb) (E - f.bias - f.mb)) = f.sign neg + (E * 2 ^ f.mb + m) := by
  obtain ⟨hmb, -⟩ := hf
  have len : bitLen (m + 2 ^ f.mb) = f.mb + 1 := bitLen_add_two_pow hmb hm
  have field : ((E : Int) - f.bias - f.mb + f.mb + f.bias).toNat = E := by omega
  refine Fmt.round_of_unit rnd draw neg (by omega) (by rw [len]; omega) (by rw [Nat.pow_succ]; omega) ?_ hmax
  rw [if_neg (by omega), field, Nat.add_sub_cancel]

theorem Fmt.Encodes.round_eq (hf : f.Laid) {x : Nat} {v : FVal} (h : f.Encodes x v) (notNan : v.isNan = false) :
    f.round rnd draw false v = x := by
  cases h with
  | nan => cases notNan
  | inf neg => rfl
  | subnormal neg m hm hmax => exact Fmt.round_subnormal rnd draw neg hf hm hmax
  | normal neg E m hE hm hmax => exact Fmt.round_normal rnd draw neg hf hE hm hmax

end

/-- Settles O13: minimum and maximum by their values on NaNs and zeros, the neighbours by `roundAt_eq`, and the way back by the four things
that an encoding can stand for. -/
theorem numbersFollowTheirFormats : Obligations.NumbersFollowTheirFormats := by
  unfold Obligations.NumbersFollowTheirFormats
  refine ⟨?codes, ?minMaxNan, ?minMaxZero, ?f32Nan, ?canonical, ?neighbours, ?back⟩
  case codes =>
    intro x hx
    interval_cases x
    · exact ⟨0, -1, by decide⟩
    · exact ⟨1, -1, by decide⟩
    · exact ⟨2, -1, by decide⟩
    · exact ⟨3, -1, by decide⟩
    · exact ⟨2, 0, by decide⟩
    · exact ⟨3, 0, by decide⟩
    · exact ⟨2, 1, by decide⟩
    · exact ⟨3, 1, by decide⟩
  case minMaxNan => exact fun a b h => ⟨FVal.min_of_isNan h, FVal.max_of_isNan h⟩
  case minMaxZero => exact fun d e => by simp [FVal.min_zero_zero, FVal.max_zero_zero]
  case f32Nan => exact fun a b h => by simp [f32Min, f32Max, FVal.min_of_isNan h, FVal.max_of_isNan h, f32_nan]
  case canonical => exact fun rnd draw sat => by simp only [Fmt.round_nan]; decide
  case neighbours =>
    intro draw neg m k e
    by_cases noneDropped : m % 2 ^ k = 0
    · simp [roundAt_eq, noneDropped]
    · simp only [roundAt_eq, noneDropped, if_false, roundsUp_rne]
      refine ⟨rfl, rfl, ?_, ite_not .., ?_⟩
      · cases neg <;> rfl
      · simp [roundsUp]
  case back =>
    intro f hf rnd draw x hx notNan
    have laid := Fmt.laid_of_mem f hf
    exact (Fmt.encodes_decode laid hx).round_eq rnd draw laid notNan

end Sys2Proof
end

section
/-! The proofs below are checked one after another: the text as one file runs near the memory that its check allows, of which
every thread that waits for another takes a share. -/

set_option Elab.async false

section
/-! PROOFS. The round trip of the codec (R48 to R62), put together from the law of each constructor. -/

namespace Sys2Proof.Laws.RoundTrip

/-- A control word and a refused word have a law each; the other steps have no word. -/
theorem statement_holds (i : Instr) : Statement i := by
  cases i with
  | add => apply add | sub => apply sub | mul => apply mul | mulh => apply mulh | mulhz => apply mulhz | div => apply div
  | divz => apply divz | rem => apply rem | remz => apply remz | and => apply and | or => apply or | xor => apply xor
  | andn => apply andn | shlReg => apply shlReg | shlImm => apply shlImm | shrReg => apply shrReg | shrImm => apply shrImm
  | shaReg => apply shaReg | shaImm => apply shaImm | rotReg => apply rotReg | rotImm => apply rotImm | min => apply min
  | max => apply max | minz => apply minz | maxz => apply maxz | clz => apply clz | popc => apply popc | bfx => apply bfx
  | bfxS => apply bfxS | bfi => apply bfi | addsh => apply addsh | mad => apply mad | cmp => apply cmp | sel => apply sel
  | movi => apply movi | movhi => apply movhi | addi => apply addi | pand => apply pand | por => apply por | pnot => apply pnot
  | br => apply br | jal => apply jal | jr => apply jr | brcL1 => apply brcL1 | brcAll => apply brcAll | loop => apply loop
  | loopi => apply loopi | nop => apply nop | ld => apply ld | st => apply st | csrr => apply csrr | csrw => apply csrw
  | csrwSet => apply csrwSet | csrwClr => apply csrwClr | trap => apply trap | eret => apply eret | eretTask => apply eretTask
  | wfe => apply wfe | sevAll => apply sevAll | sevOne => apply sevOne | sevClus => apply sevClus | hintSpin => apply hintSpin
  | hintPf => apply hintPf | mma => apply mma | mmas => apply mmas | prune => apply prune | mzero => apply mzero | mld => apply mld
  | mst => apply mst | aadd => apply aadd | amul => apply amul | afma => apply afma | amax => apply amax | amin => apply amin
  | aexp2 => apply aexp2 | alog2 => apply alog2 | arcp => apply arcp | arsq => apply arsq | asig => apply asig
  | asigTanh => apply asigTanh | asigSilu => apply asigSilu | asigExpe => apply asigExpe | aredSum => apply aredSum
  | aredMax => apply aredMax | aredMin => apply aredMin | abcast => apply abcast | abcastRow => apply abcastRow
  | abcastColv => apply abcastColv | amov => apply amov | acvt => apply acvt | acvtB32 => apply acvtB32 | rngld => apply rngld
  | rngst => apply rngst | rand => apply rand | abind => apply abind | attn => apply attn | tmerge => apply tmerge | kvmap => apply kvmap
  | kvapp => apply kvapp | kvfork => apply kvfork | kvforkCow => apply kvforkCow | kvtrunc => apply kvtrunc | kvrel => apply kvrel
  | kvret => apply kvret | kvcompact => apply kvcompact | kvqLen => apply kvqLen | kvqMap => apply kvqMap | kvqFrame => apply kvqFrame
  | kvqState => apply kvqState | pxlkp => apply pxlkp | pxlkpDrop => apply pxlkpDrop | pxins => apply pxins | cfg => apply cfg
  | cfgStg => apply cfgStg | cfgsw => apply cfgsw | strm => apply strm | sbar => apply sbar | sbarOrd => apply sbarOrd
  | btok => apply btok | argw => apply argw | tinj => apply tinj | tpop => apply tpop | fstat => apply fstat | fstatAll => apply fstatAll
  | slotf => apply slotf | cpyG2s => apply cpyG2s | cpyS2g => apply cpyS2g | cpyG2g => apply cpyG2g | cpyS2s => apply cpyS2s
  | cpyRing => apply cpyRing | tbinit => apply tbinit | tbexp => apply tbexp | tbarr => apply tbarr | tbwait => apply tbwait
  | tbtest => apply tbtest | amo => apply amo | red => apply red | amof => apply amof | cas => apply cas | ldfe => apply ldfe
  | stfe => apply stfe | pref => apply pref | fence => apply fence | chainCpy => apply chainCpy | chainColl => apply chainColl
  | seqw => apply seqw | collSum => apply collSum | collMax => apply collMax | collMin => apply collMin | collBcast => apply collBcast
  | collAgath => apply collAgath | collRscat => apply collRscat | spl => apply spl | fil => apply fil | bslice => apply bslice
  | bjoin => apply bjoin | lctx => apply lctx | lsel => apply lsel | lrun => apply lrun | lstatPop => apply lstatPop
  | lstatWord => apply lstatWord | lstatSlot => apply lstatSlot | lstatRuns => apply lstatRuns | tenq => apply tenq
  | launch => apply launch | launchArg => apply launchArg | gsig => apply gsig | tend => apply tend | tyield => apply tyield
  | rinvTag => apply rinvTag | rinvRange => apply rinvRange | rinvAll => apply rinvAll | rinvAsid => apply rinvAsid
  | rstatLkp => apply rstatLkp | rstatHit => apply rstatHit | rstatMiss => apply rstatMiss | rstatIns => apply rstatIns
  | rstatProbe => apply rstatProbe | rstatHeld => apply rstatHeld | rstatQuota => apply rstatQuota
  | illegalWord => apply illegalWord
  | _ => exact fun _ noWord => (noWord rfl).elim

/-- Settles O3, by the law of each constructor. -/
theorem encodingRoundTrips : Obligations.EncodingRoundTrips := by
  unfold Obligations.EncodingRoundTrips
  exact statement_holds

end Sys2Proof.Laws.RoundTrip
end

section
/-! PROOFS. Every step answers a next state (R28, R42, R62). The one idea: the operations that hand a body to be run answer a next state
whatever the body answers, so no meaning of an instruction has another outcome. -/

namespace Sys2Proof.Machine

/-- The outcome is a next state. -/
def Goes (o : Out) : Prop := ∃ t, o = .next t

@[simp] theorem goes_next (t : State) : Goes (.next t) := ⟨t, rfl⟩

/-! The operations that run a body. -/

theorem control_goes i g priv s body : Goes (control i g priv s body) := by
  unfold control; repeat' split
  all_goals exact goes_next _

theorem siteStep_goes s n body : Goes (siteStep s n body) := by
  unfold siteStep; repeat' split
  all_goals exact goes_next _

theorem fire_goes op c e s : Goes (fire op c e s) := siteStep_goes ..
theorem opStep_goes kind mode c o s act : Goes (opStep kind mode c o s act) := siteStep_goes ..

theorem effect_goes s body : Goes (effect s body) := by
  unfold effect; repeat' split
  all_goals exact goes_next _

theorem drainStep_goes c s body : Goes (drainStep c s body) := by
  unfold drainStep; repeat' split
  all_goals exact goes_next _

theorem State.mailbox_goes s tag c : Goes (State.mailbox s tag c) := by
  unfold State.mailbox; repeat' split
  all_goals exact goes_next _

theorem State.receive_goes s n f body : Goes (State.receive s n f body) := by
  unfold State.receive; dsimp only; repeat' split
  all_goals exact goes_next _

theorem State.forDevice_goes s pa n {go} (h : Goes go) : Goes (State.forDevice s pa n go) := by
  unfold State.forDevice; repeat' split
  · exact goes_next _
  · exact goes_next _
  · exact h

/-! Every instruction, and every step. -/

theorem exec_goes_of_guard {i : Instr} {g : Guard} (h : i.guard = some g) (s : State) : Goes (exec i s) := by
  obtain ⟨body, hb⟩ := exec_isControl h s
  rw [hb]
  exact control_goes ..

/-- The steps of other agents: those that share an operation which runs a body, and those that look at the state themselves. -/
theorem exec_goes_of_no_guard {i : Instr} (h : i.guard = none) (s : State) : Goes (exec i s) := by
  cases i with
  | mov | iadd | isub | imul | imad | iand | ior | ixor | ishl | ishr | isra | imin | imax | icmp | elemSel | cmpc | deq | emit | fadd
  | fsub | fmul | ffma | fmin | fmax | fcmp | fexp2 | frcp | fcvtF32Bf16 | fcvtF32F16 | fcvtF32E4m3 | fcvtF32E5m2 | fcvtF32E2m1
  | fcvtF32S32 | fcvtF32Z32 | fcvtBf16F32 | fcvtF16F32 | fcvtE4m3F32 | fcvtE5m2F32 | fcvtE2m1F32 | fcvtS32F32 | fcvtZ32F32 | vaddBf16
  | vmulBf16 | vfmaBf16 | vaddF16 | vmulF16 | vfmaF16 | vaddS16 | vmulS16 | vaddS8 | vmulS8 => exact fire_goes ..
  | repeatBlock | mergeIsect | mergeUnion | mergeChk | radix | gate | select | stat | xlat | cbdec | delta | fconv | rle | transp => exact opStep_goes ..
  | speculativeFetch | portDoneToken | portRetry | relatchToken | inputPacketExpand | cfgkConsume | portReadAccess | portGatherAccess
  | portCondition | portBarArrival | portWriteAccess | portReductionAccess =>
    simp only [exec, execSpeculativeFetch, execPortDoneToken, execPortRetry, execRelatchToken, execInputPacketExpand, execCfgkConsume,
      execPortReadAccess, execPortGatherAccess, execPortCondition, execPortBarArrival, execPortWriteAccess, execPortReductionAccess,
      portStep, writeToken]
    exact siteStep_goes ..
  | markerPass | writePortDrain =>
    simp only [exec, execMarkerPass, execWritePortDrain]
    exact drainStep_goes ..
  | prtInv | popMigrate | popDuplicate | popCollapse | tcmdResume | tcmdEnd | hotvalRead | frrEnable | frrDisable | schQuotaWrite
  | prtDusk | prtRsz | prtMove | ticketExport | ticketImport | prtFqheadWrite =>
    simp only [exec, execPrtInv, execPopMigrate, execPopDuplicate, execPopCollapse, execTcmdResume, execTcmdEnd, execHotvalRead,
      execFrrEnable, execFrrDisable, execSchQuotaWrite, execPrtDusk, execPrtRsz, execPrtMove, execTicketExport, execTicketImport,
      execPrtFqheadWrite]
    exact effect_goes ..
  | partCreate | partDestroy | setTables | asidSync | frrOwner | groupReg | aperture | ticketKey | clusterMove | reset
  | mailboxUnknown =>
    simp only [exec, execPartCreate, execPartDestroy, execSetTables, execAsidSync, execFrrOwner, execGroupReg, execAperture,
      execTicketKey, execClusterMove, execReset, execMailboxUnknown]
    exact State.mailbox_goes ..
  | druatLoad | druatLoadResponse | druatAcknowledge | druatCollectiveStream | druatIdle =>
    simp only [exec, execDruatLoad, execDruatLoadResponse, execDruatAcknowledge, execDruatCollectiveStream, execDruatIdle]
    exact State.receive_goes ..
  | druatStore | druatMigrationStream | druatReduction =>
    simp only [exec, execDruatStore, execDruatMigrationStream, execDruatReduction]
    exact State.forDevice_goes _ _ _ (State.receive_goes ..)
  | powerLoss | trayPowerLimit => exact goes_next _
  | sevDelivery | compactionDone | slabRelocationStep | copySectorWrite | copySectorRetry | ringSlotCopy | updateOnlyEvict
  | chainEntryComplete | tableLoadEntry | dispatch | reuseLookup | schedulerDusk | tyieldAgeExpiry | asyncTrap | invalidationComplete
  | pageOperationComplete | drainTimerExpiry | drainTimeout | duskStart | foreignMarkArrival | setSwap | taskResume
  | clusterRemovalComplete | doorbell | ringEntryNop | ringEntryGraph | ringEntryRecord | daybreak | hifErrClear | hostWriteSnoop
  | flitCrcFail | portRetrain | portFailed | powerOnStart | twilightStart | twilightRetry | powerStep | claimStreamDone
  | mailboxResultPosted | startComplete | retrainComplete | hostCxlResponse | illegalWord | instructionFetchFault | registerWrite
  | wfeTimeout | seqwTimeout | hostMemRequest | startTimeout =>
    simp only [exec, execSevDelivery, execCompactionDone, execSlabRelocationStep, execCopySectorWrite, execCopySectorRetry,
      execRingSlotCopy, execUpdateOnlyEvict, execChainEntryComplete, execTableLoadEntry, execDispatch, execReuseLookup,
      execSchedulerDusk, execTyieldAgeExpiry, execAsyncTrap, execInvalidationComplete, execPageOperationComplete, execDrainTimerExpiry,
      execDrainTimeout, execDuskStart, execForeignMarkArrival, execSetSwap, execTaskResume, execClusterRemovalComplete, execDoorbell,
      execRingEntryNop, execRingEntryGraph, execRingEntryRecord, execDaybreak, execHifErrClear, execHostWriteSnoop, execFlitCrcFail,
      execPortRetrain, execPortFailed, execPowerOnStart, execTwilightStart, execTwilightRetry, execPowerStep, execClaimStreamDone,
      execMailboxResultPosted, execStartComplete, execRetrainComplete, execHostCxlResponse, execIllegalWord, execInstructionFetchFault,
      execRegisterWrite, execWfeTimeout, execSeqwTimeout, execHostMemRequest, execStartTimeout]
    repeat' split
    all_goals exact goes_next _
  | _ => cases h

theorem exec_goes (i : Instr) (s : State) : Goes (exec i s) := by
  cases h : i.guard with
  | some g => exact exec_goes_of_guard h s
  | none => exact exec_goes_of_no_guard h s

theorem execAsyncTrap_goes (c : Nat) (s : State) : Goes (execAsyncTrap c s) := exec_goes (.asyncTrap c) s

theorem State.issue_goes (s : State) : Goes s.issue := by
  unfold State.issue
  repeat' split
  next => exact goes_next _
  next => exact goes_next _
  next => exact execAsyncTrap_goes ..
  next => exact exec_goes ..
  next => exact exec_goes ..
  next => exact goes_next _
  next => exact goes_next _

theorem State.move_goes (s : State) : Goes s.move := by
  unfold State.move
  split
  case h_1 => exact State.issue_goes _
  case h_2 => exact State.issue_goes _
  case h_3 => exact goes_next _
  case h_4 =>
    split
    · exact exec_goes ..
    · exact goes_next _

/-- Settles O4: no operation that a meaning is made of has another outcome than a next state. -/
theorem everyStepGoesOn : Obligations.EveryStepGoesOn := by
  unfold Obligations.EveryStepGoesOn
  exact ⟨exec_goes, fun s => State.move_goes s.pass⟩

end Sys2Proof.Machine
end

section
/-! PROOFS. Sums, products, logic, shifts, order, counts and bit fields (R73 to R77). Each is an instruction that writes one register, so its
completion is `writes_ready` or `binary_ready`; what is left is an equation for each value. -/

namespace Sys2Proof.Machine

/-! A write of a general register (R26). -/

theorem Ctx.setG_frame (x : Ctx) (d : Reg) (v : Word) : x.setG d v = { x with regs := (x.setG d v).regs } := by
  unfold Ctx.setG; split <;> rfl

/-! Sums and products (R73, R77). -/

section
variable (a b : Word)

theorem add_eq_ofNat : a + b = BitVec.ofNat 64 (a.toNat + b.toNat) := by rw [BitVec.ofNat_add, BitVec.ofNat_toNat, BitVec.ofNat_toNat]; simp
theorem mul_eq_ofNat : a * b = BitVec.ofNat 64 (a.toNat * b.toNat) := by rw [BitVec.ofNat_mul, BitVec.ofNat_toNat, BitVec.ofNat_toNat]; simp
theorem sub_eq_ofInt : a - b = BitVec.ofInt 64 (a.toInt - b.toInt) :=
  BitVec.eq_of_toInt_eq (by rw [BitVec.toInt_sub, BitVec.toInt_ofInt])

theorem add_signExtend_eq_ofInt (imm : BitVec 32) : a + imm.signExtend 64 = BitVec.ofInt 64 (a.toInt + imm.toInt) :=
  BitVec.eq_of_toInt_eq (by rw [BitVec.toInt_add, BitVec.toInt_ofInt, BitVec.toInt_signExtend_of_le (by decide)])

theorem shiftLeft_eq_ofNat (n : Nat) : a <<< n = BitVec.ofNat 64 (a.toNat * 2 ^ n) :=
  BitVec.eq_of_toNat_eq (by rw [BitVec.toNat_shiftLeft, BitVec.toNat_ofNat, Nat.shiftLeft_eq])

/-- The high half of a signed number of 128 bits. -/
theorem extract_high_eq_ofInt (p : BitVec 128) : p.extractLsb' 64 64 = BitVec.ofInt 64 (p.toInt / 2 ^ 64) := by
  refine BitVec.eq_of_toNat_eq ?_
  have hp := p.isLt
  rw [BitVec.extractLsb'_toNat, BitVec.toNat_ofInt, Nat.shiftRight_eq_div_pow, BitVec.toInt_eq_toNat_cond]
  split <;> omega

theorem abs_toInt_le : |a.toInt| ≤ 2 ^ 63 := abs_le.mpr ⟨BitVec.le_toInt a, (BitVec.toInt_lt (x := a)).le⟩

theorem mulHiS_eq : mulHiS a b = BitVec.ofInt 64 (a.toInt * b.toInt / 2 ^ 64) := by
  have product : (a.signExtend 128 * b.signExtend 128).toInt = a.toInt * b.toInt := by
    have bound : |a.toInt * b.toInt| ≤ 2 ^ 63 * 2 ^ 63 := by
      rw [abs_mul]
      exact mul_le_mul (abs_toInt_le a) (abs_toInt_le b) (abs_nonneg _) (by norm_num)
    rw [BitVec.toInt_mul, BitVec.toInt_signExtend_of_le (by decide), BitVec.toInt_signExtend_of_le (by decide)]
    obtain ⟨low, high⟩ := abs_le.mp bound
    exact Int.bmod_eq_of_le (by omega) (by omega)
  rw [mulHiS, extract_high_eq_ofInt, product]

theorem mulHiU_eq : mulHiU a b = BitVec.ofNat 64 (a.toNat * b.toNat / 2 ^ 64) := by
  have bound : a.toNat * b.toNat < 2 ^ 128 := by
    calc a.toNat * b.toNat < 2 ^ 64 * 2 ^ 64 := Nat.mul_lt_mul'' a.isLt b.isLt
      _ = 2 ^ 128 := by norm_num
  refine BitVec.eq_of_toNat_eq ?_
  have ha : a.toNat % 2 ^ 128 = a.toNat := Nat.mod_eq_of_lt (by have := a.isLt; omega)
  have hb : b.toNat % 2 ^ 128 = b.toNat := Nat.mod_eq_of_lt (by have := b.isLt; omega)
  rw [mulHiU, BitVec.extractLsb'_toNat, BitVec.toNat_mul, BitVec.toNat_setWidth, BitVec.toNat_setWidth, ha, hb,
    Nat.mod_eq_of_lt bound, Nat.shiftRight_eq_div_pow, BitVec.toNat_ofNat]

end

/-- Settles O14: one equation for each value, over the completion of an instruction that writes one register. -/
theorem sumsAndProductsComplete : Obligations.SumsAndProductsComplete := by
  unfold Obligations.SumsAndProductsComplete
  refine ⟨fun x r d v => ⟨x.g_zero, x.setG_zero v, x.g_setG r d v, x.setG_frame d v⟩, fun s x g d a b c n imm h => ?_⟩
  refine ⟨?_, ?_, ?_, ?_, ?_, ?_, ?_, ?_⟩
  · rw [← add_eq_ofNat]; exact (exec_add ..).trans (binary_ready h)
  · rw [← sub_eq_ofInt]; exact (exec_sub ..).trans (binary_ready h)
  · rw [← mul_eq_ofNat]; exact (exec_mul ..).trans (binary_ready h)
  · rw [← mulHiS_eq]; exact (exec_mulh ..).trans (binary_ready h)
  · rw [← mulHiU_eq]; exact (exec_mulhz ..).trans (binary_ready h)
  · have sum : BitVec.ofNat 64 ((x.g a).toNat * (x.g b).toNat + (x.g c).toNat) = x.g a * x.g b + x.g c := by
      rw [BitVec.ofNat_add, ← mul_eq_ofNat, BitVec.ofNat_toNat, BitVec.setWidth_eq]
    rw [sum]; exact (exec_mad ..).trans (writes_ready h)
  · have sum : BitVec.ofNat 64 ((x.g a).toNat + (x.g b).toNat * 2 ^ n.toNat) = x.g a + (x.g b <<< n.toNat) := by
      rw [BitVec.ofNat_add, ← shiftLeft_eq_ofNat, BitVec.ofNat_toNat, BitVec.setWidth_eq]
    rw [sum]; exact (exec_addsh ..).trans (writes_ready h)
  · rw [← add_signExtend_eq_ofInt]; exact (exec_addi ..).trans (writes_ready h)

/-! Shifts and rotations (R75). -/

section
variable (a b : Word)

theorem ushiftRight_eq_ofNat (n : Nat) : a >>> n = BitVec.ofNat 64 (a.toNat / 2 ^ n) := by
  rw [← Nat.shiftRight_eq_div_pow, ← BitVec.toNat_ushiftRight, BitVec.ofNat_toNat, BitVec.setWidth_eq]

theorem sshiftRight_eq_ofInt (n : Nat) : a.sshiftRight n = BitVec.ofInt 64 (a.toInt / 2 ^ n) := by
  rw [BitVec.sshiftRight, Int.shiftRight_eq_div_pow]; norm_cast

theorem rotR_eq {n : Nat} (h : n < 64) : rotR a n = a.rotateRight n := by
  rw [BitVec.rotateRight_eq_rotateRightAux_of_lt h, BitVec.rotateRightAux]
  by_cases h0 : n = 0
  · subst h0; simp [rotR]
  · simp [rotR, h0]

/-! Signed and unsigned order (R73). -/

theorem minS_eq : minS a b = BitVec.ofInt 64 (min a.toInt b.toInt) := by
  simp only [minS, BitVec.slt_eq_decide, decide_eq_true_eq]
  split
  next h => rw [min_eq_right h.le, BitVec.ofInt_toInt]
  next h => rw [min_eq_left (not_lt.mp h), BitVec.ofInt_toInt]

theorem maxS_eq : maxS a b = BitVec.ofInt 64 (max a.toInt b.toInt) := by
  simp only [maxS, BitVec.slt_eq_decide, decide_eq_true_eq]
  split
  next h => rw [max_eq_right h.le, BitVec.ofInt_toInt]
  next h => rw [max_eq_left (not_lt.mp h), BitVec.ofInt_toInt]

theorem minU_eq : minU a b = BitVec.ofNat 64 (min a.toNat b.toNat) := by
  simp only [minU, BitVec.ult_eq_decide, decide_eq_true_eq]
  split
  next h => rw [min_eq_right h.le, BitVec.ofNat_toNat, BitVec.setWidth_eq]
  next h => rw [min_eq_left (not_lt.mp h), BitVec.ofNat_toNat, BitVec.setWidth_eq]

theorem maxU_eq : maxU a b = BitVec.ofNat 64 (max a.toNat b.toNat) := by
  simp only [maxU, BitVec.ult_eq_decide, decide_eq_true_eq]
  split
  next h => rw [max_eq_right h.le, BitVec.ofNat_toNat, BitVec.setWidth_eq]
  next h => rw [max_eq_left (not_lt.mp h), BitVec.ofNat_toNat, BitVec.setWidth_eq]

/-! Counts (R73). -/

/-- The zeros above the highest one leave a number that fits below them, and no shorter one. -/
theorem clz64_spec : clz64 a ≤ 64 ∧ a.toNat < 2 ^ (64 - clz64 a) ∧ (clz64 a < 64 → 2 ^ (63 - clz64 a) ≤ a.toNat) := by
  have len (k : Nat) : bitLenAux 64 a.toNat ≤ k ↔ a.toNat < 2 ^ k := bitLenAux_le_iff le_rfl a.isLt k
  have short : bitLenAux 64 a.toNat ≤ 64 := (len 64).mpr a.isLt
  refine ⟨Nat.sub_le .., (len _).mp (by unfold clz64; omega), fun some => ?_⟩
  unfold clz64 at some ⊢
  exact not_lt.mp ((len _).not.mp (by omega))

theorem popAux_eq_countP (k n : Nat) : popAux k n = (List.range k).countP n.testBit := by
  induction k generalizing n with
  | zero => rfl
  | succ k ih =>
    have shifted : (n.testBit ∘ Nat.succ) = (n / 2).testBit := funext fun i => Nat.testBit_succ n i
    rw [popAux, ih, List.range_succ_eq_map, List.countP_cons, List.countP_map, shifted, Nat.testBit_zero, Nat.add_comm]
    have bit := Nat.mod_two_eq_zero_or_one n
    rcases bit with h | h <;> simp [h]

theorem pop64_eq : pop64 a = (List.range 64).countP fun i => a.getLsbD i := popAux_eq_countP 64 a.toNat

/-! Bit fields (R76). -/

theorem getLsbD_mask {w i : Nat} (hw : w ≤ 64) : (mask w).getLsbD i = decide (i < w) := by
  rw [mask, BitVec.getLsbD_ofNat, Nat.testBit_two_pow_sub_one]
  simp only [min_eq_left hw, Bool.and_eq_right_iff_imp, decide_eq_true_eq]
  omega

theorem bfxField_zero (c : Word) :
    bfxField false a b c = BitVec.ofNat 64 (a.toNat / 2 ^ (b.toNat % 64) % 2 ^ min (c.toNat % 128) 64) := by
  have hw : min (c.toNat % 128) 64 ≤ 64 := min_le_right ..
  simp only [bfxField, Bool.false_and, beq_iff_eq]
  generalize min (c.toNat % 128) 64 = w at *
  split
  next none => subst none; simp [Nat.mod_one]
  next =>
    have small : 2 ^ w - 1 < 2 ^ 64 := by
      have := Nat.pow_le_pow_right two_pos hw
      omega
    refine BitVec.eq_of_toNat_eq ?_
    simp only [Bool.false_eq_true, if_false]
    rw [BitVec.toNat_and, mask, min_eq_left hw, BitVec.toNat_ofNat, Nat.mod_eq_of_lt small, Nat.and_two_pow_sub_one_eq_mod,
      ushiftRight_eq_ofNat, BitVec.toNat_ofNat, BitVec.toNat_ofNat, Nat.mod_mod_of_dvd _ (pow_dvd_pow 2 hw)]
    exact (Nat.mod_eq_of_lt ((Nat.mod_lt _ (by positivity)).trans_le (Nat.pow_le_pow_right two_pos hw))).symm

theorem getLsbD_bfxField_sign (c : Word) {i : Nat} (hi : i < 64) :
    (bfxField true a b c).getLsbD i =
      if i < min (c.toNat % 128) 64 then a.getLsbD (b.toNat % 64 + i)
      else decide (0 < min (c.toNat % 128) 64) && a.getLsbD (b.toNat % 64 + min (c.toNat % 128) 64 - 1) := by
  have hw : min (c.toNat % 128) 64 ≤ 64 := min_le_right ..
  simp only [bfxField, Bool.true_and, beq_iff_eq]
  generalize min (c.toNat % 128) 64 = w at *
  have top (some : w ≠ 0) :
      ((a >>> (b.toNat % 64)) &&& mask w).getLsbD (w - 1) = a.getLsbD (b.toNat % 64 + w - 1) := by
    rw [BitVec.getLsbD_and, getLsbD_mask hw, BitVec.getLsbD_ushiftRight, Nat.add_sub_assoc (by omega)]
    simp; omega
  split
  next none => simp [none]
  next some =>
    have maskBit : (mask w)[i] = decide (i < w) := by rw [← BitVec.getLsbD_eq_getElem hi]; exact getLsbD_mask hw
    rw [top some]
    by_cases inside : i < w <;> by_cases sign : a.getLsbD (b.toNat % 64 + w - 1) <;>
      simp [inside, sign, hi, maskBit, Nat.pos_of_ne_zero some]

theorem getLsbD_bfiField (d c : Word) {i : Nat} (hi : i < 64) :
    (bfiField d a b c).getLsbD i =
      if b.toNat % 64 ≤ i ∧ i < b.toNat % 64 + min (c.toNat % 128) 64 then a.getLsbD (i - b.toNat % 64) else d.getLsbD i := by
  have hw : min (c.toNat % 128) 64 ≤ 64 := min_le_right ..
  simp only [bfiField]
  generalize min (c.toNat % 128) 64 = w at *
  generalize b.toNat % 64 = p at *
  rw [BitVec.getLsbD_or, BitVec.getLsbD_and, BitVec.getLsbD_and, BitVec.getLsbD_not, BitVec.getLsbD_shiftLeft, BitVec.getLsbD_shiftLeft,
    getLsbD_mask hw]
  by_cases below : i < p
  · simp [hi, below, not_le.mpr below]
  · have field : i - p < w ↔ i < p + w := by omega
    by_cases inside : i < p + w <;> simp [hi, below, not_lt.mp below, field, inside]

end

/-- Settles O16: one equation for each value, a statement of its bits where it is put together from bits, over the completion of an
instruction that writes one register. -/
theorem oneWordResultsComplete : Obligations.OneWordResultsComplete := by
  unfold Obligations.OneWordResultsComplete
  refine ⟨fun s x g d a b n h => ?logic, fun s x g d a b h => ?order, fun s x g d a b c h => ?fields⟩
  case logic =>
    have below : (x.g b).toNat % 64 < 64 := Nat.mod_lt _ (by decide)
    refine ⟨⟨_, (exec_and ..).trans (binary_ready h), fun i => BitVec.getLsbD_and⟩,
      ⟨_, (exec_or ..).trans (binary_ready h), fun i => BitVec.getLsbD_or⟩,
      ⟨_, (exec_xor ..).trans (binary_ready h), fun i => BitVec.getLsbD_xor⟩,
      ⟨_, (exec_andn ..).trans (binary_ready h), fun i => ?_⟩, ?_, ?_, ?_, ?_, ?_, ?_, ?_, ?_⟩
    · rw [BitVec.getLsbD_and, BitVec.getLsbD_not]
      by_cases hi : i < 64
      · simp [hi]
      · simp [BitVec.getLsbD_of_ge _ i (not_lt.mp hi)]
    · rw [← shiftLeft_eq_ofNat]; exact (exec_shlReg ..).trans (binary_ready h)
    · rw [← ushiftRight_eq_ofNat]; exact (exec_shrReg ..).trans (binary_ready h)
    · rw [← sshiftRight_eq_ofInt]; exact (exec_shaReg ..).trans (binary_ready h)
    · rw [← rotR_eq _ below]; exact (exec_rotReg ..).trans (binary_ready h)
    · rw [← shiftLeft_eq_ofNat]; exact (exec_shlImm ..).trans (writes_ready h)
    · rw [← ushiftRight_eq_ofNat]; exact (exec_shrImm ..).trans (writes_ready h)
    · rw [← sshiftRight_eq_ofInt]; exact (exec_shaImm ..).trans (writes_ready h)
    · rw [← rotR_eq _ n.isLt]; exact (exec_rotImm ..).trans (writes_ready h)
  case order =>
    refine ⟨?_, ?_, ?_, ?_, ?_, ?_⟩
    · rw [← minS_eq]; exact (exec_min ..).trans (binary_ready h)
    · rw [← maxS_eq]; exact (exec_max ..).trans (binary_ready h)
    · rw [← minU_eq]; exact (exec_minz ..).trans (binary_ready h)
    · rw [← maxU_eq]; exact (exec_maxz ..).trans (binary_ready h)
    · obtain ⟨atMost, fits, tight⟩ := clz64_spec (x.g a)
      exact ⟨_, atMost, (exec_clz ..).trans (writes_ready h), fits, tight⟩
    · rw [← pop64_eq]; exact (exec_popc ..).trans (writes_ready h)
  case fields =>
    refine ⟨?_, ⟨_, (exec_bfxS ..).trans (writes_ready h), fun i hi => getLsbD_bfxField_sign _ _ _ hi⟩,
      ⟨_, (exec_bfi ..).trans (writes_ready h), fun i hi => getLsbD_bfiField _ _ _ _ hi⟩⟩
    rw [← bfxField_zero]; exact (exec_bfx ..).trans (writes_ready h)

end Sys2Proof.Machine
end

section
/-! PROOFS. Transfers of control, the loop instructions and the loop step (R81 to R88). -/

namespace Sys2Proof.Machine

/-! Instructions that leave the machine as it is, but for the PC. -/

section
variable {i : Instr} {g : Guard} {priv : Bool} {s : State} {x : Ctx} {body : State → Ctx → Res (State × Flow)}

theorem control_retired_self (h : s.ready x g) (hp : priv = true → x.sup = true) (hb : body s x = .ok (s, .seq)) :
    control i g priv s body = .next (s.retired x x) := by
  rw [control_seq h hp hb]
  obtain ⟨hday, -, -⟩ := h
  have hday : (s.core s.cur).day = some x := hday
  simp [State.ended, State.finish, State.retired, hday, State.setCtx, State.consume_setDay]

theorem control_jumped_self {pc : Word} (h : s.ready x g) (hp : priv = true → x.sup = true) (hb : body s x = .ok (s, .jump pc)) :
    control i g priv s body = .next (s.jumped x x pc) := by
  rw [control_ready h hp, hb]
  obtain ⟨hday, -, -⟩ := h
  have hday : (s.core s.cur).day = some x := hday
  simp [State.finish, State.jumped, hday, State.setCtx, State.consume_setDay]

end

/-! The target of a transfer (R57, R81). -/

theorem Ctx.target_eq (x : Ctx) (off : BitVec 40) : x.target off = BitVec.ofInt 64 (x.pc.toInt + 8 * off.toInt) := by
  have far : off.signExtend 64 <<< 3 = BitVec.ofInt 64 (8 * off.toInt) := by
    rw [BitVec.shiftLeft_eq_mul_twoPow]
    refine BitVec.eq_of_toInt_eq ?_
    rw [BitVec.toInt_mul, BitVec.toInt_signExtend_of_le (by decide), BitVec.toInt_ofInt, Int.mul_comm]
    rfl
  rw [Ctx.target, far, BitVec.ofInt_add, BitVec.ofInt_toInt]

theorem extractLow_beq_zero (w : Word) : (w.extractLsb' 0 3 == 0) = decide (w.toNat % 8 = 0) := by
  rw [beq_eq_decide, decide_eq_decide, ← BitVec.toNat_inj]
  simp

/-! The loop instructions (R86). -/

/-- The level that a loop instruction sets: its body starts at the next word, and the count is its reload too. -/
def Ctx.level (x : Ctx) (len : BitVec 10) (n : BitVec 32) : LoopLevel := ⟨x.pc + 8, x.pc + BitVec.ofNat 64 (8 * (len.toNat + 1)), n, n⟩

def Ctx.setLevel (x : Ctx) (lvl1 : Bool) (l : LoopLevel) : Ctx := if lvl1 then { x with loop1 := l } else { x with loop0 := l }

/-- A count of zero is a taken transfer to the word after the body. -/
theorem control_startLoop {i : Instr} {g : Guard} {s : State} {x : Ctx} {lvl1 : Bool} {len : BitVec 10} {n : BitVec 32}
    {body : State → Ctx → Res (State × Flow)} (h : s.ready x g)
    (hb : body s x = .ok (s.setCtx (startLoop x lvl1 len n).1, (startLoop x lvl1 len n).2)) :
    control i g false s body = .next (if n = 0 then s.jumped x (x.setLevel lvl1 (x.level len n)) ((x.level len n).last + 8)
      else s.retired x (x.setLevel lvl1 (x.level len n))) := by
  by_cases none : n = 0
  · rw [if_pos none]
    exact control_jumped h (by simp) (by rw [hb, none]; rfl)
  · rw [if_neg none]
    exact control_retired h (by simp) (by rw [hb]; simp only [startLoop, beq_eq_false_iff_ne.mpr none]; rfl)

/-- Settles O18: a transfer jumps to its target, a hint leaves the machine as it is, and a loop instruction sets its level. -/
theorem transfersAndLoopsComplete : Obligations.TransfersAndLoopsComplete := by
  unfold Obligations.TransfersAndLoopsComplete
  refine ⟨fun s x g d a off h => ?transfers, fun s x g a len cnt h => ?loops⟩
  case transfers =>
    simp only [← Ctx.target_eq, exec, execBr, execJal, execJr, execBrcL1, execBrcAll, execHintSpin, execHintPf]
    refine ⟨control_jumped_self h (by simp) rfl, control_jumped h (by simp) rfl, fun aligned => ?_, fun misaligned => ?_,
      control_jumped h (by simp) rfl, control_jumped h (by simp) rfl, control_retired_self h (by simp) rfl,
      control_retired_self h (by simp) rfl⟩
    · exact control_jumped h (by simp) (by simp only [extractLow_beq_zero, aligned]; rfl)
    · exact control_trap h (by simp) (by simp only [extractLow_beq_zero, misaligned]; rfl)
  case loops =>
    have low : BitVec.ofNat 32 (x.g a).toNat = (x.g a).extractLsb' 0 32 := BitVec.eq_of_toNat_eq (by simp)
    have imm : BitVec.ofNat 32 cnt.toNat = cnt.setWidth 32 := BitVec.eq_of_toNat_eq (by simp)
    simp only [low, imm, exec, execLoop, execLoopi]
    exact ⟨control_startLoop (lvl1 := false) (len := len) h rfl, control_startLoop (lvl1 := true) (len := len) h rfl,
      control_startLoop (lvl1 := false) (len := len) h rfl, control_startLoop (lvl1 := true) (len := len) h rfl⟩

/-! The loop step (R87, R88). -/

/-- The level of the inner loop, or of the outer one, is active and ends at the PC. -/
def Ctx.endsInner (x : Ctx) : Prop := x.th = false ∧ x.loop1.count ≠ 0 ∧ x.pc = x.loop1.last
def Ctx.endsOuter (x : Ctx) : Prop := x.th = false ∧ x.loop0.count ≠ 0 ∧ x.pc = x.loop0.last

section
variable {x : Ctx}

theorem Ctx.endsInner_iff : (!x.th && x.loop1.count != 0 && x.pc == x.loop1.last) = true ↔ x.endsInner := by simp [Ctx.endsInner, and_assoc]
theorem Ctx.endsOuter_iff : (!x.th && x.loop0.count != 0 && x.pc == x.loop0.last) = true ↔ x.endsOuter := by simp [Ctx.endsOuter, and_assoc]

theorem Ctx.endsInner.outer (h : x.endsInner) : (x.loop0.count != 0 && x.pc == x.loop0.last) = true ↔ x.endsOuter := by
  rw [← Ctx.endsOuter_iff, h.1]; simp

theorem count_falls (c : BitVec 32) : (c - 1 != 0) = true ↔ c ≠ 1 := by rw [bne_iff_ne, ne_eq, sub_eq_zero]

theorem Ctx.loopStep_neither (hi : ¬x.endsInner) (ho : ¬x.endsOuter) : x.loopStep = { x with pc := x.pc + 8 } := by
  simp only [Ctx.loopStep, Ctx.endsInner_iff, Ctx.endsOuter_iff, hi, ho, if_false]

theorem Ctx.loopStep_inner (hi : x.endsInner) (more : x.loop1.count ≠ 1) :
    x.loopStep = { x with loop1 := { x.loop1 with count := x.loop1.count - 1 }, pc := x.loop1.first } := by
  simp only [Ctx.loopStep, Ctx.endsInner_iff, count_falls, hi, more, if_true, ne_eq, not_false_eq_true]

theorem Ctx.loopStep_inner_last (hi : x.endsInner) (one : x.loop1.count = 1) (ho : ¬x.endsOuter) :
    x.loopStep = { x with loop1 := { x.loop1 with count := x.loop1.count - 1 }, pc := x.pc + 8 } := by
  simp only [Ctx.loopStep, Ctx.endsInner_iff, hi.outer, count_falls, hi, not_not.mpr one, ho, if_true, if_false]

theorem Ctx.loopStep_both (hi : x.endsInner) (one : x.loop1.count = 1) (ho : x.endsOuter) (more : x.loop0.count ≠ 1) :
    x.loopStep = { x with
      loop0 := { x.loop0 with count := x.loop0.count - 1 }, loop1 := { x.loop1 with count := x.loop1.reload }, pc := x.loop0.first } := by
  simp only [Ctx.loopStep, Ctx.endsInner_iff, hi.outer, count_falls, hi, not_not.mpr one, ho, more, if_true, if_false, ne_eq,
    not_false_eq_true]

theorem Ctx.loopStep_both_last (hi : x.endsInner) (one : x.loop1.count = 1) (ho : x.endsOuter) (one' : x.loop0.count = 1) :
    x.loopStep = { x with
      loop0 := { x.loop0 with count := x.loop0.count - 1 }, loop1 := { x.loop1 with count := x.loop1.count - 1 }, pc := x.pc + 8 } := by
  simp only [Ctx.loopStep, Ctx.endsInner_iff, hi.outer, count_falls, hi, not_not.mpr one, ho, not_not.mpr one', if_true, if_false]

theorem Ctx.loopStep_outer (hi : ¬x.endsInner) (ho : x.endsOuter) :
    x.loopStep = { x with
      loop0 := { x.loop0 with count := x.loop0.count - 1 }, pc := if x.loop0.count = 1 then x.pc + 8 else x.loop0.first } := by
  simp only [Ctx.loopStep, Ctx.endsInner_iff, Ctx.endsOuter_iff, count_falls, hi, ho, if_true, if_false, ne_eq]
  split <;> simp_all

end

/-- Settles O19: NOP is a word that leaves the machine as it is, and the loop step has an equation for each case. -/
theorem loopStepFollows : Obligations.LoopStepFollows := by
  unfold Obligations.LoopStepFollows
  refine ⟨fun s x g h => (exec_nop g s).trans (control_retired_self h (by simp) rfl), fun s x z => rfl, fun x => ?_⟩
  obtain ⟨z, same⟩ : ∃ z : Ctx, z = { x with
    issued := x.issued + 1, wait := .none, mma := tabDel x.mma x.th.toNat, attn := tabDel x.attn x.th.toNat } := ⟨_, rfl⟩
  have step : x.complete .seq = z.loopStep := by rw [same]; rfl
  have inner : x.endsInner ↔ z.endsInner := by rw [same]; rfl
  have outer : x.endsOuter ↔ z.endsOuter := by rw [same]; rfl
  simp only [step]
  refine ⟨?frame, fun hi ho => ?_, fun hi more => ?_, fun hi one ho => ?_, fun hi one ho more => ?_, fun hi one ho one' => ?_,
    fun hi ho => ?_⟩
  case frame =>
    rw [same]
    simp only [Ctx.loopStep]
    repeat' split
    all_goals rfl
  · rw [Ctx.loopStep_neither (inner.not.mp hi) (outer.not.mp ho), same]; exact ⟨rfl, rfl, rfl⟩
  · rw [Ctx.loopStep_inner (inner.mp hi) (by rw [same]; exact more), same]; exact ⟨rfl, rfl, rfl⟩
  · rw [Ctx.loopStep_inner_last (inner.mp hi) (by rw [same]; exact one) (outer.not.mp ho), same]
    exact ⟨rfl, by rw [one]; rfl, rfl⟩
  · rw [Ctx.loopStep_both (inner.mp hi) (by rw [same]; exact one) (outer.mp ho) (by rw [same]; exact more), same]; exact ⟨rfl, rfl, rfl⟩
  · rw [Ctx.loopStep_both_last (inner.mp hi) (by rw [same]; exact one) (outer.mp ho) (by rw [same]; exact one'), same]
    exact ⟨rfl, by rw [one]; rfl, by rw [one']; rfl⟩
  · rw [Ctx.loopStep_outer (inner.not.mp hi) (outer.mp ho), same]; exact ⟨rfl, rfl, rfl⟩

end Sys2Proof.Machine
end

section
/-! PROOFS. A device whose power is off (R460). The one idea: every step of another agent asks first whether the device runs, or listens, or
in which mode its power is, and a device that is off answers none of them. -/

namespace Sys2Proof.Machine

/-! Control words are no steps of another agent. -/

/-- Every opcode of a control word is above 0. -/
theorem guard_of_encode_zero {i : Instr} (h : encode i = 0) : i.guard = none := by
  have op : (encode i).extractLsb' 56 8 = 0 := by rw [h]; rfl
  cases i with
  | add | sub | mul | mulh | mulhz | div | divz | rem | remz | and | or | xor | andn | shlReg | shlImm | shrReg | shrImm | shaReg
  | shaImm | rotReg | rotImm | min | max | minz | maxz | clz | popc | bfx | bfxS | bfi | addsh | mad | cmp | sel | movi | movhi
  | addi | pand | por | pnot | br | jal | jr | brcL1 | brcAll | loop | loopi | nop | ld | st | csrr | csrw | csrwSet | csrwClr | trap
  | eret | eretTask | wfe | sevAll | sevOne | sevClus | hintSpin | hintPf | mma | mmas | prune | mzero | mld | mst | aadd | amul
  | afma | amax | amin | aexp2 | alog2 | arcp | arsq | asig | asigTanh | asigSilu | asigExpe | aredSum | aredMax | aredMin | abcast
  | abcastRow | abcastColv | amov | acvt | acvtB32 | rngld | rngst | rand | abind | attn | tmerge | kvmap | kvapp | kvfork
  | kvforkCow | kvtrunc | kvrel | kvret | kvcompact | kvqLen | kvqMap | kvqFrame | kvqState | pxlkp | pxlkpDrop | pxins | cfg
  | cfgStg | cfgsw | strm | sbar | sbarOrd | btok | argw | tinj | tpop | fstat | fstatAll | slotf | cpyG2s | cpyS2g | cpyG2g | cpyS2s
  | cpyRing | tbinit | tbexp | tbarr | tbwait | tbtest | amo | red | amof | cas | ldfe | stfe | pref | fence | chainCpy | chainColl
  | seqw | collSum | collMax | collMin | collBcast | collAgath | collRscat | spl | fil | bslice | bjoin | lctx | lsel | lrun
  | lstatPop | lstatWord | lstatSlot | lstatRuns | tenq | launch | launchArg | gsig | tend | tyield | rinvTag | rinvRange | rinvAll
  | rinvAsid | rstatLkp | rstatHit | rstatMiss | rstatIns | rstatProbe | rstatHeld | rstatQuota =>
    simp only [encode, FR.op_pack, FI.op_pack, FM.op_pack, FB.op_pack, FS.op_pack, FX.op_pack] at op
    exact absurd op (by decide)
  | _ => rfl

theorem fromOutside_of_guard {i : Instr} {g : Guard} (h : i.guard = some g) : fromOutside i = false := by
  have word : encode i ≠ 0 := fun zero => by rw [guard_of_encode_zero zero] at h; cases h
  cases i with
  | add | sub | mul | mulh | mulhz | div | divz | rem | remz | and | or | xor | andn | shlReg | shlImm | shrReg | shrImm | shaReg
  | shaImm | rotReg | rotImm | min | max | minz | maxz | clz | popc | bfx | bfxS | bfi | addsh | mad | cmp | sel | movi | movhi
  | addi | pand | por | pnot | br | jal | jr | brcL1 | brcAll | loop | loopi | nop | ld | st | csrr | csrw | csrwSet | csrwClr | trap
  | eret | eretTask | wfe | sevAll | sevOne | sevClus | hintSpin | hintPf | mma | mmas | prune | mzero | mld | mst | aadd | amul
  | afma | amax | amin | aexp2 | alog2 | arcp | arsq | asig | asigTanh | asigSilu | asigExpe | aredSum | aredMax | aredMin | abcast
  | abcastRow | abcastColv | amov | acvt | acvtB32 | rngld | rngst | rand | abind | attn | tmerge | kvmap | kvapp | kvfork
  | kvforkCow | kvtrunc | kvrel | kvret | kvcompact | kvqLen | kvqMap | kvqFrame | kvqState | pxlkp | pxlkpDrop | pxins | cfg
  | cfgStg | cfgsw | strm | sbar | sbarOrd | btok | argw | tinj | tpop | fstat | fstatAll | slotf | cpyG2s | cpyS2g | cpyG2g | cpyS2s
  | cpyRing | tbinit | tbexp | tbarr | tbwait | tbtest | amo | red | amof | cas | ldfe | stfe | pref | fence | chainCpy | chainColl
  | seqw | collSum | collMax | collMin | collBcast | collAgath | collRscat | spl | fil | bslice | bjoin | lctx | lsel | lrun
  | lstatPop | lstatWord | lstatSlot | lstatRuns | tenq | launch | launchArg | gsig | tend | tyield | rinvTag | rinvRange | rinvAll
  | rinvAsid | rstatLkp | rstatHit | rstatMiss | rstatIns | rstatProbe | rstatHeld | rstatQuota => exact beq_eq_false_iff_ne.mpr word
  | _ => cases h

/-! The operations that other agents' steps share, in a device that is off. -/

section
variable {s : State} (h : s.power = .off)
include h

theorem State.alive_off : s.alive = false := by rw [State.alive, h]; rfl
theorem State.listening_off : s.listening = false := by rw [State.listening, State.alive_off h, h]; rfl

theorem siteStep_off n body : siteStep s n body = .next s := by simp [siteStep, State.alive_off h]
theorem fire_off op c e : fire op c e s = .next s := siteStep_off h ..
theorem opStep_off kind mode c o act : opStep kind mode c o s act = .next s := siteStep_off h ..
theorem drainStep_off c body : drainStep c s body = .next s := by simp [drainStep, State.alive_off h]
theorem State.mailbox_off tag c : s.mailbox tag c = .next s := by simp [State.mailbox, State.listening_off h]
theorem State.receive_off n f body : s.receive n f body = .next s := by simp [State.receive, State.alive_off h]
theorem State.forDevice_off pa n : s.forDevice pa n (.next s) = .next s := by
  have none : (linesOf pa n).find? (fun _ => false) = none := List.find?_eq_none.mpr (by simp)
  simp [State.forDevice, State.alive_off h, none]

/-- The steps of other agents but the power's coming and going and the tray's limit. -/
theorem exec_off {i : Instr} (out : fromOutside i = true) (on : i ≠ .powerOnStart) (loss : i ≠ .powerLoss) (limit : ∀ w, i ≠ .trayPowerLimit w) :
    exec i s = .next s := by
  have noGuard (g : Guard) : i.guard ≠ some g := fun hg => by rw [fromOutside_of_guard hg] at out; cases out
  cases i with
  | mov | iadd | isub | imul | imad | iand | ior | ixor | ishl | ishr | isra | imin | imax | icmp | elemSel | cmpc | deq | emit
  | fadd | fsub | fmul | ffma | fmin | fmax | fcmp | fexp2 | frcp | fcvtF32Bf16 | fcvtF32F16 | fcvtF32E4m3 | fcvtF32E5m2
  | fcvtF32E2m1 | fcvtF32S32 | fcvtF32Z32 | fcvtBf16F32 | fcvtF16F32 | fcvtE4m3F32 | fcvtE5m2F32 | fcvtE2m1F32 | fcvtS32F32
  | fcvtZ32F32 | vaddBf16 | vmulBf16 | vfmaBf16 | vaddF16 | vmulF16 | vfmaF16 | vaddS16 | vmulS16 | vaddS8 | vmulS8 => exact fire_off h ..
  | repeatBlock | mergeIsect | mergeUnion | mergeChk | radix | gate | select | stat | xlat | cbdec | delta | fconv | rle | transp => exact opStep_off h ..
  | speculativeFetch | portDoneToken | portRetry | relatchToken | inputPacketExpand | cfgkConsume | portReadAccess | portGatherAccess
  | portCondition | portBarArrival | portWriteAccess | portReductionAccess =>
    simp only [exec, execSpeculativeFetch, execPortDoneToken, execPortRetry, execRelatchToken, execInputPacketExpand, execCfgkConsume,
      execPortReadAccess, execPortGatherAccess, execPortCondition, execPortBarArrival, execPortWriteAccess, execPortReductionAccess,
      portStep, writeToken]
    exact siteStep_off h ..
  | markerPass | writePortDrain =>
    simp only [exec, execMarkerPass, execWritePortDrain]
    exact drainStep_off h ..
  | partCreate | partDestroy | setTables | asidSync | frrOwner | groupReg | aperture | ticketKey | clusterMove | reset
  | mailboxUnknown =>
    simp only [exec, execPartCreate, execPartDestroy, execSetTables, execAsidSync, execFrrOwner, execGroupReg, execAperture,
      execTicketKey, execClusterMove, execReset, execMailboxUnknown]
    exact State.mailbox_off h ..
  | druatLoad | druatLoadResponse | druatAcknowledge | druatCollectiveStream | druatIdle =>
    simp only [exec, execDruatLoad, execDruatLoadResponse, execDruatAcknowledge, execDruatCollectiveStream, execDruatIdle]
    exact State.receive_off h ..
  | druatStore | druatMigrationStream | druatReduction =>
    simp only [exec, execDruatStore, execDruatMigrationStream, execDruatReduction, State.receive_off h]
    exact State.forDevice_off h ..
  | powerOnStart => exact absurd rfl on
  | powerLoss => exact absurd rfl loss
  | trayPowerLimit w => exact absurd rfl (limit w)
  | sevDelivery | compactionDone | slabRelocationStep | copySectorWrite | copySectorRetry | ringSlotCopy | updateOnlyEvict
  | chainEntryComplete | tableLoadEntry | dispatch | reuseLookup | schedulerDusk | tyieldAgeExpiry | asyncTrap | invalidationComplete
  | pageOperationComplete | drainTimerExpiry | drainTimeout | duskStart | foreignMarkArrival | setSwap | taskResume
  | clusterRemovalComplete | ringEntryNop | ringEntryGraph | ringEntryRecord | flitCrcFail | portRetrain | portFailed | powerStep
  | claimStreamDone | retrainComplete =>
    simp only [exec, execSevDelivery, execCompactionDone, execSlabRelocationStep, execCopySectorWrite, execCopySectorRetry,
      execRingSlotCopy, execUpdateOnlyEvict, execChainEntryComplete, execTableLoadEntry, execDispatch, execReuseLookup,
      execSchedulerDusk, execTyieldAgeExpiry, execAsyncTrap, execInvalidationComplete, execPageOperationComplete, execDrainTimerExpiry,
      execDrainTimeout, execDuskStart, execForeignMarkArrival, execSetSwap, execTaskResume, execClusterRemovalComplete,
      execRingEntryNop, execRingEntryGraph, execRingEntryRecord, execFlitCrcFail, execPortRetrain, execPortFailed, execPowerStep,
      execClaimStreamDone, execRetrainComplete, State.alive_off h]
    rfl
  | doorbell | daybreak | hifErrClear | hostWriteSnoop | mailboxResultPosted | hostCxlResponse =>
    simp only [exec, execDoorbell, execDaybreak, execHifErrClear, execHostWriteSnoop, execMailboxResultPosted, execHostCxlResponse,
      State.listening_off h]
    rfl
  | twilightStart | twilightRetry | startComplete =>
    simp only [exec, execTwilightStart, execTwilightRetry, execStartComplete, h]
    rfl
  | wfeTimeout | seqwTimeout | hostMemRequest =>
    simp only [exec, execWfeTimeout, execSeqwTimeout, execHostMemRequest, State.alive_off h, State.listening_off h, Bool.false_and]
    repeat' split
    all_goals simp_all
  | prtInv | popMigrate | popDuplicate | popCollapse | tcmdResume | tcmdEnd | hotvalRead | frrEnable | frrDisable | schQuotaWrite
  | prtDusk | prtRsz | prtMove | ticketExport | ticketImport | prtFqheadWrite | illegalWord | instructionFetchFault | registerWrite => cases out
  | startTimeout => simp only [exec, execStartTimeout, h]
  | _ => exact absurd rfl (noGuard _)

theorem State.issue_off : s.issue = .next s := by
  unfold State.issue
  split
  · rfl
  · simp [State.alive_off h]

end

/-! Time passes in it all the same. -/

theorem tabGet_map {α β : Type} (t : List (Nat × α)) (f : Nat → α → β) (k : Nat) :
    tabGet (t.map fun (n, c) => (n, f n c)) k = (tabGet t k).map (f k) := by
  induction t with
  | nil => rfl
  | cons c r ih =>
    obtain ⟨j, x⟩ := c
    by_cases hj : j = k
    · simp [tabGet, hj]
    · simpa [tabGet, hj] using ih

/-- A core while time passes: the cycles of the task in its day set. -/
def Core.passed (tick n : Nat) (c : Core) : Core := { c with
  day := c.day.map fun x => { x with cycle := x.cycle + BitVec.ofNat 64 (Config.elapsedCycles (Config.cores * tick + n)) } }

theorem State.pass_core (s : State) (n : Nat) : s.pass.core n = (s.core n).passed s.tick n := by
  have cores : s.pass.cores = s.cores.map fun (n, c) => (n, c.passed s.tick n) := rfl
  rw [State.core, cores, tabGet_map s.cores (Core.passed s.tick) n, State.core]
  cases tabGet s.cores n <;> rfl

/-- Settles O12: every step of another agent asks for a device that runs, listens, or starts. -/
theorem anOffDeviceDoesNothing : Obligations.AnOffDeviceDoesNothing := by
  unfold Obligations.AnOffDeviceDoesNothing
  intro s h
  refine ⟨fun i out on loss limit => exec_off h out on loss limit, fun none => ⟨s.pass, ?_, rfl, rfl, rfl, fun n => ?_⟩⟩
  · have agenda : s.pass.agenda = [] := none
    have off : s.pass.power = .off := h
    rw [step, State.move, agenda]
    exact State.issue_off off
  · rw [State.pass_core]
    cases hday : (s.core n).day <;> simp [Core.passed, hday]

end Sys2Proof.Machine
end

section
/-! PROOFS. Loads, stores, traps and returns (R90 to R93, R97 to R100, R159): what the body of each control word answers under the conditions
on its operands. -/

namespace Sys2Proof.Machine

/-! Loads and stores (R56, R90 to R93). -/

section
variable {s : State} {x : Ctx} {o : Word} {n : Nat}

theorem readSpad_ok (claim : o.toNat + n ≤ x.spadBytes) (free : (s.core s.cur).spadReady o.toNat n = true)
    (clean : (s.core s.cur).spadPoisoned o.toNat n = false) :
    s.readSpad s.cur x o n = .ok (Memory.bytes (s.core s.cur).spad o.toNat n) := by
  simp [State.readSpad, claimSpad, require, await, claim, free, clean, bind, Except.bind]

theorem writeSpad_ok {bs : List Byte} (claim : o.toNat + bs.length ≤ x.spadBytes)
    (free : (s.core s.cur).spadReady o.toNat bs.length = true) :
    s.writeSpad s.cur x o bs = .ok (s.setCore s.cur ((s.core s.cur).putSpad o.toNat bs)) := by
  simp [State.writeSpad, claimSpad, require, await, claim, free, bind, Except.bind]

theorem claimSpad_past (past : x.spadBytes < o.toNat + n) : claimSpad x o n = trapWith .prot o := require_no (by simpa using past)

end

theorem Ctx.storeBytes_length (x : Ctx) (d : Reg) (sz : Size) : (x.storeBytes d sz).length = sizeBytes sz := by
  cases sz <;> simp [Ctx.storeBytes, natLe_length, sizeBytes]

section
variable {s : State} {x : Ctx} {g : Guard} (h : s.ready x g) (d : Reg) (m : MemOp) (sx : Bool) (sz : Size)
include h

theorem exec_ld_spad {bs : List Byte} (aligned : (x.ea m).toNat % sizeBytes sz = 0)
    (read : s.readSpad s.cur x (x.ea m) (sizeBytes sz) = .ok bs) :
    exec (.ld g d m true sx sz) s = .next (s.retired x (x.setLoaded d sx sz bs)) :=
  (exec_ld ..).trans (control_retired h (by simp) (by simp [aligned, read, require, bind, Except.bind]))

theorem exec_st_spad {t : State} (aligned : (x.ea m).toNat % sizeBytes sz = 0)
    (write : s.writeSpad s.cur x (x.ea m) (x.storeBytes d sz) = .ok t) : exec (.st g d m true sz) s = .next (t.ended s x) :=
  (exec_st ..).trans (control_seq h (by simp) (by simp [aligned, write, require, bind, Except.bind]))

theorem exec_ld_global {t : State} {bs : List Byte} (aligned : (x.ea m).toNat % sizeBytes sz = 0)
    (load : s.load (s.me x) (x.ea m) (sizeBytes sz) = .ok (t, bs)) :
    exec (.ld g d m false sx sz) s = .next ((t.setCtx ((t.now x).setLoaded d sx sz bs)).ended s x) :=
  (exec_ld ..).trans (control_seq h (by simp) (by simp [aligned, load, require, bind, Except.bind]))

theorem exec_st_global {t : State} (aligned : (x.ea m).toNat % sizeBytes sz = 0)
    (store : s.store (s.me x) (x.ea m) (x.storeBytes d sz) = .ok t) : exec (.st g d m false sz) s = .next (t.ended s x) :=
  (exec_st ..).trans (control_seq h (by simp) (by simp [aligned, store, require, bind, Except.bind]))

end

/-- Settles O20: the claim, the parked task and the poison are asked for in turn, and the value is that of `extend`. -/
theorem scratchpadAccessesComplete : Obligations.ScratchpadAccessesComplete := by
  unfold Obligations.ScratchpadAccessesComplete
  intro s x g d m sx sz h n o bs v out aligned claim free
  refine ⟨fun clean => ?load, ?store⟩
  case load =>
    rw [exec_ld_spad h d m sx sz aligned (readSpad_ok claim free clean)]
    simp only [Ctx.setLoaded, extend, beq_iff_eq, Bool.and_eq_true, decide_eq_true_eq]
    rfl
  case store =>
    have bytes : x.storeBytes d sz = out := by simp [Ctx.storeBytes, out, n]
    have len : out.length = n := bytes ▸ x.storeBytes_length d sz
    have write : s.writeSpad s.cur x (x.ea m) out = .ok (s.setCore s.cur ((s.core s.cur).putSpad o out)) :=
      writeSpad_ok (len ▸ claim) (len ▸ free)
    exact exec_st_spad h d m sz aligned (bytes ▸ write)

/-- Settles O21, by the completion of each. -/
theorem globalAccessesComplete : Obligations.GlobalAccessesComplete := by
  unfold Obligations.GlobalAccessesComplete
  exact fun s t x g d m sx sz bs h aligned => ⟨exec_ld_global h d m sx sz aligned, exec_st_global h d m sz aligned⟩

/-- Settles O22: the alignment is asked for first, and the claim before a scratchpad access. -/
theorem misusedAccessesTrap : Obligations.MisusedAccessesTrap := by
  unfold Obligations.MisusedAccessesTrap
  intro s x g d m sp sx sz h n ea
  refine ⟨fun misaligned => ⟨?_, ?_⟩, fun aligned past => ⟨?_, ?_⟩⟩
  · exact (exec_ld ..).trans (control_trap h (by simp) (by simp [require, trapWith, misaligned, ea, n, bind, Except.bind]))
  · exact (exec_st ..).trans (control_trap h (by simp) (by simp [require, trapWith, misaligned, ea, n, bind, Except.bind]))
  · have claim : claimSpad x ea n = trapWith .prot ea := claimSpad_past past
    exact (exec_ld ..).trans (control_trap h (by simp) (by simp [State.readSpad, aligned, claim, require, trapWith, ea, n, bind, Except.bind]))
  · have claim : claimSpad x ea (x.storeBytes d sz).length = trapWith .prot ea := claimSpad_past (by rwa [Ctx.storeBytes_length])
    exact (exec_st ..).trans (control_trap h (by simp) (by simp [State.writeSpad, aligned, claim, require, trapWith, ea, n, bind, Except.bind]))

/-! Traps and returns (R62, R97 to R100). -/

theorem require_aligned {w val : Word} {code : TrapCode} (h : w.toNat % 8 = 0) :
    require (w.extractLsb' 0 3 == 0) code val = .ok () := require_ok (by rw [extractLow_beq_zero, decide_eq_true h])
theorem require_misaligned {w val : Word} {code : TrapCode} (h : w.toNat % 8 ≠ 0) :
    require (w.extractLsb' 0 3 == 0) code val = trapWith code val := require_no (by rw [extractLow_beq_zero, decide_eq_false h])

/-- Settles O24: each word asks for its conditions in turn. -/
theorem trapsAndReturnsComplete : Obligations.TrapsAndReturnsComplete := by
  unfold Obligations.TrapsAndReturnsComplete
  refine ⟨fun s x g code h => ?words, fun s x w prot sub hc hi => ⟨exec_illegalWord_issues hc hi w, ?fetch⟩⟩
  case fetch => simp [exec_instructionFetchFault, execInstructionFetchFault, hc, hi]
  case words =>
    obtain ⟨hday, -, -⟩ := id h
    have hday : (s.core s.cur).day = some x := hday
    have code : code.setWidth 64 = BitVec.ofNat 64 code.toNat := BitVec.eq_of_toNat_eq (by simp)
    refine ⟨?_, fun sup aligned => ?_, fun sup misaligned => ?_, fun th aligned => ?_, fun th misaligned => ?_, fun th => ?_⟩
    · simp only [exec_trap, execTrap, control_ready h, Bool.false_eq_true, false_implies, State.finish, State.consume_core, hday, code]
    · exact (exec_eret ..).trans (control_jumped h (by simp [sup]) (by simp only [require_aligned aligned, Res.ok_bind]))
    · exact (exec_eret ..).trans (control_trap h (by simp [sup]) (by simp only [require_misaligned misaligned]; rfl))
    · exact (exec_eretTask ..).trans (control_jumped h (by simp) (by simp only [require_ok th, require_aligned aligned, Res.ok_bind]))
    · exact (exec_eretTask ..).trans
        (control_trap h (by simp) (by simp only [require_ok th, require_misaligned misaligned, Res.ok_bind]; rfl))
    · exact (exec_eretTask ..).trans (control_trap h (by simp) (by simp only [require_no th]; rfl))

/-! The random stream (R158 to R160). -/

/-- Settles O31: the three forms work on the task's registers alone. -/
theorem streamRegistersComplete : Obligations.StreamRegistersComplete := by
  unfold Obligations.StreamRegistersComplete
  intro s x g d a b h
  have join (lo hi : Word) : hi ++ lo = BitVec.ofNat 128 (lo.toNat + 2 ^ 64 * hi.toNat) := by
    refine BitVec.eq_of_toNat_eq ?_
    have := lo.isLt
    have := hi.isLt
    rw [BitVec.toNat_append, ← Nat.shiftLeft_add_eq_or_of_lt lo.isLt, Nat.shiftLeft_eq, BitVec.toNat_ofNat]
    omega
  have low (w : BitVec 128) : BitVec.ofNat 64 w.toNat = w.extractLsb' 0 64 := BitVec.eq_of_toNat_eq (by simp)
  have high (w : BitVec 128) : BitVec.ofNat 64 (w.toNat / 2 ^ 64) = w.extractLsb' 64 64 :=
    BitVec.eq_of_toNat_eq (by simp [Nat.shiftRight_eq_div_pow])
  rw [← join, low, low, high]
  exact ⟨(exec_rngld ..).trans (simple_ready h), (exec_rngst ..).trans (simple_ready h), (exec_rand ..).trans (simple_ready h)⟩

end Sys2Proof.Machine
end

section
/-! PROOFS. What the decoder answers, what reset leaves, and what instructions on registers and on accumulator columns leave as it was. -/

namespace Sys2Proof

/-! The decoder (R48 to R62). -/

/-- Whatever an assigned word decodes to has passed the checks of R62. -/
theorem decode_ok {w : Word} {i : Instr} (assigned : opAssigned w = true) (h : decode w = .ok i) : i.wf = true ∧ encode i = w := by
  simp only [decode, assigned, Bool.not_true, Bool.false_eq_true, if_false] at h
  split at h
  · cases h
  next j _ =>
    split at h
    · cases h
    next wf =>
      split at h
      next word =>
        cases h
        exact ⟨by simpa using wf, beq_iff_eq.mp word⟩
      · cases h

/-- Settles O2: the words written out are decoded, and what the decoder accepts has passed its checks. -/
theorem decodingFollowsTheTables : Obligations.DecodingFollowsTheTables := by
  unfold Obligations.DecodingFollowsTheTables
  exact ⟨rfl, rfl, rfl, rfl, rfl, rfl, rfl, rfl, fun w h => by simp [decode, h], fun w i => decode_ok⟩

namespace Machine

/-- Settles O6, field by field. -/
theorem resetState : Obligations.ResetState := by
  unfold Obligations.ResetState
  refine ⟨rfl, rfl, rfl, rfl, fun _ => rfl, rfl, rfl, fun d => ?_, rfl, rfl, rfl, fun _ => rfl, rfl⟩
  have same : ∀ t ∈ (State.reset.reuse)[d]?, t = ⟨[], 0⟩ := by
    intro t ht
    obtain ⟨_, rfl⟩ := Vector.getElem?_eq_some_iff.mp ht
    simp [State.reset]
  rw [State.table]
  cases h : State.reset.reuse[d]? with
  | none => rfl
  | some t => exact same t h

/-! The frame of instructions that work on registers alone (R26, R73 to R82). -/

theorem State.keeps_refl (s : State) : s.keeps s := ⟨rfl, fun _ _ => rfl, rfl⟩
theorem State.keeps_setCtx (s : State) (y : Ctx) : (s.setCtx y).keeps s :=
  ⟨rfl, fun _ h => s.setCtx_core_ne h y, by rw [State.setCtx_core]⟩
theorem State.keeps_retired (s : State) (x y : Ctx) : (s.retired x y).keeps s :=
  ⟨rfl, fun _ h => s.setCtx_core_ne h _, by simp [State.retired]⟩

theorem Ctx.complete_keeps (x : Ctx) : (x.complete .seq).keeps x := by
  simp only [Ctx.keeps, Ctx.complete, Ctx.loopStep]
  repeat' split
  all_goals rfl

/-- What an instruction on the task's registers leaves: the task as it was, with its PC moved, or with its registers changed. -/
theorem simple_frame {i : Instr} {g : Guard} {s t : State} {x : Ctx} {f : Ctx → Ctx} (hc : s.ctx = some x)
    (h : simple i g s f = .next t) :
    t.keeps s ∧ ∃ y, t.ctx = some y ∧ (y = x ∨ y = x.complete .seq ∨ y = (f x).complete .seq) := by
  obtain ⟨idle, -⟩ | ⟨z, hz, -, -, unguarded⟩ | ⟨z, ⟨hz, -, -⟩, ran⟩ := simple_cases i g s f
  · rw [idle] at h; cases h
    exact ⟨s.keeps_refl, x, hc, .inl rfl⟩
  · rw [unguarded] at h; cases h
    rw [hc] at hz; cases hz
    exact ⟨s.keeps_setCtx _, _, s.setCtx_ctx _, .inr (.inl rfl)⟩
  · rw [ran] at h; cases h
    rw [hc] at hz; cases hz
    exact ⟨s.keeps_retired _ _, _, s.setCtx_ctx _, .inr (.inr rfl)⟩

theorem Ctx.keeps_refl (x : Ctx) : x.keeps x := rfl
theorem Ctx.keeps_setG (x : Ctx) (d : Reg) (v : Word) : ((x.setG d v).complete .seq).keeps x := by
  have outer := (x.setG d v).complete_keeps
  have inner := x.setG_frame d v
  rw [Ctx.keeps] at *
  rw [outer, inner]
theorem Ctx.keeps_setP (x : Ctx) (d : Pred) (v : Bool) : ((x.setP d v).complete .seq).keeps x := by
  have outer := (x.setP d v).complete_keeps
  have inner := x.setP_frame d v
  rw [Ctx.keeps] at *
  rw [outer, inner]

theorem Ctx.g_setG_ne (x : Ctx) {r d : Reg} (h : r ≠ d) (v : Word) : (x.setG d v).g r = x.g r := by simp [Ctx.g_setG, h]
theorem Ctx.p_setP_ne (x : Ctx) {r d : Pred} (h : r ≠ d) (v : Bool) : (x.setP d v).p r = x.p r := by simp [Ctx.p_setP, h]

theorem writes_frame {i : Instr} {g : Guard} {s t : State} {x : Ctx} {d : Reg} {f : Ctx → Word} (hc : s.ctx = some x)
    (h : writes i g d f s = .next t) :
    t.keeps s ∧ ∃ y, t.ctx = some y ∧ y.keeps x ∧ (∀ r, r ≠ d → y.g r = x.g r) ∧ ∀ r, y.p r = x.p r := by
  obtain ⟨keeps, y, hy, rfl | rfl | rfl⟩ := simple_frame hc h
  · exact ⟨keeps, _, hy, Ctx.keeps_refl _, fun _ _ => rfl, fun _ => rfl⟩
  · exact ⟨keeps, _, hy, x.complete_keeps, fun r _ => x.g_complete _ r, fun r => x.p_complete _ r⟩
  · exact ⟨keeps, _, hy, x.keeps_setG d _, fun r hr => by rw [Ctx.g_complete, x.g_setG_ne hr], fun r => by rw [Ctx.p_complete, Ctx.p_setG]⟩

theorem simple_setP_frame {i : Instr} {g : Guard} {s t : State} {x : Ctx} {q : Pred} {f : Ctx → Bool} (hc : s.ctx = some x)
    (h : (simple i g s fun x => x.setP q (f x)) = .next t) :
    t.keeps s ∧ ∃ y, t.ctx = some y ∧ y.keeps x ∧ (∀ r, y.g r = x.g r) ∧ ∀ r, r ≠ q → y.p r = x.p r := by
  obtain ⟨keeps, y, hy, rfl | rfl | rfl⟩ := simple_frame hc h
  · exact ⟨keeps, _, hy, Ctx.keeps_refl _, fun _ => rfl, fun _ _ => rfl⟩
  · exact ⟨keeps, _, hy, x.complete_keeps, fun r => x.g_complete _ r, fun r _ => x.p_complete _ r⟩
  · exact ⟨keeps, _, hy, x.keeps_setP q _, fun r => by rw [Ctx.g_complete, Ctx.g_setP], fun r hr => by rw [Ctx.p_complete, x.p_setP_ne hr]⟩

/-- Settles O10: each of the words writes one general register, or one predicate. -/
theorem registerInstructionsFrame : Obligations.RegisterInstructionsFrame := by
  unfold Obligations.RegisterInstructionsFrame
  intro s t x g d a b c q p1 p2 n1 n2 sh imm cond i hc h
  refine ⟨fun hi => ?registers, fun hi => ?predicates⟩
  case registers =>
    have body : ∃ f, exec i s = writes i g d f s := by
      fin_cases hi <;> exact ⟨_, rfl⟩
    obtain ⟨f, hf⟩ := body
    exact writes_frame hc (hf.symm.trans h)
  case predicates =>
    have body : ∃ f : Ctx → Bool, exec i s = simple i g s fun x => x.setP q (f x) := by
      fin_cases hi <;> exact ⟨_, rfl⟩
    obtain ⟨f, hf⟩ := body
    exact simple_setP_frame hc (hf.symm.trans h)

/-! Accumulator columns (R19, R150). -/

theorem accKey_inj {i i' j j' : Nat} (h : i < 128) (h' : i' < 128) : accKey i j = accKey i' j' ↔ i = i' ∧ j = j' := by
  unfold accKey; omega

section
variable {c : Core} (wf : c.acc.wf = true)
include wf

theorem Core.accAt_setAcc {i r : Nat} (hi : i < 128) (hr : r < 128) (j k : Nat) (v : BitVec 32) :
    (c.setAcc i j v).accAt r k = if r = i ∧ k = j then v else c.accAt r k := by
  simp only [Core.accAt, Core.setAcc, Cells.get_set wf, accKey_inj hr hi]

end

/-- The first n columns of one row, written. -/
def Core.mapRow (c : Core) (first n : Nat) (f : Nat → BitVec 32) (i : Nat) : Core :=
  (List.range n).foldl (fun c j => c.setAcc i (first + j) (f j)) c
/-- The first m rows, written. -/
def Core.mapRows (c : Core) (first n : Nat) (f : Nat → Nat → BitVec 32) (m : Nat) : Core :=
  (List.range m).foldl (fun c i => c.mapRow first n (f i) i) c

theorem Core.mapCols_eq (c : Core) (first n : Nat) (f : Nat → Nat → BitVec 32) : c.mapCols first n f = c.mapRows first n f 128 := rfl

theorem Core.mapRow_succ (c : Core) (first n : Nat) (f : Nat → BitVec 32) (i : Nat) :
    c.mapRow first (n + 1) f i = (c.mapRow first n f i).setAcc i (first + n) (f n) := by
  simp [Core.mapRow, List.range_succ]
theorem Core.mapRows_succ (c : Core) (first n : Nat) (f : Nat → Nat → BitVec 32) (m : Nat) :
    c.mapRows first n f (m + 1) = (c.mapRows first n f m).mapRow first n (f m) m := by
  simp [Core.mapRows, List.range_succ]

theorem Core.mapRow_frame (c : Core) (first n : Nat) (f : Nat → BitVec 32) (i : Nat) : { c.mapRow first n f i with acc := c.acc } = c := by
  induction n with
  | zero => rfl
  | succ n ih => rw [Core.mapRow_succ]; exact ih
theorem Core.mapRows_frame (c : Core) (first n : Nat) (f : Nat → Nat → BitVec 32) (m : Nat) :
    { c.mapRows first n f m with acc := c.acc } = c := by
  induction m with
  | zero => rfl
  | succ m ih =>
    rw [Core.mapRows_succ]
    have row := congrArg (fun k => { k with acc := c.acc }) (Core.mapRow_frame (c.mapRows first n f m) first n (f m) m)
    exact row.trans ih

theorem Core.mapRow_wf {c : Core} (wf : c.acc.wf = true) (first n : Nat) (f : Nat → BitVec 32) (i : Nat) :
    (c.mapRow first n f i).acc.wf = true := by
  induction n with
  | zero => exact wf
  | succ n ih => rw [Core.mapRow_succ]; exact Cells.wf_set ih _ _
theorem Core.mapRows_wf {c : Core} (wf : c.acc.wf = true) (first n : Nat) (f : Nat → Nat → BitVec 32) (m : Nat) :
    (c.mapRows first n f m).acc.wf = true := by
  induction m with
  | zero => exact wf
  | succ m ih => rw [Core.mapRows_succ]; exact Core.mapRow_wf ih ..

theorem Core.accAt_mapRow {c : Core} (wf : c.acc.wf = true) (first n : Nat) (f : Nat → BitVec 32) {i r : Nat} (hi : i < 128) (hr : r < 128)
    (k : Nat) : (c.mapRow first n f i).accAt r k = if r = i ∧ first ≤ k ∧ k < first + n then f (k - first) else c.accAt r k := by
  induction n with
  | zero =>
    have none : ¬ (r = i ∧ first ≤ k ∧ k < first + 0) := by omega
    rw [if_neg none]; rfl
  | succ n ih =>
    rw [Core.mapRow_succ, Core.accAt_setAcc (Core.mapRow_wf wf ..) hi hr, ih]
    by_cases last : r = i ∧ k = first + n
    · have inside : r = i ∧ first ≤ k ∧ k < first + (n + 1) := by omega
      have place : k - first = n := by omega
      rw [if_pos last, if_pos inside, place]
    · have same : (r = i ∧ first ≤ k ∧ k < first + n) ↔ (r = i ∧ first ≤ k ∧ k < first + (n + 1)) := by omega
      simp only [last, same, if_false]

theorem Core.accAt_mapRows {c : Core} (wf : c.acc.wf = true) (first n : Nat) (f : Nat → Nat → BitVec 32) {m r : Nat} (hm : m ≤ 128)
    (hr : r < 128) (k : Nat) :
    (c.mapRows first n f m).accAt r k = if r < m ∧ first ≤ k ∧ k < first + n then f r (k - first) else c.accAt r k := by
  induction m with
  | zero => rfl
  | succ m ih =>
    rw [Core.mapRows_succ, Core.accAt_mapRow (Core.mapRows_wf wf ..) first n (f m) (by omega) hr, ih (by omega)]
    by_cases row : r = m
    · subst row; simp
    · have same : r < m ↔ r < m + 1 := by omega
      simp only [row, same, false_and, if_false]

/-- Settles O28: a write of accumulator columns is one of its rows in turn, and each of them one of its columns in turn. -/
theorem columnWritesTouchTheirRange : Obligations.ColumnWritesTouchTheirRange := by
  unfold Obligations.ColumnWritesTouchTheirRange
  intro c first n f wf
  rw [Core.mapCols_eq]
  refine ⟨Core.mapRows_wf wf .., Core.mapRows_frame .., fun i j hi => ?_⟩
  rw [Core.accAt_mapRows wf first n f le_rfl hi]
  simp [hi]

end Machine

end Sys2Proof
end

section
/-! PROOFS. One step: time passes, and the agent that the agenda names, or the moving core, moves (R46, R47, R63, R96, R253). -/

namespace Sys2Proof.Machine

/-! What a core issues (R63, R253). -/

section
variable {s : State} {x : Ctx} (hc : s.ctx = some x) (alive : s.alive = true) (issues : x.issues = true)
  (goes : (s.core s.cur).stopped x = false)
include hc alive issues goes

/-- A fault of another block that stands at the boundary is taken first. -/
theorem State.issue_async (traps : x.traps ≠ []) (boundary : x.atBoundary = true) : s.issue = exec (.asyncTrap s.cur) s := by
  obtain ⟨run, -⟩ : (x.cond == .run) = true ∧ _ := Bool.and_eq_true_iff.mp issues
  simp [State.issue, hc, alive, issues, goes, run, traps, boundary, exec_asyncTrap]

variable (calm : x.traps = [] ∨ x.atBoundary = false)
include calm

theorem State.issue_fetched {t : State} {w : Word} (h : s.fetch x = .ok (t, w)) : s.issue = exec (instrOf w) t := by
  obtain calm | calm := calm <;> simp [State.issue, hc, alive, issues, goes, calm, h]

theorem State.issue_fetch_fault {t : Trap} (h : s.fetch x = .error (.trap t)) (code : t.code = .page ∨ t.code = .prot) :
    s.issue = exec (.instructionFetchFault (t.code == .prot) t.sub) (s.stampReads (s.me x) t.reads) := by
  obtain calm | calm := calm <;> simp [State.issue, hc, alive, issues, goes, calm, h, code]

end

theorem instrOf_ok {w : Word} {i : Instr} (h : decode w = .ok i) : instrOf w = i := by simp [instrOf, h]

/-! Where a fetched word stands (R47). -/

/-- The word as the code stood at the dispatch, or, where the task has stored it since, as it may stand now. -/
theorem State.codeWord_cases (s : State) (x : Ctx) (pa : Nat) :
    (setHas x.patched (pa / 8) = false → s.codeWord x pa = leWord (Memory.bytes x.code pa 8)) ∧
    (s.codeWord x pa = leWord (Memory.bytes x.code pa 8) ∨ s.codeWord x pa = leWord (Memory.bytes s.mem pa 8)) := by
  refine ⟨fun own => by simp [State.codeWord, own], ?_⟩
  unfold State.codeWord
  split
  · exact .inr rfl
  · exact .inl rfl

theorem State.fetch_hbm {s : State} {x : Ctx} {w : Walk} (walk : s.translate (s.me x) x.pc .fetch = .ok w) (home : s.region w.pa = .hbm)
    (clean : s.rangePoisoned w.pa 8 = false) : ∃ u, s.fetch x = .ok (u, s.codeWord x w.pa) := by
  simp [State.fetch, walk, home, clean, require, Walk.refusing, bind, Except.bind]

/-- Settles O1: what a step runs, by the agenda and by what the fetch answers, and what passing time leaves as it was. -/
theorem stepRunsDecoded : Obligations.StepRunsDecoded := by
  unfold Obligations.StepRunsDecoded
  refine ⟨?first, ?fetched, fun s n r agenda => ?core, fun s i r agenda out => ?act, fun s => ⟨rfl, ?time, fun n => ?cycles⟩⟩
  case first =>
    intro s x none p hc alive issues goes
    have issue : step s = p.issue := by
      have agenda : p.agenda = [] := none
      rw [step, State.move, agenda]
    rw [issue]
    refine ⟨fun calm => ⟨fun u w i fetched decoded => ?_, fun u w why fetched refused => ?_, fun t failed code => ?_⟩, fun traps boundary => ?_⟩
    · rw [State.issue_fetched hc alive issues goes calm fetched, instrOf_ok decoded]
    · rw [State.issue_fetched hc alive issues goes calm fetched, instrOf_refused (.inr ⟨why, refused⟩)]
    · exact State.issue_fetch_fault hc alive issues goes calm failed code
    · exact State.issue_async hc alive issues goes traps boundary
  case fetched =>
    intro s x w walk home clean
    obtain ⟨u, fetched⟩ := State.fetch_hbm walk home clean
    exact ⟨u, _, fetched, s.codeWord_cases x w.pa⟩
  case core =>
    have agenda : s.pass.agenda = .core n :: r := agenda
    rw [step, State.move, agenda]
  case act =>
    have agenda : s.pass.agenda = .act i :: r := agenda
    rw [step, State.move, agenda]
    exact if_pos out
  case time =>
    have time : s.pass.time = BitVec.ofNat 64 (min (2 ^ 64 - 1) (s.time.toNat + Config.elapsedNs s.tick)) := rfl
    have := s.time.isLt
    rw [time, BitVec.toNat_ofNat]
    omega
  case cycles => exact ⟨_, State.pass_core s n⟩

end Sys2Proof.Machine
end

section
/-! PROOFS. Events (R101): what WFE and SEV answer, and what the arrival of an event leaves. -/

namespace Sys2Proof.Machine

@[simp] theorem State.noteRelease_core (s : State) (o : SyncObj) (r : Release) (n : Nat) : (s.noteRelease o r).core n = s.core n := rfl

theorem State.setEv_core (s : State) (n : Nat) : (s.setEv n).core n = { s.core n with
    day := (s.core n).day.map fun x => { x with ev := true }, night := (s.core n).night.map fun x => { x with ev := true } } :=
  State.setCore_core ..
theorem State.setEv_core_ne (s : State) {n m : Nat} (h : m ≠ n) : (s.setEv n).core m = s.core m := State.setCore_core_ne s h _

theorem Ctx.limitPassed_iff (x : Ctx) (limit : Nat) (since : Word) :
    x.limitPassed limit since = true ↔ limit ≠ 0 ∧ limit ≤ (x.cycle - since).toNat := by simp [Ctx.limitPassed]

/-- Settles O25: the words by what their bodies answer, the arrival and the limit by their definitions. -/
theorem eventsComplete : Obligations.EventsComplete := by
  unfold Obligations.EventsComplete
  refine ⟨fun s x g limit core h => ?words, fun s e alive => ?arrival, fun s c x limit since day alive issues waits => ?limit⟩
  case words =>
    have number : core.setWidth 64 = BitVec.ofNat 64 core.toNat := BitVec.eq_of_toNat_eq (by simp)
    refine ⟨fun ev => ?_, fun ev => ?_, ?_, ?_, fun n hn => ?_, fun hn => ?_⟩
    · exact (exec_wfe ..).trans (control_seq h (by simp) (by simp only [await_ok ev, Res.ok_bind]))
    · exact (exec_wfe ..).trans (control_wait h (by simp) (by simp only [await, ev]; rfl) nofun)
    · exact (exec_sevAll ..).trans (control_seq h (by simp) rfl)
    · exact (exec_sevClus ..).trans (control_seq h (by simp) rfl)
    · exact (exec_sevOne ..).trans (control_seq h (by simp) (by simp only [hn]; rfl))
    · exact (exec_sevOne ..).trans (control_trap h (by simp) (by simp only [hn, number]))
  case arrival =>
    refine ⟨fun none => by simp [exec_sevDelivery, execSevDelivery, alive, none], fun found => ?_⟩
    refine ⟨(({ s with events := s.events.erase e }).noteRelease (.event e.core) e.rel).setEv e.core,
      by simp [exec_sevDelivery, execSevDelivery, alive, found], rfl, rfl, fun k hk => State.setEv_core_ne _ hk,
      fun x hx => ?_, fun x hx => ?_⟩
    · rw [State.setEv_core]; exact congrArg (Option.map _) hx
    · rw [State.setEv_core]; exact congrArg (Option.map _) hx
  case limit =>
    simp only [exec_wfeTimeout, execWfeTimeout, day, waits, alive, issues, Bool.true_and, Ctx.limitPassed_iff]
    split <;> rfl

end Sys2Proof.Machine
end

section
/-! PROOFS. Accumulator vectors (R135, R152 to R157): under the conditions of a range that may be used, each check of an instruction's operands
answers, and the body goes on. -/

namespace Sys2Proof.Machine

section
variable {s : State} {x : Ctx} {r : Reg} {c : Cols} (h : s.mayUse x r c)
include h

theorem State.mayUse.colRange_eq (word : Word) : colRange word (x.g r) = .ok c := by
  obtain ⟨value, some, fits, -, -⟩ := h
  have first : ((x.g r).extractLsb' 0 10).toNat = c.first := by simp [value]; omega
  have count : ((x.g r).extractLsb' 10 10).toNat + 1 = c.n := by
    rw [BitVec.extractLsb'_toNat, value, Nat.shiftRight_eq_div_pow]; omega
  have rest : (x.g r).extractLsb' 20 44 = 0 := BitVec.eq_of_toNat_eq (by
    rw [BitVec.extractLsb'_toNat, value, Nat.shiftRight_eq_div_pow]; show _ = 0; omega)
  simp only [colRange, first, count, rest]
  exact congrArg (· >>= _) (require_ok (by simpa using fits))

theorem State.mayUse.rangeOf_eq (word : Word) {n : Nat} (hn : c.n = n) : rangeOf word (x.g r) n = .ok c := by
  rw [rangeOf, h.colRange_eq, Res.ok_bind, require_ok (beq_iff_eq.mpr hn), Res.ok_bind]

theorem State.mayUse.claimCols_eq : s.claimCols x c.first c.n = .ok () := by
  obtain ⟨-, -, -, claimed, free⟩ := h
  rw [State.claimCols, require_ok (decide_eq_true claimed), Res.ok_bind, await_ok free]

end

/-! The task that goes on is the one that the core holds. -/

theorem State.ended_setCtx_self {t s : State} {x y : Ctx} (hx : t.ctx = some x) (cur : t.cur = s.cur) :
    (t.setCtx x).ended s y = t.ended s y := by
  have hx : (t.core s.cur).day = some x := by rw [← cur]; exact hx
  have same : (t.setCtx x).consume (s.me y) = (t.consume (s.me y)).setDay s.cur (some x) := by
    rw [State.consume_setDay, State.setCtx, cur]
  simp [State.ended, same, State.finish, hx]

/-- Writing the core's stores leaves the task in its day set. -/
theorem State.setCore_ctx {s : State} {x : Ctx} (hx : s.ctx = some x) {c : Core} (hc : c.day = (s.core s.cur).day) :
    (s.setCore s.cur c).ctx = some x := by
  rw [State.ctx, State.setCore_cur, State.setCore_core, hc]; exact hx

theorem Core.mapRow_day (c : Core) (first n : Nat) (f : Nat → BitVec 32) (i : Nat) : (c.mapRow first n f i).day = c.day := by
  induction n with
  | zero => rfl
  | succ n ih => rw [Core.mapRow_succ]; exact ih
theorem Core.mapRows_day (c : Core) (first n : Nat) (f : Nat → Nat → BitVec 32) (m : Nat) : (c.mapRows first n f m).day = c.day := by
  induction m with
  | zero => rfl
  | succ m ih => rw [Core.mapRows_succ, Core.mapRow_day, ih]
theorem Core.mapCols_day (c : Core) (first n : Nat) (f : Nat → Nat → BitVec 32) : (c.mapCols first n f).day = c.day :=
  Core.mapRows_day c first n f 128

/-! Element-wise instructions (R152 to R154). -/

section
variable {s : State} {x : Ctx} {b : Reg} {form : OpForm} {n : Nat} {bc : Option Cols} (h : s.mayTake x b form n bc)
include h

theorem State.mayTake.operandB_eq (word : Word) : operandB x word b form n = .ok bc := by
  cases form with
  | range =>
    obtain ⟨c, rfl, hn, use⟩ := h
    rw [operandB, use.rangeOf_eq word hn]; rfl
  | bc =>
    obtain ⟨c, rfl, hn, use⟩ := h
    rw [operandB, use.rangeOf_eq word hn]; rfl
  | sc =>
    obtain ⟨rfl, low⟩ := h
    have high : (x.g b).extractLsb' 32 32 = 0 := BitVec.eq_of_toNat_eq (by
      rw [BitVec.extractLsb'_toNat, Nat.shiftRight_eq_div_pow]; show _ = 0; omega)
    rw [operandB, require_ok (by rw [high]; rfl), Res.ok_bind]

theorem State.mayTake.claim_eq {r : Cols} (hr : bc = some r) : s.claimCols x r.first r.n = .ok () := by
  cases form with
  | range => obtain ⟨c, hc, -, use⟩ := h; cases hr.symm.trans hc; exact use.claimCols_eq
  | bc => obtain ⟨c, hc, -, use⟩ := h; cases hr.symm.trans hc; exact use.claimCols_eq
  | sc => obtain ⟨none, -⟩ := h; cases hr.symm.trans none

end

section
variable {i : Instr} {g : Guard} {s : State} {x : Ctx} {d a b : Reg} {form : OpForm} {dc ac : Cols} {bc : Option Cols}
  (h : s.ready x g) (hd : s.mayUse x d dc) (ha : s.mayUse x a ac) (hn : ac.n = dc.n)
include h hd ha hn

/-- With three operands, the third a range. -/
theorem vector3_ready {c : Reg} {cc : Cols} (hb : s.mayTake x b form dc.n bc) (hc : s.mayUse x c cc) (hcn : cc.n = dc.n) (rnd : Rnd)
    (f : Nat → F32 → F32 → F32 → F32) :
    vector2 i g d a b (some c) form rnd s f = .next (((s.setCore s.cur ((s.core s.cur).mapCols dc.first dc.n fun r j =>
      f (x.drawFor rnd (r * dc.n + j)) ((s.core s.cur).accAt r (ac.first + j)) ((s.core s.cur).operandAt x b form bc r j)
        ((s.core s.cur).accAt r (cc.first + j)))).setCtx (x.drawn rnd (128 * dc.n))).ended s x) := by
  refine control_seq h (by simp) ?_
  have claimA := ha.claimCols_eq
  have claimC := hc.claimCols_eq
  rw [hn] at claimA
  rw [hcn] at claimC
  simp only [hd.colRange_eq, ha.rangeOf_eq _ hn, hb.operandB_eq, hc.rangeOf_eq _ hcn, hd.claimCols_eq, claimA, claimC, Res.ok_bind]
  cases bc with
  | none => rfl
  | some r => simp only [hb.claim_eq rfl, Res.ok_bind]

theorem vector2_ready (hb : s.mayTake x b form dc.n bc) (rnd : Rnd) (f : Nat → F32 → F32 → F32) :
    vector2 i g d a b none form rnd s (fun w p q _ => f w p q) = .next (((s.setCore s.cur ((s.core s.cur).mapCols dc.first dc.n fun r j =>
      f (x.drawFor rnd (r * dc.n + j)) ((s.core s.cur).accAt r (ac.first + j)) ((s.core s.cur).operandAt x b form bc r j))).setCtx
        (x.drawn rnd (128 * dc.n))).ended s x) := by
  refine control_seq h (by simp) ?_
  have claimA := ha.claimCols_eq
  rw [hn] at claimA
  simp only [hd.colRange_eq, ha.rangeOf_eq _ hn, hb.operandB_eq, hd.claimCols_eq, claimA, Res.ok_bind]
  cases bc with
  | none => rfl
  | some r => simp only [hb.claim_eq rfl, Res.ok_bind]

theorem vector1_ready (f : F32 → F32) :
    vector1 i g d a s f = .next ((s.setCore s.cur ((s.core s.cur).mapCols dc.first dc.n fun r j =>
      f ((s.core s.cur).accAt r (ac.first + j)))).ended s x) := by
  refine control_seq h (by simp) ?_
  simp only [hd.colRange_eq, ha.rangeOf_eq _ hn, hd.claimCols_eq, ha.claimCols_eq, Res.ok_bind]

end

/-- Settles O29: every form is one of the three shapes above. -/
theorem elementwiseVectorsComplete : Obligations.ElementwiseVectorsComplete := by
  unfold Obligations.ElementwiseVectorsComplete
  refine ⟨fun s x g d a b c form rnd sat dc ac cc bc h hd ha hn hb => ?two, fun s x g d a sat dc ac h hd ha hn => ?one⟩
  case two =>
    refine ⟨(exec_aadd ..).trans (vector2_ready h hd ha hn hb ..), (exec_amul ..).trans (vector2_ready h hd ha hn hb ..),
      fun hc hcn => (exec_afma ..).trans (vector3_ready h hd ha hn hb hc hcn ..), ?_, ?_⟩
    · rw [exec_amax, execAmax, vector2_ready h hd ha hn hb .rne fun _ p q => f32Max p q]
      exact congrArg _ (State.ended_setCtx_self (State.setCore_ctx h.1 (Core.mapCols_day ..)) rfl)
    · rw [exec_amin, execAmin, vector2_ready h hd ha hn hb .rne fun _ p q => f32Min p q]
      exact congrArg _ (State.ended_setCtx_self (State.setCore_ctx h.1 (Core.mapCols_day ..)) rfl)
  case one =>
    exact ⟨(exec_aexp2 ..).trans (vector1_ready h hd ha hn _), (exec_alog2 ..).trans (vector1_ready h hd ha hn _),
      (exec_arcp ..).trans (vector1_ready h hd ha hn _), (exec_arsq ..).trans (vector1_ready h hd ha hn _),
      (exec_asig ..).trans (vector1_ready h hd ha hn _), (exec_asigTanh ..).trans (vector1_ready h hd ha hn _),
      (exec_asigSilu ..).trans (vector1_ready h hd ha hn _), (exec_asigExpe ..).trans (vector1_ready h hd ha hn _),
      (exec_amov ..).trans (vector1_ready h hd ha hn _)⟩

/-! Reductions, broadcasts and conversions (R155 to R157). -/

/-- A register that holds a number below 2^32 holds it in its low half. -/
theorem low_word {w : Word} (h : w.toNat < 2 ^ 32) : (w.extractLsb' 0 32).toNat = w.toNat ∧ w.extractLsb' 32 32 = 0 := by
  refine ⟨?_, BitVec.eq_of_toNat_eq ?_⟩
  · rw [BitVec.extractLsb'_toNat, Nat.shiftRight_zero]; omega
  · rw [BitVec.extractLsb'_toNat, Nat.shiftRight_eq_div_pow]; show _ = 0; omega

theorem offAligned_ok {o : Nat} (h : o % 16 = 0) : offAligned (BitVec.ofNat 64 o) = .ok () :=
  require_ok (by rw [BitVec.toNat_ofNat, beq_iff_eq]; omega)

section
variable {i : Instr} {g : Guard} {s : State} {x : Ctx} {d a : Reg} {dc ac : Cols} (h : s.ready x g) (hd : s.mayUse x d dc)
include h hd

theorem reduceCols_ready (ha : s.mayUse x a ac) (hn : dc.n = 1) (rnd : Rnd) (step : Nat → F32 → F32 → F32) (one last : F32 → F32) :
    let o := s.core s.cur
    let m := ac.n - 1
    reduceCols i g d a rnd s step one last = .next (((s.setCore s.cur (o.mapCols dc.first dc.n fun r _ =>
      if m = 0 then one (o.accAt r ac.first)
      else last ((List.range m).foldl (fun v k => step (x.drawFor rnd (r * m + k)) v (o.accAt r (ac.first + k + 1))) (o.accAt r ac.first)))).setCtx
        (x.drawn rnd (128 * m))).ended s x) := by
  refine control_seq h (by simp) ?_
  have claimD := hd.claimCols_eq
  rw [hn] at claimD ⊢
  simp only [hd.rangeOf_eq _ hn, ha.colRange_eq, claimD, ha.claimCols_eq, Res.ok_bind, beq_iff_eq]

theorem spreadSpad_ready {ty : Ty} {count : Nat → Nat} {which : Nat → Nat → Nat} (small : (x.g a).toNat < 2 ^ 32)
    (aligned : (x.g a).toNat % 16 = 0) (claim : (x.g a).toNat + count dc.n * ty.bytes ≤ x.spadBytes)
    (free : (s.core s.cur).spadReady (x.g a).toNat (count dc.n * ty.bytes) = true)
    (clean : (s.core s.cur).spadPoisoned (x.g a).toNat (count dc.n * ty.bytes) = false) :
    spreadSpad i g d a ty s count which = .next ((s.setCore s.cur ((s.core s.cur).mapCols dc.first dc.n fun r j =>
      asF32 ty (leNat (Memory.bytes (s.core s.cur).spad ((x.g a).toNat + which r j * ty.bytes) ty.bytes)))).ended s x) := by
  refine control_seq h (by simp) ?_
  obtain ⟨low, high⟩ := low_word small
  have claim : claimOff x (x.g a).toNat (count dc.n * ty.bytes) = .ok () := require_ok (decide_eq_true claim)
  have clean : (s.core s.cur).rangePoison (x.g a).toNat (count dc.n * ty.bytes) = .ok () := require_ok (by rw [clean]; rfl)
  have zero : (0 : BitVec 32) == 0 := rfl
  simp only [hd.colRange_eq, hd.claimCols_eq, low, high, require_ok zero, offAligned_ok aligned, claim, await_ok free, clean, Res.ok_bind]

end

section
variable {i : Instr} {g : Guard} {s : State} {x : Ctx} {d a b : Reg} {ty : Ty} {dd : Desc} {ac : Cols}

theorem convertTile_ready {rnd : Rnd} {sat b32 : Bool} (h : s.ready x g) (hd : x.holdsDesc d dd) (plain : dd.sc = false)
    (ha : s.mayUse x a ac) (small : (x.g b).toNat < 2 ^ 32) (aligned : (x.g b).toNat % 16 = 0) (blocks : b32 = true → ac.n % 32 = 0)
    (pairs : ty = .e2m1 → ac.n % 2 = 0) (tile : dd.claim x ty.bits 128 ac.n = .ok ()) :
    let n := ac.n
    let grp := if b32 then 32 else n
    let c := s.core s.cur
    let val := fun r j => F32.val (c.accAt r (ac.first + j))
    let scale := fun r k => groupScale ty ((List.range grp).map fun j => val r (k * grp + j))
    (x.g b).toNat + 128 * (n / grp) ≤ x.spadBytes → c.spadReady 0 x.spadBytes = true →
    convertTile i g d a b ty rnd sat b32 s = .next (((s.setCore s.cur
      ({ c with
        spad := putTile dd ty.bits n (fun r j => match scale r (j / grp) with
          | none => 0
          | some e => ty.narrow rnd (x.drawFor rnd (r * n + j)) sat ((val r j).scale (-e))) c.spad
        poison := tileClean dd ty.bits n c.poison }.putSpad (x.g b).toNat
          ((List.range 128).flatMap fun r => (List.range (n / grp)).map fun k => match scale r k with
            | none => 0xFF
            | some e => BitVec.ofInt 8 (e + 127)))).setCtx (x.drawn rnd (128 * n))).ended s x) := by
  intro n grp c val scale claim free
  refine control_seq h (by simp) ?_
  obtain ⟨low, high⟩ := low_word small
  obtain ⟨fields, places⟩ := hd
  have shape : (!dd.sc && (0 : BitVec 32) == 0 && (!b32 || ac.n % 32 == 0) && (ty != .e2m1 || ac.n % 2 == 0)) = true := by
    have blocks : (!b32 || ac.n % 32 == 0) = true := by cases b32 <;> simp_all
    have pairs : (ty != .e2m1 || ac.n % 2 == 0) = true := by
      by_cases e2m1 : ty = .e2m1 <;> simp_all
    rw [blocks, pairs, plain]; rfl
  have claim : claimOff x (x.g b).toNat (128 * (ac.n / if b32 then 32 else ac.n)) = .ok () := require_ok (decide_eq_true claim)
  have free : (s.core s.cur).spadReady 0 x.spadBytes = true := free
  simp only [fields, ha.colRange_eq, low, high, require_ok shape, places, offAligned_ok aligned, ha.claimCols_eq, tile, claim,
    await_ok free, Res.ok_bind]
  rfl

end

/-- Settles O30: every form is one of the shapes above. -/
theorem vectorMovesComplete : Obligations.VectorMovesComplete := by
  unfold Obligations.VectorMovesComplete
  refine ⟨fun s x g d a ty rnd sat dc ac h hd => ⟨?reduce, ?column, ?spread⟩,
    fun s x g d a b ty rnd sat b32 dd ac o h hd plain ha ho small aligned blocks pairs tile => ?convert⟩
  case reduce =>
    intro ha hn
    refine ⟨(exec_aredSum ..).trans (reduceCols_ready h hd ha hn ..), ?_, ?_⟩
    · rw [exec_aredMax, execAredMax, reduceCols_ready h hd ha hn]
      exact congrArg _ (State.ended_setCtx_self (State.setCore_ctx h.1 (Core.mapCols_day ..)) rfl)
    · rw [exec_aredMin, execAredMin, reduceCols_ready h hd ha hn]
      exact congrArg _ (State.ended_setCtx_self (State.setCore_ctx h.1 (Core.mapCols_day ..)) rfl)
  case column =>
    intro ha hn
    have claimA := ha.claimCols_eq
    rw [hn] at claimA
    exact (exec_abcast ..).trans (control_seq h (by simp)
      (by simp only [hd.colRange_eq, ha.rangeOf_eq _ hn, hd.claimCols_eq, claimA, Res.ok_bind]))
  case spread =>
    exact fun small aligned => ⟨fun claim free clean => (exec_abcastRow ..).trans (spreadSpad_ready h hd small aligned claim free clean),
      fun claim free clean => (exec_abcastColv ..).trans (spreadSpad_ready h hd small aligned claim free clean)⟩
  case convert =>
    subst ho
    intro n grp c val scale claim free
    cases b32 with
    | false => exact (exec_acvt ..).trans (convertTile_ready h hd plain ha small aligned blocks pairs tile claim free)
    | true => exact (exec_acvtB32 ..).trans (convertTile_ready h hd plain ha small aligned blocks pairs tile claim free)

end Sys2Proof.Machine
end

section
/-! PROOFS. The canonical form of device memory (R277), and what it means for a computation to keep it: the rules by which a
computation keeps it as its parts do. -/

namespace Sys2Proof.Machine

/-- Device memory stands in its one canonical form (R277). -/
def State.Canon (s : State) : Prop := Memory.wf s.mem = true

/-- What holds of the value of a computation, if it answers one. -/
structure Res.Post {α : Type} (P : α → Prop) (r : Res α) : Prop where
  of_ok : ∀ {a}, r = .ok a → P a

/-- What holds of the value of an option, if there is one. -/
structure OptPost {α : Type} (P : α → Prop) (r : Option α) : Prop where
  of_some : ∀ {a}, r = Option.some a → P a

/-- The next state keeps its memory in canonical form. -/
structure Out.Kept (o : Out) : Prop where
  of_next : ∀ {t}, o = .next t → t.Canon

theorem Out.Kept.next {t : State} (h : t.Canon) : Out.Kept (.next t) := ⟨fun e => by cases e; exact h⟩

theorem OptPost.some {α : Type} {P : α → Prop} {a : α} (h : P a) : OptPost P (Option.some a) := ⟨fun e => by cases e; exact h⟩
theorem OptPost.none {α : Type} {P : α → Prop} : OptPost P Option.none := ⟨fun e => by cases e⟩
theorem OptPost.value {α : Type} {P : α → Prop} {a : α} (h : OptPost P (Option.some a)) : P a := h.of_some rfl
theorem OptPost.map {α β : Type} {P : α → Prop} {Q : β → Prop} {r : Option α} {f : α → β} (h : OptPost P r) (k : ∀ a, P a → Q (f a)) :
    OptPost Q (r.map f) := by
  cases r with
  | none => exact .none
  | some a => exact .some (k a h.value)

theorem Res.Post.ok {α : Type} {P : α → Prop} {a : α} (h : P a) : Res.Post P (.ok a) := ⟨fun e => by cases e; exact h⟩
theorem Res.Post.error {α : Type} {P : α → Prop} {e : Exc} : Res.Post P (.error e) := ⟨fun e => by cases e⟩
theorem Res.Post.value {α : Type} {P : α → Prop} {a : α} (h : Res.Post P (.ok a)) : P a := h.of_ok rfl
theorem Res.Post.bind {α β : Type} {P : α → Prop} {Q : β → Prop} {m : Res α} {f : α → Res β} (h : Res.Post P m)
    (k : ∀ a, P a → Res.Post Q (f a)) : Res.Post Q (m >>= f) := by
  cases m with
  | ok a => exact k a h.value
  | error e => exact .error
theorem Res.Post.skip {α β : Type} {Q : β → Prop} {m : Res α} {f : α → Res β} (k : ∀ a, Res.Post Q (f a)) : Res.Post Q (m >>= f) := by
  cases m with
  | ok a => exact k a
  | error e => exact .error
theorem Res.Post.ite {α : Type} {P : α → Prop} {c : Prop} [Decidable c] {r r' : Res α} (h : Res.Post P r) (h' : Res.Post P r') :
    Res.Post P (if c then r else r') := by
  split <;> assumption
theorem Res.Post.join {α β : Type} {Q : β → Prop} {c : Prop} [Decidable c] {m m' : Res α} {f : α → Res β}
    (k : ∀ a, Res.Post Q (f a)) : Res.Post Q (if c then m >>= f else m' >>= f) := .ite (.skip k) (.skip k)
theorem Res.Post.foldlM {α β : Type} {P : β → Prop} {f : β → α → Res β} (step : ∀ {b a}, P b → Res.Post P (f b a)) {b : β} (h : P b)
    {l : List α} : Res.Post P (l.foldlM f b) := by
  induction l generalizing b with
  | nil => exact .ok h
  | cons a r ih => exact .bind (step h) fun _ h => ih h
theorem Res.Post.map {α β : Type} {P : α → Prop} {Q : β → Prop} {m : Res α} {f : α → β} (h : Res.Post P m) (k : ∀ a, P a → Q (f a)) :
    Res.Post Q (m.map f) := by
  cases m with
  | ok a => exact .ok (k a h.value)
  | error e => exact .error
theorem Res.Post.map_skip {α β : Type} {Q : β → Prop} {m : Res α} {f : α → β} (k : ∀ a, Q (f a)) : Res.Post Q (m.map f) := by
  cases m with
  | ok a => exact .ok (k a)
  | error e => exact .error

theorem State.Canon.upd {s t : State} (h : s.Canon) (same : t.mem = s.mem) : t.Canon := by
  rw [State.Canon, same]; exact h
theorem State.Canon.foldl {α : Type} {f : State → α → State} {l : List α} {s : State} (h : s.Canon)
    (step : ∀ {t a}, t.Canon → (f t a).Canon) : (l.foldl f s).Canon := by
  induction l generalizing s with
  | nil => exact h
  | cons a r ih => exact ih (step h)
theorem State.Canon.foldl_fst {α β : Type} {f : State × β → α → State × β} {l : List α} {r : State × β} (h : r.1.Canon)
    (step : ∀ {r a}, r.1.Canon → (f r a).1.Canon) : (l.foldl f r).1.Canon := by
  induction l generalizing r with
  | nil => exact h
  | cons a l ih => exact ih (step h)
theorem State.Canon.ite {c : Prop} [Decidable c] {s t : State} (hs : s.Canon) (ht : t.Canon) : (if c then s else t).Canon := by
  split <;> assumption
theorem State.Canon.ite_fst {c : Prop} [Decidable c] {α : Type} {r r' : State × α} (h : r.1.Canon) (h' : r'.1.Canon) :
    (if c then r else r').1.Canon := by
  split <;> assumption
theorem State.Canon.of_eq {α : Type} {r : State × α} {t : State} {a : α} (h : r.1.Canon) (e : r = (t, a)) : t.Canon := by
  rw [e] at h; exact h

theorem State.Canon.reset : State.reset.Canon := State.reset_wf

end Sys2Proof.Machine
end

section
/-! PROOFS. Every operation that the steps are made of keeps device memory in canonical form: only a recall of update-only
copies and a write of device memory write it, and what is made of them writes nothing else. -/

namespace Sys2Proof.Machine

/-! The operations of the state, of memory and of translation (part 02, 03, 11, 15). -/

theorem State.Canon.setCore {s : State} {n : Nat} {c : Core} (hs : s.Canon) : (s.setCore n c).Canon := hs.upd rfl
theorem State.Canon.setDay {s : State} {n : Nat} {x : Option Ctx} (hs : s.Canon) : (s.setDay n x).Canon := hs.setCore
theorem State.Canon.setNight {s : State} {n : Nat} {x : Option Ctx} (hs : s.Canon) : (s.setNight n x).Canon := hs.setCore
theorem State.Canon.setCtx {s : State} {x : Ctx} (hs : s.Canon) : (s.setCtx x).Canon := hs.setDay
theorem State.Canon.setPart {s : State} {p : Nat} {q : Partition} (hs : s.Canon) : (s.setPart p q).Canon := hs.upd rfl
theorem State.Canon.raiseClock {s : State} {ag : Agent} {ts : Nat} (hs : s.Canon) : (s.raiseClock ag ts).Canon := hs.upd rfl
theorem State.Canon.handOver {s : State} {ag next : Agent} (hs : s.Canon) : (s.handOver ag next).Canon := hs.raiseClock
theorem State.Canon.stampLoad {s : State} {ag : Agent} {line : Nat} (hs : s.Canon) : (s.stampLoad ag line).Canon := by
  unfold State.stampLoad
  split
  exact hs.upd rfl
theorem State.Canon.stampWrites {s : State} {ag : Agent} {lines : List Nat} (hs : s.Canon) : (s.stampWrites ag lines).Canon := hs.upd rfl
theorem State.Canon.stampWrite {s : State} {ag : Agent} {line : Nat} (hs : s.Canon) : (s.stampWrite ag line).Canon := hs.stampWrites
theorem State.Canon.keepCopy {s : State} {ag : Agent} {home line lease : Nat} {bytes : List Byte} (hs : s.Canon) :
    (s.keepCopy ag home line lease bytes).Canon := hs.upd rfl
theorem State.Canon.dropCopies {s : State} {hit : Nat → Bool} (hs : s.Canon) : (s.dropCopies hit).Canon := hs.upd rfl
theorem State.Canon.noteRelease {s : State} {o : SyncObj} {r : Release} (hs : s.Canon) : (s.noteRelease o r).Canon := hs.upd rfl
theorem State.Canon.releaseAt {s : State} {ag : Agent} {o : SyncObj} (hs : s.Canon) : (s.releaseAt ag o).Canon := hs.noteRelease
theorem State.Canon.inherit {s : State} {ag : Agent} {covers : List Nat} (hs : s.Canon) : (s.inherit ag covers).Canon :=
  State.Canon.ite hs (hs.upd rfl)
theorem State.Canon.observe {s : State} {ag : Agent} {r : Release} (hs : s.Canon) : (s.observe ag r).Canon := hs.raiseClock.inherit
theorem State.Canon.acquire {s : State} {ag : Agent} {o : SyncObj} (hs : s.Canon) : (s.acquire ag o).Canon := by
  unfold State.acquire
  split
  · exact hs
  · exact hs.observe
theorem State.Canon.publish {s : State} {ag : Agent} {sc : Scope} (hs : s.Canon) : (s.publish ag sc).Canon := by
  unfold State.publish
  extract_lets +onlyGivenNames fab
  have hfab : fab.Canon := hs.foldl fun ht => ht.handOver
  split
  · exact hs
  · exact hs
  · exact hs
  · exact hfab
  · exact hfab.handOver
theorem State.Canon.bumpGen {s : State} {pa : Nat} (hs : s.Canon) : (s.bumpGen pa).Canon := by
  unfold State.bumpGen
  split
  · exact hs.upd rfl
  · exact hs
  · exact hs
theorem State.Canon.foldCopy {s : State} {line : Nat} {u : UpdateOnly} (hs : s.Canon) : (s.foldCopy line u).Canon :=
  State.foldCopy_wf hs line u
theorem State.Canon.combine {s : State} {line : Nat} {us rest : List (Nat × UpdateOnly)} (hs : s.Canon) : (s.combine line us rest).Canon :=
  State.Canon.foldl (hs.upd rfl) fun ht => ht.foldCopy
theorem State.Canon.recall {s : State} {line : Nat} (hs : s.Canon) : (s.recall line).Canon := State.recall_wf hs line
theorem State.Canon.recallAll {s : State} (hs : s.Canon) : (s.recallAll).Canon := hs.foldl fun ht => ht.recall
theorem State.Canon.fillView {s : State} {n line : Nat} (hs : s.Canon) : (s.fillView n line).Canon := by
  unfold State.fillView
  split
  · exact hs
  · dsimp only
    exact hs.upd rfl
theorem State.Canon.addPoison {s : State} {sector : Nat} (hs : s.Canon) : (s.addPoison sector).Canon := hs.upd rfl
theorem State.Canon.readHbm {s : State} {ag : Agent} {pa n : Nat} (hs : s.Canon) : (s.readHbm ag pa n).1.Canon :=
  State.readHbm_wf hs ag pa n
theorem State.Canon.cleanPoison {s : State} {pa n : Nat} (hs : s.Canon) : (s.cleanPoison pa n).Canon := State.Canon.ite (hs.upd rfl) hs
theorem State.Canon.writeHbm {s : State} {ag : Agent} {pa : Nat} {bs : List Byte} (hs : s.Canon) : (s.writeHbm ag pa bs).Canon :=
  State.writeHbm_wf hs ag pa bs
theorem State.Canon.stampReads {s : State} {ag : Agent} {reads : List Nat} (hs : s.Canon) : (s.stampReads ag reads).Canon := by
  unfold State.stampReads
  refine hs.foldl fun {t _} ht => ?_
  split
  · exact ht.recall.stampLoad
  · split
    · exact ht.recallAll.fillView.stampLoad
    · exact ht
  · exact ht.stampLoad
  · exact ht
  · exact ht
theorem State.Canon.stampWalk {s : State} {ag : Agent} {w : Walk} (hs : s.Canon) : (s.stampWalk ag w).Canon := hs.stampReads
theorem State.Canon.readTable {s : State} {ag : Agent} {va : Word} {pa : Nat} (hs : s.Canon) :
    Res.Post (fun r => r.1.Canon) (s.readTable ag va pa) := by
  unfold State.readTable
  refine .skip fun _ => ?_
  exact .ok hs.stampReads
theorem State.Canon.asidWord {s : State} {ag : Agent} {asid : BitVec 13} {k : Nat} (hs : s.Canon) :
    Res.Post (fun r => r.1.Canon) (s.asidWord ag asid k) := by
  unfold State.asidWord
  split
  · rename_i t _ eq
    have ht := hs.readTable.of_ok eq
    exact .ok ht
  · exact .ok hs
  · exact .error
theorem State.Canon.asidOf {s : State} {ag : Agent} {asid : BitVec 13} {p : Nat} (hs : s.Canon) :
    Res.Post (fun r => r.1.Canon) (s.asidOf ag asid p) := by
  unfold State.asidOf
  refine hs.asidWord.bind fun ⟨t, _⟩ ht => ?_
  dsimp only
  exact .ok ht
theorem State.Canon.ownAsid {s : State} {ag : Agent} {asid : BitVec 13} {p : Nat} {val : Word} (hs : s.Canon) :
    Res.Post State.Canon (s.ownAsid ag asid p val) := by
  unfold State.ownAsid
  refine hs.asidOf.bind fun ⟨t, _⟩ ht => ?_
  dsimp only
  split
  · exact .ok ht
  · exact .error
theorem State.Canon.noteDup {s : State} {ag : Agent} {w : Walk} (hs : s.Canon) : (s.noteDup ag w).Canon := by
  unfold State.noteDup
  split
  · split
    · exact State.Canon.ite hs (hs.upd rfl)
    · exact hs
  · exact hs
theorem State.Canon.noteHeld {s : State} {ag : Agent} {va : Word} {w : Walk} (hs : s.Canon) : (s.noteHeld ag va w).Canon :=
  State.Canon.ite hs.noteDup (hs.noteDup.upd rfl)
theorem State.Canon.countHot {s : State} {ag : Agent} {w : Walk} (hs : s.Canon) : (s.countHot ag w).Canon := State.Canon.ite (hs.upd rfl) hs
theorem State.Canon.editTask {s : State} {core id : Nat} {f : Ctx → Ctx} (hs : s.Canon) : (s.editTask core id f).Canon := by
  unfold State.editTask
  split
  · exact hs.setDay
  · exact hs.setNight
  · exact hs
theorem State.Canon.editJob {s : State} {core id : Nat} {f : Job → Job} (hs : s.Canon) : (s.editJob core id f).Canon := by
  unfold State.editJob
  split
  · exact hs.setCore
  · exact hs.editTask
theorem State.Canon.purity {s : State} {ag : Agent} {va : Word} {n : Nat} {write : Bool} (hs : s.Canon) :
    Res.Post State.Canon (s.purity ag va n write) := by
  unfold State.purity
  split
  · exact .ok hs
  · split
    · exact .ok hs
    · split
      · exact .ok hs
      · split
        · exact .error
        · split
          · exact .ok hs
          · exact .ok hs.editJob
theorem State.Canon.send {s : State} {port kind : Nat} {dest : BitVec 12} {addr : Nat} {bytes : List (Nat × Byte)} {op : RemoteOp}
    (hs : s.Canon) :
    (s.send port kind dest addr bytes op).Canon := by
  unfold State.send
  split
  · exact hs
  · exact hs.upd rfl
theorem State.Canon.issueRemote {s : State} {r : Remote} (hs : s.Canon) : (s.issueRemote r).Canon := State.Canon.send (hs.upd rfl)
theorem State.Canon.postRemote {s : State} {ag : Agent} {va : Word} {pa : Nat} {op : RemoteOp} {bs : List Byte} (hs : s.Canon) :
    Res.Post State.Canon (s.postRemote ag va pa op bs) := by
  unfold State.postRemote
  split
  · exact .error
  · split
    · exact .error
    · exact .ok hs.issueRemote
theorem State.Canon.consume {s : State} {ag : Agent} (hs : s.Canon) : (s.consume ag).Canon := hs.upd rfl
theorem State.Canon.askOutside {s : State} {e : Exc} (hs : s.Canon) : (s.askOutside e).Canon := by
  unfold State.askOutside
  split
  · exact hs
  · exact hs
  · exact hs.issueRemote
  · exact State.Canon.ite hs (hs.upd rfl)
  · exact State.Canon.ite hs (hs.upd rfl)
theorem State.Canon.writeHost {s : State} {ag : Agent} {pa : Nat} {bs : List Byte} (hs : s.Canon) : (s.writeHost ag pa bs).Canon :=
  hs.stampWrite.cleanPoison.upd rfl
theorem State.Canon.readAt {s : State} {ag : Agent} {va : Word} {pa n : Nat} {home : Bool} (hs : s.Canon) :
    Res.Post (fun r => r.1.Canon) (s.readAt ag va pa n home) := by
  unfold State.readAt
  dsimp only
  split
  · split
    · exact .error
    · exact .ok hs.readHbm
  · split
    · exact .error
    · split
      · exact .ok hs.recallAll.raiseClock
      · split
        · exact .error
        · exact .ok hs.recallAll.fillView.stampLoad.keepCopy
  · split
    · exact .error
    · split
      · exact .ok hs.raiseClock
      · refine .skip fun _ => ?_
        exact .ok hs.stampLoad.keepCopy
  · refine .skip fun _ => ?_
    exact .ok hs
  · exact .error
theorem Res.Post.refusing {α : Type} {P : α → Prop} {w : Walk} {r : Res α} (h : Res.Post P r) : Res.Post P (w.refusing r) := by
  cases r with
  | ok a => exact h
  | error e => cases e <;> exact .error
theorem State.Canon.loadVia {s : State} {ag : Agent} {va : Word} {n : Nat} {w : Walk} {fetch home : Bool} (hs : s.Canon) :
    Res.Post (fun r => r.1.Canon) (s.loadVia ag va n w fetch home) := by
  unfold State.loadVia
  have read : ∀ {t : State}, t.Canon → Res.Post (fun r => r.1.Canon) (do
      let (t, bs) ← w.refusing ((t.stampWalk ag w).readAt ag va w.pa n home)
      .ok ((t.countHot ag w).noteHeld ag va w, bs)) := fun ht =>
    .bind (.refusing ht.stampWalk.readAt) fun _ hu => .ok hu.countHot.noteHeld
  dsimp only
  split
  · exact read hs
  · exact hs.purity.bind fun t ht => read ht
theorem State.Canon.load {s : State} {ag : Agent} {va : Word} {n : Nat} {acc : Acc} {home : Bool} (hs : s.Canon) :
    Res.Post (fun r => r.1.Canon) (s.load ag va n acc home) := by
  unfold State.load
  refine .skip fun _ => ?_
  exact hs.loadVia
theorem State.Canon.writeAt {s : State} {ag : Agent} {va : Word} {pa : Nat} {bs : List Byte} (hs : s.Canon) :
    Res.Post State.Canon (s.writeAt ag va pa bs) := by
  unfold State.writeAt
  split
  · refine .skip fun _ => ?_
    exact .ok hs.writeHbm
  · exact .error
  · exact .ok hs.writeHost
  · exact hs.postRemote
  · exact .error
theorem State.Canon.descriptor {s : State} {ag : Agent} {val : Word} {desc : Nat} (hs : s.Canon) :
    Res.Post (fun r => r.1.Canon) (s.descriptor ag val desc) := by
  unfold State.descriptor
  refine hs.readTable.bind fun ⟨t, _⟩ ht => ?_
  refine .bind (Res.Post.foldlM (P := fun r : State × List Nat => r.1.Canon) (fun hu => ?_) ht) fun ⟨u, _⟩ hu => .ok hu
  exact hu.readTable.bind fun ⟨v, _⟩ hv => .ok hv
theorem State.Canon.collapse {s : State} {ag : Agent} {val : Word} {entry : Nat} {old : Word} {size : Nat} (hs : s.Canon) :
    Res.Post State.Canon (s.collapse ag val entry old size) := by
  unfold State.collapse
  refine hs.descriptor.bind fun ⟨t, _⟩ ht => ?_
  dsimp -zeta only
  extract_lets _ _ u v
  have hu : u.Canon := ht.upd rfl
  have hv : v.Canon := hu.dropCopies
  exact hv.writeAt.bind fun w hw => .ok (hw.upd rfl)
theorem State.Canon.markWritten {s : State} {pa n : Nat} (hs : s.Canon) : (s.markWritten pa n).Canon := hs.upd rfl
theorem State.Canon.forPhysical {s : State} {ag : Agent} {pa n : Nat} (hs : s.Canon) : Res.Post State.Canon (s.forPhysical ag pa n) := by
  unfold State.forPhysical
  dsimp only
  refine .foldlM (fun {t _} ht => ?_) hs.markWritten
  refine ht.readTable.bind fun ⟨u, _⟩ hu => ?_
  split
  · refine hu.descriptor.bind fun ⟨v, _⟩ hv => ?_
    split
    · exact hv.collapse
    · exact .ok hv
  · exact .ok hu
theorem State.Canon.atOnce {b t : State} {ag : Agent} {reads : List Nat} (ht : t.Canon) : Res.Post State.Canon (b.atOnce t ag reads) := by
  unfold State.atOnce
  dsimp only
  refine .skip fun _ => ?_
  split
  · exact .error
  · refine .bind (P := State.Canon) ?_ fun u hu => ?_
    · refine .foldlM (fun {u _} hu => ?_) ht
      exact hu.forPhysical
    · exact .ok (State.Canon.raiseClock (hu.upd rfl))
theorem State.Canon.forWrite {s : State} {ag : Agent} {va : Word} {n : Nat} {acc : Acc} {w : Walk} (hs : s.Canon) :
    Res.Post (fun r => r.1.Canon) (s.forWrite ag va n acc w) := by
  unfold State.forWrite
  refine .skip fun _ => ?_
  refine .bind (P := fun r => r.1.Canon) ?_ fun ⟨t, _⟩ ht => ?_
  · split
    · refine hs.collapse.bind fun t ht => ?_
      refine .skip fun _ => ?_
      exact .ok ht
    · exact .ok hs
  · dsimp only
    refine ht.forPhysical.bind fun u hu => ?_
    exact .ok hu
theorem State.Canon.notePatch {s : State} {ag : Agent} {pa n : Nat} (hs : s.Canon) : (s.notePatch ag pa n).Canon :=
  State.Canon.ite hs.editTask hs
theorem State.Canon.storeVia {s : State} {ag : Agent} {va : Word} {bs : List Byte} {w : Walk} (hs : s.Canon) :
    Res.Post State.Canon (s.storeVia ag va bs w) := by
  unfold State.storeVia
  refine hs.stampWalk.forWrite.bind fun ⟨t, _⟩ ht => ?_
  dsimp only
  refine ht.purity.bind fun u hu => ?_
  refine hu.writeAt.bind fun v hv => ?_
  exact .ok hv.countHot.noteHeld.notePatch
theorem State.Canon.store {s : State} {ag : Agent} {va : Word} {bs : List Byte} (hs : s.Canon) :
    Res.Post State.Canon (s.store ag va bs) := by
  unfold State.store
  refine .skip fun _ => ?_
  exact hs.storeVia
theorem State.Canon.updateVia {s : State} {ag : Agent} {va : Word} {n : Nat} {op : RemoteOp} {operand : List Byte}
    {f : List Byte → List Byte} {w : Walk} (hs : s.Canon) :
    Res.Post (fun r => r.1.Canon) (s.updateVia ag va n op operand f w) := by
  unfold State.updateVia
  refine .skip fun _ => ?_
  refine hs.stampWalk.forWrite.bind fun ⟨t, _⟩ ht => ?_
  dsimp only
  refine ht.purity.bind fun u hu => ?_
  split
  · refine .skip fun _ => ?_
    exact .ok hu
  · refine .skip fun _ => ?_
    refine .skip fun _ => ?_
    exact .ok hu.recall.writeHbm.countHot.noteHeld.notePatch
  · exact .error
  · exact .error
  · exact .error
theorem State.Canon.update {s : State} {ag : Agent} {va : Word} {n : Nat} {op : RemoteOp} {operand : List Byte}
    {f : List Byte → List Byte} (hs : s.Canon) :
    Res.Post (fun r => r.1.Canon) (s.update ag va n op operand f) := by
  unfold State.update
  refine .skip fun _ => ?_
  exact hs.updateVia
theorem State.Canon.loadMany {s : State} {ag : Agent} {va : Word} {n : Nat} {fuel : Nat} (hs : s.Canon) :
    Res.Post (fun r => r.1.Canon) (State.loadMany s ag va n fuel) := by
  induction fuel generalizing s ag va n with
  | zero =>
    unfold State.loadMany
    exact .ok hs
  | succ fuel ih =>
    unfold State.loadMany
    split
    · exact .ok hs
    · dsimp only
      refine hs.load.bind fun ⟨t, _⟩ ht => ?_
      refine (ih ht).bind fun ⟨u, _⟩ hu => ?_
      exact .ok hu
theorem State.Canon.loadN {s : State} {ag : Agent} {va : Word} {n : Nat} (hs : s.Canon) : Res.Post (fun r => r.1.Canon) (s.loadN ag va n) :=
  hs.loadMany
theorem State.Canon.loadWord {s : State} {ag : Agent} {va : Word} {home : Bool} (hs : s.Canon) :
    Res.Post (fun r => r.1.Canon) (s.loadWord ag va home) := by
  unfold State.loadWord
  refine hs.load.bind fun ⟨t, _⟩ ht => ?_
  dsimp only
  exact .ok ht
theorem State.Canon.storeMany {s : State} {ag : Agent} {va : Word} {bs : List Byte} {fuel : Nat} (hs : s.Canon) :
    Res.Post State.Canon (State.storeMany s ag va bs fuel) := by
  induction fuel generalizing s ag va bs with
  | zero =>
    unfold State.storeMany
    exact .ok hs
  | succ fuel ih =>
    unfold State.storeMany
    split
    · exact .ok hs
    · dsimp only
      refine hs.store.bind fun t ht => ?_
      exact ih ht
theorem State.Canon.storeN {s : State} {ag : Agent} {va : Word} {bs : List Byte} (hs : s.Canon) :
    Res.Post State.Canon (s.storeN ag va bs) := hs.storeMany
theorem State.Canon.writeSpad {s : State} {n : Nat} {x : Ctx} {o : Word} {bs : List Byte} (hs : s.Canon) :
    Res.Post State.Canon (s.writeSpad n x o bs) := by
  unfold State.writeSpad
  refine .skip fun _ => ?_
  refine .skip fun _ => ?_
  exact .ok hs.setCore
theorem State.Canon.setTaskEv {s : State} {n id : Nat} (hs : s.Canon) : (s.setTaskEv n id).Canon := hs.editTask
theorem State.Canon.setEv {s : State} {n : Nat} (hs : s.Canon) : (s.setEv n).Canon := hs.setCore
theorem State.Canon.putPhys {s : State} {ag : Agent} {pa : Nat} {bs : List Byte} (hs : s.Canon) :
    Res.Post State.Canon (s.putPhys ag pa bs) := by
  unfold State.putPhys
  refine .skip fun _ => ?_
  split
  · exact .ok hs
  · refine hs.forPhysical.bind fun t ht => ?_
    exact ht.writeAt
theorem State.Canon.putLines {ag : Agent} {fuel : Nat} {s : State} {n : Nat} {bs : List Byte} (hs : s.Canon) :
    Res.Post State.Canon (putLines ag fuel s n bs) := by
  induction fuel generalizing ag s n bs with
  | zero =>
    unfold Machine.putLines
    exact .ok hs
  | succ fuel ih =>
    unfold Machine.putLines
    split
    · exact .ok hs
    · dsimp only
      refine hs.putPhys.bind fun t ht => ?_
      exact ih ht
theorem State.Canon.putRange {s : State} {ag : Agent} {pa : Nat} {bs : List Byte} (hs : s.Canon) :
    Res.Post State.Canon (s.putRange ag pa bs) := hs.putLines
theorem State.Canon.getLines {ag : Agent} {fuel : Nat} {s : State} {n : Nat} {n' : Nat} (hs : s.Canon) :
    Res.Post (fun r => r.1.Canon) (getLines ag fuel s n n') := by
  induction fuel generalizing ag s n n' with
  | zero =>
    unfold Machine.getLines
    exact .ok hs
  | succ fuel ih =>
    unfold Machine.getLines
    split
    · exact .ok hs
    · dsimp only
      refine hs.readAt.bind fun ⟨t, _⟩ ht => ?_
      refine (ih ht).bind fun ⟨u, _⟩ hu => ?_
      exact .ok hu
theorem State.Canon.getRange {s : State} {ag : Agent} {pa n : Nat} (hs : s.Canon) : Res.Post (fun r => r.1.Canon) (s.getRange ag pa n) :=
  hs.getLines
theorem State.Canon.pushFault {s : State} {p : Nat} {r : FaultRecord} (hs : s.Canon) : Res.Post State.Canon (s.pushFault p r) := by
  unfold State.pushFault
  split
  · exact .error
  · refine .skip fun _ => ?_
    refine hs.putPhys.bind fun t ht => ?_
    exact .ok ht.setPart.setEv
theorem State.Canon.queueFault {s : State} {p : Nat} {fr : FaultRecord} (hs : s.Canon) : (s.queueFault p fr).Canon := by
  unfold State.queueFault
  split
  · exact hs
  · dsimp only
    split
    · split
      · rename_i t eq
        have ht := hs.pushFault.of_ok eq
        exact ht
      · exact hs.setPart.askOutside
    · exact hs.setPart
theorem State.Canon.leaveFault {s : State} {n p : Nat} {asid : BitVec 13} {t : Trap} (hs : s.Canon) : (s.leaveFault n p asid t).Canon :=
  hs.queueFault
theorem State.Canon.reportHalt {s : State} {p : Nat} (hs : s.Canon) : (s.reportHalt p).Canon := by
  unfold State.reportHalt
  extract_lets t
  have ht : t.Canon := by
    unfold t
    split
    · exact hs.setPart
    · exact hs
  exact ht.upd rfl
theorem State.Canon.ownHandler {s : State} {n : Nat} {x : Ctx} {t : Trap} {word resume : Word} {rec : FaultRecord} (hs : s.Canon) :
    (s.ownHandler n x t word resume rec).Canon := State.Canon.ite hs.setDay.reportHalt hs.setDay
theorem State.Canon.takeTrap {s : State} {n : Nat} {x : Ctx} {t : Trap} {word resume : Word} {async : Bool} (hs : s.Canon) :
    (s.takeTrap n x t word resume async).Canon := by
  unfold State.takeTrap
  dsimp only
  split
  · exact hs.ownHandler
  · split
    · exact hs.setDay
    · split
      · rename_i u eq
        have hu := hs.setCore.pushFault.of_ok eq
        exact hu
      · exact hs.setCore.askOutside.editTask

/-! Completions, traps and the control word. -/

theorem State.Canon.finish {s : State} {n : Nat} {word : Word} {f : Flow} (hs : s.Canon) : (s.finish n word f).Canon := by
  unfold State.finish
  split
  · exact hs
  · split
    · exact hs
    · exact hs.setDay
    · exact hs.setDay
    · exact hs.takeTrap
theorem State.Canon.waitAt {s : State} {x : Ctx} {w : Wait} (hs : s.Canon) : (s.waitAt x w).Canon := hs.setCtx
theorem State.Canon.interrupt {s : State} {x : Ctx} {word : Word} {e : Exc} (hs : s.Canon) : (s.interrupt x word e).Canon := by
  unfold State.interrupt
  split
  · exact hs.stampReads.consume.takeTrap
  · exact hs.consume.waitAt
  · exact hs.waitAt
  · exact hs.waitAt.askOutside
theorem State.Canon.control {s : State} {i : Instr} {g : Guard} {priv : Bool} {body : State → Ctx → Res (State × Flow)} (hs : s.Canon)
    (hb : ∀ x, Res.Post (fun r => r.1.Canon) (body s x)) : Out.Kept (control i g priv s body) := by
  unfold Machine.control
  split
  · exact .next hs
  · rename_i x _
    split
    · exact .next hs
    · split
      · exact .next hs.interrupt
      · split
        · exact .next hs.setCtx
        · split
          · rename_i t _ eq
            have ht : t.Canon := (hb x).of_ok eq
            exact .next ht.consume.finish
          · exact .next hs.interrupt
theorem State.Canon.simple {i : Instr} {g : Guard} {s : State} {f : Ctx → Ctx} (hs : s.Canon) : Out.Kept (simple i g s f) := by
  unfold Machine.simple
  refine hs.control (fun y => ?_)
  exact .ok hs.setCtx
theorem State.Canon.setG {s : State} {x : Ctx} {d : Reg} {v : Word} (hs : s.Canon) : (s.setG x d v).Canon := hs.setCtx
theorem State.Canon.startLimit {s : State} {n : Nat} (hs : s.Canon) : (s.startLimit n).Canon := State.Canon.ite hs.setCore hs
theorem State.Canon.raiseAsync {s : State} {core id : Nat} {t : Trap} {withholds : Bool} (hs : s.Canon) :
    (s.raiseAsync core id t withholds).Canon := State.Canon.ite hs.editTask.startLimit hs.editTask
theorem State.Canon.setFabric {s : State} {n : Nat} {f : Fabric} (hs : s.Canon) : (s.setFabric n f).Canon := by
  unfold State.setFabric
  split
  · exact hs
  · exact hs.setDay
theorem State.Canon.moveCross {s : State} {n : Nat} {w : Wire} (hs : s.Canon) : (s.moveCross n w).Canon := by
  unfold State.moveCross
  split
  · exact hs
  · dsimp only
    split
    · split
      · exact hs
      · split
        · exact State.Canon.ite hs (State.Canon.ite (State.Canon.ite hs hs.setFabric)
            (hs.setFabric.setFabric.foldl fun ht => ht.raiseAsync))
        · exact hs
    · exact hs
theorem State.Canon.settle {s : State} {n : Nat} (hs : s.Canon) : (s.settle n).Canon := by
  unfold State.settle
  split
  · exact hs
  · split
    exact (hs.setFabric.foldl fun ht => ht.raiseAsync).foldl fun ht => ht.moveCross
theorem State.Canon.siteStep {s : State} {n : Nat} {body : State → Ctx → Fabric → Option (State × Fabric × List Trap)} (hs : s.Canon)
    (hb : ∀ x f, OptPost (fun r => r.1.Canon) (body s x f)) : Out.Kept (siteStep s n body) := by
  unfold Machine.siteStep
  split
  · exact .next hs
  · split
    · exact .next hs
    · rename_i x f _
      split
      · exact .next hs
      · rename_i t g ts eq
        have ht : t.Canon := (hb x f).of_some eq
        exact .next ((ht.setFabric.foldl fun hu => hu.raiseAsync).settle)
theorem State.Canon.fire {op : ElemOp} {c e : Nat} {s : State} (hs : s.Canon) : Out.Kept (fire op c e s) := by
  unfold Machine.fire
  refine hs.siteStep (fun y f => ?_)
  split
  · exact .none
  · split
    · exact .none
    · split
      · split
        exact .some hs
      · split
        · split
          · split
            exact .some hs
          · exact .none
        · exact .none
theorem State.Canon.opStep {kind : Nat} {mode : Option Nat} {c o : Nat} {s : State} {act : Fabric → Nat → Operator → OpAct} (hs : s.Canon) :
    Out.Kept (opStep kind mode c o s act) := by
  unfold Machine.opStep
  refine hs.siteStep (fun y f => ?_)
  dsimp only
  split
  · exact .none
  · split
    · exact .none
    · split
      · split
        · exact .none
        · exact .some hs
      · split
        · exact .none
        · exact .some hs
        · exact .some hs
theorem State.Canon.addGroups {s : State} {cols : Cols} {first n : Nat} {a : Nat → Nat → FVal} {b : Nat → Nat → FVal} (hs : s.Canon) :
    (s.addGroups cols first n a b).Canon := hs.setCore
theorem State.Canon.runMma {s : State} {x : Ctx} {cols : Cols} {k : Nat} {a : Nat → Nat → FVal} {b : Nat → Nat → FVal} (hs : s.Canon) :
    (s.runMma x cols k a b).1.Canon := by
  unfold State.runMma
  dsimp only
  split
  · exact hs.addGroups
  · exact hs.addGroups.setCtx

/-! Matrix, accumulator and element instructions. -/

theorem State.Canon.mmaPause {s : State} {x : Ctx} {f : Fabric} {m : MmaSaved} (hs : s.Canon) : (s.mmaPause x f m).Canon := hs.setCtx.settle
theorem State.Canon.mmaTrap {s : State} {x : Ctx} {f : Fabric} {word : Word} {m : MmaSaved} (hs : s.Canon) : (s.mmaTrap x f word m).Canon :=
  hs.consume.takeTrap.settle
theorem State.Canon.mmaGroups {cols : Cols} {k : Nat} {ty : Ty} {chA chB : Bool} {a b : Nat → Nat → FVal} {word : Word} {fuel : Nat}
    {s : State} {x : Ctx} {f : Fabric} {m : MmaSaved} (hs : s.Canon) :
    (mmaGroups cols k ty chA chB a b word fuel s x f m).1.Canon := by
  induction fuel generalizing s x f m with
  | zero =>
    unfold Machine.mmaGroups
    split
    · exact hs.setCtx.settle
    · exact hs.mmaPause
  | succ fuel ih =>
    unfold Machine.mmaGroups
    split
    · exact hs.setCtx.settle
    · exact .ite_fst hs.mmaTrap (.ite_fst hs.mmaPause (ih hs.addGroups))
theorem State.Canon.vector1 {i : Instr} {g : Guard} {d a : Reg} {s : State} {f : F32 → F32} (hs : s.Canon) :
    Out.Kept (vector1 i g d a s f) := by
  unfold Machine.vector1
  refine hs.control (fun y => ?_)
  refine .skip fun _ => ?_
  refine .skip fun _ => ?_
  refine .skip fun _ => ?_
  refine .skip fun _ => ?_
  dsimp only
  exact .ok hs.setCore
theorem State.Canon.vector2 {i : Instr} {g : Guard} {d a b : Reg} {third : Option Reg} {form : OpForm} {rnd : Rnd} {s : State}
    {f : Nat → F32 → F32 → F32 → F32} (hs : s.Canon) :
    Out.Kept (vector2 i g d a b third form rnd s f) := by
  unfold Machine.vector2
  refine hs.control (fun y => ?_)
  dsimp only
  refine .skip fun _ => ?_
  refine .skip fun _ => ?_
  refine .skip fun _ => ?_
  refine .skip fun _ => ?_
  refine .skip fun _ => ?_
  refine .skip fun _ => ?_
  refine .skip fun _ => ?_
  refine .skip fun _ => ?_
  exact .ok hs.setCore.setCtx
theorem State.Canon.reduceCols {i : Instr} {g : Guard} {d a : Reg} {rnd : Rnd} {s : State} {step : Nat → F32 → F32 → F32}
    {one last : F32 → F32} (hs : s.Canon) :
    Out.Kept (reduceCols i g d a rnd s step one last) := by
  unfold Machine.reduceCols
  refine hs.control (fun y => ?_)
  dsimp only
  refine .skip fun _ => ?_
  refine .skip fun _ => ?_
  refine .skip fun _ => ?_
  refine .skip fun _ => ?_
  exact .ok hs.setCore.setCtx
theorem State.Canon.spreadSpad {i : Instr} {g : Guard} {d a : Reg} {ty : Ty} {s : State} {count : Nat → Nat} {which : Nat → Nat → Nat}
    (hs : s.Canon) :
    Out.Kept (spreadSpad i g d a ty s count which) := by
  unfold Machine.spreadSpad
  refine hs.control (fun y => ?_)
  dsimp only
  refine .skip fun _ => ?_
  refine .skip fun _ => ?_
  refine .skip fun _ => ?_
  refine .skip fun _ => ?_
  refine .skip fun _ => ?_
  refine .skip fun _ => ?_
  refine .skip fun _ => ?_
  exact .ok hs.setCore
theorem State.Canon.convertTile {i : Instr} {g : Guard} {d a b : Reg} {ty : Ty} {rnd : Rnd} {sat : Bool} {b32 : Bool} {s : State}
    (hs : s.Canon) :
    Out.Kept (convertTile i g d a b ty rnd sat b32 s) := by
  unfold Machine.convertTile
  refine hs.control (fun y => ?_)
  dsimp only
  refine .skip fun _ => ?_
  refine .skip fun _ => ?_
  refine .skip fun _ => ?_
  refine .skip fun _ => ?_
  refine .skip fun _ => ?_
  refine .skip fun _ => ?_
  refine .skip fun _ => ?_
  refine .skip fun _ => ?_
  refine .skip fun _ => ?_
  exact .ok hs.setCore.setCtx
theorem State.Canon.taskWrite {s : State} {n id : Nat} {o : Word} {bs : List Byte} (hs : s.Canon) :
    Res.Post State.Canon (s.taskWrite n id o bs) := by
  unfold State.taskWrite
  split
  · exact hs.writeSpad
  · refine .skip fun _ => ?_
    refine .skip fun _ => ?_
    split
    · dsimp only
      exact .ok hs.setNight
    · exact .error
  · exact .error
theorem State.Canon.setTaskFull {s : State} {n id : Nat} {l : List Nat} (hs : s.Canon) : (s.setTaskFull n id l).Canon := by
  unfold State.setTaskFull
  split
  · exact hs.setCore
  · exact hs.setNight
  · exact hs
theorem State.Canon.poisonTask {s : State} {n id : Nat} {o len : Nat} (hs : s.Canon) : (s.poisonTask n id o len).Canon := by
  unfold State.poisonTask
  dsimp only
  split
  · exact hs.setCore
  · exact hs.setNight
  · exact hs
theorem State.Canon.gather {s : State} {ag : Agent} {pa : Nat} {op : AmoOp} {dbl : Bool} {v : Word} (hs : s.Canon) :
    (s.gather ag pa op dbl v).Canon := by
  unfold State.gather
  extract_lets line off others t us
  have ht : t.Canon := by
    unfold t
    split
    · exact hs.recall
    · exact hs
  clear_value t us
  dsimp only
  exact State.Canon.bumpGen (ht.upd rfl)
theorem State.Canon.reduceVia {s : State} {ag : Agent} {va : Word} {op : AmoOp} {dbl : Bool} {v : Word} {sc : Scope} {w : Walk}
    (hs : s.Canon) :
    Res.Post State.Canon (s.reduceVia ag va op dbl v sc w) := by
  unfold State.reduceVia
  dsimp only
  refine .skip fun _ => ?_
  refine hs.stampWalk.forWrite.bind fun ⟨t, _⟩ ht => ?_
  refine ht.purity.bind fun u hu => ?_
  split
  · refine .skip fun _ => ?_
    refine .skip fun _ => ?_
    exact .ok (State.Canon.notePatch (State.Canon.noteHeld ((State.Canon.ite hu.gather hu.recall.writeHbm).countHot)))
  · exact hu.postRemote
  · exact .error
  · exact .error
  · exact .error
theorem State.Canon.reduce {s : State} {ag : Agent} {va : Word} {op : AmoOp} {dbl : Bool} {v : Word} {sc : Scope} (hs : s.Canon) :
    Res.Post State.Canon (s.reduce ag va op dbl v sc) := by
  unfold State.reduce
  refine .skip fun _ => ?_
  exact hs.reduceVia
theorem State.Canon.barRead {s : State} {n : Nat} {ag : Agent} {r : BarRef} (hs : s.Canon) :
    Res.Post (fun r => r.1.Canon) (s.barRead n ag r) := by
  unfold State.barRead
  refine .skip fun _ => ?_
  split
  · refine .skip fun _ => ?_
    refine hs.loadVia.bind fun ⟨t, _⟩ ht => ?_
    dsimp only
    exact .ok ht
  · refine .skip fun _ => ?_
    exact .ok hs
theorem State.Canon.barWrite {s : State} {n : Nat} {ag : Agent} {r : BarRef} {b : Bar} (hs : s.Canon) :
    Res.Post State.Canon (s.barWrite n ag r b) := by
  unfold State.barWrite
  refine .skip fun _ => ?_
  split
  · refine .skip fun _ => ?_
    exact hs.storeVia
  · exact hs.taskWrite
theorem State.Canon.barChecked {s : State} {n : Nat} {ag : Agent} {r : BarRef} (hs : s.Canon) :
    Res.Post (fun r => r.1.Canon) (s.barChecked n ag r) := by
  unfold State.barChecked
  refine hs.barRead.bind fun ⟨t, _⟩ ht => ?_
  dsimp only
  refine .skip fun _ => ?_
  exact .ok ht
theorem State.Canon.barUpdate {s : State} {n : Nat} {ag : Agent} {r : BarRef} {da : Nat} {ds : Int} (hs : s.Canon) :
    Res.Post State.Canon (s.barUpdate n ag r da ds) := by
  unfold State.barUpdate
  refine .skip fun _ => ?_
  dsimp only
  split
  · refine .skip fun _ => ?_
    refine hs.updateVia.bind fun ⟨t, _⟩ ht => ?_
    refine .skip fun _ => ?_
    exact .ok (State.Canon.ite ht.releaseAt ht)
  · refine hs.barChecked.bind fun ⟨t, _⟩ ht => ?_
    split
    · exact .error
    · refine ht.barWrite.bind fun u hu => ?_
      exact .ok (State.Canon.ite ((State.Canon.ite hu.setTaskEv hu).releaseAt) (State.Canon.ite hu.setTaskEv hu))

/-! The KV cache and attention. -/

theorem State.Canon.setKv {s : State} {die : Nat} {k : Kv} (hs : s.Canon) : (s.setKv die k).Canon := hs.upd rfl
theorem State.Canon.writeRange {ag : Agent} {fuel : Nat} {s : State} {n : Nat} {bs : List Byte} (hs : s.Canon) :
    (writeRange ag fuel s n bs).Canon := by
  induction fuel generalizing ag s n bs with
  | zero =>
    unfold Machine.writeRange
    exact hs
  | succ fuel ih =>
    unfold Machine.writeRange
    exact State.Canon.ite hs (ih hs.writeHbm)
theorem State.Canon.writeEngine {s : State} {ag : Agent} {pa : Nat} {bs : List Byte} (hs : s.Canon) : (s.writeEngine ag pa bs).Canon :=
  hs.writeRange
theorem State.Canon.poisonRange {s : State} {pa n : Nat} (hs : s.Canon) : (s.poisonRange pa n).Canon := hs.foldl fun ht => ht.addPoison
theorem State.Canon.setFrame {s : State} {die f : Nat} {e : Frame} {ag : Agent} (hs : s.Canon) : (s.setFrame die f e ag).Canon :=
  hs.writeEngine
theorem State.Canon.addCount {s : State} {die f : Nat} (hs : s.Canon) : (s.addCount die f).Canon := hs.setFrame
theorem State.Canon.subCount {s : State} {die f : Nat} {ag : Agent} (hs : s.Canon) : (s.subCount die f ag).Canon := hs.setFrame
theorem State.Canon.dropHolds {s : State} {die pass : Nat} (hs : s.Canon) : (s.dropHolds die pass).Canon := hs.setKv
theorem State.Canon.setMapEntry {s : State} {die : Nat} {q : Sequence} {n : Nat} {w : Word} {ag : Agent} (hs : s.Canon) :
    (s.setMapEntry die q n w ag).Canon := by
  unfold State.setMapEntry
  split
  · exact hs
  · exact hs.writeEngine
theorem State.Canon.setSeq {s : State} {die idx : Nat} {q : Sequence} (hs : s.Canon) : (s.setSeq die idx q).Canon := hs.setKv
theorem State.Canon.trapNow {s : State} {x : Ctx} {word : Word} {t : Trap} (hs : s.Canon) : (s.trapNow x word t).Canon :=
  hs.consume.takeTrap
theorem State.Canon.cow {s : State} {x : Ctx} {word : Word} {die : Nat} {page : Word} (hs : s.Canon) : (s.cow x word die page).Canon :=
  hs.setKv.trapNow
theorem State.Canon.newSeq {s : State} {die : Nat} {slab : Nat} {q : Sequence} (hs : s.Canon) : (s.newSeq die slab q).1.Canon := hs.setKv
theorem State.Canon.clearSlab {s : State} {die slab l : Nat} (hs : s.Canon) : (s.clearSlab die slab l).Canon := hs.writeEngine
theorem State.Canon.growTo {s : State} {die idx : Nat} {q : Sequence} {o l : Nat} (hs : s.Canon) : (s.growTo die idx q o l).1.Canon :=
  hs.clearSlab.setKv.setSeq
theorem State.Canon.kvControl {s : State} {i : Instr} {g : Guard} {home : Ctx → Nat} {reads : State → Ctx → List Nat}
    {body : State → Ctx → Res (State × Flow)} (hs : s.Canon)
    (hb : ∀ {b} x, b.Canon → Res.Post (fun r => r.1.Canon) (body b x)) : Out.Kept (kvControl i g home reads s body) := by
  unfold Machine.kvControl
  refine hs.control fun x => ?_
  have hc : ((s.setCtx x.impure).recallAll.raiseClock (kvAgent (home x.impure)) (s.clock (s.me x.impure))).Canon :=
    hs.setCtx.recallAll.raiseClock
  refine (hb _ hc).bind fun ⟨t, f⟩ ht => ?_
  exact ht.atOnce.bind fun u hu => .ok hu.raiseClock
theorem State.Canon.putSlot {s : State} {die base : Nat} {parts : List (Nat × Nat)} {data : List (List Byte)} (hs : s.Canon) :
    (s.putSlot die base parts data).Canon := hs.foldl fun ht => ht.writeEngine
theorem State.Canon.openPage {s : State} {die idx : Nat} {q : Sequence} {grp page : Nat} {room : Option (Nat × Nat)} {free : Option Nat}
    (hs : s.Canon) : (s.openPage die idx q grp page room free).1.Canon := by
  unfold State.openPage
  split
  rename_i t q eq
  have ht : t.Canon := by
    split at eq
    · exact State.Canon.of_eq hs.growTo eq
    · cases eq; exact hs
  cases free with
  | none => exact ht
  | some f => exact ht.setFrame.setMapEntry
theorem State.Canon.appendSlots {s : State} {die : Nat} {q : Sequence} {grp t0 : Nat} {data : List (List (List Byte))} (hs : s.Canon) :
    Res.Post State.Canon (s.appendSlots die q grp t0 data) := by
  unfold State.appendSlots
  refine .foldlM (fun {t _} ht => ?_) hs
  split
  dsimp only
  refine .skip fun _ => ?_
  exact .ok ht.putSlot.setFrame
theorem State.Canon.forkSeq {s : State} {die : Nat} {q : Sequence} {o : Nat} {fs : List (Nat × Nat)} (hs : s.Canon) :
    (s.forkSeq die q o fs).1.Canon := hs.setKv.clearSlab.foldl fun ht => ht.setMapEntry.addCount
theorem State.Canon.copyFrame {s : State} {die src dst n : Nat} (hs : s.Canon) : (s.copyFrame die src dst n).Canon :=
  hs.foldl fun ht => State.Canon.ite ht.writeEngine.poisonRange ht.writeEngine
theorem State.Canon.replaceFrame {s : State} {die : Nat} {q : Sequence} {grp page f f' : Nat} (hs : s.Canon) :
    (s.replaceFrame die q grp page f f').Canon := hs.copyFrame.setFrame.setMapEntry.subCount
theorem State.Canon.cutTo {s : State} {die : Nat} {q : Sequence} {len : Nat} (hs : s.Canon) :
    Res.Post (fun r => r.1.Canon) (s.cutTo die q len) := by
  unfold State.cutTo
  refine Res.Post.foldlM (P := fun r : State × _ => r.1.Canon) (fun {t _} ht => ?_) (by exact hs)
  split
  split
  · exact .ok ht
  · dsimp only
    refine .bind (P := State.Canon) ?_ fun t ht => ?_
    · refine .foldlM (fun {t _} ht => ?_) ht
      refine .skip fun _ => ?_
      exact .ok ht.setMapEntry.subCount
    · refine .bind (P := State.Canon) ?_ fun u hu => ?_
      · split
        · exact .ok ht
        · refine .skip fun _ => ?_
          exact .ok (State.Canon.ite ht.setFrame ht)
      · exact .ok hu
theorem State.Canon.releaseSeq {s : State} {die idx : Nat} {q : Sequence} (hs : s.Canon) : (s.releaseSeq die idx q).Canon := by
  unfold State.releaseSeq
  refine State.Canon.setKv (hs.foldl fun ht => ?_)
  split
  · exact ht.subCount.ite ht
  · exact ht
theorem State.Canon.putRetention {s : State} {die base : Nat} {q : Sequence} {t0 n : Nat} {bs : List Byte} (hs : s.Canon) :
    (s.putRetention die base q t0 n bs).Canon := hs.foldl fun ht => ht.foldl fun hu => hu.writeEngine
theorem State.Canon.compact {s : State} {die : Nat} {c : Compaction} {q : Sequence} (hs : s.Canon) :
    Res.Post State.Canon (s.compact die c q) := by
  unfold State.compact
  extract_lets
  refine .skip fun old => .skip fun kept => ?_
  extract_lets _ _ t u v w
  refine .skip fun _ => ?_
  have ht : t.Canon := hs.foldl fun h => h.setFrame
  have hu : u.Canon := by
    refine ht.foldl fun h => ?_
    refine h.foldl fun h => ?_
    dsimp only
    split
    · exact h.writeEngine.poisonRange.setFrame
    · exact h.writeEngine
  have hv : v.Canon := hu.foldl fun h => h.setMapEntry
  have hw : w.Canon := hv.foldl fun h => h.subCount
  exact hw.setSeq.atOnce
theorem State.Canon.readStage {s : State} {ag : Agent} {va : Word} (hs : s.Canon) : Res.Post (fun r => r.1.Canon) (s.readStage ag va) := by
  unfold State.readStage
  refine hs.loadN.bind fun ⟨t, _⟩ ht => ?_
  dsimp only
  split
  · refine ht.loadN.bind fun ⟨u, _⟩ hu => ?_
    exact .ok hu
  · exact .ok ht
theorem State.Canon.snapshot {s : State} {x : Ctx} {b : Binding} {word : Word} {slot0 count : Nat} (hs : s.Canon) :
    Res.Post (fun r => r.1.Canon) (s.snapshot x b word slot0 count) := by
  unfold State.snapshot
  dsimp only
  refine .skip fun _ => ?_
  refine .skip fun _ => ?_
  refine .skip fun _ => ?_
  refine .skip fun _ => ?_
  exact .ok (hs.raiseClock.foldl fun ht => ht.stampLoad)
theorem State.Canon.leaseBlock {s : State} {ag : Agent} {p : Pass} {frSz slot0 count k : Nat} (hs : s.Canon) :
    (s.leaseBlock ag p frSz slot0 count k).Canon := hs.foldl fun ht => ht.foldl fun hu => hu.recall.stampLoad
theorem State.Canon.blocks {ag : Agent} {frSz pos0 rows head slot0 count : Nat} {fuel : Nat} {s : State} {p : Pass} (hs : s.Canon) :
    Res.Post (fun r => r.1.Canon) (State.blocks ag frSz pos0 rows head slot0 count fuel s p) := by
  induction fuel generalizing ag frSz pos0 rows head slot0 count s p with
  | zero =>
    unfold State.blocks
    exact .ok hs
  | succ fuel ih =>
    unfold State.blocks
    dsimp only
    refine .skip fun _ => ?_
    exact ih hs.leaseBlock
theorem Res.Post.byUnit {α : Type} {P : α → Prop} {r : Res α} (h : Res.Post P r) : Res.Post P (byUnit r) := by
  cases r with
  | ok a => exact h
  | error e => cases e <;> exact .error
theorem State.Canon.startPass {s : State} {x : Ctx} {bd : Binding} {word : Word} {qd : Desc} {rows head slot0 count : Nat} (hs : s.Canon) :
    Res.Post (fun r => r.1.Canon) (s.startPass x bd word qd rows head slot0 count) := by
  unfold State.startPass
  refine hs.recallAll.snapshot.bind fun ⟨t, q, frames⟩ ht => ?_
  refine (Res.Post.byUnit (State.Canon.loadN ht)).bind fun ⟨u, cb⟩ hu => ?_
  dsimp -zeta only
  extract_lets _ _ _ v _ w
  refine .skip fun _ => .skip fun _ => .skip fun poss => ?_
  have hv : v.Canon := hu.foldl fun h => h.stampLoad
  have hw : w.Canon := hv.setKv
  exact .ok (hw.upd rfl)
theorem State.Canon.endPass {s : State} {x : Ctx} {p : Pass} {tri : Bool} {pos0 rows : Nat} {od : Desc} {oc ws : Cols} (hs : s.Canon) :
    (s.endPass x p tri pos0 rows od oc ws).Canon := hs.dropHolds.setCore.setCtx.raiseClock

/-! The fabric, its ports and its operators. -/

theorem State.Canon.latch {s : State} {ag : Agent} {va : Word} (hs : s.Canon) : Res.Post (fun r => r.1.Canon) (s.latch ag va) := by
  unfold State.latch
  split
  · exact .ok hs.stampWalk
  · exact .ok hs.stampReads
  · exact .error
theorem State.Canon.latchAll {s : State} {ag : Agent} {vas : List Word} (hs : s.Canon) :
    Res.Post (fun r => r.1.Canon) (s.latchAll ag vas) := by
  unfold State.latchAll
  refine Res.Post.foldlM (P := fun r : State × _ => r.1.Canon) (fun {t _} ht => ?_) (by exact hs)
  split
  refine ht.latch.bind fun ⟨t, _⟩ ht => ?_
  dsimp only
  exact .ok ht
theorem State.Canon.relatch {s : State} {ag : Agent} {ls : List Latch} (hs : s.Canon) :
    Res.Post (fun r => r.1.Canon) (s.relatch ag ls) := by
  unfold State.relatch
  refine Res.Post.foldlM (P := fun r : State × _ => r.1.Canon) (fun {t _} ht => ?_) (by exact hs)
  split
  split
  · refine ht.latch.bind fun ⟨t, _⟩ ht => ?_
    dsimp only
    exact .ok ht
  · exact .ok ht
theorem State.Canon.streamLoad {s : State} {c : Nat} {x : Ctx} {ag : Agent} {q : List Latch} {sp : Bool} {va : Word} {n : Nat}
    (hs : s.Canon) :
    Res.Post (fun r => r.1.Canon) (s.streamLoad c x ag q sp va n) := by
  unfold State.streamLoad
  split
  · refine .skip fun _ => ?_
    exact .ok hs
  · refine .skip fun _ => ?_
    exact hs.loadVia
theorem State.Canon.entryLoad {s : State} {c : Nat} {x : Ctx} {ag : Agent} {q : List Latch} {sp : Bool} {va : Word} (hs : s.Canon) :
    Res.Post (fun r => r.1.Canon) (s.entryLoad c x ag q sp va) := by
  unfold State.entryLoad
  split
  · exact hs.streamLoad
  · refine hs.streamLoad.bind fun ⟨t, _⟩ ht => ?_
    dsimp only
    refine ht.streamLoad.bind fun ⟨u, _⟩ hu => ?_
    exact .ok hu
theorem State.Canon.streamStore {s : State} {c : Nat} {x : Ctx} {ag : Agent} {q : List Latch} {sp : Bool} {va : Word} {bs : List Byte}
    (hs : s.Canon) :
    Res.Post State.Canon (s.streamStore c x ag q sp va bs) := by
  unfold State.streamStore
  split
  · exact hs.writeSpad
  · refine .skip fun _ => ?_
    exact hs.storeVia
theorem State.Canon.gated {s : State} {c p : Nat} {x : Ctx} {q : Port} (hs : s.Canon) : (s.gated c p x q).Canon :=
  hs.foldl fun ht => ht.acquire
theorem State.Canon.notePos {b t : State} {pos : Word} (ht : t.Canon) : (b.notePos t pos).Canon := ht.upd rfl
theorem State.Canon.portStep {c p : Nat} {s : State} {ok : StrmMode → Bool}
    {body : State → Ctx → Fabric → Port → Stream → Res (Option (State × Fabric × Port × Stream))} (hs : s.Canon)
    (hb : ∀ {t} x f q st, t.Canon → Res.Post (OptPost fun r : State × Fabric × Port × Stream => r.1.Canon) (body t x f q st)) :
      Out.Kept (portStep c p s ok body) := by
  unfold Machine.portStep
  refine hs.siteStep fun x f => ?_
  split
  · exact .none
  rename_i q0 _
  extract_lets +onlyGivenNames dusk ends
  split
  · exact .none
  split
  rename_i f q _
  extract_lets +onlyGivenNames moved put rest
  have hrest : OptPost (fun r : State × Fabric × List Trap => r.1.Canon) rest := by
    unfold rest
    split
    · exact .some hs
    · exact .none
  split
  · exact hrest
  rename_i st _
  split
  · exact hrest
  split
  · split
    split
    · exact hrest
    · exact .some hs
  have run := hb x f q st (State.Canon.ite (c := q.gate = true) (hs.gated (c := c) (p := p) (x := x) (q := q)) hs)
  split
  · exact hrest
  · rename_i t g q' st' eq
    split
    have ht : t.Canon := (run.of_ok eq).value
    exact .some ht.notePos.consume
  · exact .some hs.stampReads.consume
  · split
    · exact .some hs.setFabric.startLimit
    · exact hrest
  · exact .some hs.askOutside
theorem State.Canon.writeToken {c p : Nat} {s : State} {ok : StrmMode → Bool}
    {access : State → Ctx → Port → Stream → Word → BitVec 32 → Res State} (hs : s.Canon)
    (ha : ∀ {t} x q st w b, t.Canon → Res.Post State.Canon (access t x q st w b)) : Out.Kept (writeToken c p s ok access) := by
  unfold Machine.writeToken
  refine hs.portStep fun x f q st ht => ?_
  dsimp only
  split
  · exact .ok .none
  split
  · split
    · exact .ok .none
    split
    · exact .ok .none
    exact (ha _ _ _ _ _ ht).bind fun u hu => .ok (.some hu)
  split
  · exact .ok (.some ht)
  split
  · exact .ok (.some ht)
  split
  · exact .ok (.some ht)
  split
  · exact .ok .none
  · exact .error
theorem State.Canon.readWords {s : State} {ag : Agent} {va : Word} {n : Nat} (hs : s.Canon) :
    Res.Post (fun r => r.1.Canon) (s.readWords ag va n) := by
  unfold State.readWords
  refine hs.loadN.bind fun ⟨t, _⟩ ht => ?_
  dsimp only
  exact .ok ht
theorem State.Canon.readImage {s : State} {ag : Agent} {va word : Word} (hs : s.Canon) :
    Res.Post (fun r => r.1.Canon) (s.readImage ag va word) := by
  unfold State.readImage
  refine .skip fun _ => ?_
  refine hs.readWords.bind fun ⟨t, _⟩ ht => ?_
  dsimp only
  refine .skip fun _ => ?_
  refine .bind (P := fun r => r.1.Canon) ?_ fun ⟨u, _⟩ hu => ?_
  · refine Res.Post.foldlM (P := fun r : State × _ => r.1.Canon) (fun {u _} hu => ?_) (by exact ht)
    refine hu.readWords.bind fun ⟨v, _⟩ hv => ?_
    exact .ok hv
  · refine .bind (P := fun r => r.1.Canon) ?_ fun ⟨v, _⟩ hv => ?_
    · refine Res.Post.foldlM (P := fun r : State × _ => r.1.Canon) (fun {v _} hv => ?_) (by exact hu)
      refine hv.readWords.bind fun ⟨w, _⟩ hw => ?_
      refine .skip fun _ => ?_
      refine hw.readWords.bind fun ⟨t1, _⟩ ht1 => ?_
      exact .ok ht1
    · refine .bind (P := fun r => r.1.Canon) ?_ fun ⟨w, _⟩ hw => ?_
      · refine Res.Post.foldlM (P := fun r : State × _ => r.1.Canon) (fun {w _} hw => ?_) (by exact hv)
        refine hw.readWords.bind fun ⟨t1, _⟩ ht1 => ?_
        refine .skip fun _ => ?_
        refine ht1.readWords.bind fun ⟨u1, _⟩ hu1 => ?_
        exact .ok hu1
      · refine hw.readWords.bind fun ⟨t1, _⟩ ht1 => ?_
        exact .ok ht1
theorem State.Canon.fabricOf {s : State} {x : Ctx} {m : Staged} (hs : s.Canon) : Res.Post (fun r => r.1.Canon) (s.fabricOf x m) := by
  unfold State.fabricOf
  refine .bind (P := fun r => r.1.Canon) ?_ fun ⟨t, _⟩ ht => ?_
  · refine Res.Post.foldlM (P := fun r : State × _ => r.1.Canon) (fun {t _} ht => ?_) (by exact hs)
    split
    split
    dsimp only
    split
    · refine ht.latchAll.bind fun ⟨t, _⟩ ht => ?_
      exact .ok ht
    · dsimp only [Res.ok_bind]
      exact .ok ht
  · dsimp only
    refine .bind (P := fun r => r.1.Canon) ?_ fun ⟨u, _⟩ hu => ?_
    · refine Res.Post.foldlM (P := fun r : State × _ => r.1.Canon) (fun {u _} hu => ?_) (by exact ht)
      refine hu.latchAll.bind fun ⟨v, _⟩ hv => ?_
      exact .ok hv
    · exact .ok hu
theorem State.Canon.activate {s : State} {x : Ctx} {m : Staged} (hs : s.Canon) : Res.Post State.Canon (s.activate x m) := by
  unfold State.activate
  refine hs.fabricOf.bind fun ⟨t, _⟩ ht => ?_
  dsimp only
  exact .ok ht.setCtx.settle
theorem State.Canon.switch {s : State} {x : Ctx} {m : Staged} (hs : s.Canon) : Res.Post (fun r => r.1.Canon) (s.switch x m) := by
  unfold State.switch
  dsimp only
  split
  · exact .ok hs.setCtx
  · split
    · rename_i t eq
      have ht := hs.activate.of_ok eq
      exact .ok ht
    · exact .error
    · exact .ok hs.setCtx.askOutside
theorem State.Canon.checkedImage {s : State} {x : Ctx} {va word : Word} (hs : s.Canon) :
    Res.Post (fun r => r.1.Canon) (s.checkedImage x va word) := by
  unfold State.checkedImage
  refine hs.readImage.bind fun ⟨t, _⟩ ht => ?_
  dsimp only
  refine .skip fun _ => ?_
  exact .ok ht
theorem State.Canon.collRead {s : State} {ag : Agent} {part core : Nat} {word : Word} {op : Nat} {ty : Ty} {dst src count gd : Word}
    (hs : s.Canon) :
    Res.Post (fun r => r.1.Canon) (s.collRead ag part core word op ty dst src count gd) := by
  unfold State.collRead
  refine .skip fun _ => ?_
  refine .skip fun _ => ?_
  refine hs.loadN.bind fun ⟨t, _⟩ ht => ?_
  dsimp only
  refine .skip fun _ => ?_
  refine .skip fun _ => ?_
  refine .skip fun _ => ?_
  refine .skip fun _ => ?_
  refine .skip fun _ => ?_
  refine .skip fun _ => ?_
  exact .ok ht
theorem State.Canon.setGroup {s : State} {k : Nat} {g : Group} (hs : s.Canon) : (s.setGroup k g).Canon := hs.upd rfl

/-! Collectives, copies, rings and chains. -/

theorem State.Canon.collFresh {s : State} {g : Group} {lines : List Nat} (hs : s.Canon) : (s.collFresh g lines).Canon := hs.upd rfl
theorem State.Canon.collStore {s : State} {k : Nat} {g : Group} (hs : s.Canon) : (s.collStore k g).Canon := by
  unfold State.collStore
  split
  · exact hs
  · dsimp only
    split
    · exact State.Canon.ite hs.releaseAt.setGroup hs.setGroup
    · split
      · rename_i t eq
        have ht := hs.storeN.of_ok eq
        exact ht.collFresh.setGroup
      · exact hs.stampReads.setGroup
      · exact hs.askOutside
theorem State.Canon.collRun {s : State} {k : Nat} {gd : Word} (hs : s.Canon) : (s.collRun k gd).Canon := by
  unfold State.collRun
  split
  · exact hs
  · split
    · exact hs.collStore
    · split
      · exact hs
      · exact State.Canon.ite (State.Canon.ite hs.setGroup hs) (State.Canon.ite hs hs.setGroup.collStore)
theorem State.Canon.collSend {s : State} {g : Group} {group rank : Nat} {bs : List Byte} (hs : s.Canon) :
    (s.collSend g group rank bs).Canon := by
  unfold State.collSend
  split
  · exact hs
  · exact hs.foldl fun ht => ht.foldl fun hu => hu.send
theorem State.Canon.collJoin {s : State} {core task : Nat} {asid : BitVec 13} {by' : Agent} {c : CollOp} (hs : s.Canon) :
    Res.Post State.Canon (s.collJoin core task asid by' c) := by
  unfold State.collJoin
  split
  · exact .error
  · split
    · exact .ok hs.collRun
    · dsimp only
      refine hs.handOver.loadN.bind fun ⟨t, _⟩ ht => ?_
      exact .ok ht.consume.collFresh.setGroup.collSend.collRun
theorem State.Canon.collTake {s : State} {task : Nat} {c : CollOp} (hs : s.Canon) :
    OptPost (fun r => r.1.Canon) (s.collTake task c) := by
  unfold State.collTake
  split
  · exact .none
  split
  · exact .none
  · exact .some hs.setGroup
theorem State.Canon.collReturn {s : State} {ag : Agent} {group : Nat} (hs : s.Canon) : (s.collReturn ag group).Canon := by
  unfold State.collReturn
  split
  · exact hs.inherit
  · exact hs
theorem State.Canon.collTrap {s : State} {x : Ctx} {word : Word} {t : Trap} (hs : s.Canon) : (s.collTrap x word t).Canon :=
  hs.consume.takeTrap
theorem State.Canon.collective {i : Instr} {g : Guard} {op : Nat} {d a b c : Reg} {ty : Ty} {s : State} (hs : s.Canon) :
    Out.Kept (collective i g op d a b c ty s) := by
  unfold Machine.collective
  refine hs.control fun x => ?_
  refine hs.collRead.bind fun ⟨t, q⟩ ht => ?_
  have taken := State.Canon.collTake (task := x.id) (c := q) ht
  dsimp only
  split
  · rename_i u _ eq
    have hu : u.Canon := taken.of_some eq
    exact .ok hu.collTrap
  · rename_i u eq
    have hu : u.Canon := taken.of_some eq
    exact .ok hu.collReturn
  · refine .skip fun _ => (State.Canon.collJoin ht).bind fun u hu => ?_
    have taken := State.Canon.collTake (task := x.id) (c := q) hu
    split
    · rename_i v _ eq
      have hv : v.Canon := taken.of_some eq
      exact .ok hv.collTrap
    · rename_i v eq
      have hv : v.Canon := taken.of_some eq
      exact .ok hv.collReturn
    · exact .ok hu.waitAt
theorem State.Canon.sendEvents {s : State} {x : Ctx} {cores : List Nat} (hs : s.Canon) : (s.sendEvents x cores).Canon := hs.upd rfl
theorem State.Canon.fetch {s : State} {x : Ctx} (hs : s.Canon) : Res.Post (fun r => r.1.Canon) (s.fetch x) := by
  unfold State.fetch
  dsimp only
  refine .skip fun _ => ?_
  split
  · refine .skip fun _ => ?_
    exact .ok hs.stampWalk.stampLoad.countHot.noteHeld
  · refine hs.loadVia.bind fun ⟨t, _⟩ ht => ?_
    exact .ok (ht.upd rfl)
theorem State.Canon.amoGlobal {s : State} {x : Ctx} {d : Reg} {ea : Word} {dbl : Bool} {op : RemoteOp} {v : Word} {f : Word → Word}
    (hs : s.Canon) :
    Res.Post (fun r => r.1.Canon) (s.amoGlobal x d ea dbl op v f) := by
  unfold State.amoGlobal
  dsimp only
  refine .skip fun _ => ?_
  refine hs.update.bind fun ⟨t, _⟩ ht => ?_
  exact .ok ht.setCtx
theorem State.Canon.amoSpad {s : State} {x : Ctx} {d : Reg} {ea : Word} {dbl : Bool} {f : Word → Word} (hs : s.Canon) :
    Res.Post (fun r => r.1.Canon) (s.amoSpad x d ea dbl f) := by
  unfold State.amoSpad
  dsimp only
  refine .skip fun _ => ?_
  refine .skip fun _ => ?_
  refine hs.writeSpad.bind fun t ht => ?_
  exact .ok ht.setCtx
theorem State.Canon.seqLoad {s : State} {x : Ctx} {va : Word} {sp : Bool} (hs : s.Canon) :
    Res.Post (fun r => r.1.Canon) (s.seqLoad x va sp) := by
  unfold State.seqLoad
  refine .skip fun _ => ?_
  split
  · refine .skip fun _ => ?_
    exact .ok hs
  · exact hs.loadWord
theorem State.Canon.seqReturn {s : State} {x : Ctx} {d : Reg} {va : Word} {sp : Bool} {v : Word} (hs : s.Canon) :
    (s.seqReturn x d va sp v).Canon := (State.Canon.ite hs.acquire hs).setCtx
theorem State.Canon.setCopy {s : State} {c k : Nat} {p : Copy} (hs : s.Canon) : (s.setCopy c k p).Canon := hs.setCore
theorem State.Canon.setRing {s : State} {c k : Nat} {r : Ring} (hs : s.Canon) : (s.setRing c k r).Canon := hs.setCore
theorem State.Canon.setChain {s : State} {c k : Nat} {h : Chain} (hs : s.Canon) : (s.setChain c k h).Canon := hs.setCore
theorem State.Canon.enqueue {s : State} {c : Nat} {p : Copy} (hs : s.Canon) : (s.enqueue c p).Canon :=
  State.Canon.upd (State.Canon.ite hs hs.setCopy) rfl
theorem State.Canon.copyRead {s : State} {c : Nat} {p : Copy} {k : Nat} (hs : s.Canon) :
    Res.Post (fun r => r.1.Canon) (s.copyRead c p k) := by
  unfold State.copyRead
  extract_lets +onlyGivenNames _ r
  have hr : Res.Post (fun r => r.1.Canon) r := by
    unfold r
    split
    · refine .map_skip fun _ => ?_
      exact hs
    · exact hs.load
  clear_value r
  split
  · rename_i t _
    have ht : t.Canon := hr.value
    exact .ok ht
  · split
    · exact .ok hs.stampReads
    · exact .error
  · exact .error
theorem State.Canon.copyWrite {s : State} {c : Nat} {p : Copy} {k : Nat} {bs : List Byte} {bad : Bool} (hs : s.Canon) :
    Res.Post State.Canon (s.copyWrite c p k bs bad) := by
  unfold State.copyWrite
  dsimp only
  split
  · refine hs.taskWrite.bind fun t ht => ?_
    exact .ok (State.Canon.ite ht.poisonTask ht)
  · refine .skip fun _ => ?_
    split
    · refine hs.purity.bind fun t ht => ?_
      exact ht.postRemote
    · refine hs.storeVia.bind fun t ht => ?_
      split
      · refine .skip fun _ => ?_
        exact .ok ht.addPoison
      · exact .ok ht
theorem State.Canon.fillGranule {s : State} {c : Nat} {p : Copy} {a : Word} {bs : List Byte} {bad : Bool} (hs : s.Canon) :
    Res.Post State.Canon (s.fillGranule c p a bs bad) := by
  unfold State.fillGranule
  dsimp only
  refine .skip fun _ => ?_
  refine hs.taskWrite.bind fun t ht => ?_
  exact .ok (State.Canon.releaseAt ((State.Canon.ite ht.poisonTask ht).setTaskFull))
theorem State.Canon.fillSector {s : State} {c : Nat} {p : Copy} {k : Nat} (hs : s.Canon) :
    Res.Post (fun r => r.1.Canon) (s.fillSector c p k) := by
  unfold State.fillSector
  refine .bind (P := fun r => r.1.Canon) ?_ fun ⟨t, _⟩ ht => ?_
  · split
    · exact .ok hs
    · refine hs.copyRead.bind fun ⟨t, _⟩ ht => ?_
      dsimp only
      exact .ok ht
  · dsimp only
    refine .bind (P := fun r => r.1.Canon) ?_ fun ⟨u, _⟩ hu => ?_
    · split
      · exact .ok ht
      · split
        · rename_i u eq
          have hu := ht.fillGranule.of_ok eq
          exact .ok hu
        · exact .ok ht
        · exact .error
    · refine .bind (P := fun r => r.1.Canon) ?_ fun ⟨v, _⟩ hv => ?_
      · split
        · exact .ok hu
        · split
          · rename_i v eq
            have hv := hu.fillGranule.of_ok eq
            exact .ok hv
          · exact .ok hu
          · exact .error
      · exact .ok hv
theorem State.Canon.sectorWrite {s : State} {c : Nat} {p : Copy} {k : Nat} (hs : s.Canon) :
    Res.Post (fun r => r.1.Canon) (s.sectorWrite c p k) := by
  unfold State.sectorWrite
  split
  · refine hs.fillSector.bind fun ⟨t, _⟩ ht => ?_
    dsimp only
    exact .ok ht
  · refine hs.copyRead.bind fun ⟨t, _⟩ ht => ?_
    dsimp only
    refine ht.copyWrite.bind fun u hu => ?_
    exact .ok hu
theorem State.Canon.sectorCount {s : State} {c : Nat} {p : Copy} {k : Nat} (hs : s.Canon) :
    Res.Post (fun r => r.1.Canon) (s.sectorCount c p k) := by
  unfold State.sectorCount
  refine .skip fun _ => ?_
  refine .bind (P := State.Canon) ?_ fun t ht => ?_
  · split
    · exact .ok hs
    · exact hs.barUpdate
  · exact .ok ht
theorem State.Canon.swapWord {s : State} {ag : Agent} {va : Word} {v v' : Word} (hs : s.Canon) :
    Res.Post (fun r => r.1.Canon) (s.swapWord ag va v v') := by
  unfold State.swapWord
  refine .skip fun _ => ?_
  split
  · refine hs.storeVia.bind fun t ht => ?_
    exact .ok ht
  · refine hs.updateVia.bind fun ⟨t, _⟩ ht => ?_
    dsimp only
    exact .ok ht
theorem State.Canon.ringRead {s : State} {c : Nat} {r : Ring} {k : Nat} (hs : s.Canon) :
    Res.Post (fun r => r.1.Canon) (s.ringRead c r k) := by
  unfold State.ringRead
  dsimp only
  split
  · exact hs.loadWord
  · refine .map_skip fun _ => ?_
    exact hs
theorem State.Canon.ringWrite {s : State} {c : Nat} {r : Ring} {k : Nat} {v : Word} (hs : s.Canon) :
    Res.Post State.Canon (s.ringWrite c r k v) := by
  unfold State.ringWrite
  dsimp only
  split
  · exact hs.store
  · exact hs.taskWrite
theorem State.Canon.takeCredit {s : State} {c : Nat} {r : Ring} {credit : Word} (hs : s.Canon) :
    Res.Post (fun r => r.1.Canon) (s.takeCredit c r credit) := by
  unfold State.takeCredit
  split
  · exact hs.swapWord
  · refine hs.ringWrite.map fun t ht => ?_
    exact ht
theorem State.Canon.ringAdvance {s : State} {c k : Nat} {r : Ring} (hs : s.Canon) : Res.Post State.Canon (s.ringAdvance c k r) := by
  unfold State.ringAdvance
  refine hs.ringRead.bind fun ⟨t, _⟩ ht => ?_
  dsimp only
  split
  · exact .ok ht.setRing
  · refine ht.ringWrite.bind fun u hu => ?_
    exact .ok (State.Canon.ite hu.releaseAt.setCore hu.releaseAt.setRing)
theorem State.Canon.raiseCopy {s : State} {c : Nat} {p : Copy} {t : Trap} (hs : s.Canon) : (s.raiseCopy c p t).Canon :=
  State.Canon.ite hs.raiseAsync hs.editJob.leaveFault
theorem State.Canon.ringFail {s : State} {c k : Nat} {r : Ring} {a : Attempt} {e : Exc} (hs : s.Canon) : (s.ringFail c k r a e).Canon := by
  unfold State.ringFail
  split
  · exact State.Canon.ite hs.stampReads.setRing hs.stampReads.setRing.raiseAsync
  · exact hs.setRing.askOutside
theorem State.Canon.copyEnd {s : State} {c id : Nat} {p : Copy} (hs : s.Canon) : (s.copyEnd c id p).Canon := by
  unfold State.copyEnd
  split
  · exact hs.setCopy
  · dsimp only
    split
    · split
      · split
        · rename_i t eq
          have ht := hs.setCore.ringAdvance.of_ok eq
          exact ht
        · exact hs.setCore.ringFail
      · exact hs.setCore
    · exact hs.setCore
    · exact hs.setCore
theorem State.Canon.sectorStep {s : State} {c id k : Nat} {a : Attempt} (hs : s.Canon) : (s.sectorStep c id k a).Canon := by
  unfold State.sectorStep
  split
  · exact hs
  split
  · exact hs
  extract_lets +onlyGivenNames p r
  have hr : Res.Post (fun r => r.1.Canon) r := by
    unfold r
    split
    · exact hs.sectorCount
    split
    · rename_i t _ eq
      have ht : t.Canon := hs.sectorWrite.of_ok eq
      split
      · split
        · rename_i v eq
          exact .ok (ht.sectorCount.of_ok eq)
        · split <;> exact .ok ht.raiseCopy
        · exact .ok ht
      · exact .ok ht
    · exact .error
  clear_value r
  split
  · exact State.Canon.copyEnd (State.Canon.consume hr.value)
  · dsimp only
    split
    · exact hs.stampReads.raiseCopy.copyEnd
    · exact hs.stampReads.setCopy.ite hs.stampReads.setCopy.raiseCopy
  · exact hs.askOutside
theorem State.Canon.copyInstr {i : Instr} {g : Guard} {dir : BitVec 3} {d a b c : Reg} {fe gm : Bool} {sc : Scope} {s : State}
    (hs : s.Canon) :
    Out.Kept (copyInstr i g dir d a b c fe gm sc s) := by
  unfold Machine.copyInstr
  refine hs.control (fun y => ?_)
  refine .skip fun _ => ?_
  dsimp only
  refine hs.barChecked.bind fun ⟨t, _⟩ ht => ?_
  refine .skip fun _ => ?_
  exact .ok ht.handOver.enqueue
theorem State.Canon.dropChain {s : State} {c k : Nat} (hs : s.Canon) : (s.dropChain c k).Canon := hs.setCore
theorem State.Canon.chainStop {s : State} {c k : Nat} {h : Chain} {t : Trap} (hs : s.Canon) : (s.chainStop c k h t).Canon :=
  hs.stampReads.dropChain.raiseAsync
theorem State.Canon.chainStart {s : State} {c k : Nat} {h : Chain} (hs : s.Canon) : Res.Post State.Canon (s.chainStart c k h) := by
  unfold State.chainStart
  dsimp only
  refine .skip fun _ => ?_
  refine hs.loadN.bind fun ⟨t, _⟩ ht => ?_
  split
  · exact .ok ht.dropChain
  · refine .skip fun _ => ?_
    refine .skip fun _ => ?_
    refine .skip fun _ => ?_
    split
    · refine .skip fun _ => ?_
      refine .skip fun _ => ?_
      refine .skip fun _ => ?_
      exact .ok ht.setChain.enqueue
    · split
      · exact .error
      · refine .skip fun _ => ?_
        refine ht.collRead.bind fun ⟨u, _⟩ hu => ?_
        refine .skip fun _ => ?_
        refine hu.collJoin.bind fun v hv => ?_
        exact .ok hv.setChain
theorem State.Canon.chainTry {s : State} {c k : Nat} {h : Chain} (hs : s.Canon) : (s.chainTry c k h).Canon := by
  unfold State.chainTry
  split
  · rename_i t eq
    have ht := hs.chainStart.of_ok eq
    exact ht.consume
  · exact hs.chainStop
  · exact hs.askOutside
theorem State.Canon.chainDone {s : State} {c : Nat} {h : Chain} (hs : s.Canon) : OptPost (fun r => r.1.Canon) (s.chainDone c h) := by
  unfold State.chainDone
  split
  · exact .none
  · split
    · exact .none
    · exact .some hs
  · exact hs.collTake.map fun _ ht => State.Canon.acquire ht

/-! Lookup layers, graphs and reuse. -/

theorem State.Canon.chain {i : Instr} {g : Guard} {coll : Bool} {a b : Reg} {sc : Scope} {s : State} (hs : s.Canon) :
    Out.Kept (chain i g coll a b sc s) := by
  unfold Machine.chain
  refine hs.control (fun y => ?_)
  refine .skip fun _ => ?_
  refine .skip fun _ => ?_
  refine .skip fun _ => ?_
  extract_lets +onlyGivenNames _ t t1
  have ht : t.Canon := hs.handOver.setChain
  have ht1 : t1.Canon := ht.upd rfl
  exact .ok ht1.chainTry
theorem State.Canon.takePlane {s : State} {x : Ctx} (hs : s.Canon) : Res.Post State.Canon (s.takePlane x) := by
  unfold State.takePlane
  dsimp only
  split
  · exact .ok hs
  · split
    · exact .error
    · exact .ok hs.setCore
theorem State.Canon.lookup {i : Instr} {g : Guard} {s : State} {body : State → Ctx → Res (State × Flow)} (hs : s.Canon)
    (hb : ∀ {t} x, t.Canon → Res.Post (fun r => r.1.Canon) (body t x)) : Out.Kept (lookup i g s body) := by
  unfold Machine.lookup
  refine hs.control fun x => ?_
  exact hs.takePlane.bind fun t ht => hb _ ht
theorem State.Canon.setLcSlot {s : State} {c id slot : Nat} {v : LcSlot} (hs : s.Canon) : (s.setLcSlot c id slot v).Canon := hs.editTask
theorem State.Canon.loadFail {s : State} {c : Nat} {x : Ctx} {slot : Nat} {t : Trap} (hs : s.Canon) : (s.loadFail c x slot t).Canon :=
  hs.setLcSlot.raiseAsync
theorem State.Canon.loadEntry {s : State} {c : Nat} {x : Ctx} {slot : Nat} {image : Word} {n : Option Nat} {cells : List (Nat × Cell)}
    {entry : Nat} {a : Attempt} (hs : s.Canon) :
    (s.loadEntry c x slot image n cells entry a).Canon := by
  unfold State.loadEntry
  dsimp only
  split
  · rename_i t _ eq
    have ht := hs.load.of_ok eq
    split
    · exact State.Canon.ite ht.consume.setLcSlot ht.consume.loadFail
    · split
      · exact ht.consume.loadFail
      · exact State.Canon.ite ht.consume.setLcSlot ht.consume.setLcSlot
  · exact State.Canon.ite (State.Canon.ite hs.stampReads.setLcSlot hs.stampReads.setLcSlot.raiseAsync) hs.loadFail
  · exact hs.askOutside
theorem State.Canon.schedFault {s : State} {p : Nat} {asid : BitVec 13} {t : Trap} (hs : s.Canon) : (s.schedFault p asid t).Canon :=
  hs.queueFault
theorem State.Canon.nodeSector {s : State} {ag : Agent} {va : Word} {k : Nat} {n : Node} (hs : s.Canon) :
    Res.Post (fun r => r.1.Canon) (s.nodeSector ag va k n) := by
  unfold State.nodeSector
  refine hs.load.bind fun ⟨t, _⟩ ht => ?_
  dsimp only
  exact .ok ht
theorem State.Canon.readHead {s : State} {ag : Agent} {va : Word} (hs : s.Canon) : Res.Post (fun r => r.1.Canon) (s.readHead ag va) := by
  unfold State.readHead
  refine .skip fun _ => ?_
  exact hs.nodeSector
theorem State.Canon.readFiring {s : State} {ag : Agent} {va : Word} {n : Node} (hs : s.Canon) :
    Res.Post (fun r => r.1.Canon) (s.readFiring ag va n) := by
  unfold State.readFiring
  refine hs.nodeSector.bind fun ⟨t, _⟩ ht => ?_
  dsimp only
  split
  · exact .ok ht
  · exact ht.nodeSector
theorem State.Canon.writeNode {s : State} {ag : Agent} {va : Word} {n : Node} (hs : s.Canon) : Res.Post State.Canon (s.writeNode ag va n) :=
  hs.store
theorem State.Canon.noteQueued {s : State} {p : Nat} {q : Queued} (hs : s.Canon) : (s.noteQueued p q).Canon := by
  unfold State.noteQueued
  split
  · exact hs
  · exact hs.setPart
theorem State.Canon.enqueueRecord {s : State} {ag : Agent} {p : Nat} {va : Word} {n : Node} {bs : List Byte} (hs : s.Canon) :
    Res.Post (fun r => r.1.Canon) (s.enqueueRecord ag p va n bs) := by
  unfold State.enqueueRecord
  refine hs.storeN.bind fun t ht => ?_
  exact .ok ht.noteQueued
theorem State.Canon.operand {s : State} {ag : Agent} {va opnd : Word} {n : Nat} (hs : s.Canon) :
    Res.Post (fun r => r.1.Canon) (s.operand ag va opnd n) := by
  unfold State.operand
  split
  · exact .error
  · exact hs.loadN
theorem State.Canon.fireOne {s : State} {ag : Agent} {p : Nat} {va : Word} {n : Node} {budget : Nat} (hs : s.Canon) :
    Res.Post (OptPost fun r => r.1.Canon) (s.fireOne ag p va n budget) := by
  unfold State.fireOne
  split
  · split
    · refine hs.operand.bind fun ⟨t, _⟩ ht => ?_
      dsimp only
      refine ht.enqueueRecord.bind fun ⟨u, _⟩ hu => ?_
      refine .ok ?_
      exact .some hu
    · refine .skip fun _ => ?_
      refine .ok ?_
      exact .some hs
  · split
    · refine .ok ?_
      exact .none
    · split
      · refine .ok ?_
        exact .some hs
      · refine .skip fun _ => ?_
        refine hs.operand.bind fun ⟨t, _⟩ ht => ?_
        dsimp only
        split
        · refine .ok ?_
          exact .some ht
        · split
          · refine .ok ?_
            exact .some ht
          · refine .ok ?_
            exact .some ht
theorem State.Canon.fireMany {ag : Agent} {p : Nat} {va : Word} {fuel : Nat} {s : State} {d : Node} {ws : List Word} {n : Nat}
    (hs : s.Canon) :
    Res.Post (fun r => r.1.Canon) (fireMany ag p va fuel s d ws n) := by
  induction fuel generalizing s d ws n with
  | zero => exact .ok hs
  | succ k ih =>
    refine hs.fireOne.bind fun o ho => ?_
    cases o with
    | none => exact .ok hs
    | some r => exact ih ho.value
theorem State.Canon.nodeOp {s : State} {ag : Agent} {p : Nat} {va : Word} {k : Option Nat} {budget : Nat} (hs : s.Canon) :
    Res.Post (fun r => r.1.Canon) (s.nodeOp ag p va k budget) := by
  unfold State.nodeOp
  refine hs.readHead.bind fun ⟨t, _⟩ ht => ?_
  dsimp only
  refine .skip fun _ => ?_
  refine .skip fun _ => ?_
  refine .bind (P := fun r => r.1.Canon) ?_ fun ⟨u, _⟩ hu => ?_
  · split
    · split
      · exact .ok ht
      · exact ht.readFiring
    · split
      · split
        · exact .ok ht
        · exact ht.readFiring
      · split
        · exact .ok ht
        · exact ht.readFiring
  · refine hu.fireMany.bind fun ⟨v, _⟩ hv => ?_
    refine .bind (P := State.Canon) ?_ fun w hw => ?_
    · split
      · split
        · exact .ok hv
        · exact hv.writeNode
      · split
        · split
          · exact .ok hv
          · exact hv.writeNode
        · split
          · split
            · exact .ok hv
            · exact hv.writeNode
          · split
            · exact .ok hv
            · exact hv.writeNode
    · refine hw.atOnce.bind fun t1 ht1 => ?_
      exact .ok ht1.releaseAt
theorem State.Canon.runOps {fuel : Nat} {s : State} {n : Nat} {a : BitVec 13} {a' : List (Word × Option Nat)} {n' : Nat} (hs : s.Canon) :
    (State.runOps fuel s n a a' n').1.Canon := by
  induction fuel generalizing s n a a' n' with
  | zero =>
    unfold State.runOps
    exact hs
  | succ fuel ih =>
    unfold State.runOps
    split
    · exact hs
    · split
      · exact ih hs
      · dsimp only
        split
        · rename_i t _ _ _ eq
          have ht := hs.nodeOp.of_ok eq
          exact ih (State.Canon.ite ht.consume.schedFault ht.consume)
        · exact ih hs.stampReads.consume.schedFault
        · exact hs.askOutside
theorem State.Canon.setStat {s : State} {asid : BitVec 13} {r : ReuseStats} (hs : s.Canon) : (s.setStat asid r).Canon := hs.upd rfl
theorem State.Canon.setTable {s : State} {die : Nat} {r : Reuse} (hs : s.Canon) : (s.setTable die r).Canon := hs.upd rfl
theorem State.Canon.insertEntry {s : State} {asid : BitVec 13} {j : Job} (hs : s.Canon) : (s.insertEntry asid j).Canon := by
  unfold State.insertEntry
  split
  · exact hs
  · split
    · exact hs
    · exact State.Canon.ite hs hs.setTable.setStat
theorem State.Canon.removeEntries {s : State} {f : BitVec 13 → BitVec 128 → Word → Nat → Bool} (hs : s.Canon) :
    (s.removeEntries f).1.Canon := by
  unfold State.removeEntries
  refine State.Canon.foldl_fst (by exact hs) fun {t _} ht => ?_
  exact ht.setTable
theorem State.Canon.voidRuns {s : State} {f : BitVec 13 → BitVec 128 → Word → Nat → Bool} (hs : s.Canon) : (s.voidRuns f).Canon :=
  hs.upd rfl
theorem State.Canon.doneArrival {s : State} {p : Nat} {asid : BitVec 13} {done : Word} (hs : s.Canon) :
    Res.Post State.Canon (s.doneArrival p asid done) := hs.barUpdate
theorem State.Canon.runErrand {fuel : Nat} {s : State} {n : Nat} {a : Errand} (hs : s.Canon) : (State.runErrand fuel s n a).1.Canon := by
  induction fuel generalizing s n a with
  | zero =>
    unfold State.runErrand
    exact hs
  | succ fuel ih =>
    unfold State.runErrand
    dsimp only
    split
    · split
      · exact ih hs
      · split
        · exact hs
        · exact ih (State.Canon.ite hs.insertEntry hs.insertEntry.setCore)
    · split
      · split
        · rename_i t eq
          have ht := hs.observe.doneArrival.of_ok eq
          exact ih ht.consume
        · exact ih hs.observe.stampReads.consume.schedFault
        · exact hs.observe.askOutside
      · split
        · split
          · rename_i t _ eq
            have ht := hs.observe.nodeSector.of_ok eq
            exact ih ht.consume
          · exact ih hs.observe.stampReads.consume.schedFault
          · exact hs.observe.askOutside
        · split
          · exact ih hs.observe.runOps
          · exact hs.observe.runOps
        · exact hs.observe
        · exact ih hs.observe
theorem State.Canon.errand {s : State} {p : Nat} {e : Errand} (hs : s.Canon) : (s.errand p e).Canon := by
  unfold State.errand
  split
  · rename_i t eq
    have ht := hs.runErrand.of_eq eq
    exact ht
  · rename_i t _ eq
    have ht := hs.runErrand.of_eq eq
    split
    · exact ht.setPart
    · exact ht
theorem State.Canon.resumeErrands {s : State} {p : Nat} (hs : s.Canon) : (s.resumeErrands p).Canon := by
  unfold State.resumeErrands
  split
  · exact hs
  · exact hs.setPart.foldl fun ht => ht.errand
theorem State.Canon.cascade {s : State} {p : Nat} {asid : BitVec 13} {rel : Release} {out : List Word} {budget : Nat} (hs : s.Canon) :
    (s.cascade p asid rel out budget).Canon := hs.errand
theorem State.Canon.nodeCheck {s : State} {x : Ctx} {va : Word} (hs : s.Canon) : Res.Post (fun r => r.1.Canon) (s.nodeCheck x va) := by
  unfold State.nodeCheck
  refine .skip fun _ => ?_
  refine hs.loadWord.bind fun ⟨t, _⟩ ht => ?_
  dsimp only
  exact .ok ht
theorem State.Canon.enqueueOp {s : State} {ag : Agent} {p : Nat} {va : Word} {bs : List Byte} (hs : s.Canon) :
    Res.Post State.Canon (s.enqueueOp ag p va bs) := by
  unfold State.enqueueOp
  refine hs.readHead.bind fun ⟨t, _⟩ ht => ?_
  dsimp only
  refine .skip fun _ => ?_
  refine ht.enqueueRecord.bind fun ⟨u, _⟩ hu => ?_
  refine hu.writeNode.bind fun v hv => ?_
  refine hv.atOnce.bind fun w hw => ?_
  exact .ok hw.releaseAt
theorem State.Canon.enqueueAt {s : State} {x : Ctx} {va : Word} {bs : List Byte} (hs : s.Canon) :
    Res.Post State.Canon (s.enqueueAt x va bs) := by
  unfold State.enqueueAt
  refine hs.purity.bind fun t ht => ?_
  exact ht.enqueueOp
theorem State.Canon.firstOp {s : State} {x : Ctx} {va : Word} {k : Option Nat} (hs : s.Canon) :
    Res.Post State.Canon (s.firstOp x va k) := by
  unfold State.firstOp
  refine hs.purity.bind fun t ht => ?_
  split
  · rename_i u _ _ _ eq
    have hu := ht.nodeOp.of_ok eq
    extract_lets +onlyGivenNames t1
    have ht1 : t1.Canon := State.Canon.ite hu.schedFault hu
    exact .ok ht1.cascade
  · split
    · exact .ok ht.schedFault
    · exact .error
  · exact .error

/-! Dusk, tickets, the scheduler and invalidations. -/

theorem State.Canon.freeDay {s : State} {n : Nat} {x : Ctx} (hs : s.Canon) : (s.freeDay n x).Canon := hs.setCore
theorem State.Canon.park {s : State} {n : Nat} {x : Ctx} (hs : s.Canon) : (s.park n x).Canon := hs.freeDay.setNight
theorem State.Canon.rinv {s : State} {x : Ctx} {d : Reg} {f : BitVec 13 → BitVec 128 → Word → Nat → Bool} (hs : s.Canon) :
    (rinv s x d f).1.Canon := hs.setTable.setTable.setTable.setTable.voidRuns.setG
theorem State.Canon.rstat {i : Instr} {g : Guard} {d : Reg} {s : State} {f : State → Ctx → Word} (hs : s.Canon) :
    Out.Kept (rstat i g d s f) := by
  unfold Machine.rstat
  refine hs.control (fun y => ?_)
  exact .ok hs.setG
theorem State.Canon.endTicket {s : State} {p : Nat} {q : Partition} {reason : Nat} (hs : s.Canon) : (s.endTicket p q reason).Canon :=
  hs.setPart
theorem State.Canon.exportNow {s : State} {p : Nat} {q : Partition} {n : Nat} {y : Ctx} (hs : s.Canon) :
    Res.Post State.Canon (s.exportNow p q n y) := by
  unfold State.exportNow
  dsimp only
  split
  · exact .ok hs.endTicket
  · refine hs.putRange.map fun t ht => ?_
    exact State.Canon.endTicket (State.Canon.setCore (ht.upd rfl))
theorem State.Canon.exportParked {s : State} {n : Nat} {y : Ctx} (hs : s.Canon) : Res.Post State.Canon (s.exportParked n y) := by
  unfold State.exportParked
  split
  · exact .ok hs
  · split
    · exact hs.exportNow
    · exact .ok hs
theorem State.Canon.askDusk {s : State} {n : Nat} {d : Dusk} (hs : s.Canon) : (s.askDusk n d).Canon := State.Canon.ite hs hs.setCore
theorem State.Canon.drainStep {c : Nat} {s : State} {body : State → Ctx → Fabric → Option Fabric} (hs : s.Canon) :
    Out.Kept (drainStep c s body) := by
  unfold Machine.drainStep
  split
  · exact .next hs
  · split
    · exact .next hs
    · split
      · exact .next hs
      · exact .next hs.setFabric
theorem State.Canon.continueTask {s : State} {n id : Nat} {how : Attempt} (hs : s.Canon) : (s.continueTask n id how).Canon := by
  unfold State.continueTask
  split
  · exact hs
  · split
    exact (hs.editTask.foldl fun ht => ht.raiseAsync).setCore
theorem State.Canon.enter {s : State} {n : Nat} {y : Ctx} (hs : s.Canon) : (s.enter n y).Canon := hs.setCore.continueTask.settle
theorem State.Canon.besideNight {s : State} {n : Nat} (hs : s.Canon) : (s.besideNight n).Canon := by
  unfold State.besideNight
  split
  · exact hs.setNight
  · exact hs
theorem State.Canon.saveParts {s : State} {n : Nat} {y : Ctx} (hs : s.Canon) : Res.Post State.Canon (s.saveParts n y) := by
  unfold State.saveParts
  generalize 0x180000 = size
  split
  · exact .ok hs
  · exact hs.putRange
theorem State.Canon.streamPlane {s : State} {n : Nat} {y : Ctx} (hs : s.Canon) : (s.streamPlane n y).Canon := by
  unfold State.streamPlane
  dsimp only
  split
  · split
    · split
      · exact hs.askOutside
      · rename_i t eq
        have ht := hs.saveParts.of_ok eq
        exact ht.setCore
    · exact hs
  · split
    · exact State.Canon.ite hs hs.setCore
    · split
      · split
        · exact hs.askOutside
        · rename_i t eq
          have ht := hs.saveParts.of_ok eq
          exact ht.setCore
      · exact hs
  · exact hs.setCore
  · exact hs
theorem State.Canon.recordCheck {s : State} {ag : Agent} {slot : Word} (hs : s.Canon) :
    Res.Post (fun r => r.1.Canon) (s.recordCheck ag slot) := by
  unfold State.recordCheck
  extract_lets +onlyGivenNames r
  have hr : Res.Post (fun r => r.1.Canon) r := by
    unfold r
    refine hs.loadN.bind fun ⟨t, _⟩ ht => ?_
    dsimp only
    refine .skip fun _ => ?_
    refine .skip fun _ => ?_
    refine ht.loadN.bind fun ⟨u, _⟩ hu => ?_
    refine .skip fun _ => ?_
    refine .bind (P := State.Canon) ?_ fun v hv => ?_
    · refine .foldlM (fun {v _} hv => ?_) hu
      refine .foldlM (fun {w _} hw => ?_) hv
      refine .skip fun _ => ?_
      exact .ok hw.stampWalk
    · exact .ok hv
  clear_value r
  split
  · exact .error
  · exact hr
theorem State.Canon.takeRecord {s : State} {p : Nat} {asid : BitVec 13} {node : Word} (hs : s.Canon) :
    Res.Post State.Canon (s.takeRecord p asid node) := by
  unfold State.takeRecord
  refine hs.readHead.bind fun ⟨t, n⟩ ht => ?_
  dsimp -zeta only
  extract_lets +onlyGivenNames u n
  have hu : u.Canon := by
    unfold u
    split
    · exact State.Canon.setPart ht
    · exact ht
  clear_value u
  refine .bind (P := State.Canon) ?_ fun v hv => hv.atOnce
  split
  · exact hu.writeNode
  extract_lets r
  have hr : Res.Post (fun r => r.1.Canon) r :=
    hu.nodeSector.bind fun _ hv => .bind (State.Canon.loadN hv) fun _ hw => State.Canon.enqueueRecord hw
  clear_value r
  split
  · exact State.Canon.writeNode hr.value
  · exact hu.writeNode.map fun _ hv => hv.schedFault
  · exact .error
theorem State.Canon.forgetNode {s : State} {p : Nat} {asid : BitVec 13} {node : Word} {e : Trap} (hs : s.Canon) :
    (s.forgetNode p asid node e).Canon := by
  unfold State.forgetNode
  dsimp only
  split
  · exact hs.schedFault.setPart
  · exact hs.schedFault
theorem State.Canon.dropRecord {s : State} {p : Nat} {asid : BitVec 13} {node : Word} {e : Trap} (hs : s.Canon) :
    (s.dropRecord p asid node e).Canon := by
  unfold State.dropRecord
  split
  · rename_i t eq
    have ht := hs.takeRecord.of_ok eq
    exact ht.schedFault
  · exact hs.schedFault.forgetNode
  · exact hs.askOutside
theorem State.Canon.tileGranules {s : State} {ag : Agent} {tiles : List (Word × Nat)} (hs : s.Canon) :
    Res.Post (fun r => r.1.Canon) (s.tileGranules ag tiles) := by
  unfold State.tileGranules
  refine Res.Post.foldlM (P := fun r : State × _ => r.1.Canon) (fun {t _} ht => ?_) (by exact hs)
  split
  split
  · exact .ok ht
  · split
    · dsimp only
      split <;> exact .ok ht.stampWalk
    · exact .ok ht.stampReads
    · exact .error
theorem State.Canon.watch {s : State} {ag : Agent} {gs : List Nat} (hs : s.Canon) : (s.watch ag gs).1.Canon := by
  unfold State.watch
  extract_lets +onlyGivenNames s1
  have hs1 : s1.Canon := hs.raiseClock
  refine State.Canon.foldl_fst (by exact hs1) fun {t _} ht => ?_
  exact ht.upd rfl
theorem State.Canon.tileBytes {s : State} {ag : Agent} {tiles : List (Word × Nat)} (hs : s.Canon) :
    Res.Post (fun r => r.1.Canon) (s.tileBytes ag tiles) := by
  unfold State.tileBytes
  refine Res.Post.foldlM (P := fun r : State × _ => r.1.Canon) (fun {t _} ht => ?_) (by exact hs)
  split
  split
  split
  · exact .ok ht
  · split
    · rename_i t _ eq
      have ht := ht.loadN.of_ok eq
      exact .ok ht
    · exact .ok ht.stampReads
    · exact .error
theorem State.Canon.reuseKey {s : State} {ag : Agent} {asid : BitVec 13} (hs : s.Canon) : (s.reuseKey ag asid).1.Canon :=
  hs.foldl fun ht => ht.recall.stampLoad
theorem State.Canon.hitSectors {ag : Agent} {src dst : Word} {fuel : Nat} {n : Nat} {s : State} (hs : s.Canon) :
    Res.Post (fun r => r.1.Canon) (hitSectors ag src dst fuel n s) := by
  induction fuel generalizing ag src dst n s with
  | zero =>
    unfold Machine.hitSectors
    exact .ok hs
  | succ fuel ih =>
    unfold Machine.hitSectors
    dsimp only
    split
    · split
      · split
        · rename_i t eq
          have ht := hs.store.of_ok eq
          split
          · exact ih (State.Canon.ite ht.addPoison ht)
          · exact .ok ht
        · exact .ok hs.stampReads
        · exact .error
      · exact .ok hs.stampReads
    · exact .error
    · rename_i t _ eq
      have ht := hs.load.of_ok eq
      split
      · rename_i u eq
        have hu := ht.store.of_ok eq
        exact ih hu
      · exact .ok ht.stampReads
      · exact .error
theorem State.Canon.countLookup {s : State} {asid : BitVec 13} {hit : Bool} (hs : s.Canon) : (s.countLookup asid hit).Canon := hs.setStat
theorem State.Canon.lookupRecord {s : State} {p : Nat} {asid : BitVec 13} {node : Word} {r : Record} (hs : s.Canon) :
    Res.Post (fun r => r.1.Canon) (s.lookupRecord p asid node r) := by
  unfold State.lookupRecord
  dsimp only
  refine hs.asidWord.bind fun ⟨t, _⟩ ht => ?_
  split
  · exact .ok ht
  · refine ht.tileGranules.bind fun ⟨u, _⟩ hu => ?_
    refine hu.tileGranules.bind fun ⟨v, _⟩ hv => ?_
    split
    · refine hv.watch.acquire.handOver.tileBytes.bind fun ⟨w, _⟩ hw => ?_
      split
      · exact .ok hw.reuseKey.countLookup
      · exact .ok hw.reuseKey.countLookup
      · split
        · exact .ok hw.reuseKey.countLookup
        · split
          · split
            · exact .ok hw.reuseKey.countLookup
            · refine hw.reuseKey.hitSectors.bind fun ⟨t1, _⟩ ht1 => ?_
              split
              · exact .ok ht1.countLookup
              · exact .ok ht1.setTable.countLookup
              · exact .ok ht1.countLookup
          · exact .ok hw.reuseKey.setTable.countLookup
    · exact .ok hv.countLookup
theorem State.Canon.ownNode {s : State} {ag : Agent} {p : Nat} {asid : BitVec 13} {node : Word} (hs : s.Canon) :
    Res.Post (fun r => r.1.Canon) (s.ownNode ag p asid node) := by
  unfold State.ownNode
  refine hs.asidOf.bind fun ⟨t, _⟩ ht => ?_
  dsimp only
  split
  · refine ht.readHead.bind fun ⟨u, _⟩ hu => ?_
    exact .ok hu
  · exact .ok ht
theorem State.Canon.lookHeads {s : State} {p : Nat} (hs : s.Canon) : (s.lookHeads p).Canon := by
  unfold State.lookHeads
  split
  · exact hs
  refine hs.foldl fun {t _} ht => ?_
  dsimp -zeta only
  extract_lets +onlyGivenNames ag
  split
  · exact ht
  extract_lets r
  have hr : Res.Post State.Canon r := by
    refine ht.ownNode.bind fun ⟨u, n⟩ hu => ?_
    cases n with
    | none => exact .ok hu
    | some n =>
      dsimp only
      split
      · exact .ok hu
      · exact (State.Canon.loadN hu).map fun _ hv => hv
  clear_value r
  split
  · exact hr.value
  · exact ht.stampReads
  · exact ht.askOutside
theorem State.Canon.evictSpills {s : State} {n : Nat} {first last : Nat} (hs : s.Canon) :
    Res.Post State.Canon (s.evictSpills n first last) := by
  unfold State.evictSpills
  refine .foldlM (fun {t _} ht => ?_) hs
  split
  split
  · split
    · dsimp only
      refine .bind (P := State.Canon) ?_ fun u hu => ?_
      · split
        · exact .ok ht.stampReads
        · exact ht.storeN
      · exact .ok hu.setCore
    · exact .ok ht
  · exact .ok ht
theorem State.Canon.startTask {s : State} {p n : Nat} {asid : BitVec 13} {node slot : Word} {r : Record} {tag : Option (BitVec 128)}
    {granules : List (Nat × BitVec 32)} (hs : s.Canon) : (s.startTask p n asid node slot r tag granules).Canon := by
  unfold State.startTask
  extract_lets
  rename_i t
  have ht : t.Canon := hs.setCore
  clear_value t
  have hu : State.Canon { t with nextId := s.nextId + 1 } := ht.upd rfl
  exact hu.besideNight.acquire
theorem State.Canon.resumeParked {s : State} {n : Nat} (hs : s.Canon) : (s.resumeParked n).Canon := by
  unfold State.resumeParked
  split
  · exact hs.setNight.enter
  · exact hs
theorem State.Canon.dispatchHead {s : State} {p n : Nat} {node : Word} {asid : BitVec 13} (hs : s.Canon) :
    (s.dispatchHead p n node asid).Canon := by
  unfold State.dispatchHead
  dsimp only
  split
  · exact hs.acquire.forgetNode
  · exact hs.acquire.askOutside
  · rename_i t _ eq
    have ht := hs.acquire.readHead.of_ok eq
    split
    · exact ht.dropRecord
    · exact ht.askOutside
    · rename_i u _ eq
      have hu := ht.recordCheck.of_ok eq
      split
      · exact ht.askOutside
      · rename_i v eq
        have hv := hu.evictSpills.of_ok eq
        split
        · exact hv.forgetNode
        · exact ht.askOutside
        · rename_i w eq
          have hw := hv.takeRecord.of_ok eq
          exact hw.consume.startTask
theorem State.Canon.effect {s : State} {body : State → Ctx → Res State} (hs : s.Canon)
    (hb : ∀ x, Res.Post State.Canon (body s x)) : Out.Kept (effect s body) := by
  unfold Machine.effect
  split
  · exact .next hs
  · rename_i x _
    split
    · exact .next hs
    · split
      · exact .next hs.interrupt
      · split
        · rename_i t eq
          exact .next ((hb x).of_ok eq)
        · exact .next hs.interrupt
theorem State.Canon.drainFaults {s : State} {p : Nat} {fuel : Nat} (hs : s.Canon) : (State.drainFaults s p fuel).Canon := by
  induction fuel generalizing s p with
  | zero =>
    unfold State.drainFaults
    exact hs
  | succ fuel ih =>
    unfold State.drainFaults
    split
    · exact hs
    · split
      · exact hs
      · split
        · split
          · rename_i t eq
            have ht := hs.setPart.pushFault.of_ok eq
            exact ih ht
          · exact hs.askOutside
        · dsimp only
          split
          · exact hs
          · split
            · exact hs
            · split
              · split
                · rename_i t eq
                  have ht := hs.setDay.pushFault.of_ok eq
                  exact ih ht
                · exact hs.askOutside
              · exact hs
theorem State.Canon.writeFqHead {s : State} {x : Ctx} {v : Word} (hs : s.Canon) : Res.Post State.Canon (s.writeFqHead x v) := by
  unfold State.writeFqHead
  refine .skip fun _ => ?_
  exact .ok hs.setPart.drainFaults
theorem State.Canon.mapFabrics {s : State} {f : Bool → Ctx → Fabric → Fabric} (hs : s.Canon) : (s.mapFabrics f).Canon := hs.upd rfl
theorem State.Canon.markNodes {s : State} {p : Nat} {v : Word} (hs : s.Canon) : (s.markNodes p v).Canon := hs.mapFabrics
theorem State.Canon.dropHeld {s : State} {p : Nat} {v : Word} (hs : s.Canon) : (s.dropHeld p v).Canon := State.Canon.mapFabrics (hs.upd rfl)
theorem State.Canon.applyRoots {s : State} {p : Nat} {v : Word} (hs : s.Canon) : Res.Post State.Canon (s.applyRoots p v) := by
  unfold State.applyRoots
  dsimp only
  refine .bind (P := fun r => r.1.Canon) ?_ fun ⟨t, _⟩ ht => ?_
  · refine Res.Post.foldlM (P := fun r : State × _ => r.1.Canon) (fun {t _} ht => ?_) (by exact hs)
    refine .bind (P := fun r => r.1.Canon) ?_ fun ⟨u, _⟩ hu => ?_
    · split
      · exact ht.asidOf
      · exact .ok ht
    · exact .ok hu
  · exact .ok (ht.upd rfl)
theorem State.Canon.startInv {s : State} {p : Nat} {v : Word} (hs : s.Canon) : Res.Post State.Canon (s.startInv p v) := by
  unfold State.startInv
  refine hs.applyRoots.bind fun t ht => ?_
  exact .ok ht.markNodes
theorem State.Canon.quietRetries {s : State} {p : Nat} {v : Word} (hs : s.Canon) : (s.quietRetries p v).Canon := hs.upd rfl
theorem State.Canon.writeInv {s : State} {x : Ctx} {word v : Word} (hs : s.Canon) : Res.Post State.Canon (s.writeInv x word v) := by
  unfold State.writeInv
  refine .skip fun _ => ?_
  refine .skip fun _ => ?_
  dsimp only
  split
  · dsimp only [Res.ok_bind]
    refine .skip fun _ => ?_
    exact hs.setPart.startInv
  · refine hs.ownAsid.bind fun t ht => ?_
    refine .skip fun _ => ?_
    exact ht.setPart.startInv
theorem State.Canon.invalidate {s : State} {p : Nat} {v : Word} (hs : s.Canon) : (s.invalidate p v).Canon := hs.dropHeld.quietRetries
theorem State.Canon.endPop {s : State} {p reason : Nat} (hs : s.Canon) : (s.endPop p reason).Canon := by
  unfold State.endPop
  split
  · exact hs
  · exact hs.setPart
theorem State.Canon.popWrite {s : State} {ag : Agent} {o : PageOp} {pa : Nat} {bs : List Byte} (hs : s.Canon) :
    Res.Post State.Canon (s.popWrite ag o pa bs) := by
  unfold State.popWrite
  extract_lets +onlyGivenNames others
  have hothers : others.Canon := hs.upd rfl
  refine .skip fun _ => ?_
  refine hs.forPhysical.bind fun t ht => ?_
  exact ht.writeAt
theorem State.Canon.copyPage {ag : Agent} {o : PageOp} {src dst : Nat} {fuel : Nat} {s : State} (hs : s.Canon) :
    Res.Post State.Canon (copyPage ag o src dst fuel s) := by
  induction fuel generalizing ag o src dst s with
  | zero =>
    unfold Machine.copyPage
    exact .ok hs
  | succ fuel ih =>
    unfold Machine.copyPage
    refine (ih hs).bind fun t ht => ?_
    dsimp only
    refine ht.readHbm.popWrite.bind fun u hu => ?_
    exact .ok (State.Canon.ite hu.addPoison hu)
theorem State.Canon.afterReads {s : State} {ag : Agent} {page size : Nat} (hs : s.Canon) : (s.afterReads ag page size).Canon :=
  hs.raiseClock
theorem State.Canon.writeLeaf {s : State} {ag : Agent} {o : PageOp} {v : Word} (hs : s.Canon) : Res.Post State.Canon (s.writeLeaf ag o v) :=
  hs.popWrite
theorem State.Canon.popRefused {s : State} {ag : Agent} {op : Nat} {asid : BitVec 13} {p : Nat} {dst : Nat} {w : Walk} (hs : s.Canon) :
    Res.Post (fun r => r.1.Canon) (s.popRefused ag op asid p dst w) := by
  unfold State.popRefused
  refine hs.asidOf.bind fun ⟨t, _⟩ ht => ?_
  dsimp only
  split
  · exact .ok ht
  · split
    · split
      · refine ht.descriptor.bind fun ⟨u, _⟩ hu => ?_
        exact .ok hu
      · exact .ok ht
    · split
      · exact .ok ht
      · split
        · exact .ok ht
        · split
          · exact .ok ht
          · split
            · exact .ok ht
            · refine ht.descriptor.bind fun ⟨u, _⟩ hu => ?_
              exact .ok hu
theorem State.Canon.writePop {s : State} {x : Ctx} {op : Nat} {asid : BitVec 13} (hs : s.Canon) :
    Res.Post State.Canon (s.writePop x op asid) := by
  unfold State.writePop
  refine .skip fun _ => ?_
  refine .skip fun _ => ?_
  extract_lets +onlyGivenNames _ _ _ go
  have hgo : Res.Post State.Canon go := by
    unfold go
    refine .skip fun _ => ?_
    refine hs.stampWalk.popRefused.bind fun ⟨t, _⟩ ht => ?_
    dsimp only
    split
    · exact .ok ht.setPart.endPop
    · split
      · refine ht.handOver.setPart.writeLeaf.bind fun u hu => ?_
        exact hu.startInv
      · exact .ok ht.handOver.setPart
  clear_value go
  split
  · rename_i t
    have ht : t.Canon := hgo.value
    exact .ok ht.consume
  · exact .ok hs.stampReads.consume.setPart.endPop
  · exact .error
theorem State.Canon.popFinish {s : State} {o : PageOp} (hs : s.Canon) : Res.Post (fun r => r.1.Canon) (s.popFinish o) := by
  unfold State.popFinish
  dsimp only
  refine .bind (P := fun r => r.1.Canon) ?_ fun ⟨t, _⟩ ht => ?_
  · split
    · refine hs.descriptor.bind fun ⟨t, _⟩ ht => ?_
      exact .ok ht
    · exact .ok hs
  · refine ht.readAt.bind fun ⟨u, _⟩ hu => ?_
    split
    · split
      · refine hu.copyPage.bind fun v hv => ?_
        split
        · refine hv.writeLeaf.map fun w hw => ?_
          exact hw
        · split
          · refine hv.writeLeaf.map fun w hw => ?_
            exact hw
          · refine hv.afterReads.writeLeaf.map fun w hw => ?_
            exact hw
      · dsimp only [Res.ok_bind]
        split
        · refine hu.writeLeaf.map fun v hv => ?_
          exact hv
        · split
          · refine hu.writeLeaf.map fun v hv => ?_
            exact hv
          · refine hu.afterReads.writeLeaf.map fun v hv => ?_
            exact hv
    · split
      · refine hu.descriptor.bind fun ⟨v, _⟩ hv => ?_
        split
        · exact .ok hv
        · split
          · exact .ok hv
          · split
            · exact .ok hv
            · refine .bind (P := State.Canon) ?_ fun w hw => ?_
              · refine .foldlM (fun {w _} hw => ?_) hv
                exact hw.copyPage
              · refine hw.writeLeaf.bind fun t1 ht1 => ?_
                exact .ok (ht1.upd rfl)
      · split
        · exact .ok hu
        · refine hu.collapse.bind fun v hv => ?_
          exact .ok hv
theorem State.Canon.setPop {s : State} {p : Nat} {o : PageOp} (hs : s.Canon) : (s.setPop p o).Canon := by
  unfold State.setPop
  split
  · exact hs
  · exact hs.setPart
theorem State.Canon.kill {s : State} {n : Nat} {night : Bool} {y : Ctx} (hs : s.Canon) : (s.kill n night y).Canon :=
  State.Canon.upd (State.Canon.foldl ((State.Canon.ite hs.setNight hs.freeDay).setCore) fun ht => ht.dropHolds) rfl
theorem State.Canon.tcmdResume {s : State} {x : Ctx} {word : Word} (hs : s.Canon) : Res.Post State.Canon (s.tcmdResume x word) := by
  unfold State.tcmdResume
  refine .skip fun _ => ?_
  refine .skip fun _ => ?_
  split
  refine .skip fun _ => ?_
  split
  · exact .ok hs.setNight
  · exact .ok hs.setDay.continueTask.settle
theorem State.Canon.tcmdEnd {s : State} {x : Ctx} (hs : s.Canon) : Res.Post State.Canon (s.tcmdEnd x) := by
  unfold State.tcmdEnd
  refine .skip fun _ => ?_
  refine .skip fun _ => ?_
  split
  exact .ok hs.kill
theorem State.Canon.readHot {s : State} {x : Ctx} (hs : s.Canon) : Res.Post (fun r => r.1.Canon) (s.readHot x) := by
  unfold State.readHot
  refine .skip fun _ => ?_
  dsimp only
  exact .ok (State.Canon.ite (hs.upd rfl) hs)
theorem State.Canon.setRange {s : State} {n : Nat} {r : FormatRange} (hs : s.Canon) : (s.setRange n r).Canon := hs.upd rfl
theorem State.Canon.stampView {s : State} {ag : Agent} {n : Nat} {r : FormatRange} (hs : s.Canon) : (s.stampView ag n r).Canon := hs.upd rfl
theorem State.Canon.dropView {s : State} {r : FormatRange} (hs : s.Canon) : (s.dropView r).Canon := State.Canon.dropCopies (hs.upd rfl)
theorem State.Canon.writeCtl {s : State} {x : Ctx} {v : Word} (hs : s.Canon) : Res.Post State.Canon (s.writeCtl x v) := by
  unfold State.writeCtl
  refine .skip fun _ => ?_
  split
  dsimp only
  refine .skip fun _ => ?_
  split
  · exact .ok (State.Canon.ite hs hs.dropView.stampView)
  · split
    · exact .ok hs.setRange
    · exact .ok (State.Canon.ite (State.Canon.stampView (State.Canon.ite (hs.recallAll.foldl fun ht => ht.stampLoad) hs))
        (State.Canon.setRange (State.Canon.ite (hs.recallAll.foldl fun ht => ht.stampLoad) hs)))
theorem State.Canon.writeQuota {s : State} {x : Ctx} {v : Word} (hs : s.Canon) : Res.Post State.Canon (s.writeQuota x v) := by
  unfold State.writeQuota
  refine .skip fun _ => ?_
  refine hs.ownAsid.bind fun t ht => ?_
  refine ht.asidWord.bind fun ⟨u, _⟩ hu => ?_
  dsimp only
  exact .ok (hu.setStat.foldl fun hv => hv.setTable)
theorem State.Canon.writeDusk {s : State} {x : Ctx} (hs : s.Canon) : Res.Post State.Canon (s.writeDusk x) := by
  unfold State.writeDusk
  refine .skip fun _ => ?_
  refine .skip fun _ => ?_
  dsimp only
  exact .ok (State.Canon.ite hs.setCore hs.setCore.askDusk)
theorem State.Canon.writeRsz {s : State} {x : Ctx} {v : Word} (hs : s.Canon) : Res.Post State.Canon (s.writeRsz x v) := by
  unfold State.writeRsz
  refine .skip fun _ => ?_
  refine .skip fun _ => ?_
  dsimp only
  split
  · exact .ok hs.setPart
  · split
    · exact .ok hs.setPart
    · split
      · exact .ok hs.setPart
      · split
        · exact .ok hs.setPart
        · split <;> exact .ok hs.setPart
theorem State.Canon.writeMove {s : State} {x : Ctx} {v : Word} (hs : s.Canon) : Res.Post State.Canon (s.writeMove x v) := by
  unfold State.writeMove
  refine .skip fun _ => ?_
  refine .skip fun _ => ?_
  dsimp only
  split <;> exact .ok hs.setPart
theorem State.Canon.zeroCluster {s : State} {c : Nat} (hs : s.Canon) : (s.zeroCluster c).Canon := hs.foldl fun ht => ht.setCore
theorem State.Canon.moveCluster {s : State} {p : Nat} {q : Partition} {l c d : Nat} (hs : s.Canon) : (s.moveCluster p q l c d).Canon :=
  hs.zeroCluster.setPart
theorem State.Canon.removeCluster {s : State} {p l : Nat} {q : Partition} (hs : s.Canon) : (s.removeCluster p l q).Canon := by
  unfold State.removeCluster
  split
  · exact hs
  · split
    · exact hs
    · split
      · exact hs
      · exact State.Canon.ite hs hs.zeroCluster.setPart
      · exact State.Canon.ite hs hs.moveCluster
theorem State.Canon.settleTicket {s : State} {p : Nat} {q : Partition} (hs : s.Canon) : (s.settleTicket p q).1.Canon := by
  unfold State.settleTicket
  split
  · exact hs
  · split
    · exact hs
    · exact hs.setPart
theorem State.Canon.exportTicket {s : State} {x : Ctx} (hs : s.Canon) : Res.Post State.Canon (s.exportTicket x) := by
  unfold State.exportTicket
  refine .skip fun _ => ?_
  refine .skip fun _ => ?_
  split
  rename_i t _ eq
  have ht := hs.settleTicket.of_eq eq
  refine .skip fun _ => ?_
  dsimp only
  split
  · exact .ok ht.endTicket
  · split
    · exact ht.exportNow
    · exact .ok ht.endTicket
    · split
      · exact .ok ht.endTicket
      · split
        · exact .ok ht.endTicket
        · exact .ok ht.setPart.askDusk
theorem State.Canon.importTicket {s : State} {x : Ctx} {asid : BitVec 13} (hs : s.Canon) :
    Res.Post State.Canon (s.importTicket x asid) := by
  unfold State.importTicket
  refine .skip fun q => .skip fun n => ?_
  split
  rename_i t q eq
  have ht : t.Canon := State.Canon.of_eq hs.settleTicket eq
  refine .skip fun _ => ?_
  extract_lets ag
  refine .ite (.ok ht.endTicket) ?_
  have hr := ht.getRange (ag := ag) (pa := q.tkAddr.toNat) (n := ticketSize)
  generalize t.getRange ag q.tkAddr.toNat ticketSize = r at hr
  cases r with
  | error e => cases e <;> first | exact .ok ht.consume.endTicket | exact .error
  | ok r =>
    refine (State.Canon.asidWord (State.Canon.consume hr.value)).bind fun ⟨v, e⟩ hv => ?_
    dsimp only
    cases v.importRefused n (e.any fun w => entryV w && entryPart w == x.part) r.2 with
    | some r => exact .ok (State.Canon.endTicket hv)
    | none =>
      exact (State.Canon.evictSpills hv).bind fun w hw => .ok (State.Canon.endTicket (State.Canon.setNight (hw.upd rfl)))
theorem State.Canon.kvWrite {s : State} {x : Ctx} {n : Nat} {v : Word} (hs : s.Canon) : Res.Post State.Canon (s.kvWrite x n v) := by
  unfold State.kvWrite
  dsimp only
  split
  · exact .ok hs
  · split
    · exact .ok hs.setKv
    · exact .error

/-! Registers, host rings, the mailbox and the links. -/

theorem State.Canon.frrWrite {s : State} {x : Ctx} {n : Nat} {v : Word} (hs : s.Canon) : Res.Post State.Canon (s.frrWrite x n v) := by
  unfold State.frrWrite
  refine .skip fun _ => ?_
  split
  · exact .ok (hs.upd rfl)
  · split
    · exact hs.writeCtl
    · refine .skip fun _ => ?_
      split
      dsimp only
      refine .skip fun _ => ?_
      exact .ok hs.setRange
theorem State.Canon.readRoot {s : State} {x : Ctx} {q : Partition} (hs : s.Canon) : Res.Post (fun r => r.1.Canon) (s.readRoot x q) := by
  unfold State.readRoot
  refine hs.ownAsid.bind fun t ht => ?_
  refine ht.asidWord.bind fun ⟨u, _⟩ hu => ?_
  dsimp only
  exact .ok hu
theorem State.Canon.writeRoot {s : State} {x : Ctx} {q : Partition} {v : Word} (hs : s.Canon) :
    Res.Post State.Canon (s.writeRoot x q v) := by
  unfold State.writeRoot
  refine hs.ownAsid.bind fun t ht => ?_
  refine ht.asidWord.bind fun ⟨u, _⟩ hu => ?_
  dsimp -zeta only
  extract_lets +onlyGivenNames t1
  have ht1 : t1.Canon := hu.upd rfl
  exact .ok (State.Canon.ite ht1.setStat ht1)
theorem State.Canon.prtRead {s : State} {x : Ctx} {q : Partition} {n : Nat} (hs : s.Canon) :
    Res.Post (fun r => r.1.Canon) (s.prtRead x q n) := by
  unfold State.prtRead
  split
  · exact .ok hs
  · exact .ok hs
  · refine hs.ownAsid.bind fun t ht => ?_
    exact .ok ht
  · exact .ok hs
  · exact .ok hs
  · exact .ok hs
  · exact hs.readRoot
  · exact .ok hs
  · exact .ok hs
  · exact .ok hs
  · exact .ok hs
  · exact .ok hs
  · exact .ok hs
  · exact .ok hs
  · exact .ok hs
  · refine .map_skip fun _ => ?_
    exact hs
  · exact .ok hs
  · exact hs.readHot
  · exact .ok hs
  · exact .ok hs
  · exact .ok hs
  · exact .ok hs
  · exact .ok hs
  · exact .ok hs
  · exact .ok hs
  · exact .ok hs
  · refine .map_skip fun _ => ?_
    exact hs
  · exact .ok hs
  · exact .ok hs
  · exact .ok hs
  · exact .ok hs
  · exact .ok hs
  · exact .ok hs
  · exact .ok hs
  · split
    rename_i t _ eq
    have ht := hs.settleTicket.of_eq eq
    exact .ok ht
  · exact .ok hs
  · exact .ok hs
theorem State.Canon.prtWrite {s : State} {x : Ctx} {q : Partition} {word : Word} {n : Nat} {v : Word} (hs : s.Canon) :
    Res.Post State.Canon (s.prtWrite x q word n v) := by
  unfold State.prtWrite
  dsimp only
  split
  · exact .ok hs.setPart
  · exact .ok hs.setPart
  · exact hs.writeQuota
  · exact .ok hs.setPart
  · exact hs.writeRoot
  · exact hs.writeInv
  · exact .ok hs.setPart
  · refine .skip fun _ => ?_
    exact .ok hs.setPart
  · refine .skip fun _ => ?_
    exact .ok hs.setPart.drainFaults
  · exact hs.writeFqHead
  · exact .ok hs.setPart
  · refine .skip fun _ => ?_
    exact .ok (State.Canon.ite hs.setNight hs.setDay)
  · split
    · exact hs.tcmdResume
    · split
      · exact hs.tcmdEnd
      · exact .error
  · exact .ok hs.setPart
  · exact .ok hs.setPart
  · exact .ok hs.setPart
  · exact hs.writePop
  · refine .skip fun _ => ?_
    exact .ok hs.setPart
  · split
    · exact hs.writeDusk
    · exact .error
  · exact hs.writeRsz
  · exact hs.writeMove
  · exact .ok hs.setPart
  · exact .ok hs.setPart
  · split
    · exact hs.exportTicket
    · split
      · exact hs.importTicket
      · exact .error
  · exact .ok hs
theorem State.Canon.csrRead {s : State} {x : Ctx} {n : Nat} (hs : s.Canon) : Res.Post (fun r => r.1.Canon) (s.csrRead x n) := by
  unfold State.csrRead
  refine .ite (.ok hs) (.ite (.ok hs) (.ite (.ok hs) (.ite (.ok hs) (.ite (.ok hs) (.ite (.ok hs) (.ite (.ok hs) ?_))))))
  refine .ite (.ok hs) (.ite (.ok hs) (.ite (.ok hs) (.ite (.ok hs) (.ite ?_ (.ite ?_ (.ok hs))))))
  · exact .skip fun q => hs.prtRead
  · exact .map_skip fun _ => hs
theorem State.Canon.csrWrite {s : State} {x : Ctx} {word : Word} {n : Nat} {v : Word} (hs : s.Canon) :
    Res.Post State.Canon (s.csrWrite x word n v) := by
  unfold State.csrWrite
  split
  · exact .ok hs.setCtx
  · split
    · exact .ok hs.setCtx
    · split
      · exact .ok hs
      · split
        · exact hs.kvWrite
        · split
          · exact .ok hs
          · split
            · refine .skip fun _ => ?_
              exact hs.prtWrite
            · split
              · exact hs.frrWrite
              · split
                · exact .ok (hs.upd rfl)
                · exact .ok hs
theorem State.Canon.csrw {i : Instr} {g : Guard} {n : BitVec 12} {s : State} {f : State → Ctx → Res Word} (hs : s.Canon) :
    Out.Kept (csrw i g n s f) := by
  unfold Machine.csrw
  refine hs.control (fun y => ?_)
  refine .skip fun _ => ?_
  refine .skip fun _ => ?_
  refine hs.csrWrite.bind fun t ht => ?_
  exact .ok ht
theorem State.Canon.setErr {s : State} {bit : BitVec 4} (hs : s.Canon) : (s.setErr bit).Canon := hs.upd rfl
theorem State.Canon.writeSeq {s : State} {p : Nat} (hs : s.Canon) : (s.writeSeq p).Canon := by
  unfold State.writeSeq
  split
  · exact hs
  · split
    · exact hs
    · dsimp only
      split
      · split
        · rename_i t eq
          have ht := hs.setPart.publish.putPhys.of_ok eq
          exact ht
        · exact hs.askOutside
      · exact hs
theorem State.Canon.endEntry {s : State} {p : Nat} {seq : Word} (hs : s.Canon) : (s.endEntry p seq).Canon := by
  unfold State.endEntry
  split
  · exact hs
  · exact hs.setPart.writeSeq
theorem State.Canon.skipEntry {s : State} {p : Nat} {asid : BitVec 13} {at' : Nat} {code : TrapCode} {sub : Byte} {seq : Word}
    (hs : s.Canon) :
    (s.skipEntry p asid at' code sub seq).Canon := hs.schedFault.endEntry
theorem State.Canon.fireRoot {ag : Agent} {p : Nat} {s : State} {va : Word} (hs : s.Canon) :
    Res.Post State.Canon (State.fireRoot ag p s va) := by
  unfold State.fireRoot
  split
  · rename_i t _ _ _ eq
    have ht := hs.nodeOp.of_ok eq
    extract_lets +onlyGivenNames t1
    have ht1 : t1.Canon := State.Canon.ite ht.schedFault ht
    exact .ok ht1.cascade
  · exact .ok hs.stampReads.schedFault
  · exact .error
theorem State.Canon.runGraph {s : State} {p : Nat} {ag : Agent} {header : Word} (hs : s.Canon) :
    Res.Post State.Canon (s.runGraph p ag header) := by
  unfold State.runGraph
  refine .skip fun _ => ?_
  refine hs.load.bind fun ⟨t, _⟩ ht => ?_
  dsimp only
  refine .skip fun _ => ?_
  refine .bind (P := State.Canon) ?_ fun u hu => ?_
  · refine .foldlM (fun {u _} hu => ?_) ht
    refine hu.readHead.bind fun ⟨v, _⟩ hv => ?_
    exact .ok hv
  · refine .foldlM (fun {v _} hv => ?_) hu
    exact hv.fireRoot
theorem State.Canon.runRecord {s : State} {p : Nat} {ag : Agent} {node record : Word} (hs : s.Canon) :
    Res.Post State.Canon (s.runRecord p ag node record) := by
  unfold State.runRecord
  refine .skip fun _ => ?_
  refine .skip fun _ => ?_
  refine hs.readHead.bind fun ⟨t, _⟩ ht => ?_
  dsimp only
  refine .skip fun _ => ?_
  refine ht.loadN.bind fun ⟨u, _⟩ hu => ?_
  exact hu.enqueueOp
theorem State.Canon.takeEntry {s : State} {p : Nat} {want : Nat → Bool} (hs : s.Canon) : (s.takeEntry p want).Canon := by
  unfold State.takeEntry
  split
  · exact hs
  split
  · exact hs.writeSeq
  split
  · exact hs
  extract_lets +onlyGivenNames e
  split
  · exact hs.skipEntry.ite hs
  · exact hs.askOutside
  rename_i t bs eq
  have ht : t.Canon := hs.readAt.of_ok eq
  extract_lets +onlyGivenNames w kind asid ag
  split
  · exact hs
  split
  · exact ht.skipEntry
  split
  · exact hs.askOutside
  · rename_i u eq
    have hu : u.Canon := ht.asidOf.of_ok eq
    exact hu.skipEntry
  · rename_i u eq
    have hu : u.Canon := ht.asidOf.of_ok eq
    extract_lets r
    have hr : Res.Post State.Canon r := by
      unfold r
      split
      · exact hu.runGraph
      · split
        · exact hu.runRecord
        · exact .ok hu
    clear_value r
    split
    · exact State.Canon.endEntry (State.Canon.consume hr.value)
    · exact hu.stampReads.consume.skipEntry
    · exact hs.askOutside
theorem State.Canon.postResult {s : State} {tag result : Byte} (hs : s.Canon) : (s.postResult tag result).Canon := hs.upd rfl
theorem State.Canon.mailbox {s : State} {tag : Byte} {c : Command} (hs : s.Canon) : Out.Kept (s.mailbox tag c) := by
  unfold State.mailbox
  split
  · exact .next hs
  · split
    · exact .next hs.setErr
    · exact .next (hs.upd rfl)
theorem State.Canon.abandonSync {s : State} {v : Word} (hs : s.Canon) : (s.abandonSync v).Canon := hs.mapFabrics
theorem State.Canon.abandon {s : State} {c : Command} (hs : s.Canon) : (s.abandon c).Canon := by
  unfold State.abandon
  split
  · exact hs.abandonSync
  · split
    · split
      · exact hs.setPart
      · exact hs
      · exact hs
      · exact hs
    · exact hs
  · exact hs
  · exact hs
  · exact hs
  · exact hs
  · exact hs
  · exact hs
  · exact hs
  · exact hs
  · exact hs
  · exact hs
  · exact hs
theorem State.Canon.supClaim {s : State} {die : Nat} {asid : BitVec 13} {code : Word} (hs : s.Canon) :
    Res.Post (fun r => r.1.Canon) (s.supClaim die asid code) := by
  unfold State.supClaim
  dsimp only
  split
  · exact .ok hs
  · split
    · rename_i t _ eq
      have ht := hs.load.of_ok eq
      exact .ok ht
    · exact .ok hs.stampReads
    · exact .error
theorem State.Canon.createPart {s : State} {a : PartArgs} {cols spad : Nat} (hs : s.Canon) : (s.createPart a cols spad).Canon := by
  unfold State.createPart
  extract_lets
  rename_i t u
  have ht : t.Canon := hs.setCore
  have hu : u.Canon := ht.setPart
  exact hu.upd rfl
theorem State.Canon.destroyPart {s : State} {p : Nat} {q : Partition} (hs : s.Canon) : (s.destroyPart p q).Canon :=
  State.Canon.upd (hs.foldl fun ht => ht.setCore) rfl
theorem State.Canon.writeLines {ag : Agent} {fuel : Nat} {s : State} {n : Nat} {bs : List Byte} (hs : s.Canon) :
    (writeLines ag fuel s n bs).Canon := by
  induction fuel generalizing ag s n bs with
  | zero =>
    unfold Machine.writeLines
    exact hs
  | succ fuel ih =>
    unfold Machine.writeLines
    exact State.Canon.ite hs (ih hs.writeHost)
theorem State.Canon.runDaybreak {s : State} {tag : Byte} {begun : Bool} (hs : s.Canon) : (s.runDaybreak tag begun).Canon := by
  unfold State.runDaybreak
  split
  · exact hs.postResult
  extract_lets u t
  have hu : u.Canon := hs.writeLines
  have ht : t.Canon := by
    unfold t
    split
    · exact hs
    · exact hu.upd rfl
  clear_value t
  exact .ite (State.Canon.postResult (ht.upd rfl)) ht
theorem State.Canon.begin {s : State} {count : BitVec 4}  : (s.begin count).Canon := State.Canon.reset.upd rfl
theorem State.Canon.numbered {s : State} (hs : s.Canon) : (s.numbered).Canon := State.Canon.ite hs (hs.upd rfl)
theorem State.Canon.registerGroup {s : State} {k : Nat} {ms : List Member} (hs : s.Canon) : (s.registerGroup k ms).Canon :=
  hs.numbered.setGroup
theorem State.Canon.syncAsid {s : State} {tag : Byte} {asid : BitVec 13} {begun : Bool} (hs : s.Canon) :
    (s.syncAsid tag asid begun).Canon := by
  unfold State.syncAsid
  extract_lets +onlyGivenNames _ begin
  have hbegin : Res.Post State.Canon begin := by
    unfold begin
    split
    · exact .ok hs
    · refine hs.startInv.map fun t ht => ?_
      exact ht.upd rfl
  clear_value begin
  split
  · exact hs.askOutside
  · rename_i t
    have ht : t.Canon := hbegin.value
    exact State.Canon.ite ht.invalidate.postResult ht
theorem State.Canon.hostMove {s : State} {tag : Byte} {p l c : Nat} (hs : s.Canon) : (s.hostMove tag p l c).Canon := by
  unfold State.hostMove
  split
  · exact hs.postResult
  · split
    · split
      · exact hs
      · exact State.Canon.ite hs.moveCluster.postResult hs
    · exact hs
    · exact hs
    · split
      · exact hs.setPart.postResult
      · exact hs.setPart
theorem State.Canon.runArgs {s : State} {tag : Byte} {c : Command} (hs : s.Canon) : (s.runArgs tag c).Canon := by
  cases c with
  | daybreak begun => exact hs.runDaybreak
  | reset clear => exact .begin
  | unknown c => exact hs.postResult
  | partCreate a =>
    refine .ite hs.postResult (.ite hs.postResult ?_)
    split
    · exact hs.askOutside
    rename_i t e eq
    have ht : t.Canon := hs.asidWord.of_ok eq
    refine .ite ht.postResult (.ite ht.postResult ?_)
    split
    · exact ht.askOutside
    · rename_i u eq
      have hu : u.Canon := ht.supClaim.of_ok eq
      exact hu.postResult
    · rename_i u cols spad eq
      have hu : u.Canon := ht.supClaim.of_ok eq
      exact hu.createPart.postResult
  | partDestroy p =>
    unfold State.runArgs
    dsimp only
    split
    · exact hs.postResult
    · exact .ite hs.postResult hs.destroyPart.postResult
  | setTables a k => exact .ite hs.postResult (.ite hs.postResult (State.Canon.postResult (hs.upd rfl)))
  | asidSync asid begun => exact hs.syncAsid
  | frrOwner n p => exact .ite hs.postResult (.ite hs.postResult hs.setRange.postResult)
  | groupReg k ms => exact .ite hs.postResult (.ite hs.postResult (.ite hs.postResult hs.registerGroup.postResult))
  | aperture n d en =>
    exact .ite hs.postResult (.ite hs.postResult (State.Canon.postResult (hs.numbered.upd rfl)))
  | ticketKey key => exact State.Canon.postResult (hs.upd rfl)
  | clusterMove p l c => exact hs.hostMove
theorem State.Canon.runCommand {s : State} {tag : Byte} {c : Command} (hs : s.Canon) : (s.runCommand tag c).Canon := by
  unfold State.runCommand
  refine .ite hs.postResult (.ite hs.runArgs (.ite hs.postResult ?_))
  split
  · exact hs.stampLoad.runArgs
  · exact hs.askOutside
theorem State.Canon.hostRead {s : State} {a n : Nat} (hs : s.Canon) : (s.hostRead a n).Canon := by
  unfold State.hostRead
  have read : ((linePieces (n + 1) a n).foldl (fun (t, bs) (a, m) =>
      let (u, cs) := State.readHbm t (hostAgent.atHome (hbmDie a)) a m
      ({ u with hostCopies := setAdd u.hostCopies (lineOf a) }, bs ++ cs)) (s, [])).1.Canon :=
    State.Canon.foldl_fst (by exact hs) fun hr => State.Canon.upd (State.Canon.readHbm hr) rfl
  exact read.upd rfl
theorem State.Canon.noteLive {old new : State} {a n : Nat} (hnew : new.Canon) : (old.noteLive new a n).Canon :=
  State.Canon.ite hnew (hnew.foldl fun ht => State.Canon.ite ht.setStat ht)
theorem State.Canon.hostEntries {s : State} {a n : Nat} (hs : s.Canon) : (s.hostEntries a n).Canon := hs.upd rfl
theorem State.Canon.hostWrite {s : State} {a : Nat} {bs : List Byte} (hs : s.Canon) : Res.Post State.Canon (s.hostWrite a bs) := by
  unfold State.hostWrite
  refine hs.forPhysical.bind fun t ht => ?_
  extract_lets +onlyGivenNames t1 t2
  have ht1 : t1.Canon := ht.foldl fun hu => hu.writeHbm
  have ht2 : t2.Canon := ht1.hostEntries.noteLive
  exact .ok (ht2.upd rfl)
theorem State.Canon.setPort {s : State} {n : Nat} {p : DruatPort} (hs : s.Canon) : (s.setPort n p).Canon := hs.upd rfl
theorem State.Canon.askReplay {s : State} {n : Nat} (hs : s.Canon) : (s.askReplay n).Canon := by
  unfold State.askReplay
  split
  · exact State.Canon.ite hs.setPort hs
  · exact hs
theorem State.Canon.receive {s : State} {n : Nat} {f : Flit} {body : State → Res State} (hs : s.Canon)
    (hb : ∀ {t}, t.Canon → Res.Post State.Canon (body t)) : Out.Kept (s.receive n f body) := by
  unfold State.receive
  split
  · exact .next hs
  · split
    · exact .next hs
    · split
      · exact .next hs
      · split
        · exact .next hs.askReplay
        · extract_lets t
          have ht : t.Canon := hs.setPort
          split
          · rename_i u eq
            exact .next ((hb ht).of_ok eq)
          · exact .next ht
          · exact .next hs.askOutside
theorem State.Canon.writeFlit {s : State} {port base : Nat} {bytes : List (Nat × Byte)} (hs : s.Canon) :
    Res.Post State.Canon (s.writeFlit port base bytes) := by
  unfold State.writeFlit
  refine .foldlM (fun {t _} ht => ?_) hs
  split
  dsimp only
  split
  · split
    · rename_i u eq
      have hu := ht.forPhysical.of_ok eq
      exact .ok hu.writeEngine
    · exact .ok ht
    · exact .error
  · exact .ok ht
theorem State.Canon.forDevice {s : State} {pa n : Nat} {go : Out} (hs : s.Canon) (hg : Out.Kept go) : Out.Kept (s.forDevice pa n go) := by
  unfold State.forDevice
  split
  · exact .next hs
  · split
    · exact .next hs.askOutside
    · exact hg
theorem State.Canon.retrain {s : State} {port : Nat} {p : DruatPort} (hs : s.Canon) : (s.retrain port p).Canon := by
  unfold State.retrain
  extract_lets t
  have ht : t.Canon := hs.setPort
  exact ht.upd rfl
theorem State.Canon.failRemote {s : State} {r : Remote} (hs : s.Canon) : (s.failRemote r).Canon := by
  unfold State.failRemote
  dsimp only
  split
  · exact hs.raiseAsync
  · exact State.Canon.ite hs.queueFault hs.leaveFault
theorem State.Canon.failGroups {s : State} (hs : s.Canon) : (s.failGroups).Canon := hs.upd rfl
theorem State.Canon.writes {i : Instr} {g : Guard} {d : Reg} {f : Ctx → Word} {s : State} (hs : s.Canon) : Out.Kept (writes i g d f s) :=
  hs.simple
theorem State.Canon.binary {i : Instr} {g : Guard} {d a b : Reg} {f : Word → Word → Word} {s : State} (hs : s.Canon) :
    Out.Kept (binary i g d a b f s) := hs.writes
theorem State.Canon.startFailed {s : State} {step : BitVec 4}  : (s.startFailed step).Canon := State.Canon.begin
theorem State.Canon.hold {s : State} {step : BitVec 4} {ucie0 : Bool} (hs : s.Canon) : (s.hold step ucie0).Canon := hs.upd rfl
theorem State.Canon.pass {s : State} (hs : s.Canon) : (s.pass).Canon := hs.upd rfl
theorem State.Canon.memoryError {s : State} {pa : Nat} {corrected : Bool} (hs : s.Canon) : (s.memoryError pa corrected).Canon :=
  State.Canon.ite (hs.upd rfl) (State.Canon.ite hs (hs.upd rfl))

end Sys2Proof.Machine
end

section
/-! PROOFS. Every instruction keeps device memory in canonical form, and so does every step. -/

namespace Sys2Proof.Machine

/-! Completions, traps and the control word. -/

theorem State.Canon.execInputPacketExpand {c site ch : Nat} {s : State} (hs : s.Canon) : Out.Kept (execInputPacketExpand c site ch s) := by
  unfold Machine.execInputPacketExpand
  refine hs.siteStep (fun y f => ?_)
  dsimp only
  split
  · exact .none
  · split
    · exact .none
    · exact .some hs
theorem State.Canon.execForeignMarkArrival {c site ch : Nat} {s : State} (hs : s.Canon) :
    Out.Kept (execForeignMarkArrival c site ch s) := by
  unfold Machine.execForeignMarkArrival
  split
  · exact .next hs
  · split
    · exact .next hs
    · split
      · exact .next hs
      · split
        · exact .next hs
        · split
          · exact .next hs
          · dsimp only
            split
            · split
              · exact .next hs.setFabric.setFabric
              · exact .next hs.setFabric
            · exact .next hs
theorem State.Canon.execCfgkConsume {c e ch : Nat} {s : State} (hs : s.Canon) : Out.Kept (execCfgkConsume c e ch s) := by
  unfold Machine.execCfgkConsume
  refine hs.siteStep (fun y f => ?_)
  split
  · exact .none
  · split
    · exact .none
    · split
      · exact .none
      · split
        exact .some hs

/-! Matrix, accumulator and element instructions. -/

theorem State.Canon.execMma {g : Guard} {d a b c : Reg} {ty : Ty} {bt : Bool} {s : State} (hs : s.Canon) :
    Out.Kept (execMma g d a b c ty bt s) := by
  unfold Machine.execMma
  extract_lets
  refine hs.control fun x => ?_
  refine .skip fun cols => .join fun da => .join fun db => .skip fun _ => .skip fun _ => .skip fun _ => .skip fun _ => .skip fun _ =>
    .join fun _ => .join fun _ => .join fun _ => .join fun _ => .ok ?_
  split
  · exact .ite_fst hs.mmaGroups hs.runMma
  · exact hs.runMma
theorem State.Canon.execMmas {g : Guard} {d a b c : Reg} {ty : Ty} {bt : Bool} {s : State} (hs : s.Canon) :
    Out.Kept (execMmas g d a b c ty bt s) := by
  unfold Machine.execMmas
  dsimp only
  refine hs.control (fun y => ?_)
  refine .skip fun _ => ?_
  refine .skip fun _ => ?_
  refine .skip fun _ => ?_
  refine .skip fun _ => ?_
  refine .skip fun _ => ?_
  refine .skip fun _ => ?_
  refine .skip fun _ => ?_
  refine .skip fun _ => ?_
  refine .skip fun _ => ?_
  refine .skip fun _ => ?_
  refine .skip fun _ => ?_
  refine .skip fun _ => ?_
  refine .skip fun _ => ?_
  refine .skip fun _ => ?_
  exact .ok hs.runMma
theorem State.Canon.execPrune {g : Guard} {d a b c : Reg} {ty : Ty} {bt : Bool} {s : State} (hs : s.Canon) :
    Out.Kept (execPrune g d a b c ty bt s) := by
  unfold Machine.execPrune
  dsimp only
  refine hs.control (fun y => ?_)
  refine .skip fun _ => ?_
  refine .skip fun _ => ?_
  refine .skip fun _ => ?_
  refine .skip fun _ => ?_
  refine .skip fun _ => ?_
  refine .skip fun _ => ?_
  refine .skip fun _ => ?_
  refine .skip fun _ => ?_
  refine .skip fun _ => ?_
  refine .skip fun _ => ?_
  exact .ok hs.setCore
theorem State.Canon.execMzero {g : Guard} {d : Reg} {s : State} (hs : s.Canon) : Out.Kept (execMzero g d s) := by
  unfold Machine.execMzero
  dsimp only
  refine hs.control (fun y => ?_)
  refine .skip fun _ => ?_
  refine .skip fun _ => ?_
  exact .ok hs.setCore
theorem State.Canon.execMld {g : Guard} {d a : Reg} {ty : Ty} {rnd : Rnd} {s : State} (hs : s.Canon) :
    Out.Kept (execMld g d a ty rnd s) := by
  unfold Machine.execMld
  dsimp only
  refine hs.control (fun y => ?_)
  refine .skip fun _ => ?_
  refine .skip fun _ => ?_
  refine .skip fun _ => ?_
  refine .skip fun _ => ?_
  refine .skip fun _ => ?_
  refine .skip fun _ => ?_
  split
  · refine .skip fun _ => ?_
    refine .skip fun _ => ?_
    refine .skip fun _ => ?_
    refine .skip fun _ => ?_
    exact .ok hs.setCore.setCtx
  · refine .skip fun _ => ?_
    refine .skip fun _ => ?_
    refine .skip fun _ => ?_
    refine .skip fun _ => ?_
    exact .ok hs.setCore.setCtx
theorem State.Canon.execMst {g : Guard} {d a : Reg} {ty : Ty} {rnd : Rnd} {sat : Bool} {s : State} (hs : s.Canon) :
    Out.Kept (execMst g d a ty rnd sat s) := by
  unfold Machine.execMst
  dsimp only
  refine hs.control (fun y => ?_)
  refine .skip fun _ => ?_
  refine .skip fun _ => ?_
  refine .skip fun _ => ?_
  refine .skip fun _ => ?_
  refine .skip fun _ => ?_
  refine .skip fun _ => ?_
  refine .skip fun _ => ?_
  exact .ok hs.setCore.setCtx
theorem State.Canon.execAbcast {g : Guard} {d a : Reg} {s : State} (hs : s.Canon) : Out.Kept (execAbcast g d a s) := by
  unfold Machine.execAbcast
  refine hs.control (fun y => ?_)
  dsimp only
  refine .skip fun _ => ?_
  refine .skip fun _ => ?_
  refine .skip fun _ => ?_
  refine .skip fun _ => ?_
  exact .ok hs.setCore

/-! The KV cache and attention. -/

theorem State.Canon.execSlabRelocationStep {die k : Nat} {s : State} (hs : s.Canon) : Out.Kept (execSlabRelocationStep die k s) := by
  unfold Machine.execSlabRelocationStep
  split
  · exact .next hs
  · dsimp only
    split
    · exact .next hs
    · split
      · exact .next hs
      · split
        · exact .next hs
        · split
          · exact .next hs.askOutside
          · rename_i t eq
            have ht := ((State.Canon.ite hs.recallAll.writeEngine.poisonRange hs.recallAll.writeEngine).atOnce).of_ok eq
            split
            · exact .next ht.setSeq
            · exact .next ht.setKv.setSeq
theorem State.Canon.execKvmap {g : Guard} {d a b : Reg} {s : State} (hs : s.Canon) : Out.Kept (execKvmap g d a b s) := by
  unfold Machine.execKvmap
  dsimp only
  refine hs.kvControl (fun y hw => ?_)
  refine .skip fun _ => ?_
  refine .skip fun _ => ?_
  refine hw.loadN.bind fun ⟨t, _⟩ ht => ?_
  refine .skip fun _ => ?_
  refine .skip fun _ => ?_
  refine .skip fun _ => ?_
  split
  · exact .error
  · refine .skip fun _ => ?_
    exact .ok ht.newSeq.clearSlab.setCtx
theorem State.Canon.execKvapp {g : Guard} {a b c : Reg} {s : State} (hs : s.Canon) : Out.Kept (execKvapp g a b c s) := by
  unfold Machine.execKvapp
  dsimp only
  refine hs.kvControl (fun y hw => ?_)
  refine .skip fun _ => ?_
  refine .skip fun _ => ?_
  refine .skip fun _ => ?_
  refine .skip fun _ => ?_
  refine .skip fun _ => ?_
  refine .skip fun _ => ?_
  split
  · exact .ok hw.cow
  · refine .skip fun _ => ?_
    refine .skip fun _ => ?_
    refine .skip fun _ => ?_
    refine hw.openPage.appendSlots.bind fun t ht => ?_
    exact .ok ht.setSeq
theorem State.Canon.execKvfork {g : Guard} {d a : Reg} {s : State} (hs : s.Canon) : Out.Kept (execKvfork g d a s) := by
  unfold Machine.execKvfork
  dsimp only
  refine hs.kvControl (fun y hw => ?_)
  refine .skip fun _ => ?_
  refine .skip fun _ => ?_
  refine .skip fun _ => ?_
  split
  · exact .error
  · refine .skip fun _ => ?_
    exact .ok hw.forkSeq.setCtx
theorem State.Canon.execKvforkCow {g : Guard} {d a : Reg} {s : State} (hs : s.Canon) : Out.Kept (execKvforkCow g d a s) := by
  unfold Machine.execKvforkCow
  dsimp only
  refine hs.kvControl (fun y hw => ?_)
  refine .skip fun _ => ?_
  refine .skip fun _ => ?_
  refine .skip fun _ => ?_
  split
  · exact .ok hw.setG
  · split
    · exact .error
    · refine .skip fun _ => ?_
      exact .ok hw.replaceFrame.setG
theorem State.Canon.execKvtrunc {g : Guard} {a b : Reg} {s : State} (hs : s.Canon) : Out.Kept (execKvtrunc g a b s) := by
  unfold Machine.execKvtrunc
  dsimp only
  refine hs.kvControl (fun y hw => ?_)
  refine .skip fun _ => ?_
  refine .skip fun _ => ?_
  split
  · refine .skip fun _ => ?_
    refine hw.cutTo.bind fun ⟨t, _⟩ ht => ?_
    exact .ok ht.setSeq
  · refine .skip fun _ => ?_
    refine hw.cutTo.bind fun ⟨t, _⟩ ht => ?_
    exact .ok ht.setSeq
theorem State.Canon.execKvrel {g : Guard} {a : Reg} {s : State} (hs : s.Canon) : Out.Kept (execKvrel g a s) := by
  unfold Machine.execKvrel
  dsimp only
  refine hs.kvControl (fun y hw => ?_)
  refine .skip fun _ => ?_
  refine .skip fun _ => ?_
  exact .ok hw.releaseSeq
theorem State.Canon.execKvret {g : Guard} {a b c : Reg} {s : State} (hs : s.Canon) : Out.Kept (execKvret g a b c s) := by
  unfold Machine.execKvret
  dsimp only
  refine hs.kvControl (fun y hw => ?_)
  refine .skip fun _ => ?_
  refine .skip fun _ => ?_
  refine .skip fun _ => ?_
  refine .skip fun _ => ?_
  refine .skip fun _ => ?_
  split
  · exact .ok hw.cow
  · refine .skip fun _ => ?_
    exact .ok hw.putRetention
theorem State.Canon.execKvcompact {g : Guard} {a b c : Reg} {s : State} (hs : s.Canon) : Out.Kept (execKvcompact g a b c s) := by
  unfold Machine.execKvcompact
  dsimp only
  refine hs.kvControl (fun y hw => ?_)
  refine .skip fun _ => ?_
  refine .skip fun _ => ?_
  refine .skip fun _ => ?_
  refine .skip fun _ => ?_
  refine hw.barChecked.bind fun ⟨t, _⟩ ht => ?_
  refine .skip fun _ => ?_
  refine .skip fun _ => ?_
  exact .ok ht.setSeq.setKv
theorem State.Canon.execCompactionDone {die : Nat} {s : State} (hs : s.Canon) : Out.Kept (execCompactionDone die s) := by
  unfold Machine.execCompactionDone
  split
  · exact .next hs
  · split
    · exact .next hs
    · split
      · dsimp only
        exact .next hs.setKv
      · split
        · rename_i t eq
          have ht := hs.recallAll.compact.of_ok eq
          dsimp only
          split
          · rename_i u eq
            have hu := ht.setKv.barUpdate.of_ok eq
            exact .next hu
          · exact .next ht.setKv.raiseAsync
          · exact .next hs.askOutside
        · dsimp only
          exact .next hs.setSeq.setKv.raiseAsync
        · exact .next hs.askOutside
theorem State.Canon.execKvqLen {g : Guard} {d a : Reg} {s : State} (hs : s.Canon) : Out.Kept (execKvqLen g d a s) := by
  unfold Machine.execKvqLen
  dsimp only
  refine hs.kvControl (fun y hw => ?_)
  refine .skip fun _ => ?_
  exact .ok hw.setG
theorem State.Canon.execKvqMap {g : Guard} {d a : Reg} {s : State} (hs : s.Canon) : Out.Kept (execKvqMap g d a s) := by
  unfold Machine.execKvqMap
  dsimp only
  refine hs.kvControl (fun y hw => ?_)
  refine .skip fun _ => ?_
  refine .skip fun _ => ?_
  exact .ok hw.setG
theorem State.Canon.execKvqFrame {g : Guard} {d a : Reg} {s : State} (hs : s.Canon) : Out.Kept (execKvqFrame g d a s) := by
  unfold Machine.execKvqFrame
  dsimp only
  refine hs.kvControl (fun y hw => ?_)
  refine .skip fun _ => ?_
  refine .skip fun _ => ?_
  split
  · refine .skip fun _ => ?_
    exact .ok hw.setG
  · refine .skip fun _ => ?_
    exact .ok hw.setG
theorem State.Canon.execKvqState {g : Guard} {d a : Reg} {s : State} (hs : s.Canon) : Out.Kept (execKvqState g d a s) := by
  unfold Machine.execKvqState
  dsimp only
  refine hs.kvControl (fun y hw => ?_)
  refine .skip fun _ => ?_
  exact .ok hw.setG
theorem State.Canon.execPxlkp {g : Guard} {d a b : Reg} {s : State} (hs : s.Canon) : Out.Kept (execPxlkp g d a b s) := by
  unfold Machine.execPxlkp
  extract_lets
  refine hs.kvControl fun {t} x ht => ?_
  extract_lets
  refine .skip fun q => .skip fun _ => ?_
  cases (t.kv (handleDie (x.g b))).pxFind x.asid (x.pxKey a) with
  | none => exact .ok ht.setG
  | some f =>
    refine .skip fun room => .skip fun _ => .skip fun _ => .skip fun _ => ?_
    cases room with
    | none => exact .ok ht.setMapEntry.addCount.setSeq.setG
    | some r => exact .ok ht.growTo.setMapEntry.addCount.setSeq.setG
theorem State.Canon.execPxlkpDrop {g : Guard} {d a b : Reg} {s : State} (hs : s.Canon) : Out.Kept (execPxlkpDrop g d a b s) := by
  unfold Machine.execPxlkpDrop
  dsimp only
  refine hs.kvControl (fun y hw => ?_)
  refine .skip fun _ => ?_
  split
  · exact .ok hw.setG
  · refine .skip fun _ => ?_
    refine .skip fun _ => ?_
    exact .ok hw.setKv.setFrame.subCount.setG
theorem State.Canon.execPxins {g : Guard} {d a b : Reg} {s : State} (hs : s.Canon) : Out.Kept (execPxins g d a b s) := by
  unfold Machine.execPxins
  dsimp only
  refine hs.kvControl (fun y hw => ?_)
  refine .skip fun _ => ?_
  refine .skip fun _ => ?_
  refine .skip fun _ => ?_
  refine .skip fun _ => ?_
  split
  · split
    · exact .ok hw.setG
    · split
      · exact .ok hw.setG
      · refine .skip fun _ => ?_
        refine .skip fun _ => ?_
        exact .ok hw.setKv.setFrame.setG
  · split
    · exact .ok hw.setG
    · refine .skip fun _ => ?_
      refine .skip fun _ => ?_
      refine .skip fun _ => ?_
      exact .ok hw.addCount.setMapEntry.subCount.setG
theorem State.Canon.execAbind {g : Guard} {slot : BitVec 3} {a b : Reg} {lse : Bool} {s : State} (hs : s.Canon) :
    Out.Kept (execAbind g slot a b lse s) := by
  unfold Machine.execAbind
  dsimp only
  refine hs.control (fun y => ?_)
  refine .skip fun _ => ?_
  refine hs.loadN.bind fun ⟨t, _⟩ ht => ?_
  refine .skip fun _ => ?_
  refine .skip fun _ => ?_
  refine .skip fun _ => ?_
  refine .skip fun _ => ?_
  refine .skip fun _ => ?_
  refine .skip fun _ => ?_
  refine ht.readStage.bind fun ⟨u, _⟩ hu => ?_
  refine .bind (P := fun r => r.1.Canon) ?_ fun ⟨v, _⟩ hv => ?_
  · split
    · exact .ok hu
    · exact hu.readStage
  · refine .bind (P := fun r => r.1.Canon) ?_ fun ⟨w, _⟩ hw => ?_
    · split
      · exact .ok hv
      · exact hv.readStage
    · split
      · refine .skip fun _ => ?_
        refine .skip fun _ => ?_
        exact .ok hw.setCtx
      · exact .error
theorem State.Canon.execAttn {g : Guard} {slot : BitVec 3} {d a b c : Reg} {tri : Bool} {s : State} (hs : s.Canon) :
    Out.Kept (execAttn g slot d a b c tri s) := by
  unfold Machine.execAttn
  dsimp only
  refine hs.control (fun y => ?_)
  split
  · exact .error
  · refine .skip fun _ => ?_
    refine .bind (P := fun r => r.1.Canon) ?_ fun ⟨t, _⟩ ht => ?_
    · split
      · exact .ok hs
      · exact hs.startPass
    · split
      · exact .ok hs.dropHolds.trapNow
      · exact .error
      · rename_i u _ eq
        have hu := ht.blocks.of_ok eq
        split
        · exact .ok hu.endPass
        · exact .ok hu.setCore.setCtx
theorem State.Canon.execTmerge {g : Guard} {d a b : Reg} {s : State} (hs : s.Canon) : Out.Kept (execTmerge g d a b s) := by
  unfold Machine.execTmerge
  dsimp only
  refine hs.control (fun y => ?_)
  refine .skip fun _ => ?_
  refine .skip fun _ => ?_
  refine .skip fun _ => ?_
  refine .skip fun _ => ?_
  refine .skip fun _ => ?_
  refine .skip fun _ => ?_
  refine .skip fun _ => ?_
  exact .ok hs.setCore

/-! The fabric, its ports and its operators. -/

theorem State.Canon.execPortReadAccess {c p : Nat} {s : State} (hs : s.Canon) : Out.Kept (execPortReadAccess c p s) := by
  unfold Machine.execPortReadAccess
  refine hs.portStep (fun y f q st hw => ?_)
  dsimp only
  split
  · refine .ok ?_
    exact .none
  · split
    · refine .ok ?_
      exact .none
    · split
      · refine hw.entryLoad.bind fun ⟨t, _⟩ ht => ?_
        refine .ok ?_
        exact .some ht
      · refine hw.streamLoad.bind fun ⟨t, _⟩ ht => ?_
        refine .ok ?_
        exact .some ht
theorem State.Canon.execPortGatherAccess {c p : Nat} {s : State} (hs : s.Canon) : Out.Kept (execPortGatherAccess c p s) := by
  unfold Machine.execPortGatherAccess
  refine hs.portStep (fun y f q st hw => ?_)
  dsimp only
  split
  · refine .ok ?_
    exact .none
  · split
    · split
      · refine .ok ?_
        exact .none
      · split
        · refine .ok ?_
          exact .none
        · refine hw.streamLoad.bind fun ⟨t, _⟩ ht => ?_
          refine .ok ?_
          exact .some ht
    · split
      · refine .ok ?_
        exact .some hw
      · split
        · refine .ok ?_
          exact .some hw
        · exact .error
theorem State.Canon.execPortWriteAccess {c p : Nat} {s : State} (hs : s.Canon) : Out.Kept (execPortWriteAccess c p s) := by
  unfold Machine.execPortWriteAccess
  refine hs.writeToken (fun y q st w b hw => ?_)
  exact hw.streamStore
theorem State.Canon.execPortReductionAccess {c p : Nat} {s : State} (hs : s.Canon) : Out.Kept (execPortReductionAccess c p s) := by
  unfold Machine.execPortReductionAccess
  refine hs.writeToken (fun y q st w b hw => ?_)
  dsimp only
  refine .skip fun _ => ?_
  exact hw.reduceVia
theorem State.Canon.execPortCondition {c p : Nat} {s : State} (hs : s.Canon) : Out.Kept (execPortCondition c p s) := by
  unfold Machine.execPortCondition
  refine hs.portStep (fun y f q st hw => ?_)
  dsimp only
  split
  · refine .ok ?_
    exact .none
  · split
    · refine .ok ?_
      exact .none
    · split
      · refine .ok ?_
        exact .some hw
      · split
        · refine .ok ?_
          exact .none
        · split
          · split
            · refine .ok ?_
              exact .none
            · refine .ok ?_
              exact .some hw
          · split
            · refine .ok ?_
              exact .none
            · split
              · refine .ok ?_
                exact .none
              · split
                · refine .ok ?_
                  exact .some hw
                · refine .ok ?_
                  exact .some hw
theorem State.Canon.execSpeculativeFetch {c p : Nat} {s : State} (hs : s.Canon) : Out.Kept (execSpeculativeFetch c p s) := by
  unfold Machine.execSpeculativeFetch
  refine hs.siteStep (fun y f => ?_)
  dsimp only
  split
  · exact .none
  · split
    · exact .none
    · split
      · exact .none
      · split
        · exact .none
        · split
          · rename_i t _ eq
            have ht := hs.streamLoad.of_ok eq
            exact .some hs
          · exact .none
theorem State.Canon.execPortBarArrival {c p : Nat} {s : State} (hs : s.Canon) : Out.Kept (execPortBarArrival c p s) := by
  unfold Machine.execPortBarArrival
  refine hs.portStep (fun y f q st hw => ?_)
  dsimp only
  split
  · refine .ok ?_
    exact .none
  · split
    · refine .ok ?_
      exact .none
    · split
      · refine .ok ?_
        exact .some hw
      · refine hw.barUpdate.bind fun t ht => ?_
        refine .ok ?_
        exact .some ht
theorem State.Canon.execPortDoneToken {c p : Nat} {s : State} (hs : s.Canon) : Out.Kept (execPortDoneToken c p s) := by
  unfold Machine.execPortDoneToken
  refine hs.siteStep (fun y f => ?_)
  dsimp only
  split
  · exact .none
  · split
    · exact .none
    · exact .some hs.releaseAt.publish
theorem State.Canon.execPortRetry {c p : Nat} {s : State} (hs : s.Canon) : Out.Kept (execPortRetry c p s) := by
  unfold Machine.execPortRetry
  refine hs.siteStep (fun y f => ?_)
  dsimp only
  split
  · exact .none
  · split
    · exact .none
    · split
      · exact .none
      · exact .some hs
theorem State.Canon.execRelatchToken {c site : Nat} {s : State} (hs : s.Canon) : Out.Kept (execRelatchToken c site s) := by
  unfold Machine.execRelatchToken
  refine hs.siteStep (fun y f => ?_)
  split
  · split
    · exact .none
    · split
      · exact .none
      · split
        · exact .some hs.askOutside
        · rename_i t _ eq
          have ht := hs.relatch.of_ok eq
          dsimp only
          exact .some ht
  · split
    · exact .none
    · split
      · exact .none
      · split
        · exact .some hs.askOutside
        · rename_i t _ eq
          have ht := hs.relatch.of_ok eq
          dsimp only
          exact .some ht
theorem State.Canon.execStrm {g : Guard} {port : BitVec 4} {a b c : Reg} {mode : StrmMode} {ty : Ty} {sc : Scope} {sp : Bool} {s : State}
    (hs : s.Canon) :
    Out.Kept (execStrm g port a b c mode ty sc sp s) := by
  unfold Machine.execStrm
  dsimp only
  refine hs.control (fun y => ?_)
  refine .skip fun _ => ?_
  refine .skip fun _ => ?_
  refine .skip fun _ => ?_
  refine .skip fun _ => ?_
  refine .skip fun _ => ?_
  exact .ok hs.setCtx.handOver.settle
theorem State.Canon.execSbar {g : Guard} {a : Reg} {s : State} (hs : s.Canon) : Out.Kept (execSbar g a s) := by
  unfold Machine.execSbar
  refine hs.control (fun y => ?_)
  dsimp only
  refine .skip fun _ => ?_
  refine .skip fun _ => ?_
  exact .ok (hs.foldl fun ht => ht.observe)
theorem State.Canon.execSbarOrd {g : Guard} {a : Reg} {s : State} (hs : s.Canon) : Out.Kept (execSbarOrd g a s) := by
  unfold Machine.execSbarOrd
  refine hs.control (fun y => ?_)
  dsimp only
  refine .skip fun _ => ?_
  split
  · exact .ok hs
  · exact .ok hs.setCtx
theorem State.Canon.execBtok {g : Guard} {a : Reg} {id : BitVec 5} {gm : Bool} {s : State} (hs : s.Canon) :
    Out.Kept (execBtok g a id gm s) := by
  unfold Machine.execBtok
  refine hs.control (fun y => ?_)
  dsimp only
  refine hs.barChecked.bind fun ⟨t, _⟩ ht => ?_
  exact .ok ht.setCtx.settle
theorem State.Canon.execArgw {g : Guard} {op : BitVec 4} {a : Reg} {s : State} (hs : s.Canon) : Out.Kept (execArgw g op a s) := by
  unfold Machine.execArgw
  dsimp only
  refine hs.control (fun y => ?_)
  refine .skip fun _ => ?_
  split
  · exact .error
  · split
    · exact .error
    · refine .skip fun _ => ?_
      exact .ok hs.setCtx
theorem State.Canon.execTinj {g : Guard} {ch : BitVec 2} {a : Reg} {s : State} (hs : s.Canon) : Out.Kept (execTinj g ch a s) := by
  unfold Machine.execTinj
  dsimp only
  refine hs.control (fun y => ?_)
  refine .skip fun _ => ?_
  split
  · exact .error
  · refine .skip fun _ => ?_
    refine .skip fun _ => ?_
    exact .ok hs.setCtx.settle
theorem State.Canon.execTpop {g : Guard} {d : Reg} {ch : BitVec 2} {s : State} (hs : s.Canon) : Out.Kept (execTpop g d ch s) := by
  unfold Machine.execTpop
  dsimp only
  refine hs.control (fun y => ?_)
  split
  · exact .error
  · refine .skip fun _ => ?_
    split
    · exact .error
    · exact .ok hs.setCtx.settle
theorem State.Canon.execCfg {g : Guard} {a : Reg} {s : State} (hs : s.Canon) : Out.Kept (execCfg g a s) := by
  unfold Machine.execCfg
  refine hs.control (fun y => ?_)
  split
  · exact hs.switch
  · refine hs.checkedImage.bind fun ⟨t, _⟩ ht => ?_
    dsimp only
    exact ht.switch
theorem State.Canon.execCfgStg {g : Guard} {a : Reg} {s : State} (hs : s.Canon) : Out.Kept (execCfgStg g a s) := by
  unfold Machine.execCfgStg
  refine hs.control (fun y => ?_)
  refine hs.checkedImage.bind fun ⟨t, _⟩ ht => ?_
  dsimp only
  exact .ok ht.setCtx
theorem State.Canon.execCfgsw {g : Guard} {s : State} (hs : s.Canon) : Out.Kept (execCfgsw g s) := by
  unfold Machine.execCfgsw
  refine hs.control (fun y => ?_)
  split
  · exact .error
  · exact hs.switch

/-! Collectives, copies, rings and chains. -/

theorem State.Canon.execBr {g : Guard} {off : BitVec 40} {s : State} (hs : s.Canon) : Out.Kept (execBr g off s) := by
  unfold Machine.execBr
  refine hs.control (fun y => ?_)
  exact .ok hs
theorem State.Canon.execJal {g : Guard} {off : BitVec 40} {s : State} (hs : s.Canon) : Out.Kept (execJal g off s) := by
  unfold Machine.execJal
  refine hs.control (fun y => ?_)
  exact .ok hs.setG
theorem State.Canon.execJr {g : Guard} {d a : Reg} {s : State} (hs : s.Canon) : Out.Kept (execJr g d a s) := by
  unfold Machine.execJr
  refine hs.control (fun y => ?_)
  dsimp only
  refine .skip fun _ => ?_
  exact .ok hs.setG
theorem State.Canon.execBrcL1 {g : Guard} {off : BitVec 40} {s : State} (hs : s.Canon) : Out.Kept (execBrcL1 g off s) := by
  unfold Machine.execBrcL1
  refine hs.control (fun y => ?_)
  exact .ok hs.setCtx
theorem State.Canon.execBrcAll {g : Guard} {off : BitVec 40} {s : State} (hs : s.Canon) : Out.Kept (execBrcAll g off s) := by
  unfold Machine.execBrcAll
  refine hs.control (fun y => ?_)
  exact .ok hs.setCtx
theorem State.Canon.execLoop {g : Guard} {lvl1 : Bool} {a : Reg} {len : BitVec 10} {s : State} (hs : s.Canon) :
    Out.Kept (execLoop g lvl1 a len s) := by
  unfold Machine.execLoop
  refine hs.control (fun y => ?_)
  split
  exact .ok hs.setCtx
theorem State.Canon.execLoopi {g : Guard} {lvl1 : Bool} {len : BitVec 10} {cnt : BitVec 22} {s : State} (hs : s.Canon) :
    Out.Kept (execLoopi g lvl1 len cnt s) := by
  unfold Machine.execLoopi
  refine hs.control (fun y => ?_)
  split
  exact .ok hs.setCtx
theorem State.Canon.execNop {g : Guard} {s : State} (hs : s.Canon) : Out.Kept (execNop g s) := by
  unfold Machine.execNop
  refine hs.control (fun y => ?_)
  exact .ok hs
theorem State.Canon.execLd {g : Guard} {d : Reg} {m : MemOp} {sp sx : Bool} {sz : Size} {s : State} (hs : s.Canon) :
    Out.Kept (execLd g d m sp sx sz s) := by
  unfold Machine.execLd
  refine hs.control (fun y => ?_)
  dsimp only
  refine .skip fun _ => ?_
  split
  · refine .skip fun _ => ?_
    exact .ok hs.setCtx
  · refine hs.load.bind fun ⟨t, _⟩ ht => ?_
    exact .ok ht.setCtx
theorem State.Canon.execSt {g : Guard} {d : Reg} {m : MemOp} {sp : Bool} {sz : Size} {s : State} (hs : s.Canon) :
    Out.Kept (execSt g d m sp sz s) := by
  unfold Machine.execSt
  refine hs.control (fun y => ?_)
  dsimp only
  refine .skip fun _ => ?_
  split
  · refine hs.writeSpad.bind fun t ht => ?_
    exact .ok ht
  · refine hs.store.bind fun t ht => ?_
    exact .ok ht
theorem State.Canon.execTrap {g : Guard} {code : BitVec 16} {s : State} (hs : s.Canon) : Out.Kept (execTrap g code s) := by
  unfold Machine.execTrap
  refine hs.control (fun y => ?_)
  exact .ok hs
theorem State.Canon.execEret {g : Guard} {s : State} (hs : s.Canon) : Out.Kept (execEret g s) := by
  unfold Machine.execEret
  refine hs.control (fun y => ?_)
  refine .skip fun _ => ?_
  exact .ok hs.setCtx
theorem State.Canon.execEretTask {g : Guard} {s : State} (hs : s.Canon) : Out.Kept (execEretTask g s) := by
  unfold Machine.execEretTask
  refine hs.control (fun y => ?_)
  refine .skip fun _ => ?_
  refine .skip fun _ => ?_
  exact .ok hs.setCtx
theorem State.Canon.execWfe {g : Guard} {limit : BitVec 40} {s : State} (hs : s.Canon) : Out.Kept (execWfe g limit s) := by
  unfold Machine.execWfe
  refine hs.control (fun y => ?_)
  refine .skip fun _ => ?_
  exact .ok hs.acquire.setCtx
theorem State.Canon.execWfeTimeout {c : Nat} {s : State} (hs : s.Canon) : Out.Kept (execWfeTimeout c s) := by
  unfold Machine.execWfeTimeout
  split
  · exact .next hs
  · split
    · split
      · extract_lets +onlyGivenNames t
        have ht : t.Canon := State.Canon.ite hs.acquire hs
        exact .next ht.setDay
      · exact .next hs
    · exact .next hs
theorem State.Canon.execSevAll {g : Guard} {s : State} (hs : s.Canon) : Out.Kept (execSevAll g s) := by
  unfold Machine.execSevAll
  refine hs.control (fun y => ?_)
  exact .ok hs.sendEvents
theorem State.Canon.execSevOne {g : Guard} {core : BitVec 10} {s : State} (hs : s.Canon) : Out.Kept (execSevOne g core s) := by
  unfold Machine.execSevOne
  refine hs.control (fun y => ?_)
  split
  · exact .ok hs.sendEvents
  · exact .error
theorem State.Canon.execSevClus {g : Guard} {s : State} (hs : s.Canon) : Out.Kept (execSevClus g s) := by
  unfold Machine.execSevClus
  refine hs.control (fun y => ?_)
  exact .ok hs.sendEvents
theorem State.Canon.execSevDelivery {s : State} (hs : s.Canon) : Out.Kept (execSevDelivery s) := by
  unfold Machine.execSevDelivery
  split
  · exact .next hs
  · split
    · exact .next hs
    · exact .next (State.Canon.setEv (State.Canon.noteRelease (hs.upd rfl)))
theorem State.Canon.execHintSpin {g : Guard} {s : State} (hs : s.Canon) : Out.Kept (execHintSpin g s) := by
  unfold Machine.execHintSpin
  refine hs.control (fun y => ?_)
  exact .ok hs
theorem State.Canon.execHintPf {g : Guard} {off : BitVec 40} {s : State} (hs : s.Canon) : Out.Kept (execHintPf g off s) := by
  unfold Machine.execHintPf
  refine hs.control (fun y => ?_)
  exact .ok hs
theorem State.Canon.execIllegalWord {w : Word} {s : State} (hs : s.Canon) : Out.Kept (execIllegalWord w s) := by
  unfold Machine.execIllegalWord
  split
  · split
    · exact .next hs.takeTrap
    · exact .next hs
  · exact .next hs
theorem State.Canon.execInstructionFetchFault {prot : Bool} {sub : Byte} {s : State} (hs : s.Canon) :
    Out.Kept (execInstructionFetchFault prot sub s) := by
  unfold Machine.execInstructionFetchFault
  split
  · split
    · exact .next hs.takeTrap
    · exact .next hs
  · exact .next hs
theorem State.Canon.execTbinit {g : Guard} {a : Reg} {n : BitVec 32} {gm : Bool} {s : State} (hs : s.Canon) :
    Out.Kept (execTbinit g a n gm s) := by
  unfold Machine.execTbinit
  refine hs.control (fun y => ?_)
  dsimp only
  refine hs.barWrite.bind fun t ht => ?_
  exact .ok ht
theorem State.Canon.execTbexp {g : Guard} {a b : Reg} {gm : Bool} {s : State} (hs : s.Canon) : Out.Kept (execTbexp g a b gm s) := by
  unfold Machine.execTbexp
  refine hs.control (fun y => ?_)
  refine .skip fun _ => ?_
  refine hs.barUpdate.bind fun t ht => ?_
  exact .ok ht
theorem State.Canon.execTbarr {g : Guard} {a : Reg} {gm : Bool} {sc : Scope} {s : State} (hs : s.Canon) :
    Out.Kept (execTbarr g a gm sc s) := by
  unfold Machine.execTbarr
  refine hs.control (fun y => ?_)
  refine .skip fun _ => ?_
  refine hs.barUpdate.bind fun t ht => ?_
  exact .ok ht.publish
theorem State.Canon.execTbwait {g : Guard} {a : Reg} {ph : BitVec 4} {gm : Bool} {sc : Scope} {s : State} (hs : s.Canon) :
    Out.Kept (execTbwait g a ph gm sc s) := by
  unfold Machine.execTbwait
  refine hs.control (fun y => ?_)
  refine hs.barChecked.bind fun ⟨t, _⟩ ht => ?_
  dsimp only
  refine .skip fun _ => ?_
  exact .ok ht.acquire
theorem State.Canon.execTbtest {g : Guard} {pd : Pred} {a : Reg} {ph : BitVec 4} {gm : Bool} {sc : Scope} {s : State} (hs : s.Canon) :
    Out.Kept (execTbtest g pd a ph gm sc s) := by
  unfold Machine.execTbtest
  refine hs.control (fun y => ?_)
  refine hs.barChecked.bind fun ⟨t, _⟩ ht => ?_
  dsimp -zeta only
  extract_lets +onlyGivenNames _ t1
  have ht1 : t1.Canon := State.Canon.ite ht.acquire ht
  exact .ok ht1.setCtx
theorem State.Canon.execAmo {g : Guard} {d : Reg} {m : MemOp} {op : AmoOp} {dbl : Bool} {s : State} (hs : s.Canon) :
    Out.Kept (execAmo g d m op dbl s) := by
  unfold Machine.execAmo
  refine hs.control (fun y => ?_)
  exact hs.amoGlobal
theorem State.Canon.execRed {g : Guard} {d : Reg} {m : MemOp} {op : AmoOp} {dbl : Bool} {s : State} (hs : s.Canon) :
    Out.Kept (execRed g d m op dbl s) := by
  unfold Machine.execRed
  refine hs.control (fun y => ?_)
  dsimp only
  refine .skip fun _ => ?_
  refine hs.reduce.bind fun t ht => ?_
  exact .ok ht
theorem State.Canon.execAmof {g : Guard} {d : Reg} {m : MemOp} {op : AmoOp} {sp dbl : Bool} {s : State} (hs : s.Canon) :
    Out.Kept (execAmof g d m op sp dbl s) := by
  unfold Machine.execAmof
  refine hs.control (fun y => ?_)
  dsimp only
  split
  · exact hs.amoSpad
  · exact hs.amoGlobal
theorem State.Canon.execCas {g : Guard} {d a b c : Reg} {sp dbl : Bool} {s : State} (hs : s.Canon) :
    Out.Kept (execCas g d a b c sp dbl s) := by
  unfold Machine.execCas
  refine hs.control (fun y => ?_)
  dsimp only
  split
  · exact hs.amoSpad
  · exact hs.amoGlobal
theorem State.Canon.execLdfe {g : Guard} {d : Reg} {m : MemOp} {clr : Bool} {sz : Size} {s : State} (hs : s.Canon) :
    Out.Kept (execLdfe g d m clr sz s) := by
  unfold Machine.execLdfe
  refine hs.control (fun y => ?_)
  dsimp only
  refine .skip fun _ => ?_
  refine .skip fun _ => ?_
  refine .skip fun _ => ?_
  refine .skip fun _ => ?_
  refine .skip fun _ => ?_
  exact .ok (State.Canon.setCtx ((State.Canon.ite hs.setCore hs).acquire))
theorem State.Canon.execStfe {g : Guard} {d : Reg} {m : MemOp} {sz : Size} {s : State} (hs : s.Canon) : Out.Kept (execStfe g d m sz s) := by
  unfold Machine.execStfe
  refine hs.control (fun y => ?_)
  dsimp only
  refine .skip fun _ => ?_
  refine .skip fun _ => ?_
  refine .skip fun _ => ?_
  refine .skip fun _ => ?_
  refine hs.writeSpad.bind fun t ht => ?_
  exact .ok ht.setCore.releaseAt
theorem State.Canon.execPref {g : Guard} {m : MemOp} {l2 : Bool} {sz : Size} {s : State} (hs : s.Canon) :
    Out.Kept (execPref g m l2 sz s) := by
  unfold Machine.execPref
  refine hs.control (fun y => ?_)
  exact .ok hs
theorem State.Canon.execFence {g : Guard} {sc : Scope} {s : State} (hs : s.Canon) : Out.Kept (execFence g sc s) := by
  unfold Machine.execFence
  refine hs.control (fun y => ?_)
  refine .skip fun _ => ?_
  exact .ok hs.observe.publish
theorem State.Canon.execSeqw {g : Guard} {d a : Reg} {limit : BitVec 32} {sp : Bool} {sc : Scope} {s : State} (hs : s.Canon) :
    Out.Kept (execSeqw g d a limit sp sc s) := by
  unfold Machine.execSeqw
  refine hs.control (fun y => ?_)
  dsimp only
  split
  · exact .error
  · exact .ok hs.askOutside.waitAt
  · rename_i t _ eq
    have ht := hs.seqLoad.of_ok eq
    refine .skip fun _ => ?_
    exact .ok ht.seqReturn
theorem State.Canon.execSeqwTimeout {c : Nat} {s : State} (hs : s.Canon) : Out.Kept (execSeqwTimeout c s) := by
  unfold Machine.execSeqwTimeout
  split
  · exact .next hs
  split
  · split
    · exact .next hs
    extract_lets t
    have ht : t.Canon := hs.upd rfl
    split
    · exact .next hs
    split
    · split
      · exact .next (ht.askOutside.upd rfl)
      · rename_i u v eq
        have hu : u.Canon := ht.seqLoad.of_ok eq
        extract_lets u' w
        have hu' : u'.Canon := hu.seqReturn.consume
        have hw : w.Canon := hu'.setDay
        exact .next (hw.upd rfl)
    · exact .next hs
  · exact .next hs
theorem State.Canon.execSpl {g : Guard} {slot : BitVec 4} {a b c : Reg} {s : State} (hs : s.Canon) : Out.Kept (execSpl g slot a b c s) := by
  unfold Machine.execSpl
  dsimp only
  refine hs.control (fun y => ?_)
  refine .skip fun _ => ?_
  refine .skip fun _ => ?_
  split
  · exact .ok hs.setCore
  · refine hs.storeN.bind fun t ht => ?_
    exact .ok ht.setCore
theorem State.Canon.execFil {g : Guard} {slot : BitVec 4} {a b : Reg} {s : State} (hs : s.Canon) : Out.Kept (execFil g slot a b s) := by
  unfold Machine.execFil
  dsimp only
  refine hs.control (fun y => ?_)
  split
  · exact .error
  · refine .skip fun _ => ?_
    refine .bind (P := fun r => r.1.Canon) ?_ fun ⟨t, _⟩ ht => ?_
    · split
      · exact .ok hs
      · refine hs.loadN.bind fun ⟨t, _⟩ ht => ?_
        exact .ok ht
    · exact .ok ht.setCore.setCtx
theorem State.Canon.execUpdateOnlyEvict {c line : Nat} {s : State} (hs : s.Canon) : Out.Kept (execUpdateOnlyEvict c line s) := by
  unfold Machine.execUpdateOnlyEvict
  split
  · exact .next hs
  · split
    · exact .next hs
    · split
      · exact .next hs
      · exact .next hs.combine
theorem State.Canon.execCopySectorWrite {c k sector : Nat} {s : State} (hs : s.Canon) : Out.Kept (execCopySectorWrite c k sector s) := by
  unfold Machine.execCopySectorWrite
  split
  · exact .next hs
  · split
    · exact .next hs
    · split
      · exact .next hs
      · exact .next hs.sectorStep
theorem State.Canon.execCopySectorRetry {c k sector : Nat} {s : State} (hs : s.Canon) : Out.Kept (execCopySectorRetry c k sector s) := by
  unfold Machine.execCopySectorRetry
  split
  · exact .next hs
  · split
    · exact .next hs
    · split
      · exact .next hs
      · exact .next hs.sectorStep
theorem State.Canon.execCpyRing {g : Guard} {a b : Reg} {gm : Bool} {s : State} (hs : s.Canon) : Out.Kept (execCpyRing g a b gm s) := by
  unfold Machine.execCpyRing
  extract_lets
  refine hs.control fun x => ?_
  refine .skip fun _ => .bind (P := fun r => r.1.Canon) ?_ fun ⟨t, bs⟩ ht => ?_
  · exact .ite hs.loadN (.map_skip fun _ => hs)
  have put {u : State} (hu : u.Canon) (o v : Word) : Res.Post State.Canon
      (if gm then u.store (u.me x) (x.g a + o) (natLe 8 v.toNat) else u.writeSpad u.cur x (x.g a + o) (natLe 8 v.toNat)) :=
    .ite hu.store hu.writeSpad
  refine .skip fun _ => .skip fun _ => .skip fun _ => .skip fun _ => .skip fun _ => .skip fun _ => .skip fun _ => ?_
  refine (put ht 32 _).bind fun u hu => (put hu 40 _).bind fun v hv => ?_
  extract_lets w u
  have hw : w.Canon := hv.handOver
  have hu : u.Canon := hw.setRing
  exact .ok (hu.upd rfl)
theorem State.Canon.execRingSlotCopy {c k : Nat} {s : State} (hs : s.Canon) : Out.Kept (execRingSlotCopy c k s) := by
  unfold Machine.execRingSlotCopy
  split
  · exact .next hs
  · split
    · exact .next hs
    · split
      · exact .next hs
      · extract_lets +onlyGivenNames _ _ go
        have hgo : Res.Post State.Canon go := by
          unfold go
          refine hs.ringAdvance.bind fun t ht => ?_
          split
          · exact .ok ht
          · refine ht.ringRead.bind fun ⟨u, _⟩ hu => ?_
            dsimp only
            split
            · exact .ok hu
            · refine hu.takeCredit.bind fun ⟨v, _⟩ hv => ?_
              exact .ok (State.Canon.ite hv.setRing.enqueue hv)
        clear_value go
        split
        · rename_i t
          have ht : t.Canon := hgo.value
          exact .next ht.consume
        · exact .next hs.ringFail
theorem State.Canon.execSlotf {g : Guard} {a b : Reg} {sp : Bool} {s : State} (hs : s.Canon) : Out.Kept (execSlotf g a b sp s) := by
  unfold Machine.execSlotf
  dsimp only
  refine hs.control (fun y => ?_)
  refine .skip fun _ => ?_
  refine .skip fun _ => ?_
  split
  · refine .skip fun _ => ?_
    refine .skip fun _ => ?_
    refine .skip fun _ => ?_
    refine hs.writeSpad.bind fun t ht => ?_
    exact .ok ht
  · refine hs.loadWord.bind fun ⟨t, _⟩ ht => ?_
    refine ht.loadWord.bind fun ⟨u, _⟩ hu => ?_
    refine .skip fun _ => ?_
    refine hu.swapWord.bind fun ⟨v, _⟩ hv => ?_
    refine .ok ?_
    split
    · exact hv
    · exact hv.waitAt
theorem State.Canon.execChainEntryComplete {c k : Nat} {s : State} (hs : s.Canon) : Out.Kept (execChainEntryComplete c k s) := by
  unfold Machine.execChainEntryComplete
  split
  · exact .next hs
  · split
    · exact .next hs
    · split
      · exact .next hs.chainTry
      · split
        · split
          · exact .next hs.collRun
          · exact .next hs
          · exact .next hs
        · rename_i t _ eq
          have ht := hs.chainDone.of_some eq
          exact .next ht.chainStop
        · rename_i t eq
          have ht := hs.chainDone.of_some eq
          dsimp only
          split
          · exact .next hs
          · split
            · rename_i u eq
              have hu := ht.store.of_ok eq
              split
              · exact .next hu.releaseAt.publish.consume.dropChain
              · exact .next hu.releaseAt.publish.consume.setChain.chainTry
            · exact .next ht.chainStop
            · exact .next hs.askOutside

/-! Lookup layers, graphs and reuse. -/

theorem State.Canon.execBslice {g : Guard} {d a : Reg} {ty : Ty} {sh : BitVec 6} {s : State} (hs : s.Canon) :
    Out.Kept (execBslice g d a ty sh s) := by
  unfold Machine.execBslice
  dsimp only
  refine hs.lookup (fun y hw => ?_)
  refine .skip fun _ => ?_
  refine .skip fun _ => ?_
  exact .ok hw.setCore
theorem State.Canon.execBjoin {g : Guard} {d a : Reg} {ty : Ty} {sh : BitVec 6} {s : State} (hs : s.Canon) :
    Out.Kept (execBjoin g d a ty sh s) := by
  unfold Machine.execBjoin
  dsimp only
  refine hs.lookup (fun y hw => ?_)
  refine .skip fun _ => ?_
  refine hw.writeSpad.bind fun t ht => ?_
  exact .ok ht
theorem State.Canon.execLctx {g : Guard} {slot : BitVec 2} {a : Reg} {s : State} (hs : s.Canon) : Out.Kept (execLctx g slot a s) := by
  unfold Machine.execLctx
  refine hs.lookup (fun y hw => ?_)
  refine .skip fun _ => ?_
  dsimp only
  refine .skip fun _ => ?_
  exact .ok hw.handOver.setCtx
theorem State.Canon.execLsel {g : Guard} {slot : BitVec 2} {s : State} (hs : s.Canon) : Out.Kept (execLsel g slot s) := by
  unfold Machine.execLsel
  refine hs.lookup (fun y hw => ?_)
  exact .ok hw.setCtx
theorem State.Canon.execLrun {g : Guard} {s : State} (hs : s.Canon) : Out.Kept (execLrun g s) := by
  unfold Machine.execLrun
  dsimp only
  refine hs.lookup (fun y hw => ?_)
  split
  · exact .error
  · split
    · exact .error
    · exact .error
    · exact .ok hw.setCore.setCtx
theorem State.Canon.execLstatPop {g : Guard} {d a : Reg} {s : State} (hs : s.Canon) : Out.Kept (execLstatPop g d a s) := by
  unfold Machine.execLstatPop
  dsimp only
  refine hs.lookup (fun y hw => ?_)
  refine .skip fun _ => ?_
  exact .ok hw.setG
theorem State.Canon.execLstatWord {g : Guard} {d a : Reg} {q : BitVec 2} {s : State} (hs : s.Canon) :
    Out.Kept (execLstatWord g d a q s) := by
  unfold Machine.execLstatWord
  dsimp only
  refine hs.lookup (fun y hw => ?_)
  refine .skip fun _ => ?_
  refine .skip fun _ => ?_
  exact .ok hw.setG
theorem State.Canon.execLstatSlot {g : Guard} {d : Reg} {slot : BitVec 2} {s : State} (hs : s.Canon) :
    Out.Kept (execLstatSlot g d slot s) := by
  unfold Machine.execLstatSlot
  refine hs.lookup (fun y hw => ?_)
  dsimp only
  exact .ok hw.setG
theorem State.Canon.execLstatRuns {g : Guard} {d : Reg} {s : State} (hs : s.Canon) : Out.Kept (execLstatRuns g d s) := by
  unfold Machine.execLstatRuns
  refine hs.lookup (fun y hw => ?_)
  exact .ok hw.setG
theorem State.Canon.execTableLoadEntry {c slot entry : Nat} {s : State} (hs : s.Canon) : Out.Kept (execTableLoadEntry c slot entry s) := by
  unfold Machine.execTableLoadEntry
  split
  · exact .next hs
  · split
    · exact .next hs
    · split
      · exact .next hs
      · exact .next hs
      · exact .next hs.loadEntry
theorem State.Canon.execTenq {g : Guard} {a b : Reg} {s : State} (hs : s.Canon) : Out.Kept (execTenq g a b s) := by
  unfold Machine.execTenq
  dsimp only
  refine hs.control (fun y => ?_)
  refine .skip fun _ => ?_
  refine .skip fun _ => ?_
  refine hs.nodeCheck.bind fun ⟨t, _⟩ ht => ?_
  refine .skip fun _ => ?_
  refine ht.loadWord.bind fun ⟨u, _⟩ hu => ?_
  refine .skip fun _ => ?_
  refine hu.loadN.bind fun ⟨v, _⟩ hv => ?_
  refine hv.enqueueAt.bind fun w hw => ?_
  exact .ok hw
theorem State.Canon.execLaunch {g : Guard} {a : Reg} {s : State} (hs : s.Canon) : Out.Kept (execLaunch g a s) := by
  unfold Machine.execLaunch
  refine hs.control (fun y => ?_)
  refine hs.nodeCheck.bind fun ⟨t, _⟩ ht => ?_
  dsimp only
  refine ht.firstOp.bind fun u hu => ?_
  exact .ok hu
theorem State.Canon.execLaunchArg {g : Guard} {a b : Reg} {s : State} (hs : s.Canon) : Out.Kept (execLaunchArg g a b s) := by
  unfold Machine.execLaunchArg
  dsimp only
  refine hs.control (fun y => ?_)
  refine hs.nodeCheck.bind fun ⟨t, _⟩ ht => ?_
  refine .skip fun _ => ?_
  refine ht.loadWord.bind fun ⟨u, _⟩ hu => ?_
  refine .skip fun _ => ?_
  refine hu.loadN.bind fun ⟨v, _⟩ hv => ?_
  refine hv.enqueueAt.bind fun w hw => ?_
  exact .ok hw
theorem State.Canon.execGsig {g : Guard} {a b : Reg} {s : State} (hs : s.Canon) : Out.Kept (execGsig g a b s) := by
  unfold Machine.execGsig
  dsimp only
  refine hs.control (fun y => ?_)
  refine hs.nodeCheck.bind fun ⟨t, _⟩ ht => ?_
  refine .skip fun _ => ?_
  split
  · dsimp only [Res.ok_bind]
    exact .ok ht
  · refine ht.firstOp.bind fun u hu => ?_
    exact .ok hu

/-! Dusk, tickets, the scheduler and invalidations. -/

theorem State.Canon.execTend {g : Guard} {s : State} (hs : s.Canon) : Out.Kept (execTend g s) := by
  unfold Machine.execTend
  refine hs.control (fun y => ?_)
  refine .skip fun _ => ?_
  split
  · exact .ok hs.waitAt.settle
  · refine .skip fun _ => ?_
    dsimp only
    split
    · exact .ok (State.Canon.setCore ((hs.foldl fun ht => ht.leaveFault).freeDay))
    · exact .ok (State.Canon.errand (State.Canon.setCore ((hs.foldl fun ht => ht.leaveFault).freeDay)))
theorem State.Canon.execTyield {g : Guard} {s : State} (hs : s.Canon) : Out.Kept (execTyield g s) := by
  unfold Machine.execTyield
  refine hs.control (fun y => ?_)
  refine .skip fun _ => ?_
  refine .ok ?_
  split
  · exact hs
  · exact hs.park
theorem State.Canon.execTyieldAgeExpiry {c : Nat} {s : State} (hs : s.Canon) : Out.Kept (execTyieldAgeExpiry c s) := by
  unfold Machine.execTyieldAgeExpiry
  split
  · exact .next hs
  · split
    · exact .next hs
    · dsimp only
      split
      · split
        · exact .next hs.setNight
        · exact .next hs
      · split
        · exact .next hs.setNight
        · exact .next hs
theorem State.Canon.execRinvTag {g : Guard} {d a : Reg} {s : State} (hs : s.Canon) : Out.Kept (execRinvTag g d a s) := by
  unfold Machine.execRinvTag
  refine hs.control (fun y => ?_)
  refine .skip fun _ => ?_
  exact .ok hs.rinv
theorem State.Canon.execRinvRange {g : Guard} {d a b : Reg} {s : State} (hs : s.Canon) : Out.Kept (execRinvRange g d a b s) := by
  unfold Machine.execRinvRange
  refine hs.control (fun y => ?_)
  dsimp only
  refine .skip fun _ => ?_
  exact .ok hs.rinv
theorem State.Canon.execRinvAll {g : Guard} {d : Reg} {s : State} (hs : s.Canon) : Out.Kept (execRinvAll g d s) := by
  unfold Machine.execRinvAll
  refine hs.control (fun y => ?_)
  exact .ok hs.rinv
theorem State.Canon.execRinvAsid {g : Guard} {d a : Reg} {s : State} (hs : s.Canon) : Out.Kept (execRinvAsid g d a s) := by
  unfold Machine.execRinvAsid
  refine hs.control (fun y => ?_)
  dsimp only
  refine hs.ownAsid.bind fun t ht => ?_
  exact .ok ht.rinv
theorem State.Canon.execRstatProbe {g : Guard} {d a : Reg} {s : State} (hs : s.Canon) : Out.Kept (execRstatProbe g d a s) := by
  unfold Machine.execRstatProbe
  refine hs.control (fun y => ?_)
  refine .skip fun _ => ?_
  dsimp only
  exact .ok hs.setG
theorem State.Canon.execAsyncTrap {c : Nat} {s : State} (hs : s.Canon) : Out.Kept (execAsyncTrap c s) := by
  unfold Machine.execAsyncTrap
  split
  · exact .next hs
  · split
    · exact .next hs
    · split
      · exact .next hs
      · dsimp only
        split
        · exact .next hs
        · split
          · split
            · exact .next hs.setDay.takeTrap
            · exact .next hs
          · split
            · split
              · rename_i t eq
                have ht := hs.setDay.pushFault.of_ok eq
                exact .next ht
              · exact .next hs.askOutside.setDay
            · exact .next hs
theorem State.Canon.execDuskStart {c : Nat} {s : State} (hs : s.Canon) : Out.Kept (execDuskStart c s) := by
  unfold Machine.execDuskStart
  split
  · exact .next hs
  · dsimp only
    split
    · exact .next hs
    · split
      · exact .next hs.setCore
      · split
        · split
          · exact .next hs
          · split
            · exact .next hs.setCore
            · split <;> exact .next hs.setCore
        · split
          · exact .next hs
          · split
            · split
              · exact .next hs.setCore
              · split
                · exact .next hs
                · exact .next hs.setCore
            · split
              · exact .next hs.setCore
              · split <;> exact .next hs.setCore
theorem State.Canon.execMarkerPass {c site : Nat} {s : State} (hs : s.Canon) : Out.Kept (execMarkerPass c site s) := hs.drainStep
theorem State.Canon.execWritePortDrain {c p : Nat} {s : State} (hs : s.Canon) : Out.Kept (execWritePortDrain c p s) := hs.drainStep
theorem State.Canon.execSetSwap {c : Nat} {s : State} (hs : s.Canon) : Out.Kept (execSetSwap c s) := by
  unfold Machine.execSetSwap
  split
  · exact .next hs
  · split
    · dsimp only
      split
      · split
        · split
          · exact .next hs
          · split
            · split
              · exact .next hs.askOutside
              · rename_i t eq
                have ht := hs.park.exportParked.of_ok eq
                exact .next ht
            · split
              · exact .next hs
              · exact .next hs.park.enter.besideNight
        · split
          · exact .next hs
          · split
            · split
              · exact .next hs.askOutside
              · rename_i t eq
                have ht := hs.park.exportParked.of_ok eq
                exact .next ht
            · split
              · exact .next hs
              · exact .next hs.park.enter.besideNight
      · split
        · split
          · exact .next hs
          · split
            · split
              · exact .next hs.askOutside
              · rename_i t eq
                have ht := hs.park.exportParked.of_ok eq
                exact .next ht
            · split
              · exact .next hs
              · exact .next hs.park.enter.besideNight
        · split
          · exact .next hs
          · split
            · split
              · exact .next hs.askOutside
              · rename_i t eq
                have ht := hs.park.exportParked.of_ok eq
                exact .next ht
            · split
              · exact .next hs
              · exact .next hs.park.enter.besideNight
    · exact .next hs
theorem State.Canon.execClaimStreamDone {c : Nat} {s : State} (hs : s.Canon) : Out.Kept (execClaimStreamDone c s) := by
  unfold Machine.execClaimStreamDone
  split
  · exact .next hs
  · split
    · exact .next hs
    · dsimp only
      split
      · refine .next ?_
        split
        · exact hs.askOutside
        · rename_i t eq
          have ht := hs.saveParts.of_ok eq
          exact ht.setNight
      · exact .next hs.setNight
      · exact .next hs.setNight
      · exact .next hs.streamPlane
      · exact .next hs.streamPlane
theorem State.Canon.execDrainTimerExpiry {c : Nat} {s : State} (hs : s.Canon) : Out.Kept (execDrainTimerExpiry c s) := by
  unfold Machine.execDrainTimerExpiry
  split
  · exact .next hs
  · split
    · split
      · exact .next hs.setCore
      · split
        · exact .next hs.setCore
        · exact .next hs
    · exact .next hs
theorem State.Canon.execDrainTimeout {c : Nat} {s : State} (hs : s.Canon) : Out.Kept (execDrainTimeout c s) := by
  unfold Machine.execDrainTimeout
  split
  · exact .next hs
  · split
    · split
      · dsimp only
        split
        · rename_i t eq
          have ht := hs.setCore.pushFault.of_ok eq
          exact .next ht
        · exact .next hs.setCore.askOutside.setDay
      · exact .next hs
    · exact .next hs
theorem State.Canon.execReuseLookup {p : Nat} {node : Word} {asid : BitVec 13} {s : State} (hs : s.Canon) :
    Out.Kept (execReuseLookup p node asid s) := by
  unfold Machine.execReuseLookup
  split
  · exact .next hs
  · split
    · exact .next hs
    · dsimp only
      split
      · exact .next hs.acquire
      · split
        · exact .next hs.acquire.forgetNode
        · exact .next hs.acquire.askOutside
        · rename_i t eq
          have ht := hs.acquire.ownNode.of_ok eq
          exact .next ht
        · rename_i t _ eq
          have ht := hs.acquire.ownNode.of_ok eq
          split
          · exact .next ht
          · split
            · exact .next ht.askOutside
            · rename_i u _ eq
              have hu := ht.loadN.of_ok eq
              split
              · exact .next hu
              · split
                · exact .next hu.dropRecord
                · exact .next hu.askOutside
                · rename_i v _ eq
                  have hv := hu.recordCheck.of_ok eq
                  split
                  · exact .next hv.dropRecord
                  · exact .next hu.askOutside
                  · rename_i w _ eq
                    have hw := hv.lookupRecord.of_ok eq
                    split
                    · exact .next hw.forgetNode
                    · exact .next hu.askOutside
                    · rename_i t1 eq
                      have ht1 := hw.takeRecord.of_ok eq
                      split
                      · exact .next ht1.consume.errand
                      · refine .next ?_
                        split
                        · exact ht1.consume.setPart
                        · exact ht1.consume
theorem State.Canon.execDispatch {p : Nat} {s : State} (hs : s.Canon) : Out.Kept (execDispatch p s) := by
  unfold Machine.execDispatch
  split
  · exact .next hs
  · dsimp only
    split
    · exact .next hs.resumeErrands.lookHeads
    · split
      · exact .next hs.resumeErrands.lookHeads.resumeParked
      · exact .next hs.resumeErrands.lookHeads.dispatchHead
      · split
        · exact .next hs.resumeErrands.lookHeads.askOutside
        · rename_i t eq
          have ht := hs.resumeErrands.lookHeads.evictSpills.of_ok eq
          refine .next ?_
          refine State.Canon.startTask ?_
          split
          · exact ht.setPart
          · exact ht
theorem State.Canon.execTaskResume {c : Nat} {s : State} (hs : s.Canon) : Out.Kept (execTaskResume c s) := by
  unfold Machine.execTaskResume
  split
  · exact .next hs
  · split
    · exact .next hs
    · split
      · split
        · exact .next hs.resumeParked
        · exact .next hs
      · exact .next hs
theorem State.Canon.execSchedulerDusk {p : Nat} {s : State} (hs : s.Canon) : Out.Kept (execSchedulerDusk p s) := by
  unfold Machine.execSchedulerDusk
  split
  · exact .next hs
  · split
    · exact .next hs
    · split
      · exact .next hs
      · split
        · exact .next hs
        · exact .next hs.askDusk
theorem State.Canon.execPrtFqheadWrite {v : Word} {s : State} (hs : s.Canon) : Out.Kept (execPrtFqheadWrite v s) := by
  unfold Machine.execPrtFqheadWrite
  refine hs.effect (fun y => ?_)
  exact hs.writeFqHead
theorem State.Canon.execPrtInv {v : Word} {s : State} (hs : s.Canon) : Out.Kept (execPrtInv v s) := by
  unfold Machine.execPrtInv
  refine hs.effect (fun y => ?_)
  exact hs.writeInv
theorem State.Canon.execInvalidationComplete {p : Nat} {s : State} (hs : s.Canon) : Out.Kept (execInvalidationComplete p s) := by
  unfold Machine.execInvalidationComplete
  split
  · exact .next hs
  · split
    · exact .next hs
    · split
      · exact .next hs.setPart.invalidate
      · exact .next hs
theorem State.Canon.execPopMigrate {asid : BitVec 13} {s : State} (hs : s.Canon) : Out.Kept (execPopMigrate asid s) := by
  unfold Machine.execPopMigrate
  refine hs.effect (fun y => ?_)
  exact hs.writePop
theorem State.Canon.execPopDuplicate {asid : BitVec 13} {s : State} (hs : s.Canon) : Out.Kept (execPopDuplicate asid s) := by
  unfold Machine.execPopDuplicate
  refine hs.effect (fun y => ?_)
  exact hs.writePop
theorem State.Canon.execPopCollapse {asid : BitVec 13} {s : State} (hs : s.Canon) : Out.Kept (execPopCollapse asid s) := by
  unfold Machine.execPopCollapse
  refine hs.effect (fun y => ?_)
  exact hs.writePop
theorem State.Canon.execPageOperationComplete {p : Nat} {s : State} (hs : s.Canon) : Out.Kept (execPageOperationComplete p s) := by
  unfold Machine.execPageOperationComplete
  split
  · exact .next hs
  split
  · exact .next hs
  split
  · exact .next hs
  extract_lets +onlyGivenNames invs
  split
  · exact .next hs
  extract_lets +onlyGivenNames t
  have ht : t.Canon := .ite hs.invalidate hs
  clear_value t
  split
  · exact .next ht.endPop.drainFaults
  extract_lets go
  have hgo : Res.Post (fun r => r.1.Canon) go := by
    refine ht.popFinish.bind fun ⟨u, r, inv⟩ hu => ?_
    dsimp only
    have rest (v : State) (hv : v.Canon) : Res.Post (fun r : State × Nat × Bool => r.1.Canon)
        (.ok ((List.range 4).foldl (fun t d => State.consume t (migAgent d)) v, r, inv)) := .ok (hv.foldl fun hw => hw.consume)
    exact .ite ((State.Canon.startInv hu).bind rest) (.bind (.ok hu) rest)
  clear_value go
  split
  · exact .next ht.endPop.drainFaults
  · exact .next ht.askOutside
  · have hu := hgo.value
    split
    · exact .next (State.Canon.setPop hu)
    · exact .next (State.Canon.drainFaults (State.Canon.endPop hu))
theorem State.Canon.execTcmdResume {s : State} (hs : s.Canon) : Out.Kept (execTcmdResume s) := by
  unfold Machine.execTcmdResume
  refine hs.effect (fun y => ?_)
  exact hs.tcmdResume
theorem State.Canon.execTcmdEnd {s : State} (hs : s.Canon) : Out.Kept (execTcmdEnd s) := by
  unfold Machine.execTcmdEnd
  refine hs.effect (fun y => ?_)
  exact hs.tcmdEnd
theorem State.Canon.execHotvalRead {d : Reg} {s : State} (hs : s.Canon) : Out.Kept (execHotvalRead d s) := by
  unfold Machine.execHotvalRead
  refine hs.effect (fun y => ?_)
  refine hs.readHot.bind fun ⟨t, _⟩ ht => ?_
  dsimp only
  exact .ok ht.setG
theorem State.Canon.execFrrEnable {v : Word} {s : State} (hs : s.Canon) : Out.Kept (execFrrEnable v s) := by
  unfold Machine.execFrrEnable
  refine hs.effect (fun y => ?_)
  refine .skip fun _ => ?_
  exact hs.writeCtl
theorem State.Canon.execFrrDisable {v : Word} {s : State} (hs : s.Canon) : Out.Kept (execFrrDisable v s) := by
  unfold Machine.execFrrDisable
  refine hs.effect (fun y => ?_)
  refine .skip fun _ => ?_
  exact hs.writeCtl
theorem State.Canon.execSchQuotaWrite {v : Word} {s : State} (hs : s.Canon) : Out.Kept (execSchQuotaWrite v s) := by
  unfold Machine.execSchQuotaWrite
  refine hs.effect (fun y => ?_)
  exact hs.writeQuota
theorem State.Canon.execPrtDusk {s : State} (hs : s.Canon) : Out.Kept (execPrtDusk s) := by
  unfold Machine.execPrtDusk
  refine hs.effect (fun y => ?_)
  exact hs.writeDusk
theorem State.Canon.execPrtRsz {v : Word} {s : State} (hs : s.Canon) : Out.Kept (execPrtRsz v s) := by
  unfold Machine.execPrtRsz
  refine hs.effect (fun y => ?_)
  exact hs.writeRsz
theorem State.Canon.execPrtMove {v : Word} {s : State} (hs : s.Canon) : Out.Kept (execPrtMove v s) := by
  unfold Machine.execPrtMove
  refine hs.effect (fun y => ?_)
  exact hs.writeMove
theorem State.Canon.execClusterRemovalComplete {p cl : Nat} {s : State} (hs : s.Canon) : Out.Kept (execClusterRemovalComplete p cl s) := by
  unfold Machine.execClusterRemovalComplete
  split
  · exact .next hs
  · split
    · exact .next hs
    · exact .next hs.removeCluster
theorem State.Canon.execTicketExport {s : State} (hs : s.Canon) : Out.Kept (execTicketExport s) := by
  unfold Machine.execTicketExport
  refine hs.effect (fun y => ?_)
  exact hs.exportTicket
theorem State.Canon.execTicketImport {asid : BitVec 13} {s : State} (hs : s.Canon) : Out.Kept (execTicketImport asid s) := by
  unfold Machine.execTicketImport
  refine hs.effect (fun y => ?_)
  exact hs.importTicket

/-! Registers, host rings, the mailbox and the links. -/

theorem State.Canon.execCsrr {g : Guard} {d : Reg} {n : BitVec 12} {s : State} (hs : s.Canon) : Out.Kept (execCsrr g d n s) := by
  unfold Machine.execCsrr
  refine hs.control (fun y => ?_)
  refine .skip fun _ => ?_
  refine hs.csrRead.bind fun ⟨t, _⟩ ht => ?_
  dsimp only
  exact .ok ht.setCtx
theorem State.Canon.execRegisterWrite {n : BitVec 12} {v : Word} {s : State} (hs : s.Canon) : Out.Kept (execRegisterWrite n v s) := by
  unfold Machine.execRegisterWrite
  split
  · exact .next hs
  · split
    · exact .next hs
    · split
      · exact .next hs.interrupt
      · split
        · rename_i t eq
          have ht := hs.csrWrite.of_ok eq
          exact .next ht
        · exact .next hs.interrupt
theorem State.Canon.execDoorbell {p : Nat} {t : BitVec 32} {s : State} (hs : s.Canon) : Out.Kept (execDoorbell p t s) := by
  unfold Machine.execDoorbell
  split
  · exact .next hs
  · split
    · exact .next hs.setErr
    · split
      · exact .next hs.setPart
      · exact .next hs.setErr
theorem State.Canon.execRingEntryNop {p : Nat} {s : State} (hs : s.Canon) : Out.Kept (execRingEntryNop p s) := by
  unfold Machine.execRingEntryNop
  split
  · exact .next hs
  · exact .next hs.takeEntry
theorem State.Canon.execRingEntryGraph {p : Nat} {s : State} (hs : s.Canon) : Out.Kept (execRingEntryGraph p s) := by
  unfold Machine.execRingEntryGraph
  split
  · exact .next hs
  · exact .next hs.takeEntry
theorem State.Canon.execRingEntryRecord {p : Nat} {s : State} (hs : s.Canon) : Out.Kept (execRingEntryRecord p s) := by
  unfold Machine.execRingEntryRecord
  split
  · exact .next hs
  · exact .next hs.takeEntry
theorem State.Canon.execDaybreak {tag : Byte} {s : State} (hs : s.Canon) : Out.Kept (execDaybreak tag s) := by
  unfold Machine.execDaybreak
  split
  · exact .next hs
  split
  · exact .next (hs.upd rfl)
  · extract_lets t
    have ht : t.Canon := hs.abandon.postResult
    exact .next (ht.upd rfl)
theorem State.Canon.execMailboxResultPosted {s : State} (hs : s.Canon) : Out.Kept (execMailboxResultPosted s) := by
  unfold Machine.execMailboxResultPosted
  split
  · exact .next hs
  · split
    · exact .next hs
    · exact .next hs.runCommand
theorem State.Canon.execHifErrClear {v : Word} {s : State} (hs : s.Canon) : Out.Kept (execHifErrClear v s) := by
  unfold Machine.execHifErrClear
  split
  · exact .next hs
  · exact .next (hs.upd rfl)
theorem State.Canon.execHostMemRequest {req : HostReq} {s : State} (hs : s.Canon) : Out.Kept (execHostMemRequest req s) := by
  unfold Machine.execHostMemRequest
  split
  · split
    · exact .next hs.hostRead
    · exact .next hs
  · split
    · split
      · rename_i t eq
        have ht := hs.hostWrite.of_ok eq
        exact .next ht
      · exact .next hs.askOutside
    · exact .next hs
  · split
    · exact .next (hs.upd rfl)
    · exact .next hs
  · split
    · exact .next (hs.upd rfl)
    · exact .next hs
theorem State.Canon.execHostWriteSnoop {addr : Nat} {bytes : List Byte} {s : State} (hs : s.Canon) :
    Out.Kept (execHostWriteSnoop addr bytes s) := by
  unfold Machine.execHostWriteSnoop
  split
  · exact .next hs
  · exact .next (State.Canon.hostEntries (hs.foldl fun ht => State.Canon.stampWrite (ht.cleanPoison.upd rfl)))
theorem State.Canon.execHostCxlResponse {r : CxlResp} {s : State} (hs : s.Canon) : Out.Kept (execHostCxlResponse r s) := by
  unfold Machine.execHostCxlResponse
  split
  · exact .next hs
  · split
    · split
      · dsimp only
        exact .next (hs.upd rfl)
      · exact .next hs
    · exact .next (hs.upd rfl)
    · exact .next (hs.upd rfl)
theorem State.Canon.execDruatLoad {port : Nat} {f : Flit} {s : State} (hs : s.Canon) : Out.Kept (execDruatLoad port f s) := by
  unfold Machine.execDruatLoad
  refine hs.receive (fun hw => ?_)
  split
  · dsimp only
    exact .ok hw.readHbm.send
  · exact .ok hw
theorem State.Canon.execDruatLoadResponse {port : Nat} {f : Flit} {s : State} (hs : s.Canon) :
    Out.Kept (execDruatLoadResponse port f s) := by
  unfold Machine.execDruatLoadResponse
  refine hs.receive (fun hw => ?_)
  dsimp only
  exact .ok (hw.upd rfl)
theorem State.Canon.execDruatStore {port : Nat} {f : Flit} {s : State} (hs : s.Canon) : Out.Kept (execDruatStore port f s) := by
  unfold Machine.execDruatStore
  refine hs.forDevice ?_
  refine hs.receive (fun hw => ?_)
  refine hw.writeFlit.map fun t ht => ?_
  exact ht.send
theorem State.Canon.execDruatReduction {port : Nat} {f : Flit} {op : AmoOp} {dbl : Bool} {s : State} (hs : s.Canon) :
    Out.Kept (execDruatReduction port f op dbl s) := by
  unfold Machine.execDruatReduction
  dsimp only
  refine hs.forDevice ?_
  refine hs.receive (fun hw => ?_)
  split
  · split
    · split
      · exact .ok hw.send
      · refine hw.recall.forPhysical.bind fun t ht => ?_
        exact .ok ht.writeHbm.send
    · exact .ok hw
  · split
    · split
      · exact .ok hw.send
      · refine hw.recall.forPhysical.bind fun t ht => ?_
        exact .ok ht.writeHbm.send
    · exact .ok hw
theorem State.Canon.execDruatAcknowledge {port : Nat} {f : Flit} {s : State} (hs : s.Canon) : Out.Kept (execDruatAcknowledge port f s) := by
  unfold Machine.execDruatAcknowledge
  refine hs.receive (fun hw => ?_)
  dsimp only
  exact .ok (hw.upd rfl)
theorem State.Canon.execDruatCollectiveStream {port : Nat} {f : Flit} {group : BitVec 16} {rank : Nat} {s : State} (hs : s.Canon) :
    Out.Kept (execDruatCollectiveStream port f group rank s) := by
  unfold Machine.execDruatCollectiveStream
  refine hs.receive (fun hw => ?_)
  split
  · exact .ok hw
  · dsimp only
    exact .ok hw.setGroup.collRun
theorem State.Canon.execDruatMigrationStream {port : Nat} {f : Flit} {s : State} (hs : s.Canon) :
    Out.Kept (execDruatMigrationStream port f s) := by
  unfold Machine.execDruatMigrationStream
  refine hs.forDevice ?_
  refine hs.receive (fun hw => ?_)
  exact hw.writeFlit
theorem State.Canon.execDruatIdle {port : Nat} {f : Flit} {s : State} (hs : s.Canon) : Out.Kept (execDruatIdle port f s) := by
  unfold Machine.execDruatIdle
  refine hs.receive (fun hw => ?_)
  exact .ok hw
theorem State.Canon.execFlitCrcFail {port : Nat} {s : State} (hs : s.Canon) : Out.Kept (execFlitCrcFail port s) := by
  unfold Machine.execFlitCrcFail
  split
  · exact .next hs
  · exact .next hs.askReplay
theorem State.Canon.execPortRetrain {port : Nat} {s : State} (hs : s.Canon) : Out.Kept (execPortRetrain port s) := by
  unfold Machine.execPortRetrain
  split
  · exact .next hs
  · split
    · exact .next hs
    · split
      · exact .next hs
      · split
        · exact .next hs
        · split
          · exact .next hs.setPort
          · exact .next hs.retrain
theorem State.Canon.execRetrainComplete {port : Nat} {ok : Bool} {s : State} (hs : s.Canon) : Out.Kept (execRetrainComplete port ok s) := by
  unfold Machine.execRetrainComplete
  split
  · exact .next hs
  · split
    · exact .next hs
    · split
      · exact .next hs
      · split <;> exact .next hs.setPort
theorem State.Canon.execPortFailed {port : Nat} {s : State} (hs : s.Canon) : Out.Kept (execPortFailed port s) := by
  unfold Machine.execPortFailed
  split
  · exact .next hs
  · split
    · exact .next hs
    · split
      · exact .next hs
      · extract_lets +onlyGivenNames _ _ _ t t1
        have ht : t.Canon := hs.setPort
        have ht1 : t1.Canon := ht.upd rfl
        dsimp only
        exact .next (State.Canon.setErr (State.Canon.ite ((ht1.foldl fun hu => hu.failRemote).failGroups)
            (ht1.foldl fun hu => hu.failRemote)))
theorem State.Canon.execPowerOnStart {s : State} (hs : s.Canon) : Out.Kept (execPowerOnStart s) := by
  unfold Machine.execPowerOnStart
  split
  · exact .next State.Canon.begin
  · exact .next hs
theorem State.Canon.execStartTimeout {s : State} (hs : s.Canon) : Out.Kept (execStartTimeout s) := by
  unfold Machine.execStartTimeout
  split
  · exact .next State.Canon.startFailed
  · exact .next hs.hold
  · exact .next hs
  · exact .next hs
  · exact .next hs
  · exact .next hs
theorem State.Canon.execStartComplete {failed : Option (BitVec 4)} {lanes : List (BitVec 8)} {s : State} (hs : s.Canon) :
    Out.Kept (execStartComplete failed lanes s) := by
  unfold Machine.execStartComplete
  split
  · exact .next hs
  · split
    · exact .next State.Canon.startFailed
    · exact .next (hs.upd rfl)
theorem State.Canon.execTwilightStart {ok : Bool} {step : BitVec 4} {ucie0 : Bool} {s : State} (hs : s.Canon) :
    Out.Kept (execTwilightStart ok step ucie0 s) := by
  unfold Machine.execTwilightStart
  split
  · exact .next hs
  · split
    · exact .next hs.hold
    · exact .next (hs.upd rfl)
theorem State.Canon.execTwilightRetry {s : State} (hs : s.Canon) : Out.Kept (execTwilightRetry s) := by
  unfold Machine.execTwilightRetry
  split
  · exact .next (hs.upd rfl)
  · exact .next hs
theorem State.Canon.execPowerStep {island : Nat} {up : Bool} {s : State} (hs : s.Canon) : Out.Kept (execPowerStep island up s) := by
  unfold Machine.execPowerStep
  split
  · exact .next hs
  · split
    · exact .next hs
    · split
      · exact .next hs
      · dsimp only
        exact .next (hs.upd rfl)
theorem State.Canon.execPowerLoss {s : State}  : Out.Kept (execPowerLoss s) := .next (State.Canon.reset.upd rfl)
theorem State.Canon.execTrayPowerLimit {w : BitVec 16} {s : State} (hs : s.Canon) : Out.Kept (execTrayPowerLimit w s) := .next (hs.upd rfl)

/-- The steps of other agents. -/
theorem exec_kept_of_no_guard {i : Instr} (h : i.guard = none) {s : State} (hs : s.Canon) : Out.Kept (exec i s) := by
  cases i with
  | illegalWord => exact hs.execIllegalWord
  | instructionFetchFault => exact hs.execInstructionFetchFault
  | registerWrite => exact hs.execRegisterWrite
  | wfeTimeout => exact hs.execWfeTimeout
  | sevDelivery => exact hs.execSevDelivery
  | compactionDone => exact hs.execCompactionDone
  | slabRelocationStep => exact hs.execSlabRelocationStep
  | portReadAccess => exact hs.execPortReadAccess
  | portGatherAccess => exact hs.execPortGatherAccess
  | portWriteAccess => exact hs.execPortWriteAccess
  | portReductionAccess => exact hs.execPortReductionAccess
  | portCondition => exact hs.execPortCondition
  | speculativeFetch => exact hs.execSpeculativeFetch
  | portBarArrival => exact hs.execPortBarArrival
  | portDoneToken => exact hs.execPortDoneToken
  | portRetry => exact hs.execPortRetry
  | relatchToken => exact hs.execRelatchToken
  | inputPacketExpand => exact hs.execInputPacketExpand
  | cfgkConsume => exact hs.execCfgkConsume
  | repeatBlock | mergeIsect | mergeUnion | mergeChk | radix | gate | select | stat | xlat | cbdec | delta | fconv | rle | transp =>
    simp only [exec]; exact hs.opStep
  | mov | iadd | isub | imul | imad | iand | ior | ixor | ishl | ishr | isra | imin | imax | icmp | elemSel | cmpc | deq | emit
  | fadd | fsub | fmul | ffma | fmin | fmax | fcmp | fexp2 | frcp | fcvtF32Bf16 | fcvtF32F16 | fcvtF32E4m3 | fcvtF32E5m2
  | fcvtF32E2m1 | fcvtF32S32 | fcvtF32Z32 | fcvtBf16F32 | fcvtF16F32 | fcvtE4m3F32 | fcvtE5m2F32 | fcvtE2m1F32 | fcvtS32F32
  | fcvtZ32F32 | vaddBf16 | vmulBf16 | vfmaBf16 | vaddF16 | vmulF16 | vfmaF16 | vaddS16 | vmulS16 | vaddS8 | vmulS8 =>
    simp only [exec]; exact hs.fire
  | copySectorWrite => exact hs.execCopySectorWrite
  | copySectorRetry => exact hs.execCopySectorRetry
  | ringSlotCopy => exact hs.execRingSlotCopy
  | updateOnlyEvict => exact hs.execUpdateOnlyEvict
  | chainEntryComplete => exact hs.execChainEntryComplete
  | seqwTimeout => exact hs.execSeqwTimeout
  | tableLoadEntry => exact hs.execTableLoadEntry
  | dispatch => exact hs.execDispatch
  | reuseLookup => exact hs.execReuseLookup
  | schedulerDusk => exact hs.execSchedulerDusk
  | tyieldAgeExpiry => exact hs.execTyieldAgeExpiry
  | asyncTrap => exact hs.execAsyncTrap
  | prtInv => exact hs.execPrtInv
  | invalidationComplete => exact hs.execInvalidationComplete
  | popMigrate => exact hs.execPopMigrate
  | popDuplicate => exact hs.execPopDuplicate
  | popCollapse => exact hs.execPopCollapse
  | pageOperationComplete => exact hs.execPageOperationComplete
  | drainTimerExpiry => exact hs.execDrainTimerExpiry
  | drainTimeout => exact hs.execDrainTimeout
  | tcmdResume => exact hs.execTcmdResume
  | tcmdEnd => exact hs.execTcmdEnd
  | hotvalRead => exact hs.execHotvalRead
  | frrEnable => exact hs.execFrrEnable
  | frrDisable => exact hs.execFrrDisable
  | schQuotaWrite => exact hs.execSchQuotaWrite
  | prtDusk => exact hs.execPrtDusk
  | duskStart => exact hs.execDuskStart
  | markerPass => exact hs.execMarkerPass
  | writePortDrain => exact hs.execWritePortDrain
  | foreignMarkArrival => exact hs.execForeignMarkArrival
  | setSwap => exact hs.execSetSwap
  | taskResume => exact hs.execTaskResume
  | prtRsz => exact hs.execPrtRsz
  | clusterRemovalComplete => exact hs.execClusterRemovalComplete
  | prtMove => exact hs.execPrtMove
  | ticketExport => exact hs.execTicketExport
  | ticketImport => exact hs.execTicketImport
  | doorbell => exact hs.execDoorbell
  | ringEntryNop => exact hs.execRingEntryNop
  | ringEntryGraph => exact hs.execRingEntryGraph
  | ringEntryRecord => exact hs.execRingEntryRecord
  | daybreak => exact hs.execDaybreak
  | partCreate | partDestroy | setTables | asidSync | frrOwner | groupReg | aperture | ticketKey | clusterMove | reset
  | mailboxUnknown =>
    simp only [exec]; exact hs.mailbox
  | hifErrClear => exact hs.execHifErrClear
  | hostMemRequest => exact hs.execHostMemRequest
  | hostWriteSnoop => exact hs.execHostWriteSnoop
  | druatLoad => exact hs.execDruatLoad
  | druatLoadResponse => exact hs.execDruatLoadResponse
  | druatStore => exact hs.execDruatStore
  | druatReduction => exact hs.execDruatReduction
  | druatAcknowledge => exact hs.execDruatAcknowledge
  | druatCollectiveStream => exact hs.execDruatCollectiveStream
  | druatMigrationStream => exact hs.execDruatMigrationStream
  | druatIdle => exact hs.execDruatIdle
  | flitCrcFail => exact hs.execFlitCrcFail
  | portRetrain => exact hs.execPortRetrain
  | portFailed => exact hs.execPortFailed
  | powerOnStart => exact hs.execPowerOnStart
  | startTimeout => exact hs.execStartTimeout
  | twilightStart => exact hs.execTwilightStart
  | twilightRetry => exact hs.execTwilightRetry
  | powerStep => exact hs.execPowerStep
  | claimStreamDone => exact hs.execClaimStreamDone
  | mailboxResultPosted => exact hs.execMailboxResultPosted
  | startComplete => exact hs.execStartComplete
  | retrainComplete => exact hs.execRetrainComplete
  | hostCxlResponse => exact hs.execHostCxlResponse
  | prtFqheadWrite => exact hs.execPrtFqheadWrite
  | powerLoss => exact State.Canon.execPowerLoss
  | trayPowerLimit => exact hs.execTrayPowerLimit
  | _ => cases h

/-- The control words. -/
theorem exec_kept_of_guard {i : Instr} {g : Guard} (h : i.guard = some g) {s : State} (hs : s.Canon) : Out.Kept (exec i s) := by
  cases i with
  | add | sub | mul | mulh | mulhz | div | divz | rem | remz | and | or | xor | andn | shlReg | shrReg | shaReg | rotReg | min | max
  | minz | maxz =>
    simp only [exec]; exact hs.binary
  | shlImm | shrImm | shaImm | rotImm | clz | popc | bfx | bfxS | bfi | addsh | mad | sel | movi | movhi | addi =>
    simp only [exec]; exact hs.writes
  | cmp | pand | por | pnot | rngld | rngst | rand | fstat | fstatAll => simp only [exec]; exact hs.simple
  | br => exact hs.execBr
  | jal => exact hs.execJal
  | jr => exact hs.execJr
  | brcL1 => exact hs.execBrcL1
  | brcAll => exact hs.execBrcAll
  | loop => exact hs.execLoop
  | loopi => exact hs.execLoopi
  | nop => exact hs.execNop
  | ld => exact hs.execLd
  | st => exact hs.execSt
  | csrr => exact hs.execCsrr
  | csrw | csrwSet | csrwClr => simp only [exec]; exact hs.csrw
  | trap => exact hs.execTrap
  | eret => exact hs.execEret
  | eretTask => exact hs.execEretTask
  | wfe => exact hs.execWfe
  | sevAll => exact hs.execSevAll
  | sevOne => exact hs.execSevOne
  | sevClus => exact hs.execSevClus
  | hintSpin => exact hs.execHintSpin
  | hintPf => exact hs.execHintPf
  | mma => exact hs.execMma
  | mmas => exact hs.execMmas
  | prune => exact hs.execPrune
  | mzero => exact hs.execMzero
  | mld => exact hs.execMld
  | mst => exact hs.execMst
  | aadd | amul | afma | amax | amin => simp only [exec]; exact hs.vector2
  | aexp2 | alog2 | arcp | arsq | asig | asigTanh | asigSilu | asigExpe | amov => simp only [exec]; exact hs.vector1
  | aredSum | aredMax | aredMin => simp only [exec]; exact hs.reduceCols
  | abcast => exact hs.execAbcast
  | abcastRow | abcastColv => simp only [exec]; exact hs.spreadSpad
  | acvt | acvtB32 => simp only [exec]; exact hs.convertTile
  | abind => exact hs.execAbind
  | attn => exact hs.execAttn
  | tmerge => exact hs.execTmerge
  | kvmap => exact hs.execKvmap
  | kvapp => exact hs.execKvapp
  | kvfork => exact hs.execKvfork
  | kvforkCow => exact hs.execKvforkCow
  | kvtrunc => exact hs.execKvtrunc
  | kvrel => exact hs.execKvrel
  | kvret => exact hs.execKvret
  | kvcompact => exact hs.execKvcompact
  | kvqLen => exact hs.execKvqLen
  | kvqMap => exact hs.execKvqMap
  | kvqFrame => exact hs.execKvqFrame
  | kvqState => exact hs.execKvqState
  | pxlkp => exact hs.execPxlkp
  | pxlkpDrop => exact hs.execPxlkpDrop
  | pxins => exact hs.execPxins
  | cfg => exact hs.execCfg
  | cfgStg => exact hs.execCfgStg
  | cfgsw => exact hs.execCfgsw
  | strm => exact hs.execStrm
  | sbar => exact hs.execSbar
  | sbarOrd => exact hs.execSbarOrd
  | btok => exact hs.execBtok
  | argw => exact hs.execArgw
  | tinj => exact hs.execTinj
  | tpop => exact hs.execTpop
  | slotf => exact hs.execSlotf
  | cpyG2s | cpyS2g | cpyG2g | cpyS2s => simp only [exec]; exact hs.copyInstr
  | cpyRing => exact hs.execCpyRing
  | tbinit => exact hs.execTbinit
  | tbexp => exact hs.execTbexp
  | tbarr => exact hs.execTbarr
  | tbwait => exact hs.execTbwait
  | tbtest => exact hs.execTbtest
  | amo => exact hs.execAmo
  | red => exact hs.execRed
  | amof => exact hs.execAmof
  | cas => exact hs.execCas
  | ldfe => exact hs.execLdfe
  | stfe => exact hs.execStfe
  | pref => exact hs.execPref
  | fence => exact hs.execFence
  | chainCpy | chainColl => simp only [exec]; exact hs.chain
  | seqw => exact hs.execSeqw
  | collSum | collMax | collMin | collBcast | collAgath | collRscat => simp only [exec]; exact hs.collective
  | spl => exact hs.execSpl
  | fil => exact hs.execFil
  | bslice => exact hs.execBslice
  | bjoin => exact hs.execBjoin
  | lctx => exact hs.execLctx
  | lsel => exact hs.execLsel
  | lrun => exact hs.execLrun
  | lstatPop => exact hs.execLstatPop
  | lstatWord => exact hs.execLstatWord
  | lstatSlot => exact hs.execLstatSlot
  | lstatRuns => exact hs.execLstatRuns
  | tenq => exact hs.execTenq
  | launch => exact hs.execLaunch
  | launchArg => exact hs.execLaunchArg
  | gsig => exact hs.execGsig
  | tend => exact hs.execTend
  | tyield => exact hs.execTyield
  | rinvTag => exact hs.execRinvTag
  | rinvRange => exact hs.execRinvRange
  | rinvAll => exact hs.execRinvAll
  | rinvAsid => exact hs.execRinvAsid
  | rstatLkp | rstatHit | rstatMiss | rstatIns | rstatHeld | rstatQuota => simp only [exec]; exact hs.rstat
  | rstatProbe => exact hs.execRstatProbe
  | _ => cases h

theorem exec_kept (i : Instr) {s : State} (hs : s.Canon) : Out.Kept (exec i s) := by
  cases h : i.guard with
  | some g => exact exec_kept_of_guard h hs
  | none => exact exec_kept_of_no_guard h hs

theorem State.Canon.issue {s : State} (hs : s.Canon) : Out.Kept s.issue := by
  unfold State.issue
  split
  · exact .next hs
  split
  · exact .next hs
  split
  · exact hs.execAsyncTrap
  split
  · rename_i t w eq
    exact exec_kept _ (hs.fetch.of_ok eq)
  · split
    · exact exec_kept _ hs.stampReads
    · exact .next hs.stampReads.takeTrap
  · exact .next hs.interrupt

theorem State.Canon.move {s : State} (hs : s.Canon) : Out.Kept s.move := by
  unfold State.move
  split
  · exact hs.issue
  · exact State.Canon.issue (hs.upd rfl)
  · exact .next (State.Canon.memoryError (hs.upd rfl))
  · split
    · exact exec_kept _ (hs.upd rfl)
    · exact .next (hs.upd rfl)

/-- Settles O5: what a step runs keeps the canonical form, since every operation of it does. -/
theorem memoryStaysCanonical : Obligations.MemoryStaysCanonical := by
  unfold Obligations.MemoryStaysCanonical
  intro s t hs moved
  exact (State.Canon.move (State.Canon.pass hs)).of_next moved

end Sys2Proof.Machine
end

section
/-! PROOFS. Traps (R246 to R254): where one goes, what its entry saves, and what a record in the fault queue takes. -/

namespace Sys2Proof.Machine

theorem State.reportHalt_core (s : State) (p n : Nat) : (s.reportHalt p).core n = s.core n := by
  unfold State.reportHalt
  cases s.part p <;> rfl
theorem State.reportHalt_mem (s : State) (p : Nat) : (s.reportHalt p).mem = s.mem := by
  unfold State.reportHalt
  cases s.part p <;> rfl
theorem State.reportHalt_hifErr (s : State) (p : Nat) : (s.reportHalt p).hifErr = s.hifErr ||| 4 := by
  unfold State.reportHalt
  cases s.part p <;> rfl

theorem State.ownHandler_entered (s : State) (n : Nat) {x : Ctx} (t : Trap) (word resume : Word) (fr : FaultRecord) (sh : x.sh = false)
    (svec : x.svec ≠ 0) : s.ownHandler n x t word resume fr = s.setDay n (some { x with
      epc := resume, cause := BitVec.ofNat 64 t.code.num, stval := t.val, sword := word, sh := true, pc := x.svec &&& ~~~7, fr := fr
      wait := .none }) := by
  simp only [State.ownHandler, sh, beq_eq_false_iff_ne.mpr svec, Bool.or_self, Bool.false_eq_true, if_false, vectorPc]

theorem State.ownHandler_halted (s : State) (n : Nat) {x : Ctx} (t : Trap) (word resume : Word) (fr : FaultRecord)
    (h : x.sh = true ∨ x.svec = 0) :
    s.ownHandler n x t word resume fr = (s.setDay n (some { x with halted := true, fr := fr })).reportHalt x.part :=
  if_pos (by simpa using h)

theorem Ctx.taskRoute_iff (x : Ctx) (t : Trap) : x.taskRoute t = true ↔
    (t.code = .kvcow ∨ t.code = .order ∨ t.code = .page ∧ t.drain = true) ∧ x.thv ≠ 0 ∧ x.th = false := by
  simp [Ctx.taskRoute, or_assoc, and_assoc]

theorem Ctx.noteFault_eq (x : Ctx) (t : Trap) : x.noteFault t =
    { x with job := if t.code = .purity then x.job.map fun j => { j with faulted := true } else x.job } := by
  have note (j : Job) : j.noteFault t = if t.code = .purity then { j with faulted := true } else j := by
    by_cases h : t.code = .purity <;> simp [Job.noteFault, h]
  by_cases h : t.code = .purity <;> simp [Ctx.noteFault, note, h]

theorem State.hostFree_ok {s : State} {pa : Nat} (h : setHas s.hostCopies (lineOf pa) = false) : s.hostFree pa = .ok () := by
  simp [State.hostFree, h]

/-- The record stands in the queue's next slot, and its tail moves past it. -/
theorem State.pushFault_ok {s u : State} {p : Nat} {q : Partition} {r : FaultRecord} (part : s.part p = some q)
    (free : (q.fqTail - q.fqHead).toNat < q.fqLen.toNat)
    (still : s.moving (q.fqBase.toNat + 32 * (q.fqTail.toNat % q.fqLen.toNat)) r.bytes.length = false)
    (phys : s.forPhysical (dieAgent q.schedDie 6 0) (q.fqBase.toNat + 32 * (q.fqTail.toNat % q.fqLen.toNat)) r.bytes.length = .ok u)
    (hbm : u.region (q.fqBase.toNat + 32 * (q.fqTail.toNat % q.fqLen.toNat)) = .hbm)
    (home : setHas u.hostCopies (lineOf (q.fqBase.toNat + 32 * (q.fqTail.toNat % q.fqLen.toNat))) = false) :
    let t := u.writeHbm (dieAgent q.schedDie 6 0) (q.fqBase.toNat + 32 * (q.fqTail.toNat % q.fqLen.toNat)) r.bytes
    s.pushFault p r = .ok ((t.setPart p { (t.part p).getD q with fqTail := q.fqTail + 1 }).setEv q.supCore) := by
  have room : q.fqFree = true := decide_eq_true free
  have put : s.putPhys (dieAgent q.schedDie 6 0) (q.fqBase.toNat + 32 * (q.fqTail.toNat % q.fqLen.toNat)) r.bytes =
      .ok (u.writeHbm (dieAgent q.schedDie 6 0) (q.fqBase.toNat + 32 * (q.fqTail.toNat % q.fqLen.toNat)) r.bytes) := by
    rw [State.putPhys, await_ok (by rw [still]; rfl), Res.ok_bind, phys, Res.ok_bind, State.writeAt, hbm]
    simp only [State.hostFree_ok home, Res.ok_bind]
  simp only [State.pushFault, part, await_ok room, Res.ok_bind, put]

theorem State.pushFault_full {s : State} {p : Nat} {q : Partition} (r : FaultRecord) (part : s.part p = some q)
    (full : q.fqLen.toNat ≤ (q.fqTail - q.fqHead).toNat) : s.pushFault p r = .error (.wait .queueFull) := by
  have room : q.fqFree = false := decide_eq_false (Nat.not_lt.mpr full)
  simp only [State.pushFault, part, await, room]
  rfl

theorem Core.stopDusk_none {c : Core} (h : c.dusk = none) : c.stopDusk = c := by simp [Core.stopDusk, h]
theorem Core.stopDusk_unmarked {c : Core} {d : Dusk} {x : Ctx} (dusk : c.dusk = some d) (day : c.day = some x) (drain : d.drain = false)
    (held : x.heldNodes = 0) : c.stopDusk = { c with dusk := none, day := some { x with fabric := x.fabric.map Fabric.unmark } } := by
  simp [Core.stopDusk, dusk, day, drain, held]

/-- A trap with no route to a handler holds the task, and its record goes to the fault queue or waits for a slot of it. -/
theorem State.takeTrap_held (s : State) (n : Nat) {x : Ctx} (t : Trap) (word resume : Word) (async : Bool) (sup : x.sup = false)
    (route : x.taskRoute t = false) :
    let fr := faultRecord t (!x.sup && x.taskRoute t) (async || t.src != 0) word s.time x.part (s.logicalCore x.part n) x.asid
    let job := if t.code = .purity then x.job.map fun j => { j with faulted := true } else x.job
    let y := { x with pc := resume, fr := fr, wait := .none, job := job, cond := .held }
    let held := s.setCore n { s.core n with day := some y }.stopDusk
    s.takeTrap n x t word resume async = match held.pushFault x.part fr with
      | .ok u => u
      | .error e => (held.askOutside e).editTask n x.id fun z => { z with cond := .slotWait fr } := by
  have asks : (!x.sup && x.taskRoute t) = false := by rw [route, Bool.and_false]
  refine (if_neg (by rw [sup]; exact Bool.false_ne_true)).trans ((if_neg (by rw [asks]; exact Bool.false_ne_true)).trans ?_)
  simp only [Ctx.noteFault_eq, State.setDay_core] <;> rfl

/-- Settles O8: the three routes of a trap by who takes it, and the fault queue by whether it has a free slot. -/
theorem trapsTakeTheirRoute : Obligations.TrapsTakeTheirRoute := by
  unfold Obligations.TrapsTakeTheirRoute
  refine ⟨fun s n x t word resume async => ⟨fun sup sh svec => ?_, fun sup h => ?_, x.taskRoute_iff t, fun sup route => ?_, fun sup route => ?_⟩,
    fun s p q r part => ⟨State.pushFault_full r part, fun u free still phys hbm home => State.pushFault_ok part free still phys hbm home⟩,
    fun c => ⟨Core.stopDusk_none, fun d x dusk day drain held => Core.stopDusk_unmarked dusk day drain held⟩⟩
  · exact (if_pos sup).trans (State.ownHandler_entered _ _ _ _ _ _ sh svec)
  · refine ⟨_, (if_pos sup).trans (State.ownHandler_halted _ _ _ _ _ _ h), ?_, State.reportHalt_mem .., State.reportHalt_hifErr ..⟩
    rw [State.reportHalt_core, State.setDay_core]
  · rw [State.takeTrap, sup, if_neg Bool.false_ne_true, route]
    rfl
  · have done := State.takeTrap_held s n t word resume async sup route
    exact ⟨fun u pushed => by rw [done, pushed], fun e full => by rw [done, full]⟩

end Sys2Proof.Machine
end

section
/-! PROOFS. Transaction barriers (R331 to R337): the words by what their bodies answer, and what an update of a barrier does. -/

namespace Sys2Proof.Machine

theorem Bar.update_none_iff (b : Bar) (da : Nat) (ds : Int) :
    b.update da ds = none ↔ b.pa < da ∨ b.ps + ds < -(2 ^ 47) ∨ 2 ^ 47 ≤ b.ps + ds := by
  simp only [Bar.update, Bool.or_eq_true, decide_eq_true_eq]
  split
  next h => exact ⟨fun _ => by omega, fun _ => rfl⟩
  next h => split <;> exact ⟨fun e => (nomatch e), fun _ => by omega⟩

theorem Bar.update_some {b c : Bar} {da : Nat} {ds : Int} {adv : Bool} (h : b.update da ds = some (c, adv)) :
    c.live = b.live ∧ c.gm = b.gm ∧ c.owner = b.owner ∧ c.ea = b.ea ∧
      (adv = true → b.pa = da ∧ b.ps + ds = 0 ∧ c.pa = b.ea ∧ c.ps = 0 ∧ c.phase = (b.phase + 1) % 16) ∧
      (adv = false → (b.pa ≠ da ∨ b.ps + ds ≠ 0) ∧ c.pa + da = b.pa ∧ c.ps = b.ps + ds ∧ c.phase = b.phase) := by
  simp only [Bar.update, Bool.or_eq_true, Bool.and_eq_true, decide_eq_true_eq, beq_iff_eq] at h
  split at h
  next => cases h
  next fits =>
    split at h
    next zero => cases h; exact ⟨rfl, rfl, rfl, rfl, fun _ => ⟨by omega, by omega, rfl, rfl, rfl⟩, fun e => nomatch e⟩
    next pending =>
      cases h
      exact ⟨rfl, rfl, rfl, rfl, fun e => (nomatch e), fun _ => ⟨by omega, by show b.pa - da + da = b.pa; omega, rfl, rfl⟩⟩

theorem State.inherit_clock (s : State) (ag ag' : Agent) (covers : List Nat) : (s.inherit ag covers).clock ag' = s.clock ag' := by
  simp only [State.inherit]
  split <;> rfl
theorem State.raiseClock_clock (s : State) (ag : Agent) (ts : Nat) : (s.raiseClock ag ts).clock ag = max (s.clock ag) ts := by
  simp only [State.raiseClock, State.clock, tabGet_tabPut, Option.getD_some]

theorem lookupObj_noteRelease (s : State) (o : SyncObj) (r : Release) :
    ∃ q, lookupObj (s.noteRelease o r).releases o = some q ∧ r.ts ≤ q.ts := by
  simp only [State.noteRelease, lookupObj, List.find?_cons, beq_self_eq_true, Option.map_some]
  refine ⟨_, rfl, ?_⟩
  split
  next => exact Nat.le_max_left ..
  next => exact Nat.le_refl _

theorem State.acquire_clock_of_release (s : State) (ag by' : Agent) (o : SyncObj) :
    s.clock ag + 1 ≤ ((s.releaseAt ag o).acquire by' o).clock by' := by
  obtain ⟨q, found, later⟩ := lookupObj_noteRelease s o (s.release ag)
  have later : s.clock ag ≤ q.ts := later
  simp only [State.acquire, State.releaseAt, found, State.observe, State.inherit_clock, State.raiseClock_clock]
  omega

/-- Settles O41: the words by what their bodies answer, the update and the order of release and acquire by the laws above. -/
theorem barriersComplete : Obligations.BarriersComplete := by
  unfold Obligations.BarriersComplete
  refine ⟨fun s t x g p a b n ph gm sc o h => ?words, fun b da ds => ⟨b.update_none_iff da ds, fun c adv => Bar.update_some⟩,
    State.acquire_clock_of_release⟩
  refine ⟨fun written => ?_, fun fits updated => ?_, fun wide => ?_, fun done updated => ?_, fun owed => ?_, fun checked =>
    ⟨fun moved => ⟨?_, ?_⟩, fun same => ⟨?_, ?_⟩⟩⟩
  · exact (exec_tbinit ..).trans (control_seq h (by simp) (by simp only [written, Res.ok_bind]))
  · exact (exec_tbexp ..).trans (control_seq h (by simp) (by simp only [require_ok (decide_eq_true fits), updated, Res.ok_bind]))
  · have wide : decide ((x.g b).toNat < 2 ^ 47) = false := decide_eq_false (Nat.not_lt.mpr wide)
    exact (exec_tbexp ..).trans (control_trap h (by simp) (by simp only [require_no wide]; rfl))
  · exact (exec_tbarr ..).trans (control_seq h (by simp) (by simp only [await_ok done, updated, Res.ok_bind]))
  · exact (exec_tbarr ..).trans (control_wait h (by simp) (by simp only [await, owed]; rfl) nofun)
  · exact (exec_tbwait ..).trans (control_seq h (by simp) (by simp only [checked, await_ok (bne_iff_ne.mpr moved), Res.ok_bind]))
  · exact (exec_tbtest ..).trans (control_seq h (by simp) (by simp only [checked, bne_iff_ne.mpr moved, Res.ok_bind, if_true]))
  · have still : (o.phase != ph.toNat) = false := by simp [same]
    exact (exec_tbwait ..).trans (control_wait h (by simp) (by simp only [checked, await, still, Res.ok_bind]; rfl) nofun)
  · have still : (o.phase != ph.toNat) = false := by simp [same]
    exact (exec_tbtest ..).trans (control_seq h (by simp) (by simp only [checked, still, Res.ok_bind]; rfl))

end Sys2Proof.Machine
end

section
/-! PROOFS. Atomics, full-empty accesses and fences (R338 to R346): the words by what their bodies answer. -/

namespace Sys2Proof.Machine

theorem State.now_eq {s : State} {x : Ctx} (h : s.ctx = some x) : s.now x = x := by rw [State.now, h]; rfl

theorem await_no {b : Bool} {w : Wait} (h : b = false) : await b w = .error (.wait w) := by simp [await, h]

section
variable {s t : State} {x : Ctx} {d : Reg} {ea v : Word} {dbl : Bool} {f : Word → Word}

theorem State.amoGlobal_ok {op : RemoteOp} {bs : List Byte} (aligned : ea.toNat % atomBytes dbl = 0)
    (updated : s.update (s.me x) ea (atomBytes dbl) op (natLe (atomBytes dbl) v.toNat)
      (fun u => natLe (atomBytes dbl) (f (leWord u)).toNat) = .ok (t, bs)) :
    s.amoGlobal x d ea dbl op v f = .ok (t.setCtx ((t.now x).setG d (leWord bs)), .seq) := by
  simp only [State.amoGlobal, require_ok (beq_iff_eq.mpr aligned), Res.ok_bind, updated]
  rfl

theorem State.amoSpad_ok (hx : s.ctx = some x) (aligned : ea.toNat % atomBytes dbl = 0) (claim : ea.toNat + atomBytes dbl ≤ x.spadBytes)
    (free : (s.core s.cur).spadReady ea.toNat (atomBytes dbl) = true)
    (clean : (s.core s.cur).spadPoisoned ea.toNat (atomBytes dbl) = false) :
    let old := leWord (Memory.bytes (s.core s.cur).spad ea.toNat (atomBytes dbl))
    s.amoSpad x d ea dbl f = .ok ((s.setCore s.cur ((s.core s.cur).putSpad ea.toNat (natLe (atomBytes dbl) (f old).toNat))).setCtx
      (x.setG d old), .seq) := by
  intro old
  have len : (natLe (atomBytes dbl) (f old).toNat).length = atomBytes dbl := natLe_length ..
  have write := writeSpad_ok (x := x) (s := s) (o := ea) (bs := natLe (atomBytes dbl) (f old).toNat) (by rw [len]; exact claim) (by rw [len]; exact free)
  have now := State.now_eq (State.setCore_ctx hx (c := (s.core s.cur).putSpad ea.toNat (natLe (atomBytes dbl) (f old).toNat)) rfl)
  simp only [State.amoSpad, require_ok (beq_iff_eq.mpr aligned), Res.ok_bind, readSpad_ok claim free clean]
  rw [show leWord (Memory.bytes (s.core s.cur).spad ea.toNat (atomBytes dbl)) = old from rfl, write, Res.ok_bind, now]
  rfl

end

/-! Full-empty accesses (R343 to R345): the alignment, the claim and the parked task are asked for before the granule. -/

section
variable {s : State} {x : Ctx} {g : Guard} (h : s.ready x g) (d : Reg) (m : MemOp) (clr : Bool) (sz : Size)
  (aligned : (x.ea m).toNat % sizeBytes sz = 0) (claim : (x.ea m).toNat + sizeBytes sz ≤ x.spadBytes)
  (free : (s.core s.cur).spadReady (x.ea m).toNat (sizeBytes sz) = true)
include h aligned claim free

theorem exec_ldfe_full (full : (s.core s.cur).isFull (x.ea m) = true)
    (clean : (s.core s.cur).spadPoisoned (x.ea m).toNat (sizeBytes sz) = false) :
    let c := s.core s.cur
    exec (.ldfe g d m clr sz) s = .next ((((if clr then s.setCore s.cur { c with full := setDel c.full ((x.ea m).toNat / 16) } else s).acquire
      (s.me x) (.granule x.id ((x.ea m).toNat / 16))).setCtx
        (x.setLoaded d false sz (Memory.bytes c.spad (x.ea m).toNat (sizeBytes sz)))).ended s x) :=
  (exec_ldfe ..).trans (control_seq h (by simp) (by
    simp only [require_ok (beq_iff_eq.mpr aligned), claimSpad, require_ok (decide_eq_true claim), await_ok free, await_ok full, Res.ok_bind,
      readSpad_ok claim free clean]))

theorem exec_ldfe_empty (empty : (s.core s.cur).isFull (x.ea m) = false) :
    exec (.ldfe g d m clr sz) s = .next (s.setCtx { x with wait := .granule }) :=
  (exec_ldfe ..).trans (control_wait h (by simp) (by
    simp only [require_ok (beq_iff_eq.mpr aligned), claimSpad, require_ok (decide_eq_true claim), await_ok free, Res.ok_bind, await_no empty,
      Res.error_bind]) nofun)

theorem exec_stfe_empty (empty : (s.core s.cur).isFull (x.ea m) = false) :
    let c := s.core s.cur
    exec (.stfe g d m sz) s = .next (((s.setCore s.cur { c.putSpad (x.ea m).toNat (x.storeBytes d sz) with
      full := setAdd c.full ((x.ea m).toNat / 16) }).releaseAt (s.me x) (.granule x.id ((x.ea m).toNat / 16))).ended s x) := by
  have len : (x.storeBytes d sz).length = sizeBytes sz := x.storeBytes_length d sz
  have empty : (!(s.core s.cur).isFull (x.ea m)) = true := by rw [empty]; rfl
  have write := writeSpad_ok (x := x) (s := s) (o := x.ea m) (bs := x.storeBytes d sz) (by rw [len]; exact claim) (by rw [len]; exact free)
  exact (exec_stfe ..).trans (control_seq h (by simp) (by
    simp only [require_ok (beq_iff_eq.mpr aligned), claimSpad, require_ok (decide_eq_true claim), await_ok free, await_ok empty, Res.ok_bind,
      write, State.setCore_cur, State.setCore_core, State.setCore_setCore]
    rfl))

theorem exec_stfe_full (full : (s.core s.cur).isFull (x.ea m) = true) :
    exec (.stfe g d m sz) s = .next (s.setCtx { x with wait := .granule }) := by
  have full : (!(s.core s.cur).isFull (x.ea m)) = false := by rw [full]; rfl
  exact (exec_stfe ..).trans (control_wait h (by simp) (by
    simp only [require_ok (beq_iff_eq.mpr aligned), claimSpad, require_ok (decide_eq_true claim), await_ok free, Res.ok_bind, await_no full,
      Res.error_bind]) nofun)

end

/-- Settles O42: each word asks for its alignment, its claim and its granule in turn. -/
theorem atomicsComplete : Obligations.AtomicsComplete := by
  unfold Obligations.AtomicsComplete
  intro s t x g d a b c m op dbl clr l2 sz sc bs h n k o z amo cas
  have hx : s.ctx = some x := h.1
  let swap (v : Word) : Word := if v.toNat % 2 ^ (8 * atomBytes dbl) == (x.g b).toNat % 2 ^ (8 * atomBytes dbl) then x.g c else v
  have same : swap = cas := funext fun v => by simp only [swap, beq_iff_eq]; rfl
  refine ⟨fun aligned => ⟨fun updated => ⟨?_, ?_⟩, fun reduced => ?_, fun claim free clean => ?_⟩, fun aligned =>
    ⟨fun updated => ?_, fun claim free clean => ?_⟩, fun aligned claim free =>
      ⟨fun full clean => ?_, fun empty => ?_, fun empty => ?_, fun full => ?_⟩, ?_, fun done => ?_, fun owed => ?_⟩
  · exact (exec_amo ..).trans (control_seq h (by simp) (State.amoGlobal_ok aligned updated))
  · refine (exec_amof ..).trans (control_seq h (by simp) ?_)
    show s.amoGlobal x d (x.ea m) dbl (.reduce op dbl true) (x.g d) amo = _
    exact State.amoGlobal_ok aligned updated
  · exact (exec_red ..).trans (control_seq h (by simp) (by
      have aligned : ((x.ea m).toNat % atomBytes dbl == 0) = true := beq_iff_eq.mpr aligned
      simp only [require_ok aligned, reduced, Res.ok_bind]))
  · refine (exec_amof ..).trans (control_seq h (by simp) ?_)
    show s.amoSpad x d (x.ea m) dbl amo = _
    exact State.amoSpad_ok hx aligned claim free clean
  · exact (exec_cas ..).trans (control_seq h (by simp) (State.amoGlobal_ok (f := swap) aligned (by rw [same]; exact updated)))
  · exact (exec_cas ..).trans (control_seq h (by simp) (by rw [← same]; exact State.amoSpad_ok (f := swap) hx aligned claim free clean))
  · exact exec_ldfe_full h d m clr sz aligned claim free full clean
  · exact exec_ldfe_empty h d m clr sz aligned claim free empty
  · exact exec_stfe_empty h d m sz aligned claim free empty
  · exact exec_stfe_full h d m sz aligned claim free full
  · exact (exec_pref ..).trans (control_retired_self h (by simp) rfl)
  · exact (exec_fence ..).trans (control_seq h (by simp) (by simp only [await_ok done, Res.ok_bind]))
  · exact (exec_fence ..).trans (control_wait h (by simp) (by simp only [await, owed]; rfl) nofun)

end Sys2Proof.Machine
end

section
/-! PROOFS. The mailbox takes commands (R453, R454): a command word of the host by whether one is in progress. -/

namespace Sys2Proof.Machine

section
variable {s : State} {tag : Byte} {c : Command} (h : s.listening = true)
include h

theorem State.mailbox_idle (idle : s.mbPending = none) : s.mailbox tag c = .next { s with mbPending := some (tag, c) } := by
  simp [State.mailbox, h, idle]

theorem State.mailbox_busy (busy : s.mbPending ≠ none) : s.mailbox tag c = .next (s.setErr 2) := by
  simp [State.mailbox, h, Option.isSome_iff_ne_none.mpr busy]

theorem exec_daybreak_idle (idle : s.mbPending = none) : exec (.daybreak tag) s = .next { s with mbPending := some (tag, .daybreak false) } := by
  simp [exec, execDaybreak, h, idle]

theorem exec_daybreak_busy {old : Byte} (busy : s.mbPending = some (old, c)) :
    exec (.daybreak tag) s = .next { (s.abandon c).postResult old 5 with mbPending := some (tag, .daybreak false) } := by
  simp [exec, execDaybreak, h, busy]

theorem exec_mailboxResultPosted_pending {old : Byte} (busy : s.mbPending = some (old, c)) :
    exec .mailboxResultPosted s = .next (s.runCommand old c) := by
  simp [exec, execMailboxResultPosted, h, busy]

end

theorem State.abandon_clusterMove {s : State} {p l f k d : Nat} {q : Partition} (hq : s.part p = some q)
    (moves : q.resize = some (.move k d true)) : s.abandon (.clusterMove p l f) = s.setPart p { q with resize := none } := by
  simp [State.abandon, hq, moves]

/-- Settles O56: all the command words but DAYBREAK share one arm, which asks only whether a command is in progress. -/
theorem mailboxTakesCommands : Obligations.MailboxTakesCommands := by
  unfold Obligations.MailboxTakesCommands
  intro s tag old code args p n l f a b asid group ms device enable clear key c h
  refine ⟨?_, exec_daybreak_idle h, fun busy => ⟨exec_daybreak_busy h busy, exec_mailboxResultPosted_pending h busy⟩,
    fun q k d hq moves => State.abandon_clusterMove hq moves⟩
  simp only [List.forall_mem_cons, List.not_mem_nil, false_imp_iff, implies_true, and_true]
  have takes (c : Command) : (s.mbPending = none → s.mailbox tag c = .next { s with mbPending := some (tag, c) }) ∧
      (s.mbPending ≠ none → s.mailbox tag c = .next (s.setErr 2)) := ⟨State.mailbox_idle h, State.mailbox_busy h⟩
  exact ⟨takes _, takes _, takes _, takes _, takes _, takes _, takes _, takes _, takes _, takes _, takes _⟩

end Sys2Proof.Machine
end

section
/-! PROOFS. SPL and FIL (R421, R422): a column of the core first, then memory. -/

namespace Sys2Proof.Machine

section
variable {s t : State} {x : Ctx} {g : Guard} (h : s.ready x g) (sup : x.sup = true) {slot : BitVec 4} {a b c : Reg}
include h sup

/-- What SPL has in hand: the core without the slot it replaces, and the registers of the range. -/
theorem exec_spl_column (range : a.toNat ≤ b.toNat) (aligned : (x.g c).toNat % 512 = 0) {col : Nat}
    (free : ({ s.core s.cur with spills := tabDel (s.core s.cur).spills slot.toNat } : Core).spillColumn = some col) :
    exec (.spl g slot a b c) s = .next ((s.setCore s.cur { s.core s.cur with
      spills := tabPut (tabDel (s.core s.cur).spills slot.toNat) slot.toNat ⟨a.toNat, b.toNat,
        (List.range (b.toNat - a.toNat + 1)).map fun i => x.g (BitVec.ofNat 6 (a.toNat + i)), some col, x.g c, x.asid⟩ }).ended s x) := by
  refine (exec_spl ..).trans ?_
  unfold execSpl
  refine control_seq h (fun _ => sup) ?_
  simp only [require_ok (decide_eq_true range), require_ok (beq_iff_eq.mpr aligned), Res.ok_bind, free]

theorem exec_spl_memory (range : a.toNat ≤ b.toNat) (aligned : (x.g c).toNat % 512 = 0)
    (full : ({ s.core s.cur with spills := tabDel (s.core s.cur).spills slot.toNat } : Core).spillColumn = none)
    (stored : s.storeN (s.me x) (x.g c) (((List.range (b.toNat - a.toNat + 1)).map fun i => x.g (BitVec.ofNat 6 (a.toNat + i))).flatMap
      fun v => natLe 8 v.toNat) = .ok t) :
    exec (.spl g slot a b c) s = .next ((t.setCore t.cur { t.core t.cur with
      spills := tabPut (tabDel (s.core s.cur).spills slot.toNat) slot.toNat ⟨a.toNat, b.toNat, [], none, x.g c, x.asid⟩ }).ended s x) := by
  refine (exec_spl ..).trans ?_
  unfold execSpl
  refine control_seq h (fun _ => sup) ?_
  simp only [require_ok (decide_eq_true range), require_ok (beq_iff_eq.mpr aligned), Res.ok_bind, full, stored]

theorem exec_fil_none (none : tabGet (s.core s.cur).spills slot.toNat = none) :
    exec (.fil g slot a b) s = .next (s.trapped x (.fil g slot a b) .shape (encode (.fil g slot a b))) := by
  refine (exec_fil ..).trans ?_
  unfold execFil
  exact control_trap h (fun _ => sup) (by simp only [none])

variable {p : Spill} (kept : tabGet (s.core s.cur).spills slot.toNat = some p) (first : p.first = a.toNat) (last : p.last = b.toNat)
include kept first last

theorem exec_fil_column (column : p.column ≠ none) :
    exec (.fil g slot a b) s = .next (((s.setCore s.cur { s.core s.cur with spills := tabDel (s.core s.cur).spills slot.toNat }).setCtx
      (p.vals.zipIdx.foldl (fun (y : Ctx) (v, i) => y.setG (BitVec.ofNat 6 (a.toNat + i)) v) x)).ended s x) := by
  have range : (p.first == a.toNat && p.last == b.toNat) = true := by simp [first, last]
  obtain ⟨col, hcol⟩ := Option.ne_none_iff_exists'.mp column
  refine (exec_fil ..).trans ?_
  unfold execFil
  refine control_seq h (fun _ => sup) ?_
  simp only [kept, require_ok range, hcol, Res.ok_bind,
    State.now_eq (State.setCore_ctx h.1 (c := { s.core s.cur with spills := tabDel (s.core s.cur).spills slot.toNat }) rfl)]

theorem exec_fil_memory {bs : List Byte} (column : p.column = none)
    (loaded : s.loadN (s.me x) p.addr (8 * (b.toNat - a.toNat + 1)) = .ok (t, bs)) :
    let u := t.setCore t.cur { t.core t.cur with spills := tabDel (t.core t.cur).spills slot.toNat }
    exec (.fil g slot a b) s = .next ((u.setCtx (((List.range (b.toNat - a.toNat + 1)).map fun i => leWord ((bs.drop (8 * i)).take 8)).zipIdx.foldl
      (fun (y : Ctx) (v, i) => y.setG (BitVec.ofNat 6 (a.toNat + i)) v) (u.now x))).ended s x) := by
  have range : (p.first == a.toNat && p.last == b.toNat) = true := by simp [first, last]
  refine (exec_fil ..).trans ?_
  unfold execFil
  refine control_seq h (fun _ => sup) ?_
  simp only [kept, require_ok range, Res.ok_bind, column]
  simp only [first, last, loaded, Res.ok_bind]

end

/-- Settles O46. -/
theorem spillsComplete : Obligations.SpillsComplete := by
  unfold Obligations.SpillsComplete
  intro s t x g slot a b c bs h sup
  exact ⟨fun range aligned => ⟨fun _ => exec_spl_column h sup range aligned, exec_spl_memory h sup range aligned⟩,
    fun p kept first last => ⟨exec_fil_column h sup kept first last, exec_fil_memory h sup kept first last⟩,
    exec_fil_none h sup⟩

end Sys2Proof.Machine
end

section
/-! PROOFS. Nodes take control tokens (R113, R267, R276). Every step of a site starts and ends in one way: what its body makes of the fabric is put back
and the core settles. -/

namespace Sys2Proof.Machine

section
variable {s : State} {c : Nat} {x : Ctx} {f : Fabric} (h : s.runsFabric c x f)
  {body : State → Ctx → Fabric → Option (State × Fabric × List Trap)}
include h

theorem siteStep_cycled {r : Fabric × List Trap} (step : body s x f = some (s, r)) :
    siteStep s c body = .next (s.cycled c x r) := by
  obtain ⟨alive, fab⟩ := h
  simp [siteStep, alive, fab, step, State.cycled]

theorem siteStep_sited {t : State} {g : Fabric} (step : body s x f = some (t, g, [])) : siteStep s c body = .next (t.sited c g) := by
  obtain ⟨alive, fab⟩ := h
  simp [siteStep, alive, fab, step, State.sited]

/-! Re-latch tokens (R267). -/

theorem relatchToken_port {site : Nat} {q : Port} {t : State} {ls : List Latch} (high : 64 ≤ site) (port : tabGet f.ports site = some q)
    (due : q.relatch = true) (walked : s.relatch (portAgent c (site - 64) x) q.latches = .ok (t, ls)) :
    exec (.relatchToken c site) s = .next (t.sited c { f with ports := tabPut f.ports site { q with
      relatch := false, latches := ls, retry := if q.withheld = none then q.retry else some .quiet } }) := by
  have low : ¬ site < 64 := by omega
  refine (exec_relatchToken ..).trans ?_
  unfold execRelatchToken
  refine siteStep_sited h ?_
  cases held : q.withheld <;> simp [low, port, due, walked, held]

theorem relatchToken_operator {site : Nat} {o : Operator} {t : State} {ls : List Latch} (low : site < 64) (op : tabGet f.ops site = some o)
    (due : o.relatch = true) (room : (f.outq (chKey site 0)).toks.length < 4)
    (walked : s.relatch (coreAgent 0 c 0 x.id x.asid) o.latches = .ok (t, ls)) :
    exec (.relatchToken c site) s = .next (t.sited c { (f.push site 0 ⟨0, 6, 0⟩) with ops := tabPut f.ops site { o with
      relatch := false, latches := ls, withheld := none, emitted := o.emitted + 1
      attempt := if o.withheld = none then o.attempt else .quiet } }) := by
  have space : f.space site 0 ≠ 0 := by simp only [Fabric.space]; omega
  refine (exec_relatchToken ..).trans ?_
  unfold execRelatchToken
  refine siteStep_sited h ?_
  cases held : o.withheld <;> simp [low, op, due, space, walked, held]

theorem exec_inputPacketExpand_packet {site ch : Nat} {pre r : List Token} {p : Token} (queue : (f.inq (chKey site ch)).toks = pre ++ p :: r)
    (before : ∀ t ∈ pre, t.cls ≠ 7) (packet : p.cls = 7) (good : p.bad = false) (short : pre.length < 4) :
    let value : BitVec 32 := if p.aux.getLsbD 4 then p.payload else 0
    let rest : List Token := if p.aux.getLsbD 4
      then (if p.aux.toNat % 16 = 0 then [] else [{ p with aux := p.aux - 1 }])
      else (if p.payload = 1 then [] else [{ p with payload := p.payload - 1 }])
    exec (.inputPacketExpand c site ch) s = .next (s.sited c (f.setIn (chKey site ch)
      { f.inq (chKey site ch) with toks := pre ++ [Token.data value] ++ rest ++ r })) := by
  intro value rest
  have take : (pre ++ p :: r).takeWhile (·.cls != 7) = pre := by
    rw [List.takeWhile_append_of_pos (by simpa using before)]
    simp [packet]
  have drop : (pre ++ p :: r).dropWhile (·.cls != 7) = p :: r := by
    rw [List.dropWhile_append_of_pos (by simpa using before)]
    simp [packet]
  have low : (p.aux.extractLsb' 0 4 == 0) = decide (p.aux.toNat % 16 = 0) := by
    rw [Bool.eq_iff_iff, beq_iff_eq, decide_eq_true_iff, ← BitVec.toNat_inj]
    simp
  refine (exec_inputPacketExpand ..).trans ?_
  unfold execInputPacketExpand
  refine siteStep_sited h ?_
  simp only [queue, take, drop, good, low, value, rest]
  cases data : p.aux.getLsbD 4 <;> simp [-BitVec.getLsbD_eq_getElem, Nat.not_le.mpr short]

theorem exec_cfgkConsume_idle {site ch : Nat} {el : Element} {t : Token} {r : List Token} (elem : tabGet f.elems site = some el) (in4 : ch < 4)
    (queue : (f.inq (chKey site ch)).toks = t :: r) (cls : t.cls = 5) (aux : t.aux = 0) (goes : s.halted c f site = false)
    (free : el.stall = 0) (none : f.choice site el = none) :
    exec (.cfgkConsume c site ch) s = .next (s.cycled c x (f.consumeCfgk site (f.cfgkHeads site))) := by
  have head : (ch, t) ∈ f.cfgkHeads site :=
    List.mem_filterMap.mpr ⟨ch, List.mem_range.mpr in4, by simp [queue, cls]⟩
  have any : (f.cfgkHeads site).any (fun (k, t) => k == ch && (t.aux == 0 || !(f.inq (chKey site k)).cfgkHeld)) = true :=
    List.any_eq_true.mpr ⟨_, head, by simp [aux]⟩
  refine (exec_cfgkConsume ..).trans ?_
  unfold execCfgkConsume
  refine siteStep_cycled h ?_
  simp only [elem, goes, any, free, none, Fabric.cycle, Bool.not_true, Bool.or_self, Bool.false_eq_true, if_false, Option.isSome_none,
    Bool.and_false, Nat.lt_irrefl]

end

theorem State.relatch_fresh {s : State} {ag : Agent} {l : Latch} (fresh : l.stale = false) : s.relatch ag [l] = .ok (s, [l]) := by
  simp [State.relatch, fresh]


theorem State.relatch_stale {s t : State} {ag : Agent} {l l' : Latch} (stale : l.stale = true) (walked : s.latch ag l.va = .ok (t, l')) :
    s.relatch ag [l] = .ok (t, [l']) := by
  simp [State.relatch, stale, walked]; rfl

theorem Fabric.consumeCfgk_one {f : Fabric} {site ch : Nat} {el : Element} {t : Token} {r : List Token}
    (elem : tabGet f.elems site = some el) (queue : (f.inq (chKey site ch)).toks = t :: r) (aux : t.aux = 0) :
    let (g, ts) := f.consumeCfgk site [(ch, t)]
    ts = [] ∧ g.inq (chKey site ch) = { f.inq (chKey site ch) with toks := r } ∧ tabGet g.elems site = some { el with k := t.payload } := by
  simp only [Fabric.consumeCfgk, List.foldl, aux, beq_self_eq_true, if_true]
  refine ⟨trivial, ?_, ?_⟩
  · simp only [Fabric.inq] at queue
    simp [Fabric.inq, Fabric.setIn, tabGet_tabPut, queue]
  · have each : (fun (p : Nat × Element) => match p with | (j, el) => if j == site then (j, { el with k := t.payload }) else (j, el)) =
        fun (p : Nat × Element) => match p with | (j, el) => (j, if j == site then { el with k := t.payload } else el) := by
      funext ⟨j, el⟩
      dsimp only
      split <;> rfl
    rw [each, tabGet_map (f := fun j (el : Element) => if j == site then { el with k := t.payload } else el)]
    simp [Fabric.setIn, elem]

/-- Settles O38. -/
theorem sitesTakeTheirTokens : Obligations.SitesTakeTheirTokens := by
  unfold Obligations.SitesTakeTheirTokens
  intro s c site ch x f h
  exact ⟨fun q t ls high port due walked => relatchToken_port h high port due walked,
    fun o t ls low op due room walked => relatchToken_operator h low op due room walked,
    fun ag l t l' => ⟨State.relatch_fresh, State.relatch_stale⟩,
    fun pre r p queue before packet good short => exec_inputPacketExpand_packet h queue before packet good short,
    fun el t r elem in4 queue cls aux goes free none => exec_cfgkConsume_idle h elem in4 queue cls aux goes free none,
    fun el t r elem queue aux => Fabric.consumeCfgk_one elem queue aux⟩

end Sys2Proof.Machine
end

section
/-! PROOFS. Collectives (R364 to R367): elements combined in ascending rank, a destination written sector by sector, and the word by what stands
of its outcome. -/

namespace Sys2Proof.Machine

/-! The combination. -/

/-- Pieces of one length, joined, are found at multiples of it. -/
theorem take_drop_flatMap {w : Nat} {f : Nat → List Byte} (len : ∀ i, (f i).length = w) (l : List Nat) (k : Nat) (h : k < l.length) :
    ((l.flatMap f).drop (k * w)).take w = f l[k] := by
  induction l generalizing k with
  | nil => cases h
  | cons a r ih =>
    cases k with
    | zero => simp [len, List.take_left']
    | succ k =>
      have off : (k + 1) * w = (f a).length + k * w := by rw [len, Nat.succ_mul, Nat.add_comm]
      rw [List.flatMap_cons, off, List.drop_length_add_append, ih k (by simpa using h), List.getElem_cons_succ]

theorem elemAt_flatMap {w n k : Nat} {f : Nat → Nat} (h : k < n) :
    elemAt w ((List.range n).flatMap fun k => natLe w (f k)) k = f k % 2 ^ (8 * w) := by
  rw [elemAt, take_drop_flatMap (fun i => natLe_length w (f i)) _ _ (by simpa using h), List.getElem_range, leNat_natLe, Nat.pow_mul]

theorem elemAt_collResult {ty : Ty} {n root rank op k : Nat} {a : List Byte} {r : List (List Byte)} (hop : op < 3) (hk : k < n) :
    elemAt ty.bytes (collResult op ty n root rank (a :: r)) k =
      r.foldl (fun v b => collStep op ty v (elemAt ty.bytes b k)) (elemAt ty.bytes a k) % 2 ^ (8 * ty.bytes) := by
  have combine : collResult op ty n root rank (a :: r) = (List.range n).flatMap fun k => natLe ty.bytes (collElem op ty (a :: r) k) := by
    obtain rfl | rfl | rfl : op = 0 ∨ op = 1 ∨ op = 2 := by omega
    all_goals rfl
  rw [combine, elemAt_flatMap hk]
  rfl

/-! The destination. -/

section
variable {s t : State} {k : Nat} {g : Group} {w : CollStore} {rest : List CollStore} (next : g.writes = w :: rest)
include next

theorem State.collStore_sector (some : w.bytes ≠ []) (stored : s.storeN (collAgent w.core w.task w.asid) w.dst w.bytes = .ok t) :
    s.collStore k g = (t.collFresh g (t.bufferLines (collAgent w.core w.task w.asid) w.dst w.bytes.length)).setGroup k
      { g with writes := rest } := by
  simp [State.collStore, next, some, stored]

theorem State.collStore_last (none : w.bytes = []) (quiet : s.performed (collAgent w.core w.task w.asid) .fab = true) :
    s.collStore k g = (s.releaseAt (collAgent w.core w.task w.asid) (.group k)).setGroup k
      { g with writes := rest, outcome := g.outcome ++ [(w.rank, w.task, Option.none)] } := by
  simp [State.collStore, next, none, quiet]

end

/-! The word. -/

theorem State.finish_gone (s : State) (n : Nat) (word : Word) : s.finish n word .gone = s := by
  cases hd : (s.core n).day <;> simp [State.finish, hd]

/-- A body that has already left its task as it stands: in a trap, or waiting. -/
theorem control_gone {i : Instr} {g : Guard} {priv : Bool} {s t : State} {x : Ctx} {body : State → Ctx → Res (State × Flow)}
    (h : s.ready x g) (hp : priv = true → x.sup = true) (hb : body s x = .ok (t, .gone)) :
    control i g priv s body = .next (t.consume (s.me x)) := by
  rw [control_ready h hp, hb]
  exact congrArg Host.Outcome.next (State.finish_gone ..)

section
variable {s t u v : State} {x : Ctx} {i : Instr} {g : Guard} {op : Nat} {d a b c : Reg} {ty : Ty} {q : CollOp} (h : s.ready x g)
  (read : s.collRead (s.me x) x.part s.cur (encode i) op ty (x.g d) (x.g a) (x.g b) (x.g c) = .ok (t, q))
include h read

theorem collective_return (stands : t.collTake x.id q = some (u, none)) :
    collective i g op d a b c ty s = .next ((u.collReturn (u.me x) q.group).ended s x) :=
  control_seq h (by simp) (by simp only [read, Res.ok_bind, stands])

theorem collective_trap {tr : Trap} (stands : t.collTake x.id q = some (u, some tr)) :
    collective i g op d a b c ty s = .next ((u.collTrap x (encode i) tr).consume (s.me x)) :=
  control_gone h (by simp) (by simp only [read, Res.ok_bind, stands])

variable (first : t.collTake x.id q = none) (free : t.collReady (t.me x) q = true)
  (joined : t.collJoin s.cur x.id x.asid (t.me x) q = .ok u)
include first free joined

theorem collective_joined_return (stands : u.collTake x.id q = some (v, none)) :
    collective i g op d a b c ty s = .next ((v.collReturn (v.me x) q.group).ended s x) :=
  control_seq h (by simp) (by simp only [read, Res.ok_bind, first, await_ok free, joined, stands])

theorem collective_joined_wait (waits : u.collTake x.id q = none) :
    collective i g op d a b c ty s = .next ((u.waitAt (u.now x) .collective).consume (s.me x)) :=
  control_gone h (by simp) (by simp only [read, Res.ok_bind, first, await_ok free, joined, waits])

end

/-- Settles O45: the six words share one body, so one lemma for each outcome serves them all. -/
theorem collectivesComplete : Obligations.CollectivesComplete := by
  unfold Obligations.CollectivesComplete
  refine ⟨fun ty n root rank op k a r => elemAt_collResult, fun ty n root rank srcs => ⟨rfl, rfl⟩,
    fun s t k g w rest next => ⟨State.collStore_sector next, State.collStore_last next⟩, ?_⟩
  intro s t u v x g d a b c ty q h op i mem read
  have run : exec i s = collective i g op d a b c ty s := by
    simp only [List.mem_cons, Prod.mk.injEq, List.not_mem_nil, or_false] at mem
    obtain ⟨rfl, rfl⟩ | ⟨rfl, rfl⟩ | ⟨rfl, rfl⟩ | ⟨rfl, rfl⟩ | ⟨rfl, rfl⟩ | ⟨rfl, rfl⟩ := mem <;> rfl
  rw [run]
  exact ⟨collective_return h read, fun tr => collective_trap h read, fun first free joined =>
    ⟨collective_joined_return h read first free joined, collective_joined_wait h read first free joined⟩⟩

end Sys2Proof.Machine
end

section
/-! PROOFS. Reuse instructions (R423 to R428): what is removed from the tables, and the words that remove and tell. -/

namespace Sys2Proof.Machine

theorem even_of_toNat {r : Reg} (h : r.toNat % 2 = 0) : (!r.getLsbD 0) = true := by
  simp [BitVec.getLsbD, Nat.testBit_zero, h]

/-! The tables of the four dies. -/

theorem State.table_setTable (s : State) (d k : Nat) (r : Reuse) :
    (s.setTable d r).table k = if k = d ∧ d < 4 then r else s.table k := by
  by_cases hk : d = k
  · subst hk
    by_cases hd : d < 4
    · simp [State.table, State.setTable, hd]
    · simp [State.table, State.setTable, hd]
  · simp [State.table, State.setTable, hk, Ne.symm hk]

theorem length_sub_filter_not {α : Type} (l : List α) (p : α → Bool) :
    l.length - (l.filter fun a => !p a).length = (l.filter p).length := by
  have := l.length_eq_length_filter_add p
  omega

section
variable (s : State) (f : BitVec 13 → BitVec 128 → Word → Nat → Bool)

theorem State.removeEntries_entries (k : Nat) : ((s.removeEntries f).1.table k).entries =
    if k < 4 then (s.table k).entries.filter (fun e => !f e.asid e.tag e.result e.rlen) else (s.table k).entries := by
  have dies : List.range 4 = [0, 1, 2, 3] := rfl
  simp only [State.removeEntries, dies, List.foldl, State.table_setTable]
  by_cases low : k < 4
  · obtain rfl | rfl | rfl | rfl : k = 0 ∨ k = 1 ∨ k = 2 ∨ k = 3 := by omega
    all_goals simp
  · simp [low, show k ≠ 0 by omega, show k ≠ 1 by omega, show k ≠ 2 by omega, show k ≠ 3 by omega]

theorem State.removeEntries_count : (s.removeEntries f).2 = ((List.range 4).map fun k =>
    ((s.table k).entries.filter fun e => f e.asid e.tag e.result e.rlen).length).sum := by
  have dies : List.range 4 = [0, 1, 2, 3] := rfl
  simp only [State.removeEntries, dies, List.foldl, State.table_setTable]
  simp [length_sub_filter_not _ fun e : ReuseEntry => f e.asid e.tag e.result e.rlen]
  omega

end

/-! The words. -/

section
variable {s : State} {x : Ctx} {g : Guard} (h : s.ready x g)
include h

theorem control_rinv {i : Instr} {priv : Bool} {u : State} {d : Reg} {f : BitVec 13 → BitVec 128 → Word → Nat → Bool}
    {body : State → Ctx → Res (State × Flow)} (hp : priv = true → x.sup = true) (runs : body s x = .ok (rinv u x d f)) :
    control i g priv s body = .next ((((u.removeEntries f).1.voidRuns f).setCtx
      ((((u.removeEntries f).1.voidRuns f).now x).setG d (BitVec.ofNat 64 (u.removeEntries f).2))).ended s x) :=
  control_seq h hp runs

theorem exec_rinvTag_removes {d a : Reg} (even : a.toNat % 2 = 0) :
    let f : BitVec 13 → BitVec 128 → Word → Nat → Bool := fun as t _ _ => as == x.asid && t == x.g (a ||| 1) ++ x.g a
    exec (.rinvTag g d a) s = .next ((((s.removeEntries f).1.voidRuns f).setCtx
      ((((s.removeEntries f).1.voidRuns f).now x).setG d (BitVec.ofNat 64 (s.removeEntries f).2))).ended s x) := by
  refine (exec_rinvTag ..).trans ?_
  unfold execRinvTag
  exact control_rinv h (by simp) (by simp only [require_ok (even_of_toNat even), Res.ok_bind]; rfl)

theorem exec_rinvRange_removes {d a b : Reg} (low : 1 ≤ (x.g b).toNat) (high : (x.g b).toNat ≤ 2 ^ 40) :
    let f : BitVec 13 → BitVec 128 → Word → Nat → Bool := fun as _ r l =>
      as == x.asid && decide (r.toNat < (x.g a).toNat + (x.g b).toNat) && decide ((x.g a).toNat < r.toNat + l)
    exec (.rinvRange g d a b) s = .next ((((s.removeEntries f).1.voidRuns f).setCtx
      ((((s.removeEntries f).1.voidRuns f).now x).setG d (BitVec.ofNat 64 (s.removeEntries f).2))).ended s x) := by
  have range : (1 ≤ (x.g b).toNat && decide ((x.g b).toNat ≤ 2 ^ 40)) = true := by simpa [low] using high
  refine (exec_rinvRange ..).trans ?_
  unfold execRinvRange
  exact control_rinv h (by simp) (by simp only [require_ok range, Res.ok_bind])

theorem exec_rinvAll_removes {d : Reg} :
    let f : BitVec 13 → BitVec 128 → Word → Nat → Bool := fun as _ _ _ => as == x.asid
    exec (.rinvAll g d) s = .next ((((s.removeEntries f).1.voidRuns f).setCtx
      ((((s.removeEntries f).1.voidRuns f).now x).setG d (BitVec.ofNat 64 (s.removeEntries f).2))).ended s x) := by
  refine (exec_rinvAll ..).trans ?_
  unfold execRinvAll
  exact control_rinv h (by simp) rfl

theorem exec_rinvAsid_removes {d a : Reg} {u : State} (sup : x.sup = true)
    (own : s.ownAsid (s.me x) ((x.g a).extractLsb' 0 13) x.part (x.g a) = .ok u) :
    let f : BitVec 13 → BitVec 128 → Word → Nat → Bool := fun as _ _ _ => as == (x.g a).extractLsb' 0 13
    exec (.rinvAsid g d a) s = .next ((((u.removeEntries f).1.voidRuns f).setCtx
      ((((u.removeEntries f).1.voidRuns f).now x).setG d (BitVec.ofNat 64 (u.removeEntries f).2))).ended s x) := by
  refine (exec_rinvAsid ..).trans ?_
  unfold execRinvAsid
  exact control_rinv h (fun _ => sup) (by simp only [own, Res.ok_bind])

theorem rstat_told {i : Instr} {d : Reg} {f : State → Ctx → Word} : rstat i g d s f = .next (s.retired x (x.setG d (f s x))) :=
  control_retired h (by simp) rfl

theorem exec_rstatHeld_told {d : Reg} : exec (.rstatHeld g d) s = .next (s.retired x (x.setG d (BitVec.ofNat 64 ((List.range 4).map fun k =>
    ((s.table k).entries.filter fun e => e.asid == x.asid).length).sum))) := by
  refine (exec_rstatHeld ..).trans ?_
  unfold execRstatHeld
  rw [rstat_told h, List.sum_eq_foldl, List.foldl_map]

omit h in
/-- The word of a probe (R428), as a number and as its fields. -/
theorem probeWord_append (fresh : Bool) (n : BitVec 32) : BitVec.ofNat 64 (n.toNat + 2 ^ 32 + fresh.toNat * 2 ^ 33) =
    (0 : BitVec 30) ++ BitVec.ofBool fresh ++ (1 : BitVec 1) ++ n := by
  have low : n.toNat < 2 ^ 32 := n.isLt
  have join (k : Nat) : k <<< 32 ||| n.toNat = k * 2 ^ 32 + n.toNat := by rw [← Nat.shiftLeft_add_eq_or_of_lt low, Nat.shiftLeft_eq]
  have fields : ((0 : BitVec 30) ++ BitVec.ofBool fresh ++ (1 : BitVec 1)).toNat = 1 + 2 * fresh.toNat := by cases fresh <;> rfl
  have bit := fresh.toNat_le
  apply BitVec.eq_of_toNat_eq
  rw [BitVec.toNat_append, join, fields, BitVec.toNat_ofNat]
  omega

theorem exec_rstatProbe_told {d a : Reg} (even : a.toNat % 2 = 0) :
    exec (.rstatProbe g d a) s = .next (s.retired x (x.setG d (match s.findEntry x.asid (x.g (a ||| 1) ++ x.g a) with
      | none => 0
      | some e => (0 : BitVec 30) ++ BitVec.ofBool (s.freshEntry e) ++ (1 : BitVec 1) ++ e.seq))) := by
  refine (exec_rstatProbe ..).trans ?_
  unfold execRstatProbe
  refine control_retired h (by simp) ?_
  simp only [require_ok (even_of_toNat even), Res.ok_bind, pairTag, pairHi, State.setG, probeWord_append] <;> rfl

end

/-- Settles O49. -/
theorem reuseInstructionsComplete : Obligations.ReuseInstructionsComplete := by
  unfold Obligations.ReuseInstructionsComplete
  refine ⟨fun s x g d a b h => ?_, fun s f => ⟨State.removeEntries_entries s f, State.removeEntries_count s f⟩⟩
  exact ⟨exec_rinvTag_removes h, exec_rinvRange_removes h, exec_rinvAll_removes h, fun u => exec_rinvAsid_removes h,
    (exec_rstatLkp ..).trans (rstat_told h), (exec_rstatHit ..).trans (rstat_told h), (exec_rstatMiss ..).trans (rstat_told h),
    (exec_rstatIns ..).trans (rstat_told h), exec_rstatProbe_told h, exec_rstatHeld_told h, (exec_rstatQuota ..).trans (rstat_told h)⟩

end Sys2Proof.Machine
end

section
/-! PROOFS. Host accesses (R442 to R452): device memory, the window and the host's own lines. -/

namespace Sys2Proof.Machine

/-- Bytes that lie in one line are one piece. -/
theorem linePieces_one {k a n : Nat} (some : n ≠ 0) (line : a / 128 = (a + n - 1) / 128) : linePieces (k + 1) a n = [(a, n)] := by
  have fits : min n (128 - a % 128) = n := by omega
  have rest : linePieces k (a + n) 0 = [] := by cases k <;> simp [linePieces]
  simp [linePieces, some, fits, rest]

theorem State.hostFree_snoop {s : State} {pa : Nat} (h : setHas s.hostCopies (lineOf pa) = true) :
    s.hostFree pa = .error (.snoop (lineOf pa)) := by simp [State.hostFree, h]

section
variable {s : State}

theorem State.hostRead_line {u : State} {a n : Nat} {cs : List Byte} (some : n ≠ 0) (line : a / 128 = (a + n - 1) / 128)
    (read : s.readHbm (hostAgent.atHome (hbmDie a)) a n = (u, cs)) :
    s.hostRead a n = { u with hostCopies := setAdd u.hostCopies (lineOf a), hostOut := u.hostOut ++ [.read a cs] } := by
  simp [State.hostRead, linePieces_one some line, read]

/-! A write of the device finds the host's copy in its way, or does not. -/

theorem State.writeAt_snoop {ag : Agent} {va : Word} {pa : Nat} {bs : List Byte} (hbm : s.region pa = .hbm)
    (copy : setHas s.hostCopies (lineOf pa) = true) : s.writeAt ag va pa bs = .error (.snoop (lineOf pa)) := by
  simp [State.writeAt, hbm, State.hostFree_snoop copy, Res.error_bind]

theorem State.writeAt_hbm {ag : Agent} {va : Word} {pa : Nat} {bs : List Byte} (hbm : s.region pa = .hbm)
    (free : setHas s.hostCopies (lineOf pa) = false) : s.writeAt ag va pa bs = .ok (s.writeHbm ag pa bs) := by
  simp [State.writeAt, hbm, State.hostFree_ok free, Res.ok_bind]

section
variable (alive : s.alive = true)
include alive

theorem State.listening_of_alive : s.listening = true := by simp [State.listening, alive]

theorem hostMemRequest_read {a n : Nat} (may : s.hostMay a n = true) : exec (.hostMemRequest (.read a n)) s = .next (s.hostRead a n) := by
  simp [exec, execHostMemRequest, alive, may]

theorem hostMemRequest_write {t : State} {a : Nat} {bs : List Byte} (may : s.hostMay a bs.length = true)
    (still : s.moving a bs.length = false) (wrote : s.hostWrite a bs = .ok t) : exec (.hostMemRequest (.write a bs)) s = .next t := by
  simp [exec, execHostMemRequest, alive, may, still, wrote]

end

section
variable (h : s.listening = true)
include h

theorem hostMemRequest_window {o : Nat} (aligned : o % 8 = 0) : exec (.hostMemRequest (.window o)) s =
    .next { s with hostOut := s.hostOut ++ [.read o (natLe 8 (s.windowRead o).toNat)] } := by
  simp [exec, execHostMemRequest, h, aligned]

theorem hostMemRequest_mailboxArg {v : Word} :
    exec (.hostMemRequest (.mailboxArg v)) s = .next { s with mbArg := v &&& 0xFFFFFFFFF000 } := by
  simp [exec, execHostMemRequest, h]

theorem hostWriteSnoop_line {a : Nat} {bs : List Byte} (some : bs ≠ []) (line : a / 128 = (a + bs.length - 1) / 128) :
    exec (.hostWriteSnoop a bs) s = .next ((State.stampWrite { s.cleanPoison a bs.length with hostLines := tabDel s.hostLines (lineOf a) }
      hostAgent (lineOf a)).hostEntries a bs.length) := by
  simp [exec, execHostWriteSnoop, h, linePieces_one (by simpa using some) line]

theorem hostCxlResponse_data {line : Nat} {bs : List Byte} (asked : setHas s.hostAsked line = true) (whole : bs.length = 128) :
    exec (.hostCxlResponse (.data line bs)) s = .next { s with
      hostAsked := setDel s.hostAsked line
      hostLines := tabPut s.hostLines line ((s.hostWrites.filter fun w => w.line == line).foldl
        (fun (l : List Byte) w => w.cells.foldl (fun (l : List Byte) (i, b) => l.set i b) l) bs) } := by
  simp [exec, execHostCxlResponse, h, asked, whole]

theorem hostCxlResponse_writeDone {line : Nat} :
    exec (.hostCxlResponse (.writeDone line)) s = .next { s with hostWrites := firstDone line s.hostWrites } := by
  simp [exec, execHostCxlResponse, h]

theorem hostCxlResponse_backInvalidate {line : Nat} : exec (.hostCxlResponse (.backInvalidate line)) s =
    .next { s with hostCopies := setDel s.hostCopies line, hostSnooped := setDel s.hostSnooped line } := by
  simp [exec, execHostCxlResponse, h]

theorem hifErrClear_ones {v : Word} : exec (.hifErrClear v) s = .next { s with hifErr := s.hifErr &&& ~~~(v.setWidth 4) } := by
  simp [exec, execHifErrClear, h, BitVec.extractLsb']

end
end

/-- Settles O55. -/
theorem hostAccessesComplete : Obligations.HostAccessesComplete := by
  unfold Obligations.HostAccessesComplete
  refine ⟨fun s a n o line v bs alive => ?_, fun s ag va pa bs hbm => ⟨State.writeAt_snoop hbm, State.writeAt_hbm hbm⟩,
    fun line w l => by simp [firstDone]⟩
  have h := State.listening_of_alive alive
  exact ⟨hostMemRequest_read alive, fun u cs => State.hostRead_line, fun t => hostMemRequest_write alive, hostMemRequest_window h,
    hostMemRequest_mailboxArg h, hostWriteSnoop_line h, hostCxlResponse_data h, hostCxlResponse_writeDone h,
    hostCxlResponse_backInvalidate h, hifErrClear_ones h⟩

end Sys2Proof.Machine
end

section
/-! PROOFS. The KV engines (R203 to R221). A word of a KV instruction runs at the die that keeps the sequence, behind what every copy has
combined, and what it leaves there happens at once: one lemma for all of them. -/

namespace Sys2Proof.Machine

theorem high_of_lt {w : Word} {k n : Nat} (h : w.toNat < 2 ^ k) : w.extractLsb' k n = 0 := by
  apply BitVec.eq_of_toNat_eq
  simp [BitVec.extractLsb'_toNat, Nat.shiftRight_eq_div_pow, Nat.div_eq_of_lt h]

theorem low_of_lt {w : Word} {k : Nat} (h : w.toNat < 2 ^ k) : (w.extractLsb' 0 k).toNat = w.toNat := by
  simp [BitVec.extractLsb'_toNat, Nat.mod_eq_of_lt h]

/-! A recall leaves the moving core. -/

theorem foldl_keeps {α β γ : Type} (p : α → γ) (f : α → β → α) (step : ∀ a b, p (f a b) = p a) (l : List β) (a : α) :
    p (l.foldl f a) = p a := by
  induction l generalizing a with
  | nil => rfl
  | cons b r ih => exact (ih (f a b)).trans (step a b)

theorem State.foldCopy_cur (s : State) (line : Nat) (u : UpdateOnly) : (s.foldCopy line u).cur = s.cur := by
  unfold State.foldCopy
  refine foldl_keeps State.cur _ (fun t p => ?_) ..
  rfl

theorem State.combine_cur (s : State) (line : Nat) (us keep : List (Nat × UpdateOnly)) : (s.combine line us keep).cur = s.cur := by
  unfold State.combine
  exact foldl_keeps State.cur _ (fun t (_, u) => State.foldCopy_cur t line u) ..

theorem State.recallAll_cur (s : State) : s.recallAll.cur = s.cur := by
  refine foldl_keeps State.cur _ (fun t (line, _) => ?_) ..
  simp only [State.recall]
  cases tabGet t.updates line with
  | none => rfl
  | some us => exact State.combine_cur ..

theorem State.atHome_cur (s : State) (x : Ctx) (die : Nat) : (s.atHome x die).cur = s.cur := State.recallAll_cur _

theorem Ctx.impure_isPure (x : Ctx) : x.impure.isPure = x.isPure := by
  cases job : x.job with
  | none => simp [Ctx.impure, Ctx.isPure, job]
  | some j => cases pure : j.pure <;> simp [Ctx.impure, Ctx.isPure, job, pure]

theorem Ctx.impure_mayWrite {x : Ctx} (w : Word) (h : x.isPure = false) : x.impure.mayWrite w = .ok () :=
  require_ok (by rw [Ctx.impure_isPure, h]; rfl)

/-- What writes no line happens at once. -/
theorem State.atOnce_unwritten {b t : State} (ag : Agent) (reads : List Nat) (same : t.lines = b.lines) : ∃ u, b.atOnce t ag reads = .ok u := by
  have none : ((t.lines.map (·.1)).filter fun k => (b.lineTs k).1 != (t.lineTs k).1) = [] := by
    simp [State.lineTs, same]
  simp only [State.atOnce, none, List.all_nil, await_ok, Res.ok_bind, List.find?_nil, List.foldlM_nil]
  exact ⟨_, rfl⟩

theorem State.atOnce_setG (h : State) (y : Ctx) (d : Reg) (v : Word) (ag : Agent) (reads : List Nat) :
    ∃ u, h.atOnce (h.setG y d v) ag reads = .ok u := State.atOnce_unwritten ag reads rfl

section
variable {s t u : State} {x : Ctx} {i : Instr} {g : Guard} {home : Ctx → Nat} {reads : State → Ctx → List Nat} {die : Nat}
  {body : State → Ctx → Res (State × Flow)}

theorem kvControl_seq (h : s.ready x g) (there : home x.impure = die) (runs : body (s.atHome x die) x.impure = .ok (t, .seq))
    (once : (s.atHome x die).atOnce t (kvAgent die) (reads (s.atHome x die) x.impure) = .ok u) :
    kvControl i g home reads s body = .next (u.homed s x die) := by
  subst there
  refine control_seq h (by simp) ?_
  have runs' : body ((s.setCtx x.impure).recallAll.raiseClock (kvAgent (home x.impure)) (s.clock (s.me x.impure))) x.impure = .ok (t, .seq) := runs
  have once' : ((s.setCtx x.impure).recallAll.raiseClock (kvAgent (home x.impure)) (s.clock (s.me x.impure))).atOnce t (kvAgent (home x.impure))
    (reads ((s.setCtx x.impure).recallAll.raiseClock (kvAgent (home x.impure)) (s.clock (s.me x.impure))) x.impure) = .ok u := once
  simp only [runs', Res.ok_bind, once']
  rfl

end

/-! Compaction and slab relocation. -/

theorem exec_kvcompact_begins {s t u : State} {x : Ctx} {g : Guard} {a b c : Reg} {q : Sequence} {e : Bar} (h : s.ready x g)
    (may : (s.atHome x (handleDie (x.g a))).mayCache x.impure (x.g a) false true q) (code : (x.g b).toNat < 2 ^ 8)
    (aligned : (x.g c).toNat % 16 = 0) (claim : (x.g c).toNat + 16 ≤ x.spadBytes)
    (bar : (s.atHome x (handleDie (x.g a))).barChecked (s.atHome x (handleDie (x.g a))).cur
      ((s.atHome x (handleDie (x.g a))).me x.impure) ⟨false, x.g c⟩ = .ok (t, e))
    (room : q.pages (pageGroup (x.g a)) ≤ (t.freeFrames (handleDie (x.g a))).length) (impure : x.isPure = false) :
    let die := handleDie (x.g a)
    let m := t.setSeq die (handleIdx (x.g a)) { q with compacting := setAdd q.compacting (pageGroup (x.g a)) }
    (s.atHome x die).atOnce (m.setKv die { m.kv die with compactions := (m.kv die).compactions ++
      [⟨handleIdx (x.g a), pageGroup (x.g a), (x.g b).toNat, t.cur, x.g c, x.id, x.asid⟩] }) (kvAgent die) [] = .ok u →
    exec (.kvcompact g a b c) s = .next (u.homed s x die) := by
  intro die m once
  refine (exec_kvcompact ..).trans ?_
  unfold execKvcompact
  refine kvControl_seq h rfl ?_ once
  have seq : (s.atHome x die).kvSeq x.impure (encode (.kvcompact g a b c)) (x.impure.g a) false true = .ok q := may _
  have small : ((x.impure.g b).extractLsb' 8 56 == 0) = true := beq_iff_eq.mpr (high_of_lt code)
  have bar' : (s.atHome x die).barChecked (s.atHome x die).cur ((s.atHome x die).me x.impure) ⟨false, x.impure.g c⟩ = .ok (t, e) := bar
  have frames : decide (q.pages (pageGroup (x.impure.g a)) ≤ (t.freeFrames (handleDie (x.impure.g a))).length) = true := decide_eq_true room
  have low : ((x.impure.g b).extractLsb' 0 8).toNat = (x.g b).toNat := low_of_lt code
  simp only [seq, require_ok small, require_ok (beq_iff_eq.mpr (show (x.impure.g c).toNat % 16 = 0 from aligned)), claimSpad,
    require_ok (decide_eq_true (show (x.impure.g c).toNat + 16 ≤ x.impure.spadBytes from claim)), bar', require_ok frames,
    Ctx.impure_mayWrite _ impure, Res.ok_bind, low]
  rfl

theorem exec_compactionDone_switches {s t u : State} {die : Nat} {c : Compaction} {r : List Compaction} {q : Sequence} (alive : s.alive = true)
    (next : (s.kv die).compactions = c :: r) (seq : tabGet (s.kv die).seqs c.index = some q) (moved : s.recallAll.compact die c q = .ok t)
    (arrived : (t.setKv die { t.kv die with compactions := r }).barUpdate c.core
      { compactor die with core := c.core, task := c.task, asid := c.asid } ⟨false, c.bar⟩ 1 0 = .ok u) :
    exec (.compactionDone die) s = .next u := by
  refine (exec_compactionDone ..).trans ?_
  simp [execCompactionDone, alive, next, seq, moved, arrived]

theorem exec_slabRelocationStep_moves {s t : State} {die k idx ob ol p : Nat} {q : Sequence} (alive : s.alive = true)
    (head : (s.kv die).relocs[k]? = some idx) (seq : tabGet (s.kv die).seqs idx = some q) (at_ : q.reloc = some (ob, ol, p)) :
    let src := (s.kv die).entryAddr (ob + p)
    let dst := (s.kv die).entryAddr (q.slab + p)
    let ag := compactor die
    let b := s.recallAll
    let m := b.writeEngine ag dst (b.seen src 8)
    b.atOnce (if b.sectorPoisoned src then m.poisonRange dst 8 else m) ag [lineOf src] = .ok t →
    exec (.slabRelocationStep die k) s = .next
      (if p + 1 < 2 ^ ol then t.setSeq die idx { q with reloc := some (ob, ol, p + 1) }
       else (t.setKv die { t.kv die with
         slabs := (t.kv die).slabs.filter (·.1 != ob), relocs := setDel (t.kv die).relocs idx }).setSeq die idx { q with reloc := none }) := by
  intro src dst ag b m once
  refine (exec_slabRelocationStep ..).trans ?_
  simp only [execSlabRelocationStep, alive, head, seq, at_, Bool.not_true, Bool.false_eq_true, if_false]
  rw [once]
  by_cases more : p + 1 < 2 ^ ol
  · simp only [if_pos more]
  · simp only [if_neg more]

/-- Settles O33. -/
theorem cacheEnginesWork : Obligations.CacheEnginesWork := by
  unfold Obligations.CacheEnginesWork
  exact ⟨fun s t x g a b c q e h may code aligned claim bar room impure u => exec_kvcompact_begins h may code aligned claim bar room impure,
    fun s t u die c r q => exec_compactionDone_switches, fun s t die k idx ob ol p q => exec_slabRelocationStep_moves⟩

end Sys2Proof.Machine
end

section
/-! PROOFS. KV queries and the index of prefixes (R216 to R221). -/

namespace Sys2Proof.Machine

@[simp] theorem Ctx.impure_asid (x : Ctx) : x.impure.asid = x.asid := rfl
@[simp] theorem Ctx.impure_pxKey (x : Ctx) (r : Reg) : x.impure.pxKey r = x.pxKey r := rfl

section
variable {s t u hm : State} {x : Ctx} {i : Instr} {g : Guard} {home : Ctx → Nat} {reads : State → Ctx → List Nat} {die : Nat}
  {lines : List Nat} {body : State → Ctx → Res (State × Flow)} (h : s.ready x g) (at_ : s.atHome x die = hm)
include h at_

theorem kvControl_at (once : hm.atOnce t (kvAgent die) lines = .ok u) (runs : body hm x.impure = .ok (t, .seq))
    (there : home x.impure = die := by rfl) (observed : reads hm x.impure = lines := by rfl) :
    kvControl i g home reads s body = .next (u.homed s x die) := by
  subst at_ observed
  exact kvControl_seq h there runs once

/-- A word that only writes a register answers, whatever it reads. -/
theorem kvControl_puts {d : Reg} {v : Word} (runs : body hm x.impure = .ok (hm.setG x.impure d v, .seq))
    (there : home x.impure = die := by rfl) (observed : reads hm x.impure = lines := by rfl) :
    ∃ t, hm.atOnce (hm.setG x.impure d v) (kvAgent die) lines = .ok t ∧ kvControl i g home reads s body = .next (t.homed s x die) := by
  obtain ⟨u, once⟩ := State.atOnce_setG hm x.impure d v (kvAgent die) lines
  exact ⟨u, once, kvControl_at h at_ once runs there observed⟩

end

/-! Queries. -/

section
variable {s hm : State} {x : Ctx} {g : Guard} {d a : Reg} {w : Word} {die : Nat} {q : Sequence} (h : s.ready x g) (hw : x.impure.g a = w)
  (hdie : handleDie w = die) (at_ : s.atHome x die = hm)
include h hw hdie at_

theorem kvqLen_puts (may : hm.mayCache x.impure w false true q) :
    ∃ t, hm.atOnce (hm.setG x.impure d (BitVec.ofNat 64 (q.t (pageGroup w)))) (kvAgent die) [] = .ok t ∧
      exec (.kvqLen g d a) s = .next (t.homed s x die) := by
  subst hw hdie
  rw [exec_kvqLen, execKvqLen]
  exact kvControl_puts h at_ (by simp only [may _, Res.ok_bind])

theorem kvqState_puts (may : hm.mayCache x.impure w false true q) :
    ∃ t, hm.atOnce (hm.setG x.impure d (BitVec.ofNat 64 (q.groups + (if q.compacting = [] then 0 else 2 ^ 16) +
         (if q.reloc = none then 0 else 2 ^ 17) + q.slabLog % 64 * 2 ^ 18))) (kvAgent die) [] = .ok t ∧
      exec (.kvqState g d a) s = .next (t.homed s x die) := by
  subst hw hdie
  have busy : (!q.compacting.isEmpty).toNat * 2 ^ 16 = if q.compacting = [] then 0 else 2 ^ 16 := by
    cases q.compacting <;> simp
  have moves : q.reloc.isSome.toNat * 2 ^ 17 = if q.reloc = none then 0 else 2 ^ 17 := by
    cases q.reloc <;> simp
  rw [exec_kvqState, execKvqState]
  exact kvControl_puts h at_ (by simp only [may _, Res.ok_bind, busy, moves])

theorem kvqMap_puts {e : Word} (may : hm.mayCache x.impure w false false q)
    (entry : hm.mapEntry die q (pageNum w * q.groups + pageGroup w) = .ok e) :
    ∃ t, hm.atOnce (hm.setG x.impure d e) (kvAgent die) (hm.kvReads w false (pageEntry w)) = .ok t ∧
      exec (.kvqMap g d a) s = .next (t.homed s x die) := by
  subst hw hdie
  rw [exec_kvqMap, execKvqMap]
  exact kvControl_puts h at_ (by simp only [may _, entry, Res.ok_bind])

theorem kvqFrame_puts {e : Word} (may : hm.mayCache x.impure w false false q)
    (entry : hm.mapEntry die q (pageNum w * q.groups + pageGroup w) = .ok e) (sound : entryLive e = true → hm.frameOk die (frameOf e) = .ok ()) :
    ∃ t, hm.atOnce (hm.setG x.impure d (if entryLive e then hm.frameWord die (frameOf e) else 0)) (kvAgent die)
        (hm.kvReads w true (pageEntry w)) = .ok t ∧
      exec (.kvqFrame g d a) s = .next (t.homed s x die) := by
  subst hw hdie
  rw [exec_kvqFrame, execKvqFrame]
  refine kvControl_puts h at_ ?_
  cases live : entryLive e with
  | false => simp only [may _, entry, live, Bool.false_eq_true, if_false, Res.ok_bind]
  | true => simp only [may _, entry, live, if_true, sound live, Res.ok_bind]

end

/-! The index of prefixes. -/

section
variable {s u hm : State} {x : Ctx} {g : Guard} {d a b : Reg} {w : Word} {die : Nat} {q : Sequence} (h : s.ready x g) (hw : x.impure.g b = w)
  (hdie : handleDie w = die) (at_ : s.atHome x die = hm)
include h hw hdie at_

theorem pxlkp_misses (may : hm.mayCache x.impure w false false q) (whole : q.t (pageGroup w) = 16 * pageNum w)
    (none : (hm.kv die).pxFind x.asid (x.pxKey a) = none) :
    ∃ t, hm.atOnce (hm.setG x.impure d (BitVec.ofNat 64 (2 ^ 62))) (kvAgent die) (hm.pxReads x.impure a b) = .ok t ∧
      exec (.pxlkp g d a b) s = .next (t.homed s x die) := by
  subst hw hdie
  rw [exec_pxlkp, execPxlkp]
  refine kvControl_puts h at_ ?_
  simp only [Ctx.impure_asid, Ctx.impure_pxKey, may _, require_ok (beq_iff_eq.mpr whole), none, Res.ok_bind]
  rfl

theorem pxlkp_appends (may : hm.mayCache x.impure w false false q) (whole : q.t (pageGroup w) = 16 * pageNum w)
    (f : Nat) (room : Option (Nat × Nat)) : (hm.kv die).pxFind x.asid (x.pxKey a) = some f →
    q.canHold (hm.kv die) w (pageNum w * q.groups + pageGroup w) = .ok room → hm.frameOk die f = .ok () →
    (hm.frame die f).count < 65535 → x.isPure = false →
    let (v, p) : State × Sequence := match room with | some (o, l) => hm.growTo die (handleIdx w) q o l | none => (hm, q)
    hm.atOnce ((((v.setMapEntry die p (pageNum w * q.groups + pageGroup w) (entryOf f)).addCount die f).setSeq die
      (handleIdx w) (p.setT (pageGroup w) (p.t (pageGroup w) + 16))).setG x.impure d (BitVec.ofNat 64 (f % 2 ^ 32))) (kvAgent die)
      (hm.pxReads x.impure a b) = .ok u →
    exec (.pxlkp g d a b) s = .next (u.homed s x die) := by
  subst hw hdie
  intro found holds sound count impure
  have told : pxOutcome 0 f = BitVec.ofNat 64 (f % 2 ^ 32) := by simp [pxOutcome]
  rw [exec_pxlkp, execPxlkp]
  cases room with
  | none =>
    intro once
    refine kvControl_at h at_ once ?_
    simp only [Ctx.impure_asid, Ctx.impure_pxKey, may _, require_ok (beq_iff_eq.mpr whole), found, holds, sound,
      require_ok (decide_eq_true count), Ctx.impure_mayWrite _ impure, told, Res.ok_bind]
  | some p =>
    obtain ⟨o, l⟩ := p
    dsimp only
    generalize grown : hm.growTo (handleDie (x.impure.g b)) (handleIdx (x.impure.g b)) q o l = r
    obtain ⟨v, p⟩ := r
    intro once
    refine kvControl_at h at_ once ?_
    simp only [Ctx.impure_asid, Ctx.impure_pxKey, may _, require_ok (beq_iff_eq.mpr whole), found, holds, sound, grown,
      require_ok (decide_eq_true count), Ctx.impure_mayWrite _ impure, told, Res.ok_bind]

theorem pxlkpDrop_misses (may : hm.mayCache x.impure w true true q) (none : (hm.kv die).pxFind x.asid (x.pxKey a) = none) :
    ∃ t, hm.atOnce (hm.setG x.impure d (BitVec.ofNat 64 (2 ^ 62))) (kvAgent die) (hm.pxReads x.impure a b) = .ok t ∧
      exec (.pxlkpDrop g d a b) s = .next (t.homed s x die) := by
  subst hw hdie
  rw [exec_pxlkpDrop, execPxlkpDrop]
  refine kvControl_puts h at_ ?_
  simp only [Ctx.impure_asid, Ctx.impure_pxKey, may _, none, Res.ok_bind]
  rfl

theorem pxlkpDrop_drops {f : Nat} (may : hm.mayCache x.impure w true true q) (found : (hm.kv die).pxFind x.asid (x.pxKey a) = some f)
    (sound : hm.frameOk die f = .ok ()) (impure : x.isPure = false) :
    let v := hm.setKv die { hm.kv die with px := (hm.kv die).px.filter fun p => !(p.1 == x.asid && p.2.1 == x.pxKey a) }
    hm.atOnce (((v.setFrame die f { v.frame die f with px := false }).subCount die f).setG x.impure d 0) (kvAgent die)
      (hm.pxReads x.impure a b) = .ok u →
    exec (.pxlkpDrop g d a b) s = .next (u.homed s x die) := by
  subst hw hdie
  intro v once
  rw [exec_pxlkpDrop, execPxlkpDrop]
  refine kvControl_at h at_ once ?_
  simp only [Ctx.impure_asid, Ctx.impure_pxKey, may _, found, sound, Ctx.impure_mayWrite _ impure, Res.ok_bind]
  rfl

section
variable {f : Nat} (may : hm.mayCache x.impure w false false q) (full : pageNum w < q.t (pageGroup w) / 16)
  (page : hm.pageFrame die q (pageGroup w) (pageNum w) = .ok f) (fill : (hm.frame die f).fill = 16)
include may full page fill

theorem pxins_taken (none : (hm.kv die).pxFind x.asid (x.pxKey a) = none) (taken : (hm.frame die f).px = true) :
    ∃ t, hm.atOnce (hm.setG x.impure d (pxOutcome 2 f)) (kvAgent die)
        (hm.kvReads w true (pageEntry w) ++ hm.pxReads x.impure a b) = .ok t ∧
      exec (.pxins g d a b) s = .next (t.homed s x die) := by
  subst hw hdie
  rw [exec_pxins, execPxins]
  refine kvControl_puts h at_ ?_
  simp only [Ctx.impure_asid, Ctx.impure_pxKey, may _, require_ok (decide_eq_true full), page,
    require_ok (beq_iff_eq.mpr fill), none, taken, if_true, Res.ok_bind]

theorem pxins_full (none : (hm.kv die).pxFind x.asid (x.pxKey a) = none) (free : (hm.frame die f).px = false)
    (overfull : (hm.kv die).pxLen.toNat ≤ (hm.kv die).px.length) :
    ∃ t, hm.atOnce (hm.setG x.impure d (pxOutcome 3 f)) (kvAgent die)
        (hm.kvReads w true (pageEntry w) ++ hm.pxReads x.impure a b) = .ok t ∧
      exec (.pxins g d a b) s = .next (t.homed s x die) := by
  subst hw hdie
  rw [exec_pxins, execPxins]
  refine kvControl_puts h at_ ?_
  simp only [Ctx.impure_asid, Ctx.impure_pxKey, may _, require_ok (decide_eq_true full), page,
    require_ok (beq_iff_eq.mpr fill), none, free, Bool.false_eq_true, if_false, if_pos overfull, Res.ok_bind]

theorem pxins_enters (none : (hm.kv die).pxFind x.asid (x.pxKey a) = none) (free : (hm.frame die f).px = false)
    (room : (hm.kv die).px.length < (hm.kv die).pxLen.toNat) (count : (hm.frame die f).count < 65535) (impure : x.isPure = false)
    (once : hm.atOnce (((hm.setKv die { hm.kv die with px := (hm.kv die).px ++ [(x.asid, x.pxKey a, f)] }).setFrame die f
      { hm.frame die f with count := (hm.frame die f).count + 1, px := true }).setG x.impure d (pxOutcome 0 f)) (kvAgent die)
      (hm.kvReads w true (pageEntry w) ++ hm.pxReads x.impure a b) = .ok u) :
    exec (.pxins g d a b) s = .next (u.homed s x die) := by
  subst hw hdie
  rw [exec_pxins, execPxins]
  refine kvControl_at h at_ once ?_
  simp only [Ctx.impure_asid, Ctx.impure_pxKey, may _, require_ok (decide_eq_true full), page,
    require_ok (beq_iff_eq.mpr fill), none, free, Bool.false_eq_true, if_false, if_neg (Nat.not_le.mpr room),
    require_ok (decide_eq_true count), Ctx.impure_mayWrite _ impure, Res.ok_bind]

theorem pxins_known {f' : Nat} (found : (hm.kv die).pxFind x.asid (x.pxKey a) = some f') (same : f' = f ∨ (hm.frame die f).px = true) :
    ∃ t, hm.atOnce (hm.setG x.impure d (pxOutcome 2 f)) (kvAgent die)
        (hm.kvReads w true (pageEntry w) ++ hm.pxReads x.impure a b) = .ok t ∧
      exec (.pxins g d a b) s = .next (t.homed s x die) := by
  subst hw hdie
  have keeps : (f' == f || (hm.frame (handleDie (x.impure.g b)) f).px) = true := by simpa using same
  rw [exec_pxins, execPxins]
  refine kvControl_puts h at_ ?_
  simp only [Ctx.impure_asid, Ctx.impure_pxKey, may _, require_ok (decide_eq_true full), page,
    require_ok (beq_iff_eq.mpr fill), found, keeps, if_true, Res.ok_bind]

theorem pxins_merges {f' : Nat} (found : (hm.kv die).pxFind x.asid (x.pxKey a) = some f') (other : f' ≠ f)
    (free : (hm.frame die f).px = false) (sound : hm.frameOk die f' = .ok ()) (count : (hm.frame die f').count < 65535)
    (impure : x.isPure = false)
    (once : hm.atOnce ((((hm.addCount die f').setMapEntry die q (pageNum w * q.groups + pageGroup w) (entryOf f')).subCount
      die f).setG x.impure d (pxOutcome 1 f')) (kvAgent die) (hm.kvReads w true (pageEntry w) ++ hm.pxReads x.impure a b) = .ok u) :
    exec (.pxins g d a b) s = .next (u.homed s x die) := by
  subst hw hdie
  have moves : (f' == f || (hm.frame (handleDie (x.impure.g b)) f).px) = false := by simp [other, free]
  rw [exec_pxins, execPxins]
  refine kvControl_at h at_ once ?_
  simp only [Ctx.impure_asid, Ctx.impure_pxKey, may _, require_ok (decide_eq_true full), page,
    require_ok (beq_iff_eq.mpr fill), found, moves, Bool.false_eq_true, if_false, sound, require_ok (decide_eq_true count),
    Ctx.impure_mayWrite _ impure, Res.ok_bind]

end
end

/-- Settles O34. -/
theorem cacheQueriesComplete : Obligations.CacheQueriesComplete := by
  unfold Obligations.CacheQueriesComplete
  intro s x g d a b q u h
  refine ⟨⟨fun may => ⟨kvqLen_puts h rfl rfl rfl may, kvqState_puts h rfl rfl rfl may⟩,
    fun e may entry => ⟨kvqMap_puts h rfl rfl rfl may entry, kvqFrame_puts h rfl rfl rfl may entry⟩⟩, ?_, ?_, ?_⟩
  · exact fun may whole => ⟨pxlkp_misses h rfl rfl rfl may whole, pxlkp_appends h rfl rfl rfl may whole⟩
  · exact fun may => ⟨pxlkpDrop_misses h rfl rfl rfl may, fun f => pxlkpDrop_drops h rfl rfl rfl may⟩
  · exact fun f may full page fill => ⟨pxins_taken h rfl rfl rfl may full page fill, pxins_full h rfl rfl rfl may full page fill,
      pxins_enters h rfl rfl rfl may full page fill, fun f' => pxins_known h rfl rfl rfl may full page fill,
      fun f' => pxins_merges h rfl rfl rfl may full page fill⟩

end Sys2Proof.Machine
end

section
/-! PROOFS. KV sequences begin, grow, shrink and end (R203 to R215): each word by what its checks and its work at the home die answer. -/

namespace Sys2Proof.Machine

/-! Sequences begin. -/

theorem kvmap_begins {s t u hm : State} {x : Ctx} {g : Guard} {d a b : Reg} {bs : List Byte} {o : Nat} {die l : Nat} {q : Sequence}
    (h : s.ready x g) (impure : x.isPure = false) (hdie : coreDie s.cur = die) (at_ : s.atHome x die = hm)
    (hq : q = ⟨0, x.impure.asid, #v[leWord ((bs.drop (8 * 0)).take 8), leWord ((bs.drop (8 * 1)).take 8), leWord ((bs.drop (8 * 2)).take 8),
      leWord ((bs.drop (8 * 3)).take 8)], 0, 0, [], [], none⟩) (hl : l = ceilLog (q.groups * max 1 (x.impure.g b).toNat))
    (en : (hm.kv die).en = true) (tokens : (x.impure.g b).toNat < 2 ^ 16)
    (loaded : hm.loadN (hm.me x.impure) (x.impure.g a) 32 = .ok (t, bs))
    (fields : q.descOk (t.kv die).frSz.toNat = true) (aligned : (x.impure.g a).toNat % 32 = 0) (room : (t.kv die).room = true)
    (place : (t.kv die).findSlab l = some o) :
    let (t', n) := t.newSeq die o { q with slabLog := l }
    let t' := t'.clearSlab die o l
    hm.atOnce (t'.setCtx ((t'.now x.impure).setG d (n.setWidth 64))) (kvAgent die) [] = .ok u →
    exec (.kvmap g d a b) s = .next (u.homed s x die) := by
  subst hdie hl hq
  have cur : hm.cur = s.cur := by rw [← at_, State.atHome_cur]
  generalize begun : t.newSeq _ o _ = r
  obtain ⟨t', n⟩ := r
  intro once
  rw [exec_kvmap, execKvmap]
  refine kvControl_at h at_ once ?_
  simp only [cur, require_ok en, require_ok (beq_iff_eq.mpr (high_of_lt tokens)), loaded, require_ok fields,
    require_ok (beq_iff_eq.mpr aligned), require_ok room, place, Ctx.impure_mayWrite _ impure, begun, Res.ok_bind]


section
variable {s u hm : State} {x : Ctx} {g : Guard} {d a : Reg} {w : Word} {die : Nat} {q : Sequence} (h : s.ready x g) (hw : x.impure.g a = w)
  (hdie : handleDie w = die) (at_ : s.atHome x die = hm)
include h hw hdie at_

theorem kvfork_shares {fs : List (Nat × Nat)} {o : Nat} (impure : x.isPure = false) (may : hm.mayCache x.impure w true false q)
    (map : hm.mapFrames die q = .ok fs) (counts : ∀ p ∈ fs, (hm.frame die p.2).count + (fs.filter (·.2 == p.2)).length ≤ 65535)
    (room : (hm.kv die).room = true) (place : (hm.kv die).findSlab q.slabLog = some o)
    (once : hm.atOnce ((hm.forkSeq die q o fs).1.setCtx (x.impure.setG d ((hm.forkSeq die q o fs).2.setWidth 64))) (kvAgent die)
      (hm.kvReads w true fun q => List.range (2 ^ q.slabLog)) = .ok u) :
    exec (.kvfork g d a) s = .next (u.homed s x die) := by
  subst hw hdie
  have fits : (fs.all (fun (_, f) => decide ((hm.frame (handleDie (x.impure.g a)) f).count + (fs.filter (·.2 == f)).length ≤ 65535)) &&
      (hm.kv (handleDie (x.impure.g a))).room) = true := by
    rw [room, Bool.and_true, List.all_eq_true]
    exact fun p hp => decide_eq_true (counts p hp)
  rw [exec_kvfork, execKvfork]
  refine kvControl_at h at_ once ?_
  simp only [may _, map, require_ok fits, place, Ctx.impure_mayWrite _ impure, Res.ok_bind]

section
variable {f : Nat} (may : hm.mayCache x.impure w false false q) (page : pageNum w < q.pages (pageGroup w))
  (frame : hm.pageFrame die q (pageGroup w) (pageNum w) = .ok f)
include may page frame

theorem kvforkCow_own (own : (hm.frame die f).count ≤ 1) :
    ∃ v, hm.atOnce (hm.setG x.impure d (BitVec.ofNat 64 f)) (kvAgent die) (hm.kvReads w true (pageEntry w) ++ hm.cowReads w) = .ok v ∧
      exec (.kvforkCow g d a) s = .next (v.homed s x die) := by
  subst hw hdie
  rw [exec_kvforkCow, execKvforkCow]
  refine kvControl_puts h at_ ?_
  simp only [may _, require_ok (decide_eq_true page), frame, if_pos own, Res.ok_bind]

theorem kvforkCow_copies {f' : Nat} (impure : x.isPure = false) (shared : 1 < (hm.frame die f).count)
    (free : (hm.freeFrames die).head? = some f')
    (once : hm.atOnce ((hm.replaceFrame die q (pageGroup w) (pageNum w) f f').setG x.impure d (BitVec.ofNat 64 f')) (kvAgent die)
      (hm.kvReads w true (pageEntry w) ++ hm.cowReads w) = .ok u) :
    exec (.kvforkCow g d a) s = .next (u.homed s x die) := by
  subst hw hdie
  rw [exec_kvforkCow, execKvforkCow]
  refine kvControl_at h at_ once ?_
  simp only [may _, require_ok (decide_eq_true page), frame, if_neg (Nat.not_le.mpr shared), free, Ctx.impure_mayWrite _ impure, Res.ok_bind]

end
end

/-! Sequences grow, shrink and end. -/

section
variable {s v hm : State} {x : Ctx} {g : Guard} {a b c : Reg} {w : Word} {die : Nat} {q : Sequence} (h : s.ready x g)
  (hw : x.impure.g a = w) (hdie : handleDie w = die) (at_ : s.atHome x die = hm)
include h hw hdie at_

theorem kvapp_appends {t : State} {data : List (List (List Byte))} {room : Option (Nat × Nat)} {free : Option Nat} {grp n last : Nat}
    (hgrp : pageGroup w = grp) (hn : (x.impure.g c).toNat = n) (hlast : (q.t grp + n - 1) / 16 = last) :
    let (o, p) := hm.openPage die (handleIdx w) q grp last room free
    hm.mayCache x.impure w false true q → 1 ≤ n → n ≤ 16 → (x.impure.g b).toNat < 2 ^ 32 → (x.impure.g b).toNat % 32 = 0 →
    hm.stagedSlots x.impure (x.impure.g b).toNat q n = .ok data → q.t grp + n ≤ 2 ^ 20 →
    hm.pageShared die q grp (q.t grp / 16) = .ok false → x.isPure = false →
    (q.pages grp ≤ last → free = (hm.freeFrames die).head? ∧ free ≠ none ∧
      q.canHold (hm.kv die) w (last * q.groups + grp) = .ok room) → (¬q.pages grp ≤ last → free = none ∧ room = none) →
    o.appendSlots die p grp (q.t grp) data = .ok t → hm.atOnce (t.setSeq die (handleIdx w) (p.setT grp (q.t grp + n))) (kvAgent die)
      (hm.kvReads w true fun q => [q.t grp / 16 * q.groups + grp]) = .ok v →
    exec (.kvapp g a b c) s = .next (v.homed s x die) := by
  subst hw hdie hgrp hn hlast
  generalize opened : hm.openPage _ _ q _ _ room free = r
  obtain ⟨o, p⟩ := r
  intro may one few low aligned staged long own impure fresh known appended once
  have few' : (x.impure.g c).toNat < 2 ^ 5 := by omega
  have count : ((x.impure.g c).extractLsb' 0 5).toNat = (x.impure.g c).toNat := low_of_lt few'
  have shape : ((x.impure.g b).extractLsb' 32 32 == 0 && (x.impure.g c).extractLsb' 5 59 == 0 &&
      decide (1 ≤ (x.impure.g c).toNat) && decide ((x.impure.g c).toNat ≤ 16)) = true := by
    simp [high_of_lt low, high_of_lt few', one, few]
  rw [exec_kvapp, execKvapp]
  refine kvControl_at h at_ once ?_
  have length : decide (q.t (pageGroup (x.impure.g a)) + (x.impure.g c).toNat ≤ 2 ^ 20) = true := decide_eq_true long
  simp only [may _, count, require_ok shape, require_ok (beq_iff_eq.mpr aligned), staged, require_ok length, own, Bool.false_eq_true,
    if_false, Res.ok_bind]
  by_cases page : q.pages (pageGroup (x.impure.g a)) ≤ (q.t (pageGroup (x.impure.g a)) + (x.impure.g c).toNat - 1) / 16
  · obtain ⟨first, some, holds⟩ := fresh page
    rw [first] at some opened
    have frame : (!decide (q.pages (pageGroup (x.impure.g a)) ≤ (q.t (pageGroup (x.impure.g a)) + (x.impure.g c).toNat - 1) / 16) ||
        (hm.freeFrames (handleDie (x.impure.g a))).head?.isSome) = true := by
      simp [Option.isSome_iff_ne_none.mpr some]
    simp only [if_pos page, require_ok frame, holds, Ctx.impure_mayWrite _ impure, opened, appended, Res.ok_bind]
  · obtain ⟨rfl, rfl⟩ := known page
    simp only [if_neg page, decide_eq_false page, Bool.not_false, Bool.true_or, require_ok, Ctx.impure_mayWrite _ impure, opened, appended,
      Res.ok_bind]

theorem kvtrunc_cuts {t : State} {q' : Sequence} (may : hm.mayCache x.impure w true false q) (short : (x.impure.g b).toNat ≤ 2 ^ 20)
    (impure : x.isPure = false ∨ ∀ k < q.groups, q.t k ≤ (x.impure.g b).toNat) (cut : hm.cutTo die q (x.impure.g b).toNat = .ok (t, q'))
    (once : hm.atOnce (t.setSeq die (handleIdx w) q') (kvAgent die)
      (hm.kvReads w true fun q => (List.range q.groups).flatMap fun k =>
        ((List.range (q.pages k)).filter fun p => decide ((x.impure.g b).toNat / 16 ≤ p)).map fun p => p * q.groups + k) = .ok v) :
    exec (.kvtrunc g a b) s = .next (v.homed s x die) := by
  subst hw hdie
  rw [exec_kvtrunc, execKvtrunc]
  refine kvControl_at h at_ once ?_
  cases cuts : (List.range q.groups).any fun k => decide ((x.impure.g b).toNat < q.t k) with
  | false => simp only [may _, require_ok (decide_eq_true short), cuts, Bool.false_eq_true, if_false, cut, Res.ok_bind]
  | true =>
    have writes : x.isPure = false := impure.resolve_right fun none => by
      obtain ⟨k, hk, less⟩ := List.any_eq_true.mp cuts
      exact Nat.not_lt.mpr (none k (List.mem_range.mp hk)) (of_decide_eq_true less)
    simp only [may _, require_ok (decide_eq_true short), cuts, if_true, Ctx.impure_mayWrite _ writes, cut, Res.ok_bind]

theorem kvrel_releases (may : hm.mayCache x.impure w true false q) (impure : x.isPure = false)
    (once : hm.atOnce (hm.releaseSeq die (handleIdx w) q) (kvAgent die)
      (hm.kvReads w true fun q => List.range (2 ^ q.slabLog)) = .ok v) : exec (.kvrel g a) s = .next (v.homed s x die) := by
  subst hw hdie
  rw [exec_kvrel, execKvrel]
  refine kvControl_at h at_ once ?_
  simp only [may _, Ctx.impure_mayWrite _ impure, Res.ok_bind]

theorem kvret_writes {t0 n f : Nat} {bs : List Byte} (may : hm.mayCache x.impure w false true q)
    (tokens : (x.impure.g b).toNat = t0 + 2 ^ 32 * n) (low : t0 < 2 ^ 32) (one : 1 ≤ n) (few : n ≤ 16) (place : (x.impure.g c).toNat < 2 ^ 32)
    (page : t0 / 16 = (t0 + n - 1) / 16) (within : t0 + n ≤ q.t (pageGroup w))
    (read : hm.readSpad hm.cur x.impure (x.impure.g c) (n * q.heads) = .ok bs) (frame : hm.pageFrame die q (pageGroup w) (t0 / 16) = .ok f)
    (own : (hm.frame die f).count ≤ 1) (impure : x.isPure = false)
    (once : hm.atOnce (hm.putRetention die (hm.frame die f).base q t0 n bs) (kvAgent die)
      (hm.kvReads w true fun q => [t0 / 16 * q.groups + pageGroup w]) = .ok v) : exec (.kvret g a b c) s = .next (v.homed s x die) := by
  subst hw hdie
  have first : ((x.impure.g b).extractLsb' 0 32).toNat = t0 := by
    rw [BitVec.extractLsb'_toNat, Nat.shiftRight_zero]; omega
  have count : ((x.impure.g b).extractLsb' 32 16).toNat = n := by
    rw [BitVec.extractLsb'_toNat, Nat.shiftRight_eq_div_pow]; omega
  have shape : ((x.impure.g b).extractLsb' 48 16 == 0 && decide (1 ≤ n) && decide (n ≤ 16) && (x.impure.g c).extractLsb' 32 32 == 0) = true := by
    simp [high_of_lt place, high_of_lt (w := x.impure.g b) (k := 48) (n := 16) (by omega), one, few]
  have inPage : (t0 / 16 == (t0 + n - 1) / 16 && decide (t0 + n ≤ q.t (pageGroup (x.impure.g a)))) = true := by
    simp [← page, within]
  rw [exec_kvret, execKvret]
  refine kvControl_at h at_ once ?_ rfl (by simp only [first])
  simp only [may _, first, count, require_ok shape, require_ok inPage, read, frame, if_neg (Nat.not_lt.mpr own),
    Ctx.impure_mayWrite _ impure, Res.ok_bind]

end

/-- Settles O32. -/
theorem cacheSequencesChange : Obligations.CacheSequencesChange := by
  unfold Obligations.CacheSequencesChange
  refine ⟨fun s x g d a b u h impure => ⟨?_, ?_, ?_⟩, fun s x g a b c q v h => ⟨?_, ?_, ?_, ?_⟩⟩
  · exact fun t bs o en tokens loaded fields aligned room place =>
      kvmap_begins h impure rfl rfl rfl rfl en tokens loaded fields aligned room place
  · exact fun q fs o may map counts room place => kvfork_shares h rfl rfl rfl impure may map counts room place
  · exact fun q f may page frame => ⟨kvforkCow_own h rfl rfl rfl may page frame,
      fun f' shared free => kvforkCow_copies h rfl rfl rfl may page frame impure shared free⟩
  · exact fun t data room free => kvapp_appends h rfl rfl rfl rfl rfl rfl
  · exact fun t q' => kvtrunc_cuts h rfl rfl rfl
  · exact kvrel_releases h rfl rfl rfl
  · exact fun t0 n f bs => kvret_writes h rfl rfl rfl

end Sys2Proof.Machine
end

section
/-! PROOFS. ABIND, ATTN and TMERGE (R185 to R202). -/

namespace Sys2Proof.Machine

theorem byUnit_ok {α : Type} {a : α} {r : Res α} (h : r = .ok a) : byUnit r = .ok a := by subst h; rfl

/-! ABIND. -/

section
variable {s t t1 t2 t3 : State} {x : Ctx} {g : Guard} {slot : BitVec 3} {a b : Reg} {lse : Bool} {bs : List Byte} {wd : Nat → Word}
  {h0 h1 h2 : Word} {ws0 ws1 ws2 : List Word} {score : Stage} {mask blend : Option Stage} {q : Sequence} {cols : Cols}

/-- A stage that the descriptor may leave out: what is read of it, and what it is. -/
theorem optionalStage_eq {ag : Agent} {w h0 : Word} {ws : List Word} {k : Nat} {st : Option Stage} {u v : State}
    (stage : if w = 0 then v = u ∧ st = none else u.readStage ag w = .ok (v, h0, ws) ∧ st.isSome = true ∧ stageOf k h0 ws = st) :
    ∃ h ws', (if w == 0 then .ok (u, 0, []) else u.readStage ag w : Res (State × Word × List Word)) = .ok (v, h, ws') ∧
      (if w == 0 then some none else (stageOf k h ws').map some) = some st := by
  by_cases zero : w = 0
  · rw [if_pos zero] at stage
    obtain ⟨rfl, rfl⟩ := stage
    exact ⟨0, [], by simp [zero], by simp [zero]⟩
  · rw [if_neg zero] at stage
    obtain ⟨read, isSome, of⟩ := stage
    obtain ⟨st', rfl⟩ := Option.isSome_iff_exists.mp isSome
    have some : (w == 0) = false := beq_eq_false_iff_ne.mpr zero
    exact ⟨h0, ws, by rw [some]; exact read, by rw [some, of]; rfl⟩

theorem exec_abind_binds (h : s.ready x g) (hwd : wd = fun k => leWord ((bs.drop (8 * k)).take 8)) (aligned : (x.g a).toNat % 64 = 0)
    (loaded : s.loadN (s.me x) (x.g a) 64 = .ok (t, bs)) (shape : bindingShape (wd 3) = true) (six : wd 6 = 0) (seven : wd 7 = 0)
    (handle : (x.g b).toNat < 2 ^ 48) (range : ∀ w, colRange w (wd 5) = .ok cols) (some : wd 0 ≠ 0) (al0 : (wd 0).toNat % 8 = 0)
    (al1 : (wd 1).toNat % 8 = 0) (al2 : (wd 2).toNat % 8 = 0) (read0 : t.readStage (s.me x) (wd 0) = .ok (t1, h0, ws0))
    (stage0 : stageOf 1 h0 ws0 = .some score)
    (stage1 : if wd 1 = 0 then t2 = t1 ∧ mask = none
      else t1.readStage (s.me x) (wd 1) = .ok (t2, h1, ws1) ∧ mask.isSome = true ∧ stageOf 2 h1 ws1 = mask)
    (stage2 : if wd 2 = 0 then t3 = t2 ∧ blend = none
      else t2.readStage (s.me x) (wd 2) = .ok (t3, h2, ws2) ∧ blend.isSome = true ∧ stageOf 3 h2 ws2 = blend)
    (seq : t3.liveSeq x (x.g b) = .ok q) (group : pageGroup (x.g b) < q.groups) (dim : q.dim = ((wd 3).extractLsb' 0 16).toNat)
    (ty : q.tyCode = (wd 3).extractLsb' 32 5) :
    exec (.abind g slot a b lse) s = .next ((t3.setCtx { t3.now x with
      bindings := (t3.now x).bindings.set slot.toNat (.some (bindingOf bs (x.g b) q.ty score mask blend lse)) }).ended s x) := by
  have word (k : Nat) : leWord ((bs.drop (8 * k)).take 8) = wd k := by rw [hwd]
  obtain ⟨k1, v1, read1, is1⟩ := optionalStage_eq stage1
  obtain ⟨k2, v2, read2, is2⟩ := optionalStage_eq stage2
  rw [exec_abind, execAbind]
  refine control_seq h (by simp) ?_
  have fields : (bindingShape (wd 3) && wd 6 == 0 && wd 7 == 0 && (x.g b).extractLsb' 48 16 == 0) = true := by
    rw [shape, six, seven, high_of_lt handle]; rfl
  have cache : (decide (pageGroup (x.g b) < q.groups) && q.dim == ((wd 3).extractLsb' 0 16).toNat &&
      q.tyCode == (wd 3).extractLsb' 32 5) = true := by
    rw [decide_eq_true group, dim, ty, beq_self_eq_true, beq_self_eq_true]; rfl
  simp only [require_ok (beq_iff_eq.mpr aligned), loaded, word, require_ok fields, range, require_ok (bne_iff_ne.mpr some),
    require_ok (beq_iff_eq.mpr al0), require_ok (beq_iff_eq.mpr al1), require_ok (beq_iff_eq.mpr al2), read0, read1, read2, stage0, is1, is2,
    seq, require_ok cache, Res.ok_bind]

end

/-! ATTN. -/

theorem fields_of_sum {w : Word} {p r k : Nat} (h : w.toNat = p + 2 ^ 32 * r + 2 ^ 48 * k) (hp : p < 2 ^ 32) (hr : r < 2 ^ 16) :
    (w.extractLsb' 0 32).toNat = p ∧ (w.extractLsb' 32 16).toNat = r ∧ (w.extractLsb' 48 16).toNat = k := by
  have := w.isLt
  simp only [BitVec.extractLsb'_toNat, Nat.shiftRight_eq_div_pow]
  omega

theorem halves_of_sum {w : Word} {p k : Nat} (h : w.toNat = p + 2 ^ 32 * k) (hp : p < 2 ^ 32) :
    (w.extractLsb' 0 32).toNat = p ∧ (w.extractLsb' 32 32).toNat = k := by
  have := w.isLt
  simp only [BitVec.extractLsb'_toNat, Nat.shiftRight_eq_div_pow]
  omega

/-- What a pass starts from: the binding and the snapshot of an interrupted pass, or those of a new one. -/
def State.passFrom (s : State) (x : Ctx) (slot : BitVec 3) (bd : Binding) (qd : Desc) (rows head slot0 count : Nat) (t : State)
    (p : Pass) : Prop :=
  x.passed = none ∧ x.bindings[slot.toNat] = some bd ∧ (∀ w, s.startPass x bd w qd rows head slot0 count = .ok (t, p)) ∨
    x.passed = some p ∧ bd = p.bind ∧ t = s

section
variable {s t u : State} {x : Ctx} {g : Guard} {slot : BitVec 3} {d a b c : Reg} {tri : Bool} {bd : Binding}
  {pos0 rows head slot0 count : Nat} {qd od : Desc} {oc ws : Cols} {p q : Pass} (h : s.ready x g)
  (hc : (x.g c).toNat = pos0 + 2 ^ 32 * rows + 2 ^ 48 * head) (hpos : pos0 < 2 ^ 32) (hrows : rows < 2 ^ 16)
  (hb : (x.g b).toNat = slot0 + 2 ^ 32 * count) (hslot : slot0 < 2 ^ 32)
  (checks : ∀ w, s.attnChecks x bd w d a tri pos0 rows head count = .ok (qd, od, oc, ws))
  (start : s.passFrom x slot bd qd rows head slot0 count t p)
  (run : State.blocks (s.attnAgent x) (t.kv (handleDie (bd.handle.setWidth 64))).frSz.toNat pos0 rows head slot0 count
    (s.before ((count + bd.block - 1) / bd.block - p.done.length)) t p = .ok (u, q))
include h hc hpos hrows hb hslot checks start run

theorem exec_attn_completes (whole : s.before ((count + bd.block - 1) / bd.block - p.done.length) =
    (count + bd.block - 1) / bd.block - p.done.length) :
    exec (.attn g slot d a b c tri) s = .next ((u.endPass x q tri pos0 rows od oc ws).ended s x) := by
  obtain ⟨p32, r16, h16⟩ := fields_of_sum hc hpos hrows
  obtain ⟨s32, c32⟩ := halves_of_sum hb hslot
  have last := beq_iff_eq.mpr whole
  rw [exec_attn, execAttn]
  refine control_seq h (by simp) ?_
  rcases start with ⟨none, bound, start⟩ | ⟨passed, rfl, rfl⟩
  · simp only [none, bound]
    simp only [p32, r16, h16, s32, c32]
    rw [checks, Res.ok_bind]
    dsimp only
    rw [start, Res.ok_bind]
    dsimp only
    rw [run]
    dsimp only
    rw [if_pos last]
  · simp only [passed, p32, r16, h16, s32, c32, checks, run, last, if_true, Res.ok_bind]

theorem exec_attn_parks (part : s.before ((count + bd.block - 1) / bd.block - p.done.length) ≠
    (count + bd.block - 1) / bd.block - p.done.length) :
    let left := (count + bd.block - 1) / bd.block - p.done.length
    let v := u.setCore s.cur ((u.core s.cur).putPending q rows (q.done.length + left - s.before left) ws)
    exec (.attn g slot d a b c tri) s = .next ((v.setCtx
      { (v.now x).impure with attn := tabPut x.attn x.th.toNat q, wait := .operand }).consume (s.me x)) := by
  obtain ⟨p32, r16, h16⟩ := fields_of_sum hc hpos hrows
  obtain ⟨s32, c32⟩ := halves_of_sum hb hslot
  rw [exec_attn, execAttn]
  refine control_gone h (by simp) ?_
  have more := beq_eq_false_iff_ne.mpr part
  rcases start with ⟨none, bound, start⟩ | ⟨passed, rfl, rfl⟩
  · simp only [none, bound]
    simp only [p32, r16, h16, s32, c32]
    rw [checks, Res.ok_bind]
    dsimp only
    rw [start, Res.ok_bind]
    dsimp only
    rw [run]
    dsimp only
    rw [if_neg (by rw [more]; exact Bool.false_ne_true)]
  · simp only [passed, p32, r16, h16, s32, c32, checks, run, more, Bool.false_eq_true, if_false, Res.ok_bind]

end

theorem State.startPass_eq {s t v : State} {x : Ctx} {bd : Binding} {w : Word} {qd : Desc} {rows head slot0 count : Nat} {q : Sequence}
    {frames : List Nat} {cb : List Byte} {poss : List (BitVec 32)} (snap : s.recallAll.snapshot x bd w slot0 count = .ok (t, q, frames))
    (consts : t.loadN (s.attnAgent x) (bd.consts + BitVec.ofNat 64 (32 * head)) 32 = .ok (v, cb))
    (free : (v.core v.cur).spadReady 0 x.spadBytes = true) (clean : (v.core v.cur).tilePoison qd bd.ty.bits rows bd.dim = .ok ())
    (positions : v.positions q (frames.map fun f => (v.frame (handleDie (bd.handle.setWidth 64)) f).base) slot0 count = .ok poss) :
    let die := handleDie (bd.handle.setWidth 64)
    let o := v.core v.cur
    let bases := frames.map fun f => (v.frame die f).base
    let z := (bases.flatMap fun base => linesOf (base + q.posOff) 64).foldl (fun t l => State.stampLoad t (s.attnAgent x) l) v
    s.startPass x bd w qd rows head slot0 count = .ok
      ({ (z.setKv die { z.kv die with holds := (z.kv die).holds ++ frames.map fun f => (z.nextId, f) }) with nextId := z.nextId + 1 },
       { pc := x.pc, id := z.nextId, bind := bd, seq := q, bases := bases
         consts := (List.range 8).map fun k => BitVec.ofNat 32 (leNat ((cb.drop (4 * k)).take 4))
         query := (List.range rows).map fun i => (List.range bd.dim).map fun e => bitsAt o.spad (qd.bit bd.ty.bits i e) bd.ty.bits
         poss := poss, done := [], tally := ⟨0, 0, 0, 0⟩ }) := by
  simp only [State.startPass, snap, byUnit_ok consts, await_ok free, clean, positions, Res.ok_bind]

/-! A pass goes on under the binding it started from. -/

theorem State.startPass_bind (s : State) (x : Ctx) (bd : Binding) (w : Word) (qd : Desc) (rows head slot0 count : Nat) :
    Res.Post (fun r => r.2.bind = bd) (s.startPass x bd w qd rows head slot0 count) := by
  unfold State.startPass
  exact .skip fun _ => .skip fun _ => .skip fun _ => .skip fun _ => .skip fun _ => .ok rfl

theorem State.blocks_bind (ag : Agent) (frSz pos0 rows head slot0 count n : Nat) (s : State) (p : Pass) :
    Res.Post (fun r => r.2.bind = p.bind) (State.blocks ag frSz pos0 rows head slot0 count n s p) := by
  induction n generalizing s p with
  | zero => exact .ok rfl
  | succ n ih =>
    rw [State.blocks]
    refine .skip fun r => ?_
    obtain ⟨ts, ta⟩ := r
    exact ih _ { p with done := p.done ++ [ts], tally := ta }

theorem State.passFrom.bind {s t : State} {x : Ctx} {slot : BitVec 3} {bd : Binding} {qd : Desc} {rows head slot0 count : Nat} {p : Pass}
    (h : s.passFrom x slot bd qd rows head slot0 count t p) : p.bind = bd := by
  rcases h with ⟨-, -, start⟩ | ⟨-, rfl, -⟩
  · exact (State.startPass_bind s x bd 0 qd rows head slot0 count).of_ok (start 0)
  · rfl

/-! TMERGE. -/

theorem exec_tmerge_merges {s : State} {x : Ctx} {g : Guard} {d a b : Reg} {dc ac bc : Cols} (h : s.ready x g) (hd : s.mayUse x d dc)
    (ha : s.mayUse x a ac) (hb : s.mayUse x b bc) (han : ac.n = dc.n) (hbn : bc.n = dc.n) (wide : 4 ≤ dc.n) :
    let o := s.core s.cur
    exec (.tmerge g d a b) s = .next ((s.setCore s.cur (o.putTriples dc.first ((List.range 128).map fun i =>
      (o.tripleAt i ac.first (dc.n - 3)).merge (o.tripleAt i bc.first (dc.n - 3))))).ended s x) := by
  rw [exec_tmerge, execTmerge]
  refine control_seq h (by simp) ?_
  simp only [hd.colRange_eq, ha.rangeOf_eq _ han, hb.rangeOf_eq _ hbn, require_ok (decide_eq_true wide), hd.claimCols_eq, ha.claimCols_eq,
    hb.claimCols_eq, Res.ok_bind]

/-- Settles O35. -/
theorem attentionCompletes : Obligations.AttentionCompletes := by
  unfold Obligations.AttentionCompletes
  intro s x g slot d a b c h
  refine ⟨?_, ?_, ?_, fun dc ac bc hd ha hb han hbn wide => exec_tmerge_merges h hd ha hb han hbn wide⟩
  · intro t t1 t2 t3 bs lse h0 h1 h2 ws0 ws1 ws2 score mask blend q cols va wd
    exact exec_abind_binds h rfl
  · intro tri bd pos0 rows head slot0 count qd od oc ws t u p q die left finals o hc hpos hrows hb hslot checks start run
    have start : s.passFrom x slot bd qd rows head slot0 count t p := start
    refine ⟨fun whole => ?_, fun part => ?_⟩
    · have same : q.bind = bd := ((State.blocks_bind ..).of_ok run).trans start.bind
      rw [exec_attn_completes h hc hpos hrows hb hslot checks start run whole, State.endPass, same]
    · exact exec_attn_parks h hc hpos hrows hb hslot checks start run part
  · exact fun bd w qd rows head slot0 count t v q frames cb poss snap consts free clean positions =>
      State.startPass_eq snap consts free clean positions

end Sys2Proof.Machine
end

section
/-! PROOFS. Invalidations, page operations and shrinks complete (R239, R240, R396 to R399). -/

namespace Sys2Proof.Machine

section
variable {s : State} {p : Nat} {q : Partition} (alive : s.alive = true) (part : s.part p = some q)
include alive part

/-! Invalidations. -/

theorem exec_invalidationComplete_done (busy : q.invBusy = true) (nodes : s.nodesDue p q.inv = false) (remote : s.remoteDue p q.inv = false) :
    exec (.invalidationComplete p) s = .next (((s.setPart p { q with invBusy := false }).dropHeld p q.inv).quietRetries p q.inv) := by
  simp [exec_invalidationComplete, execInvalidationComplete, alive, part, busy, State.invDone, nodes, remote, State.invalidate]

theorem exec_invalidationComplete_waits (due : s.nodesDue p q.inv = true ∨ s.remoteDue p q.inv = true) :
    exec (.invalidationComplete p) s = .next s := by
  have not : s.invDone p q.inv = false := by rcases due with due | due <;> simp [State.invDone, due]
  simp [exec_invalidationComplete, execInvalidationComplete, alive, part, not]

/-! Page operations. -/

section
variable {o : PageOp} (op : q.pop = some o)
include op

theorem exec_pageOperationComplete_waits (invs : o.op = 1 ∨ o.ending ≠ none)
    (due : s.nodesDue p o.scope = true ∨ s.remoteDue p o.scope = true) : exec (.pageOperationComplete p) s = .next s := by
  have not : s.invDone p o.scope = false := by rcases due with due | due <;> simp [State.invDone, due]
  have waits : ((o.op == 1 || o.ending.isSome) && !s.invDone p o.scope) = true := by
    simpa [not, Option.isSome_iff_ne_none] using invs
  rw [exec_pageOperationComplete, execPageOperationComplete]
  simp only [alive, part, op, waits, Bool.not_true, Bool.false_eq_true, if_false, if_true]

variable {t : State} (quiet : o.op = 1 ∨ o.ending ≠ none →
    s.nodesDue p o.scope = false ∧ s.remoteDue p o.scope = false ∧ t = s.invalidate p o.scope)
  (plain : ¬(o.op = 1 ∨ o.ending ≠ none) → t = s)
include quiet plain

omit alive part op in
/-- Nothing is due, and the operation's own invalidation has taken its effect. -/
theorem PageOp.turn : ((o.op == 1 || o.ending.isSome) && !s.invDone p o.scope) = false ∧
    (if o.op == 1 || o.ending.isSome then s.invalidate p o.scope else s) = t := by
  have test : (o.op == 1 || o.ending.isSome) = decide (o.op = 1 ∨ o.ending ≠ none) := by
    rw [Bool.eq_iff_iff]; simp [Option.isSome_iff_ne_none]
  by_cases invs : o.op = 1 ∨ o.ending ≠ none
  · obtain ⟨nodes, remote, rfl⟩ := quiet invs
    rw [test, decide_eq_true invs, State.invDone, nodes, remote]
    exact ⟨rfl, rfl⟩
  · cases plain invs
    rw [test, decide_eq_false invs]
    exact ⟨rfl, rfl⟩

theorem exec_pageOperationComplete_ending {r : Nat} (ending : o.ending = some r) :
    exec (.pageOperationComplete p) s = .next ((t.endPop p r).drainFaults p 1024) := by
  obtain ⟨turn, from_⟩ := PageOp.turn quiet plain
  rw [ending] at turn from_
  rw [exec_pageOperationComplete, execPageOperationComplete]
  simp only [alive, part, op, turn, from_, ending, Bool.not_true, Bool.false_eq_true, if_false]

variable (last : o.ending = none)
include last

theorem exec_pageOperationComplete_invalidates {u v : State} {r : Nat} (finish : t.popFinish o = .ok (u, r, true))
    (start : u.startInv p o.scope = .ok v) : exec (.pageOperationComplete p) s =
      .next (((List.range 4).foldl (fun v d => State.consume v (migAgent d)) v).setPop p { o with ending := some r }) := by
  obtain ⟨turn, from_⟩ := PageOp.turn quiet plain
  rw [last] at turn from_
  rw [exec_pageOperationComplete, execPageOperationComplete]
  simp only [alive, part, op, turn, from_, last, finish, start, Bool.not_true, Bool.false_eq_true, if_false, if_true, Res.ok_bind]

theorem exec_pageOperationComplete_ends {u : State} {r : Nat} (finish : t.popFinish o = .ok (u, r, false)) :
    exec (.pageOperationComplete p) s =
      .next ((((List.range 4).foldl (fun v d => State.consume v (migAgent d)) u).endPop p r).drainFaults p 1024) := by
  obtain ⟨turn, from_⟩ := PageOp.turn quiet plain
  rw [last] at turn from_
  rw [exec_pageOperationComplete, execPageOperationComplete]
  simp only [alive, part, op, turn, from_, last, finish, Bool.not_true, Bool.false_eq_true, if_false, Res.ok_bind]

theorem exec_pageOperationComplete_fails {e : Trap} (finish : t.popFinish o = .error (.trap e)) :
    exec (.pageOperationComplete p) s = .next ((t.endPop p 2).drainFaults p 1024) := by
  obtain ⟨turn, from_⟩ := PageOp.turn quiet plain
  rw [last] at turn from_
  rw [exec_pageOperationComplete, execPageOperationComplete]
  simp only [alive, part, op, turn, from_, last, finish, Bool.not_true, Bool.false_eq_true, if_false, Res.error_bind]

end

/-! Clusters that leave. -/

theorem exec_clusterRemovalComplete_of {l : Nat} : exec (.clusterRemovalComplete p l) s = .next (s.removeCluster p l q) := by
  simp only [exec_clusterRemovalComplete, execClusterRemovalComplete, alive, part, Bool.not_true, Bool.false_eq_true, if_false]

end

section
variable {s : State} {p l c : Nat} {q : Partition} (at_ : q.physical l = some c)
include at_

theorem State.removeCluster_occupied (occupied : ((clusterCores c).all fun n => (s.core n).vacant) = false) :
    s.removeCluster p l q = s := by
  simp only [State.removeCluster, at_, occupied, Bool.not_false, if_true]

variable (vacant : ((clusterCores c).all fun n => (s.core n).vacant) = true)
include vacant

theorem State.removeCluster_shrink {g : Word} {cs add : List Nat} (shrinks : q.resize = some (.shrink g cs add)) (leaves : l ∈ cs) :
    let rest := cs.filter (· != l)
    s.removeCluster p l q = (s.zeroCluster c).setPart p { q with
      cit := tabDel q.cit l
      geom := if rest = [] then g else q.geom
      rszSt := if rest = [] then rszDone q.rszSt 0 else q.rszSt
      resize := if rest = [] then none else some (.shrink g rest add) } := by
  intro rest
  have named : cs.contains l = true := List.contains_iff_mem.mpr leaves
  simp only [State.removeCluster, at_, vacant, shrinks, named, Bool.not_true, Bool.false_eq_true, if_false]
  by_cases last : rest = []
  · have empty : (cs.filter (· != l)).isEmpty = true := List.isEmpty_iff.mpr last
    simp only [empty, if_true, last]
  · have more : (cs.filter (· != l)).isEmpty = false := by simpa [rest] using last
    simp only [more, Bool.false_eq_true, if_false, if_neg last]
    rfl

theorem State.removeCluster_move {d : Nat} (moves : q.resize = some (.move l d false)) :
    s.removeCluster p l q = (s.zeroCluster c).setPart p { q with cit := tabPut q.cit l d, rszSt := rszDone q.rszSt 0, resize := none } := by
  simp [State.removeCluster, at_, vacant, moves, State.moveCluster]

end

/-- Settles O52. -/
theorem partitionWorkCompletes : Obligations.PartitionWorkCompletes := by
  unfold Obligations.PartitionWorkCompletes
  intro s p q alive part
  refine ⟨exec_invalidationComplete_done alive part, fun _ => exec_invalidationComplete_waits alive part, fun o op => ?_,
    fun l c g cs add at_ vacant shrinks leaves => ?_, fun l c d at_ vacant moves => ?_, fun l c at_ occupied => ?_⟩
  · exact ⟨exec_pageOperationComplete_waits alive part op, fun t quiet plain =>
      ⟨fun r => exec_pageOperationComplete_ending alive part op quiet plain,
        fun u v r last => exec_pageOperationComplete_invalidates alive part op quiet plain last,
        fun u r last => exec_pageOperationComplete_ends alive part op quiet plain last,
        fun e last => exec_pageOperationComplete_fails alive part op quiet plain last⟩⟩
  · exact (exec_clusterRemovalComplete_of alive part).trans (congrArg _ (State.removeCluster_shrink at_ vacant shrinks leaves))
  · exact (exec_clusterRemovalComplete_of alive part).trans (congrArg _ (State.removeCluster_move at_ vacant moves))
  · exact (exec_clusterRemovalComplete_of alive part).trans (congrArg _ (State.removeCluster_occupied at_ occupied))

end Sys2Proof.Machine
end

section
/-! PROOFS. Doorbells and ring entries (R445 to R448): a doorbell moves the tail, and an entry is taken by what it asks for. -/

namespace Sys2Proof.Machine

/-! Doorbells. -/

section
variable {s : State} {p : Nat} {tail : BitVec 32} (alive : s.alive = true)
include alive

theorem exec_doorbell_stray (part : s.part p = none) : exec (.doorbell p tail) s = .next (s.setErr 1) := by
  simp [exec_doorbell, execDoorbell, State.listening_of_alive alive, part]

theorem exec_doorbell_forward {q : Partition} (part : s.part p = some q)
    (forward : (q.tail - q.head).toNat < (tail - q.head).toNat ∧ (tail - q.head).toNat ≤ 2 ^ q.ringLog) :
    exec (.doorbell p tail) s = .next (s.setPart p { q with tail := tail }) := by
  have accepts : q.accepts tail = true := by simpa [Partition.accepts] using forward
  simp [exec_doorbell, execDoorbell, State.listening_of_alive alive, part, alive, accepts]

theorem exec_doorbell_beyond {q : Partition} (part : s.part p = some q)
    (beyond : ¬((q.tail - q.head).toNat < (tail - q.head).toNat ∧ (tail - q.head).toNat ≤ 2 ^ q.ringLog)) :
    exec (.doorbell p tail) s = .next (s.setErr 1) := by
  have refuses : q.accepts tail = false := by
    rw [Bool.eq_false_iff]
    exact fun accepts => beyond (by simpa [Partition.accepts] using accepts)
  simp [exec_doorbell, execDoorbell, State.listening_of_alive alive, part, refuses]

theorem exec_ringEntryNop_takes : exec (.ringEntryNop p) s = .next (s.takeEntry p fun k => k != 1 && k != 2) := by
  simp [exec_ringEntryNop, execRingEntryNop, alive]
theorem exec_ringEntryGraph_takes : exec (.ringEntryGraph p) s = .next (s.takeEntry p fun k => k == 1) := by
  simp [exec_ringEntryGraph, execRingEntryGraph, alive]
theorem exec_ringEntryRecord_takes : exec (.ringEntryRecord p) s = .next (s.takeEntry p fun k => k == 2) := by
  simp [exec_ringEntryRecord, execRingEntryRecord, alive]

end

/-! An entry. -/

theorem low_byte (w : Word) : (w.extractLsb' 0 8).toNat = w.toNat % 256 := by simp [BitVec.extractLsb'_toNat]

theorem ringGoes {s : State} {q : Partition} (some : q.head ≠ q.tail) (still : s.moving q.completion.toNat 8 = false) :
    (q.head == q.tail || s.moving q.completion.toNat 8) = false := by rw [still, beq_eq_false_iff_ne.mpr some]; rfl

section
variable {s t u v : State} {p : Nat} {want : Nat → Bool} {q : Partition} {bs : List Byte} {w : Nat → Word} {kind : Nat} {asid : BitVec 13}
  (part : s.part p = some q) (idle : q.seqDue = none) (some : q.head ≠ q.tail) (still : s.moving q.completion.toNat 8 = false)
  (read : s.readAt (s.cmdAgent p 0) (BitVec.ofNat 64 q.entryAt) q.entryAt 64 true = .ok (t, bs))
  (hw : w = fun k => leWord ((bs.drop (8 * k)).take 8)) (hkind : kind = (w 0).toNat % 256) (hasid : asid = (w 0).extractLsb' 8 13)
  (wanted : want kind = true)
include part idle some still read hw hkind hasid wanted

theorem State.takeEntry_shape (bad : entryShape w = false) : s.takeEntry p want = t.skipEntry p asid q.entryAt .shape 0 (w 3) := by
  subst hw hkind hasid
  have next := ringGoes some still
  simp only [State.takeEntry, part, idle, Option.isSome_none, Bool.false_eq_true, if_false, next, read, low_byte, wanted, Bool.not_true,
    bad, Bool.not_false, if_true]

variable (form : entryShape w = true)
include form

theorem State.takeEntry_foreign (owner : t.asidOf (s.cmdAgent p asid) asid p = .ok (v, false)) :
    s.takeEntry p want = v.skipEntry p asid q.entryAt .prot 0 (w 3) := by
  subst hw hkind hasid
  have next := ringGoes some still
  simp only [State.takeEntry, part, idle, Option.isSome_none, Bool.false_eq_true, if_false, next, read, low_byte, wanted, Bool.not_true,
    form, owner]

variable (owner : t.asidOf (s.cmdAgent p asid) asid p = .ok (v, true))
include owner

theorem State.takeEntry_done (work : (if kind == 1 then v.runGraph p (s.cmdAgent p asid) (w 1) else if kind == 2 then
      v.runRecord p (s.cmdAgent p asid) (w 1) (w 2) else .ok v : Res State) = .ok u) :
    s.takeEntry p want = (u.consume (s.cmdAgent p asid)).endEntry p (w 3) := by
  subst hw hkind hasid
  have next := ringGoes some still
  simp only [State.takeEntry, part, idle, Option.isSome_none, Bool.false_eq_true, if_false, next, read, low_byte, wanted, Bool.not_true,
    form, owner, work]

theorem State.takeEntry_faults {e : Trap} (work : (if kind == 1 then v.runGraph p (s.cmdAgent p asid) (w 1) else if kind == 2 then
      v.runRecord p (s.cmdAgent p asid) (w 1) (w 2) else .ok v : Res State) = .error (.trap e)) :
    s.takeEntry p want = ((v.stampReads (s.cmdAgent p asid) e.reads).consume (s.cmdAgent p asid)).skipEntry p asid q.entryAt e.code e.sub
      (w 3) := by
  subst hw hkind hasid
  have next := ringGoes some still
  simp only [State.takeEntry, part, idle, Option.isSome_none, Bool.false_eq_true, if_false, next, read, low_byte, wanted, Bool.not_true,
    form, owner, work]

end

/-! What an entry leaves: its SEQ, due until it is written. -/

theorem State.endEntry_eq {s : State} {p : Nat} {q : Partition} (seq : Word) (part : s.part p = some q) :
    s.endEntry p seq = (s.setPart p { q with head := q.head + 1, seqDue := some seq }).writeSeq p := by
  simp only [State.endEntry, part]

section
variable {s t : State} {p : Nat} {q : Partition} {seq : Word} (part : s.part p = some q) (due : q.seqDue = some seq)
include part due

theorem State.takeEntry_due (want : Nat → Bool) : s.takeEntry p want = s.writeSeq p := by
  simp only [State.takeEntry, part, due, Option.isSome_some, if_true]

theorem State.writeSeq_waits (busy : s.performed (s.cmdAgent p 0) .sys = false) : s.writeSeq p = s := by
  simp only [State.writeSeq, part, due, busy, Bool.false_eq_true, if_false]

theorem State.writeSeq_writes (quiet : s.performed (s.cmdAgent p 0) .sys = true)
    (put : ((s.setPart p { q with seqDue := none, lastSeq := seq }).publish (s.cmdAgent p 0) .sys).putPhys (s.cmdAgent p 0)
      q.completion.toNat (natLe 8 seq.toNat) = .ok t) : s.writeSeq p = t := by
  simp only [State.writeSeq, part, due, quiet, if_true, put]

end

/-- Settles O54. -/
theorem hostRingsComplete : Obligations.HostRingsComplete := by
  unfold Obligations.HostRingsComplete
  refine ⟨fun s p tail alive => ⟨exec_doorbell_stray alive, fun q part => ⟨exec_doorbell_forward alive part, exec_doorbell_beyond alive part⟩⟩,
    fun s t u v p q bs alive part idle some still read => ?entry, fun s p q seq => State.endEntry_eq seq,
    fun s t p q seq alive part due => ?seq⟩
  case entry =>
    intro w kind asid ag skipped
    have nop := exec_ringEntryNop_takes (p := p) alive
    have graph := exec_ringEntryGraph_takes (p := p) alive
    have record := exec_ringEntryRecord_takes (p := p) alive
    have hw : w = fun k => leWord ((bs.drop (8 * k)).take 8) := rfl
    have hkind : kind = (w 0).toNat % 256 := rfl
    have hasid : asid = (w 0).extractLsb' 8 13 := rfl
    clear_value kind asid w
    refine ⟨fun form owner => ⟨fun k => ?_, fun k work => ?_, fun k work => ?_, fun e k work => ?_, fun e k work => ?_⟩, fun k =>
      ⟨fun form owner => ?_, fun bad => ?_⟩⟩
    · exact nop.trans (congrArg _ (State.takeEntry_done part idle some still read hw hkind hasid (by rw [k]; rfl) form owner (by rw [k]; rfl)))
    · exact graph.trans (congrArg _ (State.takeEntry_done part idle some still read hw hkind hasid (by rw [k]; rfl) form owner
        (by rw [k]; exact work)))
    · exact record.trans (congrArg _ (State.takeEntry_done part idle some still read hw hkind hasid (by rw [k]; rfl) form owner
        (by rw [k]; exact work)))
    · exact graph.trans (congrArg _ (State.takeEntry_faults part idle some still read hw hkind hasid (by rw [k]; rfl) form owner
        (by rw [k]; exact work)))
    · exact record.trans (congrArg _ (State.takeEntry_faults part idle some still read hw hkind hasid (by rw [k]; rfl) form owner
        (by rw [k]; exact work)))
    · exact nop.trans (congrArg _ (State.takeEntry_foreign part idle some still read hw hkind hasid (by rw [k]; rfl) form owner))
    · exact nop.trans (congrArg _ (State.takeEntry_shape part idle some still read hw hkind hasid (by rw [k]; rfl) bad))
  case seq =>
    refine ⟨fun busy => ?_, fun quiet put => ?_⟩
    · exact (exec_ringEntryNop_takes alive).trans (congrArg _ ((State.takeEntry_due part due _).trans (State.writeSeq_waits part due busy)))
    · have write (want : Nat → Bool) := (State.takeEntry_due part due want).trans (State.writeSeq_writes part due quiet put)
      simp only [List.forall_mem_cons, List.not_mem_nil, false_imp_iff, implies_true, and_true]
      exact ⟨(exec_ringEntryNop_takes alive).trans (congrArg _ (write _)), (exec_ringEntryGraph_takes alive).trans (congrArg _ (write _)),
        (exec_ringEntryRecord_takes alive).trans (congrArg _ (write _))⟩

end Sys2Proof.Machine
end

section
/-! PROOFS. Starts, clocks and power limits (R449, R458 to R461). -/

namespace Sys2Proof.Machine

/-- A table written at the keys of a list that a test names. -/
theorem tabGet_foldl_tabPut {α : Type} (l : List Nat) (named : Nat → Bool) (f : Nat → α) (t : List (Nat × α)) (k : Nat) :
    tabGet (l.foldl (fun t j => if named j then tabPut t j (f j) else t) t) k = if k ∈ l ∧ named k = true then some (f k) else tabGet t k := by
  induction l generalizing t with
  | nil => simp
  | cons j r ih =>
    rw [List.foldl_cons, ih]
    by_cases later : k ∈ r ∧ named k = true
    · rw [if_pos later, if_pos ⟨List.mem_cons_of_mem j later.1, later.2⟩]
    · rw [if_neg later]
      by_cases here : k = j
      · subst here
        cases writes : named k <;> simp [tabGet_tabPut]
      · have off : ¬(k ∈ j :: r ∧ named k = true) := fun ⟨mem, writes⟩ => later ⟨(List.mem_cons.mp mem).resolve_left here, writes⟩
        rw [if_neg off]
        cases named j <;> simp [tabGet_tabPut_ne _ here]

theorem tabGet_foldl_range {α : Type} (n : Nat) (f : Nat → α) (t : List (Nat × α)) {k : Nat} (h : k < n) :
    tabGet ((List.range n).foldl (fun t j => tabPut t j (f j)) t) k = some (f k) := by
  have := tabGet_foldl_tabPut (List.range n) (fun _ => true) f t k
  simpa [h] using this

theorem trainedPort_eq (n : BitVec 8) : trainedPort n =
    { DruatPort.down with state := if n = 0 then 0 else 2, lanes := if 4 < n then 4 else n } := by
  by_cases down : n = 0
  · subst down; rfl
  · rw [trainedPort, if_neg (by simpa using down), if_neg down]

section
variable {s : State}

/-! Starts. -/

theorem exec_powerOnStart_off (off : s.power = .off) : exec .powerOnStart s = .next (s.begin s.failedStarts) := by
  simp [exec_powerOnStart, execPowerOnStart, off]

section
variable (h : s.power = .starting)
include h

theorem exec_startTimeout_starting : exec .startTimeout s = .next ({ s with reason := 8 }.begin (s.failedStarts + 1)) := by
  simp [exec_startTimeout, execStartTimeout, h, State.startFailed]

theorem exec_startComplete_failed (step : BitVec 4) (lanes : List (BitVec 8)) :
    exec (.startComplete (some step) lanes) s = .next ({ s with reason := step }.begin (s.failedStarts + 1)) := by
  simp [exec_startComplete, execStartComplete, h, State.startFailed]

theorem exec_startComplete_trained (lanes : List (BitVec 8)) :
    ∃ t, exec (.startComplete none lanes) s = .next t ∧ t.power = .normal ∧ t.failedStarts = 0 ∧ t.trained = true ∧
      t.mem = s.mem ∧ t.cores = s.cores ∧ ∀ k, k < 48 → tabGet t.ports k = some { DruatPort.down with
        state := if (lanes[k]?).getD 0 = 0 then 0 else 2
        lanes := if 4 < (lanes[k]?).getD 0 then 4 else (lanes[k]?).getD 0 } := by
  refine ⟨{ s with
      power := .normal, trained := true, failedStarts := 0
      ports := (List.range 48).foldl (fun t k => tabPut t k (trainedPort ((lanes[k]?).getD 0))) s.ports },
    ?_, rfl, rfl, rfl, rfl, rfl, fun k low => ?_⟩
  · simp [exec_startComplete, execStartComplete, h]
  · have port := tabGet_foldl_range 48 (fun k => trainedPort ((lanes[k]?).getD 0)) s.ports low
    dsimp only
    rw [port]
    rw [trainedPort_eq]

end

section
variable (h : s.power = .twilightStarting)
include h

theorem exec_startTimeout_twilight :
    exec .startTimeout s = .next { s with power := .hold, reason := 8, trained := false, parts := [], cores := [] } := by
  simp [exec_startTimeout, execStartTimeout, h, State.hold]

theorem exec_twilightStart_failed (step : BitVec 4) (ucie0 : Bool) : exec (.twilightStart false step ucie0) s =
    .next { s with power := .hold, reason := step, trained := ucie0, parts := [], cores := [] } := by
  simp [exec_twilightStart, execTwilightStart, h, State.hold]

theorem exec_twilightStart_trained (step : BitVec 4) :
    ∃ t, exec (.twilightStart true step true) s = .next t ∧ t.power = .twilight ∧ t.trained = true ∧
      (∀ k, k < 48 → tabGet t.ports k = some { DruatPort.down with state := 5 }) ∧
      ∀ k, k < 160 → tabGet t.islands k = if clusterDie k = 0 then some 7 else tabGet s.islands k := by
  refine ⟨{ s with
      power := .twilight, trained := true
      ports := (List.range 48).foldl (fun t k => tabPut t k { DruatPort.down with state := 5 }) s.ports
      islands := (List.range 160).foldl (fun t k => if clusterDie k == 0 then tabPut t k (Island.cluster k).steps else t) s.islands },
    ?_, rfl, rfl, fun k low => ?_, fun k low => ?_⟩
  · simp [exec_twilightStart, execTwilightStart, h]
  · have port := tabGet_foldl_range 48 (fun _ => { DruatPort.down with state := 5 }) s.ports low
    dsimp only
    rw [port]
  · have island := tabGet_foldl_tabPut (List.range 160) (fun k => clusterDie k == 0) (fun k => (Island.cluster k).steps) s.islands k
    dsimp only
    rw [island]
    simp [low, Island.steps, Island.nominal]

end

theorem exec_twilightRetry_untrained (hold : s.power = .hold) (untrained : s.trained = false) :
    exec .twilightRetry s = .next { s with power := .twilightStarting, starts := s.starts + 1 } := by
  simp [exec_twilightRetry, execTwilightRetry, hold, untrained]

theorem State.begin_power (n : BitVec 4) : (s.begin n).power = if n = 3 then .twilightStarting else .starting := by
  simp [State.begin]

/-! Clocks. -/

theorem Island.nominal_eq (i : Island) : i.nominal = 350 + 50 * i.steps := by
  cases i <;> simp [Island.steps, Island.nominal]


section
variable {n : Nat} {i : Island} (alive : s.alive = true) (island : Island.ofNumber n = some i)
include alive island

/-- A step writes the island's number of steps, or takes the island out of the table. -/
theorem exec_powerStep_steps (may : s.mayStep i = true) (up : Bool) {k : Nat}
    (steps : (if up then (tabGet s.islands n).getD 0 - 1 else
      if (tabGet s.islands n).getD 0 < i.steps then (tabGet s.islands n).getD 0 + 1 else (tabGet s.islands n).getD 0) = k) :
    exec (.powerStep n up) s = .next { s with islands := if k == 0 then tabDel s.islands n else tabPut s.islands n k } := by
  simp only [exec_powerStep, execPowerStep, alive, island, may, steps, Bool.not_true, Bool.false_eq_true, if_false]

theorem exec_powerStep_down (may : s.mayStep i = true) (within : (tabGet s.islands n).getD 0 ≤ i.steps) :
    ∃ t, exec (.powerStep n false) s = .next t ∧ t.clockOf n = max 350 (s.clockOf n - 50) ∧
      (∀ m, m ≠ n → t.clockOf m = s.clockOf m) ∧ t = { s with islands := t.islands } := by
  have nominal := i.nominal_eq
  generalize steps : (tabGet s.islands n).getD 0 = k at within
  have some : ((if k < i.steps then k + 1 else k) == 0) = false := by
    have : 0 < i.steps := by cases i <;> simp [Island.steps, Island.nominal]
    rw [beq_eq_false_iff_ne]
    split <;> omega
  have run := exec_powerStep_steps alive island may false (k := if k < i.steps then k + 1 else k) (by rw [steps]; rfl)
  refine ⟨_, run, ?_, fun m other => ?_, rfl⟩
  · simp only [State.clockOf, island, some, Bool.false_eq_true, if_false, tabGet_tabPut, Option.getD_some, steps]
    split <;> omega
  · simp only [State.clockOf, some, Bool.false_eq_true, if_false, tabGet_tabPut_ne _ other]

theorem exec_powerStep_up (may : s.mayStep i = true) {k : Nat} (at_ : tabGet s.islands n = some k) (two : 2 ≤ k) :
    exec (.powerStep n true) s = .next { s with islands := tabPut s.islands n (k - 1) } := by
  have some : (k - 1 == 0) = false := beq_eq_false_iff_ne.mpr (by omega)
  rw [exec_powerStep_steps alive island may true (k := k - 1) (by rw [at_]; rfl), some]
  rfl

theorem exec_powerStep_nominal (may : s.mayStep i = true) (one : (tabGet s.islands n).getD 0 ≤ 1) :
    exec (.powerStep n true) s = .next { s with islands := tabDel s.islands n } := by
  rw [exec_powerStep_steps alive island may true (k := 0) (by rw [if_pos rfl]; omega)]
  rfl

end

theorem exec_powerStep_fixed (alive : s.alive = true) (n : Nat) (up : Bool)
    (fixed : ∀ i, Island.ofNumber n = some i → s.mayStep i = false) : exec (.powerStep n up) s = .next s := by
  cases island : Island.ofNumber n with
  | none => simp [exec_powerStep, execPowerStep, alive, island]
  | some i => simp [exec_powerStep, execPowerStep, alive, island, fixed i island]

end

theorem Island.ofNumber_cluster {n : Nat} (h : n < 160) : Island.ofNumber n = some (.cluster n) := by simp [Island.ofNumber, h]
theorem Island.ofNumber_none {n : Nat} (h : 168 ≤ n) : Island.ofNumber n = none := by
  simp [Island.ofNumber, show ¬n < 160 by omega, show ¬n < 164 by omega, show ¬n < 168 by omega]

/-- Settles O60. -/
theorem startsAndPower : Obligations.StartsAndPower := by
  unfold Obligations.StartsAndPower
  refine ⟨fun s step lanes w ucie0 => ⟨exec_powerOnStart_off, fun h => ?_, fun h => ?_, exec_twilightRetry_untrained, rfl, rfl,
      State.begin_power, fun n => ⟨rfl, rfl, rfl, rfl, rfl⟩⟩,
    fun s n i alive island within may => ?_, fun s n up alive fixed => exec_powerStep_fixed alive n up fixed,
    fun n => ⟨fun h => ⟨Island.ofNumber_cluster h, rfl⟩, Island.ofNumber_none⟩⟩
  · exact ⟨exec_startTimeout_starting h, exec_startComplete_failed h step lanes, exec_startComplete_trained h lanes⟩
  · exact ⟨exec_startTimeout_twilight h, exec_twilightStart_failed h step ucie0, exec_twilightStart_trained h step⟩
  · obtain ⟨t, run, clock, others, rest⟩ := exec_powerStep_down alive island may within
    exact ⟨t, run, clock, others, rest, fun k => exec_powerStep_up alive island may, exec_powerStep_nominal alive island may⟩

end Sys2Proof.Machine
end

section
/-! PROOFS. Flits arrive and are answered (R462 to R470): what a flit in sequence brings its port's other end to do. -/

namespace Sys2Proof.Machine

theorem linesOf_one {pa n : Nat} (some : n ≠ 0) (line : pa / 128 = (pa + n - 1) / 128) : linesOf pa n = [lineOf pa] := by
  simp [linesOf, some, lineOf, ← line]

theorem linesOf_line (base : Nat) : linesOf (base / 128 * 128) 128 = [lineOf (base / 128 * 128)] := linesOf_one (by omega) (by omega)

section
variable {s : State} {port : Nat} {p : DruatPort} {f : Flit} (alive : s.alive = true) (at_ : tabGet s.ports port = some p)
  (active : p.state = 2)
include at_ active

theorem State.askReplay_eq : s.askReplay port = s.setPort port { p with replayAsked := true } := by
  simp only [State.askReplay, at_, beq_iff_eq.mpr active, if_true]

include alive

theorem exec_flitCrcFail_asks : exec (.flitCrcFail port) s = .next (s.setPort port { p with replayAsked := true }) := by
  simp [exec_flitCrcFail, execFlitCrcFail, alive, State.askReplay_eq at_ active]

theorem State.receive_out (body : State → Res State) (off : f.seq ≠ BitVec.ofNat 32 (p.received + 1)) :
    s.receive port f body = .next (s.setPort port { p with replayAsked := true }) := by
  simp only [State.receive, alive, at_, bne_eq_false_iff_eq.mpr active, bne_iff_ne.mpr off, State.askReplay_eq at_ active, Bool.not_true,
    Bool.false_eq_true, if_false, if_true]

/-- A flit in sequence: the count received and what it acknowledges, and then its body. -/
theorem State.receive_ok {body : State → Res State} {u : State} (next : f.seq = BitVec.ofNat 32 (p.received + 1))
    (does : body (s.setPort port { p with received := p.received + 1, replayAsked := false, sent := p.sent.filter fun x => f.ack < x.seq }) =
      .ok u) : s.receive port f body = .next u := by
  simp only [State.receive, alive, at_, bne_eq_false_iff_eq.mpr active, bne_eq_false_iff_eq.mpr next, Bool.not_true, Bool.false_eq_true,
    if_false, does]

end

/-! Device memory that a flit touches: not while its page moves, and once the host has given the lines back. -/

section
variable {s : State} {pa n : Nat} {go : Out}

theorem State.forDevice_free (still : s.moving pa n = false) (back : ∀ l ∈ linesOf pa n, setHas s.hostCopies l = false) :
    s.forDevice pa n go = go := by
  have none : (linesOf pa n).find? (fun l => s.alive && setHas s.hostCopies l) = none :=
    List.find?_eq_none.mpr fun l mem => by simp [back l mem]
  simp only [State.forDevice, still, Bool.false_eq_true, if_false, none]

theorem State.forDevice_snoops (alive : s.alive = true) {l : Nat} (still : s.moving pa n = false) (line : linesOf pa n = [l])
    (copy : setHas s.hostCopies l = true) : s.forDevice pa n go = .next (s.askOutside (.snoop l)) := by
  simp [State.forDevice, still, line, alive, copy]

theorem State.forDevice_line {l : Nat} (still : s.moving pa n = false) (line : linesOf pa n = [l]) (back : setHas s.hostCopies l = false) :
    s.forDevice pa n go = go :=
  State.forDevice_free still (by rw [line]; exact fun k mem => by rw [List.mem_singleton.mp mem]; exact back)

end

/-! A flit by its kind. -/

section
variable {s t : State} {port : Nat} {p : DruatPort} {f : Flit} (alive : s.alive = true) (at_ : tabGet s.ports port = some p)
  (active : p.state = 2) (next : f.seq = BitVec.ofNat 32 (p.received + 1))
  (ht : s.setPort port { p with received := p.received + 1, replayAsked := false, sent := p.sent.filter fun x => f.ack < x.seq } = t)
include alive at_ active next ht

theorem exec_druatLoad_answers {u : State} {bs : List Byte} (hbm : t.region f.addr = .hbm)
    (read : t.readHbm ((portDevice port).atHome (hbmDie (f.addr / 128 * 128))) (f.addr / 128 * 128) 128 = (u, bs)) :
    exec (.druatLoad port f) s = .next (u.send port 2 f.src f.addr
      ((f.bytes.filter fun (o, _) => !u.sectorPoisoned (f.addr / 128 * 128 + o)).map fun (o, _) => (o, (bs[o]?).getD 0)) .load) := by
  refine (exec_druatLoad ..).trans (State.receive_ok alive at_ active next ?_)
  simp only [ht, hbm, beq_self_eq_true, if_true, read]

theorem exec_druatLoadResponse_answers : exec (.druatLoadResponse port f) s = .next { t with
    remote := answerFirst (fun r => r.port == port && r.device == f.src && r.op == .load && r.addr == f.addr &&
      decide (f.bytes.length ≤ r.len)) (f.bytes.map (·.2)) t.remote } :=
  (exec_druatLoadResponse ..).trans (State.receive_ok alive at_ active next (by simp only [ht]))

theorem exec_druatAcknowledge_answers : exec (.druatAcknowledge port f) s = .next { t with
    remote := answerFirst (fun r => r.port == port && r.device == f.src && r.op != .load && r.addr == f.addr)
      (f.bytes.map (·.2)) t.remote } :=
  (exec_druatAcknowledge ..).trans (State.receive_ok alive at_ active next (by simp only [ht]))

theorem exec_druatStore_writes {u : State} (still : s.moving (f.addr / 128 * 128) 128 = false)
    (back : setHas s.hostCopies (lineOf (f.addr / 128 * 128)) = false) (wrote : t.writeFlit port (f.addr / 128 * 128) f.bytes = .ok u) :
    exec (.druatStore port f) s = .next (u.send port 5 f.src f.addr [] .store) := by
  refine (exec_druatStore ..).trans ((State.forDevice_line still (linesOf_line f.addr) back).trans
    (State.receive_ok alive at_ active next ?_))
  simp only [ht, wrote]
  rfl

omit active next ht at_ in
theorem exec_druatStore_snoops (still : s.moving (f.addr / 128 * 128) 128 = false)
    (copy : setHas s.hostCopies (lineOf (f.addr / 128 * 128)) = true) :
    exec (.druatStore port f) s = .next (s.askOutside (.snoop (lineOf (f.addr / 128 * 128)))) :=
  (exec_druatStore ..).trans (State.forDevice_snoops alive still (linesOf_line f.addr) copy)

theorem exec_druatMigrationStream_writes {u : State} (still : s.moving f.addr 224 = false)
    (back : ∀ l ∈ linesOf f.addr 224, setHas s.hostCopies l = false) (wrote : t.writeFlit port f.addr f.bytes = .ok u) :
    exec (.druatMigrationStream port f) s = .next u :=
  (exec_druatMigrationStream ..).trans ((State.forDevice_free still back).trans
    (State.receive_ok alive at_ active next (by simp only [ht, wrote])))

theorem exec_druatCollectiveStream_joins {group : BitVec 16} {rank : Nat} {g : Group} (entry : tabGet t.groups group.toNat = some g) :
    exec (.druatCollectiveStream port f group rank) s = .next ((t.setGroup group.toNat { g with
      streams := tabPut g.streams rank ((tabGet g.streams rank).getD [] ++ f.bytes.map (·.2)) }).collRun group.toNat 0) :=
  (exec_druatCollectiveStream ..).trans (State.receive_ok alive at_ active next (by simp only [ht, entry]))

/-! Reductions: of one word or two, on one line. -/

section
variable {op : AmoOp} {dbl : Bool} {n : Nat} (hn : (if dbl then 8 else 4) = n) (still : s.moving f.addr n = false)
  (back : setHas s.hostCopies (lineOf f.addr) = false) (hbm : t.region f.addr = .hbm) (aligned : f.addr % n = 0)
include hn still back hbm aligned

omit alive at_ active next ht still back hbm in
theorem linesOf_reduction : linesOf f.addr n = [lineOf f.addr] := by
  cases dbl <;> subst hn
  · exact linesOf_one (by decide) (by simp at aligned ⊢; omega)
  · exact linesOf_one (by decide) (by simp at aligned ⊢; omega)

theorem exec_druatReduction_poisoned (poison : t.rangePoisoned f.addr n = true) :
    exec (.druatReduction port f op dbl) s = .next (t.send port 5 f.src f.addr [] .store) := by
  have line := linesOf_reduction hn aligned
  subst hn
  refine (exec_druatReduction ..).trans ((State.forDevice_line still line back).trans (State.receive_ok alive at_ active next ?_))
  simp only [ht, hbm, aligned, beq_self_eq_true, Bool.and_self, if_true, poison]

variable {u : State} (clean : t.rangePoisoned f.addr n = false)
  (phys : (t.recall (lineOf f.addr)).forPhysical (portDevice port) f.addr n = .ok u)
include clean phys

/-- What the reduction leaves, and the value that it replaced. -/
theorem exec_druatReduction_replaces {new : List Byte}
    (made : (if (f.bytes.map (·.2)).length == 2 * n then
        (if (f.bytes.map (·.2)).drop n == Memory.bytes u.mem f.addr n then (f.bytes.map (·.2)).take n else Memory.bytes u.mem f.addr n)
      else natLe n (op.apply dbl (leWord (Memory.bytes u.mem f.addr n)) (leWord (f.bytes.map (·.2)))).toNat) = new) :
    exec (.druatReduction port f op dbl) s = .next ((u.writeHbm (portDevice port) f.addr new).send port 5 f.src f.addr
      ((Memory.bytes u.mem f.addr n).zipIdx.map fun (b, i) => (f.addr % 128 + i, b)) .store) := by
  have line := linesOf_reduction hn aligned
  subst hn
  refine (exec_druatReduction ..).trans ((State.forDevice_line still line back).trans (State.receive_ok alive at_ active next ?_))
  simp only [ht, hbm, aligned, beq_self_eq_true, Bool.and_self, if_true, clean, Bool.false_eq_true, if_false, phys, Res.ok_bind, made, lineCells]

theorem exec_druatReduction_operates (one : (f.bytes.map (·.2)).length = n) :
    exec (.druatReduction port f op dbl) s = .next ((u.writeHbm (portDevice port) f.addr
      (natLe n (op.apply dbl (leWord (Memory.bytes u.mem f.addr n)) (leWord (f.bytes.map (·.2)))).toNat)).send port 5 f.src f.addr
      ((Memory.bytes u.mem f.addr n).zipIdx.map fun (b, i) => (f.addr % 128 + i, b)) .store) := by
  have some : n ≠ 0 := by rw [← hn]; cases dbl <;> decide
  have single : ((f.bytes.map (·.2)).length == 2 * n) = false := beq_eq_false_iff_ne.mpr (by omega)
  exact exec_druatReduction_replaces alive at_ active next ht hn still back hbm aligned clean phys
    (by simp only [single, Bool.false_eq_true, if_false])

theorem exec_druatReduction_swaps (two : (f.bytes.map (·.2)).length = 2 * n) :
    exec (.druatReduction port f op dbl) s = .next ((u.writeHbm (portDevice port) f.addr
      (if (f.bytes.map (·.2)).drop n = Memory.bytes u.mem f.addr n then (f.bytes.map (·.2)).take n
        else Memory.bytes u.mem f.addr n)).send port 5 f.src f.addr
      ((Memory.bytes u.mem f.addr n).zipIdx.map fun (b, i) => (f.addr % 128 + i, b)) .store) :=
  exec_druatReduction_replaces alive at_ active next ht hn still back hbm aligned clean phys (by simp only [beq_iff_eq, two, if_true])

end
end

/-- Settles O58. -/
theorem flitsArrive : Obligations.FlitsArrive := by
  unfold Obligations.FlitsArrive
  intro s port rank p f op dbl group alive at_ active
  refine ⟨exec_flitCrcFail_asks alive at_ active, fun off => ⟨?_, ?_⟩, fun next => ⟨?_, ?_, ⟨?_, ?_⟩, ?_, ?_, ?_, ?_, ?_⟩⟩
  · exact (exec_druatIdle ..).trans (State.receive_out alive at_ active _ off)
  · exact (exec_druatLoad ..).trans (State.receive_out alive at_ active _ off)
  · exact (exec_druatIdle ..).trans (State.receive_ok alive at_ active next rfl)
  · exact fun u bs => exec_druatLoad_answers alive at_ active next rfl
  · exact exec_druatLoadResponse_answers alive at_ active next rfl
  · exact exec_druatAcknowledge_answers alive at_ active next rfl
  · exact fun u => exec_druatStore_writes alive at_ active next rfl
  · exact exec_druatStore_snoops alive
  · exact fun u => exec_druatMigrationStream_writes alive at_ active next rfl
  · refine fun still back hbm aligned => ⟨exec_druatReduction_poisoned alive at_ active next rfl rfl still back hbm aligned,
      fun u clean phys => ⟨exec_druatReduction_operates alive at_ active next rfl rfl still back hbm aligned clean phys,
        exec_druatReduction_swaps alive at_ active next rfl rfl still back hbm aligned clean phys⟩⟩
  · exact fun g => exec_druatCollectiveStream_joins alive at_ active next rfl

end Sys2Proof.Machine
end

section
/-! PROOFS. Ports retrain and fail (R464 to R469), and the wire format of a flit (R462). -/

namespace Sys2Proof.Machine

/-! Replays and retrains. -/

/-- Accesses that a failed port loses: those whose issuer waits fail there, and the others leave the list. -/
theorem filterMap_lost (l : List Remote) (lost : Remote → Bool) :
    (l.filterMap fun r => if lost r then (if r.op.returns then some { r with failed := true } else none) else some r) =
      (l.filter fun r => !(lost r && !r.op.returns)).map fun r => if lost r then { r with failed := true } else r := by
  induction l with
  | nil => rfl
  | cons r l ih =>
    cases out : lost r <;> cases returns : r.op.returns <;> simp [out, returns, ih]

section
variable {s : State} {port : Nat} {p : DruatPort} (alive : s.alive = true) (at_ : tabGet s.ports port = some p)
include alive at_

section
variable {f : Sent} {rest : List Sent} (active : p.state = 2) (oldest : p.sent = f :: rest)
include active oldest

theorem exec_portRetrain_replays (few : f.replays < 7) :
    exec (.portRetrain port) s = .next (s.setPort port { p with sent := { f with replays := f.replays + 1 } :: rest }) := by
  simp only [exec_portRetrain, execPortRetrain, alive, at_, bne_eq_false_iff_eq.mpr active, oldest, if_pos (show f.replays + 1 < 8 by omega),
    Bool.not_true, Bool.false_eq_true, if_false]

theorem exec_portRetrain_retrains (many : 7 ≤ f.replays) :
    exec (.portRetrain port) s = .next { s.setPort port { p with
      state := 3, retrains := p.retrains + 1, sent := { f with replays := 0 } :: rest } with errors := s.errors.set 3 (s.errors[3] + 1) } := by
  simp only [exec_portRetrain, execPortRetrain, alive, at_, bne_eq_false_iff_eq.mpr active, oldest,
    if_neg (show ¬f.replays + 1 < 8 by omega), Bool.not_true, Bool.false_eq_true, if_false, State.retrain]

end

variable (retraining : p.state = 3)
include retraining

theorem exec_retrainComplete_ok (few : p.failedRetrains < 3) :
    exec (.retrainComplete port true) s = .next (s.setPort port { p with state := 2, failedRetrains := 0 }) := by
  have goes : (p.state != 3 || decide (3 ≤ p.failedRetrains)) = false := by
    rw [bne_eq_false_iff_eq.mpr retraining, decide_eq_false (Nat.not_le.mpr few)]; rfl
  simp only [exec_retrainComplete, execRetrainComplete, alive, at_, goes, Bool.not_true, Bool.false_eq_true, if_false, if_true]

theorem exec_retrainComplete_failed (few : p.failedRetrains < 3) :
    exec (.retrainComplete port false) s = .next (s.setPort port { p with failedRetrains := p.failedRetrains + 1 }) := by
  have goes : (p.state != 3 || decide (3 ≤ p.failedRetrains)) = false := by
    rw [bne_eq_false_iff_eq.mpr retraining, decide_eq_false (Nat.not_le.mpr few)]; rfl
  simp only [exec_retrainComplete, execRetrainComplete, alive, at_, goes, Bool.not_true, Bool.false_eq_true, if_false]

theorem exec_portFailed_fails (many : 3 ≤ p.failedRetrains) :
    let lost (r : Remote) : Bool := r.port == port && !r.answered && !r.failed
    let t := { s.setPort port { p with state := 4, sent := [] } with
      remote := (s.remote.filter fun r => !(lost r && !r.op.returns)).map fun r => if lost r then { r with failed := true } else r }
    let u := (s.remote.filter fun r => lost r && !r.op.returns).foldl State.failRemote t
    exec (.portFailed port) s = .next ((if s.portFor = some port then u.failGroups else u).setErr 8) := by
  intro lost t u
  have fails : (p.state != 3 || decide (p.failedRetrains < 3)) = false := by
    rw [bne_eq_false_iff_eq.mpr retraining, decide_eq_false (Nat.not_lt.mpr many)]; rfl
  simp only [exec_portFailed, execPortFailed, alive, at_, fails, Bool.not_true, Bool.false_eq_true, if_false, beq_iff_eq]
  rw [filterMap_lost s.remote lost]

end

/-! An access that its issuer does not wait for. -/

section
variable (s : State) (r : Remote)

/-- What LINK reports of a lost access (R468). -/
def Remote.lost (r : Remote) : Trap :=
  ⟨.link, r.va, 0, if agentSource r.agent = 1 then some r.pos else none,
    if agentSource r.agent = 1 then BitVec.ofNat 8 (64 + r.agent % 1024) else 0xFF, 0xF, agentSource r.agent, false, []⟩

variable {s r}

theorem State.failRemote_at {n : Nat} {c : Core} (found : s.cores.find? (fun (_, c) => (c.find r.task).isSome) = some (n, c)) :
    s.failRemote r = s.raiseAsync n r.task r.lost false := by
  simp only [State.failRemote, found, beq_iff_eq]
  rfl

variable (found : s.cores.find? (fun (_, c) => (c.find r.task).isSome) = none)
include found

theorem State.failRemote_gone (task : r.task ≠ 0) :
    s.failRemote r = s.leaveFault (r.agent / 1024 % 1024) (s.ownerOf r.asid (r.agent / 1024 % 1024)) r.asid r.lost := by
  simp only [State.failRemote, found, beq_iff_eq, if_neg task]
  rfl

theorem State.failRemote_other (task : r.task = 0) :
    s.failRemote r = s.queueFault (s.ownerOf r.asid (r.agent / 1024 % 1024)) (faultRecord r.lost false (decide (agentSource r.agent ≠ 0)) 0
      s.time (s.ownerOf r.asid (r.agent / 1024 % 1024)) 0x3FF r.asid) := by
  have async : (agentSource r.agent != 0) = decide (agentSource r.agent ≠ 0) := by
    rw [Bool.eq_iff_iff]; simp
  simp only [State.failRemote, found, beq_iff_eq, if_pos task, async]
  rfl

end

theorem State.send_eq {s : State} {port kind : Nat} {p : DruatPort} {dest : BitVec 12} {addr : Nat} {bytes : List (Nat × Byte)} {op : RemoteOp}
    (at_ : tabGet s.ports port = some p) : s.send port kind dest addr bytes op = s.setPort port { p with
      nextSeq := p.nextSeq + 1, sent := p.sent ++ [⟨p.nextSeq, kind, s.device.getD 0, dest, addr, bytes, op, 0⟩] } := by
  simp only [State.send, at_, State.setPort]

/-! The wire format. -/

theorem payloadLine_length (cells : List (Nat × Byte)) : (payloadLine cells).length = 224 := by
  have line : (cells.foldl (fun (l : List Byte) (i, b) => l.set i b) (List.replicate 128 (0 : Byte))).length = 128 := by
    rw [foldl_keeps List.length _ (fun l c => by simp)]
    exact List.length_replicate
  simp only [payloadLine, List.length_append, line, natLe_length, List.length_replicate]

/-- A field of a flit: what stands behind what comes before it. -/
theorem drop_take_field {a b c : List Byte} {n m : Nat} (ha : a.length = n) (hb : b.length = m) : ((a ++ (b ++ c)).drop n).take m = b := by
  subst ha hb
  simp

section
variable {p : DruatPort} {f : Sent} (line : f.kind ≠ 6) (data : f.kind ≠ 7)
include line data

theorem Sent.body_eq : f.body = natLe 1 f.kind ++ (natLe 3 (f.source.toNat + f.dest.toNat * 2 ^ 12) ++
    (natLe 4 f.seq ++ (natLe 8 f.addr ++ payloadLine f.bytes))) := by
  simp [Sent.body, line, data]

theorem Sent.body_length : f.body.length = 240 := by
  simp [Sent.body_eq line data, natLe_length, payloadLine_length]

theorem DruatPort.wire_length : (p.wire f).length = 256 := by
  simp [DruatPort.wire, Sent.body_length line data, natLe_length]

theorem DruatPort.wire_kind : (p.wire f)[0]? = some (BitVec.ofNat 8 f.kind) := by
  simp [DruatPort.wire, Sent.body_eq line data, natLe]

theorem DruatPort.wire_devices : leNat (((p.wire f).drop 1).take 3) = f.source.toNat + f.dest.toNat * 2 ^ 12 := by
  have devices := drop_take_field (c := natLe 4 f.seq ++ (natLe 8 f.addr ++ payloadLine f.bytes) ++ natLe 8 (crc64 f.body).toNat ++
    natLe 8 p.received) (natLe_length 1 f.kind) (natLe_length 3 (f.source.toNat + f.dest.toNat * 2 ^ 12))
  have source := f.source.isLt
  have dest := f.dest.isLt
  rw [show p.wire f = natLe 1 f.kind ++ (natLe 3 (f.source.toNat + f.dest.toNat * 2 ^ 12) ++ (natLe 4 f.seq ++ (natLe 8 f.addr ++
    payloadLine f.bytes) ++ natLe 8 (crc64 f.body).toNat ++ natLe 8 p.received)) by
    simp only [DruatPort.wire, Sent.body_eq line data, List.append_assoc], devices, leNat_natLe]
  omega

theorem DruatPort.wire_seq : leNat (((p.wire f).drop 4).take 4) = f.seq % 2 ^ 32 := by
  have before : (natLe 1 f.kind ++ natLe 3 (f.source.toNat + f.dest.toNat * 2 ^ 12)).length = 4 := by simp [natLe_length]
  have seq := drop_take_field (c := natLe 8 f.addr ++ payloadLine f.bytes ++ natLe 8 (crc64 f.body).toNat ++ natLe 8 p.received) before
    (natLe_length 4 f.seq)
  rw [show p.wire f = natLe 1 f.kind ++ natLe 3 (f.source.toNat + f.dest.toNat * 2 ^ 12) ++ (natLe 4 f.seq ++ (natLe 8 f.addr ++
    payloadLine f.bytes ++ natLe 8 (crc64 f.body).toNat ++ natLe 8 p.received)) by
    simp only [DruatPort.wire, Sent.body_eq line data, List.append_assoc], seq, leNat_natLe]
  rfl

theorem DruatPort.wire_addr : leNat (((p.wire f).drop 8).take 8) = f.addr % 2 ^ 64 := by
  have before : (natLe 1 f.kind ++ natLe 3 (f.source.toNat + f.dest.toNat * 2 ^ 12) ++ natLe 4 f.seq).length = 8 := by simp [natLe_length]
  have addr := drop_take_field (c := payloadLine f.bytes ++ natLe 8 (crc64 f.body).toNat ++ natLe 8 p.received) before (natLe_length 8 f.addr)
  rw [show p.wire f = natLe 1 f.kind ++ natLe 3 (f.source.toNat + f.dest.toNat * 2 ^ 12) ++ natLe 4 f.seq ++ (natLe 8 f.addr ++
    (payloadLine f.bytes ++ natLe 8 (crc64 f.body).toNat ++ natLe 8 p.received)) by
    simp only [DruatPort.wire, Sent.body_eq line data, List.append_assoc], addr, leNat_natLe]
  rfl

theorem DruatPort.wire_body : (p.wire f).take 240 = f.body := by
  rw [DruatPort.wire, List.append_assoc]
  exact List.take_left' (Sent.body_length line data)

theorem DruatPort.wire_crc : leWord (((p.wire f).drop 240).take 8) = crc64 ((p.wire f).take 240) := by
  rw [DruatPort.wire_body line data, DruatPort.wire, List.append_assoc, drop_take_field (Sent.body_length line data) (natLe_length ..), leWord,
    leNat_natLe]
  apply BitVec.eq_of_toNat_eq
  have := (crc64 f.body).isLt
  rw [BitVec.toNat_ofNat]
  omega

theorem DruatPort.wire_ack : leNat (((p.wire f).drop 248).take 8) = p.received % 2 ^ 64 := by
  have before : (f.body ++ natLe 8 (crc64 f.body).toNat).length = 248 := by simp [Sent.body_length line data, natLe_length]
  have ack := drop_take_field (c := []) before (natLe_length 8 p.received)
  rw [List.append_nil] at ack
  rw [DruatPort.wire, ack, leNat_natLe]
  rfl

end

/-- Settles O59. -/
theorem portsRetrainAndFail : Obligations.PortsRetrainAndFail := by
  unfold Obligations.PortsRetrainAndFail
  refine ⟨fun s port p alive at_ => ⟨?_, ?_, ?_⟩, fun s r n c => ⟨State.failRemote_at, State.failRemote_gone, State.failRemote_other⟩,
    fun s port kind p dest addr bytes op => State.send_eq, fun p f _ line data => ⟨DruatPort.wire_length line data, DruatPort.wire_kind line data,
      DruatPort.wire_devices line data, DruatPort.wire_seq line data, DruatPort.wire_addr line data, DruatPort.wire_crc line data,
      DruatPort.wire_ack line data⟩⟩
  · exact fun f rest active oldest => ⟨exec_portRetrain_replays alive at_ active oldest, exec_portRetrain_retrains alive at_ active oldest⟩
  · exact fun retraining few => ⟨exec_retrainComplete_ok alive at_ retraining few, exec_retrainComplete_failed alive at_ retraining few⟩
  · exact exec_portFailed_fails alive at_

end Sys2Proof.Machine
end

section
/-! PROOFS. Mailbox commands end with their results (R453 to R457, R460): who may ask, what is read, and what each command answers. -/

namespace Sys2Proof.Machine

/-! A command goes on. -/

section
variable {s : State} {tag : Byte} {c : Command}

theorem Command.notHeld_of (b1 : c ≠ .daybreak true) (b2 : c ≠ .daybreak false) (r1 : c ≠ .reset true) (r2 : c ≠ .reset false) :
    c.notHeld = true := by
  cases c with
  | daybreak b => cases b <;> contradiction
  | reset b => cases b <;> contradiction
  | _ => rfl

theorem State.runCommand_hold (hold : s.power = .hold) (not : c.notHeld = true) : s.runCommand tag c = s.postResult tag 4 := by
  simp [State.runCommand, hold, not]

section
variable (awake : s.power ≠ .hold)
include awake

theorem State.runCommand_args (ready : c.hasArg = false ∨ s.begun c = true) : s.runCommand tag c = s.runArgs tag c := by
  have goes : (!c.hasArg || s.begun c) = true := by rcases ready with h | h <;> simp [h]
  simp [State.runCommand, awake, goes]

variable (arg : c.hasArg = true) (fresh : s.begun c = false)
include arg fresh

theorem State.runCommand_outside (page : s.argOk = false) : s.runCommand tag c = s.postResult tag 2 := by
  simp [State.runCommand, awake, arg, fresh, page]

theorem State.runCommand_asks (page : s.argOk = true) {e : Exc} (line : s.hostLine (lineOf s.mbArg.toNat) = .error e) :
    s.runCommand tag c = s.askOutside e := by
  simp [State.runCommand, awake, arg, fresh, page, line]

theorem State.runCommand_reads (page : s.argOk = true) {bs : List Byte} (line : s.hostLine (lineOf s.mbArg.toNat) = .ok bs) :
    s.runCommand tag c = (s.stampLoad mailAgent (lineOf s.mbArg.toNat)).runArgs tag c := by
  simp [State.runCommand, awake, arg, fresh, page, line]

end
end

/-! Tables (R455). -/

theorem and_not_eq_zero_iff (a m : Word) : a &&& ~~~m = 0 ↔ a &&& m = a := by
  constructor
  · intro h
    ext i hi
    have bit := congrArg (·.getLsbD i) h
    simp [hi] at bit ⊢
    exact bit
  · intro h
    ext i hi
    have bit := congrArg (·.getLsbD i) h
    simp [hi] at bit ⊢
    exact bit

section
variable {s : State} {tag : Byte} {a b : Word}

theorem State.setTables_ok (ha : a &&& 0xFFFFFFFF0000 = a) (hb : b &&& 0xFFFFFFFFFFE0 = b) (empty : s.parts = []) :
    s.runArgs tag (.setTables a b) = { s with atBase := a, keyBase := b }.postResult tag 0 := by
  have ha := (and_not_eq_zero_iff ..).mpr ha
  have hb := (and_not_eq_zero_iff ..).mpr hb
  simp only [State.runArgs, ha, hb, empty]
  rfl

theorem State.setTables_misaligned (h : a &&& 0xFFFFFFFF0000 ≠ a ∨ b &&& 0xFFFFFFFFFFE0 ≠ b) :
    s.runArgs tag (.setTables a b) = s.postResult tag 2 := by
  have bad : (a &&& ~~~0xFFFFFFFF0000 != 0 || b &&& ~~~0xFFFFFFFFFFE0 != 0) = true := by
    rw [Bool.or_eq_true, bne_iff_ne, bne_iff_ne]
    exact h.imp (fun h => h ∘ (and_not_eq_zero_iff ..).mp) (fun h => h ∘ (and_not_eq_zero_iff ..).mp)
  simp only [State.runArgs, bad, if_true]

theorem State.setTables_late (ha : a &&& 0xFFFFFFFF0000 = a) (hb : b &&& 0xFFFFFFFFFFE0 = b) (some : s.parts ≠ []) :
    s.runArgs tag (.setTables a b) = s.postResult tag 3 := by
  have ha := (and_not_eq_zero_iff ..).mpr ha
  have hb := (and_not_eq_zero_iff ..).mpr hb
  have late : (!s.parts.isEmpty) = true := by simpa using some
  simp only [State.runArgs, ha, hb, late, if_true]
  rfl

end

/-! Partitions. -/

section
variable {s : State} {tag : Byte} {args : PartArgs}

theorem State.partCreate_twilight (twilight : s.power = .twilight) (some : s.parts ≠ []) :
    s.runArgs tag (.partCreate args) = s.postResult tag 4 := by
  simp [State.runArgs, twilight, some]

section
variable (may : s.power ≠ .twilight ∨ s.parts = [])
include may

omit args in
theorem State.mayCreate : (s.power == .twilight && !s.parts.isEmpty) = false := by
  rcases may with h | h <;> simp [h]

theorem State.partCreate_badArgs (bad : s.partArgsOk args = false) : s.runArgs tag (.partCreate args) = s.postResult tag 2 := by
  simp only [State.runArgs, State.mayCreate may, bad, Bool.false_eq_true, if_false, Bool.not_false, if_true]

variable {u : State} {e : Option Word} (good : s.partArgsOk args = true) (word : s.asidWord mailAgent args.supAsid 0 = .ok (u, e))
include good word

theorem State.partCreate_dead (dead : liveEntry e args.number = false) : s.runArgs tag (.partCreate args) = u.postResult tag 2 := by
  simp only [State.runArgs, State.mayCreate may, good, word, dead, Bool.false_eq_true, if_false, Bool.not_false, Bool.not_true, if_true]

variable (live : liveEntry e args.number = true)
include live

theorem State.partCreate_busy (busy : u.part args.number ≠ none ∨ 16 ≤ u.served (clusterDie (16 * geomY args.geom + geomX args.geom)) ∨
    ∃ k ∈ geomClusters args.geom, k ∈ u.heldClusters) : s.runArgs tag (.partCreate args) = u.postResult tag 3 := by
  have taken : ((u.part args.number).isSome || decide (16 ≤ u.served (clusterDie (16 * geomY args.geom + geomX args.geom))) ||
      (geomClusters args.geom).any (u.heldClusters.contains ·)) = true := by
    simpa [Option.isSome_iff_ne_none, or_assoc] using busy
  simp only [State.runArgs, State.mayCreate may, good, word, live, taken, Bool.false_eq_true, if_false, Bool.not_true, if_true]

variable (free : ¬(u.part args.number ≠ none ∨ 16 ≤ u.served (clusterDie (16 * geomY args.geom + geomX args.geom)) ∨
    ∃ k ∈ geomClusters args.geom, k ∈ u.heldClusters))
include free

omit may good word live in
theorem State.partFree : ((u.part args.number).isSome || decide (16 ≤ u.served (clusterDie (16 * geomY args.geom + geomX args.geom))) ||
    (geomClusters args.geom).any (u.heldClusters.contains ·)) = false := by
  rw [Bool.eq_false_iff]
  exact fun h => free (by simpa [Option.isSome_iff_ne_none, or_assoc] using h)

theorem State.partCreate_noClaim {t : State}
    (claim : u.supClaim (clusterDie (16 * geomY args.geom + geomX args.geom)) args.supAsid args.supCode = .ok (t, none)) :
    s.runArgs tag (.partCreate args) = t.postResult tag 2 := by
  simp only [State.runArgs, State.mayCreate may, good, word, live, State.partFree free, claim, Bool.false_eq_true, if_false, Bool.not_true]

theorem State.partCreate_makes {t : State} {cols spad : Nat}
    (claim : u.supClaim (clusterDie (16 * geomY args.geom + geomX args.geom)) args.supAsid args.supCode = .ok (t, some (cols, spad))) :
    s.runArgs tag (.partCreate args) = (t.createPart args cols spad).postResult tag 0 := by
  simp only [State.runArgs, State.mayCreate may, good, word, live, State.partFree free, claim, Bool.false_eq_true, if_false, Bool.not_true]

end
end

section
variable {s : State} {tag : Byte} {p : Nat} {q : Partition}

theorem State.partDestroy_none (part : s.part p = none) : s.runArgs tag (.partDestroy p) = s.postResult tag 2 := by
  simp only [State.runArgs, part]

theorem State.partDestroy_busy (part : s.part p = some q) (busy : s.anyTask q = true ∨ q.head ≠ q.tail) :
    s.runArgs tag (.partDestroy p) = s.postResult tag 3 := by
  have held : (s.anyTask q || q.head != q.tail) = true := by rwa [Bool.or_eq_true, bne_iff_ne]
  simp only [State.runArgs, part, held, if_true]

theorem State.partDestroy_idle (part : s.part p = some q) (idle : s.anyTask q = false) (drained : q.head = q.tail) :
    s.runArgs tag (.partDestroy p) = (s.destroyPart p q).postResult tag 0 := by
  have free : (s.anyTask q || q.head != q.tail) = false := by rw [idle, bne_eq_false_iff_eq.mpr drained]; rfl
  simp only [State.runArgs, part, free, Bool.false_eq_true, if_false]

end

/-! ASID_SYNC. -/

section
variable {s u : State} {tag : Byte} {asid : BitVec 13}

/-- The invalidation of an ASID_SYNC that has begun. -/
def State.syncBegun (u : State) (tag : Byte) (asid : BitVec 13) : State :=
  { u.markNodes 0 (BitVec.ofNat 64 (2 + asid.toNat * 8)) with mbPending := some (tag, .asidSync asid true) }

variable (roots : s.applyRoots 0 (BitVec.ofNat 64 (2 + asid.toNat * 8)) = .ok u)
include roots

theorem State.asidSync_begins : s.runArgs tag (.asidSync asid false) =
    if (u.syncBegun tag asid).invDone 0 (BitVec.ofNat 64 (2 + asid.toNat * 8)) then
      (((u.syncBegun tag asid).invalidate 0 (BitVec.ofNat 64 (2 + asid.toNat * 8)))).postResult tag 0
    else u.syncBegun tag asid := by
  have started : s.startInv 0 (syncScope asid) = .ok (u.markNodes 0 (syncScope asid)) := by
    simp only [State.startInv, syncScope, roots, Res.ok_bind]
  simp only [State.runArgs, State.syncAsid, started, Bool.false_eq_true, if_false]
  rfl

theorem State.asidSync_ends (nodes : (u.syncBegun tag asid).nodesDue 0 (BitVec.ofNat 64 (2 + asid.toNat * 8)) = false)
    (remote : (u.syncBegun tag asid).remoteDue 0 (BitVec.ofNat 64 (2 + asid.toNat * 8)) = false) :
    s.runArgs tag (.asidSync asid false) = (((u.syncBegun tag asid).dropHeld 0 (BitVec.ofNat 64 (2 + asid.toNat * 8))).quietRetries 0
      (BitVec.ofNat 64 (2 + asid.toNat * 8))).postResult tag 0 := by
  have done : (u.syncBegun tag asid).invDone 0 (BitVec.ofNat 64 (2 + asid.toNat * 8)) = true := by rw [State.invDone, nodes, remote]; rfl
  rw [State.asidSync_begins roots, if_pos done, State.invalidate]

theorem State.asidSync_waits (due : (u.syncBegun tag asid).nodesDue 0 (BitVec.ofNat 64 (2 + asid.toNat * 8)) = true ∨
    (u.syncBegun tag asid).remoteDue 0 (BitVec.ofNat 64 (2 + asid.toNat * 8)) = true) :
    s.runArgs tag (.asidSync asid false) = u.syncBegun tag asid := by
  have waits : (u.syncBegun tag asid).invDone 0 (BitVec.ofNat 64 (2 + asid.toNat * 8)) = false := by
    rcases due with due | due <;> simp [State.invDone, due]
  rw [State.asidSync_begins roots, if_neg (by rw [waits]; exact Bool.false_ne_true)]

end

/-! Format ranges, apertures and groups. -/

section
variable {s : State} {tag : Byte} {n p : Nat}

theorem State.frrOwner_outside (outside : 64 ≤ n ∨ 64 ≤ p) : s.runArgs tag (.frrOwner n p) = s.postResult tag 2 := by
  have bad : (decide (64 ≤ n) || decide (64 ≤ p)) = true := by simpa using outside
  simp only [State.runArgs, bad, if_true]

section
variable (hn : n < 64) (hp : p < 64)
include hn hp

omit s tag in
theorem frrOwner_within : (decide (64 ≤ n) || decide (64 ≤ p)) = false := by
  rw [decide_eq_false (Nat.not_le.mpr hn), decide_eq_false (Nat.not_le.mpr hp)]; rfl

theorem State.frrOwner_enabled (en : (s.range n).en = true) : s.runArgs tag (.frrOwner n p) = s.postResult tag 3 := by
  simp only [State.runArgs, frrOwner_within hn hp, en, Bool.false_eq_true, if_false, if_true]

theorem State.frrOwner_sets (off : (s.range n).en = false) : s.runArgs tag (.frrOwner n p) = (s.setRange n { s.range n with
    ctl := ((s.range n).ctl &&& ~~~0x03F0000000000000) ||| BitVec.ofNat 64 (p * 2 ^ 52) }).postResult tag 0 := by
  simp only [State.runArgs, frrOwner_within hn hp, off, Bool.false_eq_true, if_false]

end

theorem State.numbered_device : s.numbered.device ≠ none := by
  cases device : s.device <;> simp [State.numbered, device]

theorem State.numbered_set (some : s.device ≠ none) : s.numbered = s := by
  simp [State.numbered, Option.isSome_iff_ne_none.mpr some]

theorem State.numbered_apertures : s.numbered.apertures = s.apertures := by
  cases device : s.device <;> simp [State.numbered, device]

theorem State.aperture_twilight {d : BitVec 12} {en : Bool} (twilight : s.power = .twilight) :
    s.runArgs tag (.aperture n d en) = s.postResult tag 4 := by
  simp [State.runArgs, twilight]

theorem State.groupReg_twilight {group : BitVec 16} {ms : List Member} (twilight : s.power = .twilight) :
    s.runArgs tag (.groupReg group ms) = s.postResult tag 4 := by
  simp [State.runArgs, twilight]

section
variable (serves : s.power ≠ .twilight)
include serves

theorem State.aperture_sets {d : BitVec 12} {en : Bool} (one : 1 ≤ n) (fifteen : n ≤ 15) : s.runArgs tag (.aperture n d en) =
    { s.numbered with apertures := tabPut s.numbered.apertures n ⟨d, en⟩ }.postResult tag 0 := by
  have within : (n == 0 || decide (16 ≤ n)) = false := by
    rw [beq_eq_false_iff_ne.mpr (by omega), decide_eq_false (by omega)]; rfl
  simp only [State.runArgs, beq_eq_false_iff_ne.mpr serves, within, Bool.false_eq_true, if_false, State.numbered_apertures]

theorem State.aperture_outside {d : BitVec 12} {en : Bool} (outside : n = 0 ∨ 16 ≤ n) :
    s.runArgs tag (.aperture n d en) = s.postResult tag 2 := by
  have bad : (n == 0 || decide (16 ≤ n)) = true := by simpa using outside
  simp only [State.runArgs, beq_eq_false_iff_ne.mpr serves, bad, Bool.false_eq_true, if_false, if_true]

section
variable {group : BitVec 16} {ms : List Member} (two : 2 ≤ ms.length) (many : ms.length ≤ 1024)
  (members : ∀ m ∈ ms, m.part < 64 ∧ m.core < 640)
include two many members

omit serves s tag in
theorem groupReg_within : (decide (ms.length < 2) || decide (1024 < ms.length) ||
    ms.any fun m => decide (64 ≤ m.part) || decide (Config.cores ≤ m.core)) = false := by
  have each : (ms.any fun m => decide (64 ≤ m.part) || decide (Config.cores ≤ m.core)) = false := by
    rw [List.any_eq_false]
    intro m mem
    obtain ⟨part, core⟩ := members m mem
    simp [Config.cores, Nat.not_le.mpr part, Nat.not_le.mpr core]
  rw [decide_eq_false (Nat.not_lt.mpr two), decide_eq_false (Nat.not_lt.mpr many), each]
  rfl

theorem State.groupReg_registers (idle : s.groupBusy group.toNat = false) : s.runArgs tag (.groupReg group ms) =
    (s.numbered.setGroup group.toNat ⟨ms, [], [], [], []⟩).postResult tag 0 := by
  simp only [State.runArgs, beq_eq_false_iff_ne.mpr serves, groupReg_within two many members, idle, Bool.false_eq_true, if_false,
    State.registerGroup]

theorem State.groupReg_busy (busy : s.groupBusy group.toNat = true) : s.runArgs tag (.groupReg group ms) = s.postResult tag 3 := by
  simp only [State.runArgs, beq_eq_false_iff_ne.mpr serves, groupReg_within two many members, busy, Bool.false_eq_true, if_false, if_true]

end
end
end

/-! CLUSTER_MOVE. -/

section
variable {s : State} {tag : Byte} {p l c : Nat} {q : Partition}

theorem State.clusterMove_none (part : s.part p = none) : s.runArgs tag (.clusterMove p l c) = s.postResult tag 2 := by
  simp only [State.runArgs, State.hostMove, part]

section
variable (part : s.part p = some q)
include part

theorem State.clusterMove_begins (free : q.resize = none) (goes : s.moveRefused q l c = none) :
    s.runArgs tag (.clusterMove p l c) = s.setPart p { q with resize := some (.move l c true) } := by
  simp only [State.runArgs, State.hostMove, part, free, goes]

theorem State.clusterMove_refused (free : q.resize = none) {r : Nat} (refused : s.moveRefused q l c = some r) :
    s.runArgs tag (.clusterMove p l c) =
      (s.setPart p { q with rszSt := rszDone q.rszSt r }).postResult tag (if r = 4 then 3 else 2) := by
  simp only [State.runArgs, State.hostMove, part, free, refused, beq_iff_eq]

theorem State.clusterMove_done {k from' d : Nat} (moves : q.resize = some (.move k d true)) (leaves : q.physical k = some from')
    (vacant : ((clusterCores from').all fun n => (s.core n).vacant) = true) : s.runArgs tag (.clusterMove p l c) =
      ((s.zeroCluster from').setPart p { q with cit := tabPut q.cit k d, rszSt := rszDone q.rszSt 0, resize := none }).postResult tag 0 := by
  simp only [State.runArgs, State.hostMove, part, moves, leaves, vacant, if_true, State.moveCluster]

end
end

/-! DAYBREAK. -/

section
variable {s : State} {tag : Byte}

theorem State.daybreak_outside (page : s.argOk = false) : s.runArgs tag (.daybreak false) = s.postResult tag 2 := by
  simp only [State.runArgs, State.runDaybreak, page, Bool.not_false, if_true]

variable (page : s.argOk = true)
include page

theorem State.daybreak_begins : s.runArgs tag (.daybreak false) =
    let t := { writeLines mailAgent 32 s s.mbArg.toNat { s with daybreaks := s.daybreaks + 1 }.summary with
      mbPending := some (tag, .daybreak true) }
    if t.performed mailAgent .sys then { t with daybreaks := t.daybreaks + 1 }.postResult tag 0 else t := by
  simp only [State.runArgs, State.runDaybreak, page, Bool.not_true, Bool.false_eq_true, if_false]

theorem State.daybreak_waits (busy : s.performed mailAgent .sys = false) : s.runArgs tag (.daybreak true) = s := by
  simp only [State.runArgs, State.runDaybreak, page, Bool.not_true, Bool.false_eq_true, if_false, if_true, busy]

theorem State.daybreak_ends (quiet : s.performed mailAgent .sys = true) :
    s.runArgs tag (.daybreak true) = { s with daybreaks := s.daybreaks + 1 }.postResult tag 0 := by
  simp only [State.runArgs, State.runDaybreak, page, Bool.not_true, Bool.false_eq_true, if_false, if_true, quiet]

end

/-- Settles O57. -/
theorem mailboxCommandsEnd : Obligations.MailboxCommandsEnd := by
  unfold Obligations.MailboxCommandsEnd
  refine ⟨fun s tag c => ⟨?_, ?_, State.runCommand_args⟩, ?_⟩
  · exact fun hold b1 b2 r1 r2 => State.runCommand_hold hold (Command.notHeld_of b1 b2 r1 r2)
  · exact fun awake arg fresh => ⟨State.runCommand_outside awake arg fresh, fun page e => State.runCommand_asks awake arg fresh page,
      fun page bs => State.runCommand_reads awake arg fresh page⟩
  intro s tag code p n a b d en key group ms q clear asid args l c
  refine ⟨rfl, rfl, rfl, State.setTables_ok, State.setTables_misaligned, State.setTables_late, ⟨?_, State.partCreate_twilight⟩,
    State.partDestroy_none, State.partDestroy_busy, State.partDestroy_idle,
    fun u roots => ⟨State.asidSync_ends roots, State.asidSync_waits roots⟩,
    State.frrOwner_enabled, State.frrOwner_sets, State.frrOwner_outside, ?_, fun serves => State.aperture_sets serves,
    fun serves => State.aperture_outside serves, ?_,
    State.numbered_set, State.numbered_device, State.clusterMove_none, ?_,
    fun k from' part => State.clusterMove_done part, State.daybreak_outside,
    ?_,
    State.daybreak_waits, State.daybreak_ends⟩
  · exact fun may => ⟨State.partCreate_badArgs may, fun u e good word => ⟨State.partCreate_dead may good word,
      State.partCreate_busy may good word, fun t live free => State.partCreate_noClaim may good word live free,
      fun t cols spad live free => State.partCreate_makes may good word live free⟩⟩
  · exact fun twilight => ⟨State.aperture_twilight twilight, State.groupReg_twilight twilight⟩
  · exact fun serves two many members => ⟨State.groupReg_registers serves two many members, State.groupReg_busy serves two many members⟩
  · exact fun part free => ⟨State.clusterMove_begins part free, fun r => State.clusterMove_refused part free⟩
  · intro page t
    have begins := State.daybreak_begins (tag := tag) page
    exact ⟨fun busy => begins.trans (if_neg (by rw [busy]; exact Bool.false_ne_true)), fun quiet => begins.trans (if_pos quiet)⟩

end Sys2Proof.Machine
end

section
/-! PROOFS. Fabric elements fire (R272 to R285): every operation fires in one way, and what each makes of its sources. -/

namespace Sys2Proof.Machine

/-- An element that stalls counts its stall down, and one that does not fires the word that its pool chooses. -/
theorem firesAs_of_fire {op : ElemOp} {i : Nat → Nat → Instr} (run : ∀ c e s, exec (i c e) s = fire op c e s) : firesAs op i := by
  intro s c e x f el fabric elem goes
  refine ⟨fun stalls => ?_, fun w free chosen named => ?_⟩
  · have some : 0 < el.stall := Nat.pos_of_ne_zero stalls
    refine (run c e s).trans (siteStep_cycled fabric ?_)
    simp only [elem, goes, Bool.false_eq_true, if_false, if_pos some, Fabric.cycle]
  · have none : ¬0 < el.stall := by omega
    refine (run c e s).trans (siteStep_cycled fabric ?_)
    simp only [elem, goes, Bool.false_eq_true, if_false, if_neg none, chosen, beq_iff_eq.mpr named, if_true, Fabric.cycle]

/-! Integer operations (R280, R281). -/

section
variable {w : Nat} (a b : BitVec w)

theorem bits_add_eq_ofNat : a + b = BitVec.ofNat w (a.toNat + b.toNat) := by
  rw [BitVec.ofNat_add, BitVec.ofNat_toNat, BitVec.ofNat_toNat, BitVec.setWidth_eq, BitVec.setWidth_eq]
theorem bits_mul_eq_ofNat : a * b = BitVec.ofNat w (a.toNat * b.toNat) := by
  rw [BitVec.ofNat_mul, BitVec.ofNat_toNat, BitVec.ofNat_toNat, BitVec.setWidth_eq, BitVec.setWidth_eq]
theorem sub_eq_ofInt_toInt : a - b = BitVec.ofInt w (a.toInt - b.toInt) :=
  BitVec.eq_of_toInt_eq (by rw [BitVec.toInt_sub, BitVec.toInt_ofInt])
theorem bits_shiftLeft_eq_ofNat (n : Nat) : a <<< n = BitVec.ofNat w (a.toNat * 2 ^ n) := by
  apply BitVec.eq_of_toNat_eq; simp [Nat.shiftLeft_eq]
theorem ushiftRight_eq_ofNat_div (n : Nat) : a >>> n = BitVec.ofNat w (a.toNat / 2 ^ n) := by
  rw [← Nat.shiftRight_eq_div_pow, ← BitVec.toNat_ushiftRight, BitVec.ofNat_toNat, BitVec.setWidth_eq]
theorem sshiftRight_eq_ofInt_div (n : Nat) : a.sshiftRight n = BitVec.ofInt w (a.toInt / 2 ^ n) := by
  rw [BitVec.sshiftRight, Int.shiftRight_eq_div_pow]; norm_cast

theorem signedMin_eq : (if b.slt a then b else a) = BitVec.ofInt w (min a.toInt b.toInt) := by
  simp only [BitVec.slt_eq_decide, decide_eq_true_eq]
  split
  next h => rw [min_eq_right h.le, BitVec.ofInt_toInt]
  next h => rw [min_eq_left (not_lt.mp h), BitVec.ofInt_toInt]
theorem signedMax_eq : (if a.slt b then b else a) = BitVec.ofInt w (max a.toInt b.toInt) := by
  simp only [BitVec.slt_eq_decide, decide_eq_true_eq]
  split
  next h => rw [max_eq_right h.le, BitVec.ofInt_toInt]
  next h => rw [max_eq_left (not_lt.mp h), BitVec.ofInt_toInt]

end

/-! Lanes (R284). -/

section
variable {n m : Nat} (a b : BitVec n)

theorem extract_add_eq (lo : Nat) : a.extractLsb' lo m + b.extractLsb' lo m = BitVec.ofNat m (a.toNat / 2 ^ lo + b.toNat / 2 ^ lo) := by
  apply BitVec.eq_of_toNat_eq
  simp [BitVec.extractLsb'_toNat, Nat.shiftRight_eq_div_pow]
theorem extract_mul_eq (lo : Nat) : a.extractLsb' lo m * b.extractLsb' lo m = BitVec.ofNat m (a.toNat / 2 ^ lo * (b.toNat / 2 ^ lo)) := by
  apply BitVec.eq_of_toNat_eq
  simp [BitVec.extractLsb'_toNat, Nat.shiftRight_eq_div_pow, Nat.mul_mod]

end

theorem getLsbD_append_low {n m : Nat} (x : BitVec n) (y : BitVec m) {i : Nat} (h : i < m) : (x ++ y).getLsbD i = y.getLsbD i := by
  simp [BitVec.getLsbD_append, h]
theorem getLsbD_append_high {n m : Nat} (x : BitVec n) (y : BitVec m) (i : Nat) : (x ++ y).getLsbD (m + i) = x.getLsbD i := by
  simp [BitVec.getLsbD_append]

section
variable (g : BitVec 16 → BitVec 16 → BitVec 16) (a b : BitVec 32)

theorem laneInt16_low {i : Nat} (h : i < 16) : (laneInt16 g a b).getLsbD i = (g (a.extractLsb' 0 16) (b.extractLsb' 0 16)).getLsbD i :=
  getLsbD_append_low _ _ h
theorem laneInt16_high (i : Nat) : (laneInt16 g a b).getLsbD (16 + i) = (g (a.extractLsb' 16 16) (b.extractLsb' 16 16)).getLsbD i :=
  getLsbD_append_high _ _ i

end

theorem laneInt8_lane (g : BitVec 8 → BitVec 8 → BitVec 8) (a b : BitVec 32) {i k : Nat} (hi : i < 8) (hk : k < 4) :
    (laneInt8 g a b).getLsbD (8 * k + i) = (g (a.extractLsb' (8 * k) 8) (b.extractLsb' (8 * k) 8)).getLsbD i := by
  obtain rfl | rfl | rfl | rfl : k = 0 ∨ k = 1 ∨ k = 2 ∨ k = 3 := by omega
  · rw [Nat.mul_zero, Nat.zero_add]
    exact getLsbD_append_low _ _ hi
  · exact (getLsbD_append_high _ _ i).trans (getLsbD_append_low _ _ hi)
  · rw [show 8 * 2 + i = 8 + (8 + i) by omega]
    exact (getLsbD_append_high _ _ _).trans ((getLsbD_append_high _ _ i).trans (getLsbD_append_low _ _ hi))
  · rw [show 8 * 3 + i = 8 + (8 + (8 + i)) by omega]
    exact (getLsbD_append_high _ _ _).trans ((getLsbD_append_high _ _ _).trans (getLsbD_append_high _ _ i))

/-! What the operations make of their sources. -/

theorem elemEval_integer (a b x : BitVec 32) (f0 : Bool) : let r := fun op => elemEval op a b x f0
    r .mov = a ∧ r .emit = a ∧ r .deq = 0 ∧
    r .iadd = BitVec.ofNat 32 (a.toNat + b.toNat) ∧ r .isub = BitVec.ofInt 32 (a.toInt - b.toInt) ∧
    r .imul = BitVec.ofNat 32 (a.toNat * b.toNat) ∧ r .imad = BitVec.ofNat 32 (a.toNat * b.toNat + x.toNat) ∧
    (∀ i, (r .iand).getLsbD i = (a.getLsbD i && b.getLsbD i) ∧ (r .ior).getLsbD i = (a.getLsbD i || b.getLsbD i) ∧
      (r .ixor).getLsbD i = (a.getLsbD i ^^ b.getLsbD i)) ∧
    r .ishl = BitVec.ofNat 32 (a.toNat * 2 ^ (b.toNat % 32)) ∧ r .ishr = BitVec.ofNat 32 (a.toNat / 2 ^ (b.toNat % 32)) ∧
    r .isra = BitVec.ofInt 32 (a.toInt / 2 ^ (b.toNat % 32)) ∧
    r .imin = BitVec.ofInt 32 (min a.toInt b.toInt) ∧ r .imax = BitVec.ofInt 32 (max a.toInt b.toInt) ∧
    r .icmp = (if a.toInt < b.toInt then 0xFFFFFFFF else if a = b then 0 else 1) ∧
    r .cmpc = (if a.toNat < b.toNat then 0xFFFFFFFF else if a = b then 0 else 1) ∧
    r .sel = (if f0 then a else b) := by
  refine ⟨rfl, rfl, rfl, bits_add_eq_ofNat a b, sub_eq_ofInt_toInt a b, bits_mul_eq_ofNat a b, ?_, fun i => ⟨?_, ?_, ?_⟩, bits_shiftLeft_eq_ofNat a _,
    ushiftRight_eq_ofNat_div a _, sshiftRight_eq_ofInt_div a _, signedMin_eq a b, signedMax_eq a b, ?_, ?_, rfl⟩
  · show a * b + x = _
    rw [BitVec.ofNat_add, ← bits_mul_eq_ofNat, BitVec.ofNat_toNat, BitVec.setWidth_eq]
  · exact BitVec.getLsbD_and
  · exact BitVec.getLsbD_or
  · exact BitVec.getLsbD_xor
  · simp [elemEval, threeWay, BitVec.slt_eq_decide]
  · simp [elemEval, threeWay, BitVec.ult_eq_decide]

theorem elemEval_float (a b x : BitVec 32) (f0 : Bool) : let r := fun op => elemEval op a b x f0
    r .fadd = f32 ((F32.val a).add (F32.val b)) ∧ r .fmul = f32 ((F32.val a).mul (F32.val b)) ∧
    r .ffma = f32 (((F32.val a).mul (F32.val b)).add (F32.val x)) ∧
    ((F32.val a).isNan = true ∨ (F32.val b).isNan = true → r .fcmp = 2) := by
  refine ⟨rfl, rfl, rfl, fun nan => ?_⟩
  have either : ((F32.val a).isNan || (F32.val b).isNan) = true := by rwa [Bool.or_eq_true]
  exact if_pos either

theorem elemEval_lanes16 (a b x : BitVec 32) (f0 : Bool) {i : Nat} (hi : i < 16) : let r := fun op => elemEval op a b x f0
    (r .vaddS16).getLsbD i = (BitVec.ofNat 16 (a.toNat + b.toNat)).getLsbD i ∧
      (r .vaddS16).getLsbD (16 + i) = (BitVec.ofNat 16 (a.toNat / 2 ^ 16 + b.toNat / 2 ^ 16)).getLsbD i ∧
      (r .vmulS16).getLsbD i = (BitVec.ofNat 16 (a.toNat * b.toNat)).getLsbD i ∧
      (r .vmulS16).getLsbD (16 + i) = (BitVec.ofNat 16 (a.toNat / 2 ^ 16 * (b.toNat / 2 ^ 16))).getLsbD i := by
  intro r
  have sum := laneInt16_low (· + ·) a b hi
  have product := laneInt16_low (· * ·) a b hi
  simp only [extract_add_eq, extract_mul_eq, Nat.pow_zero, Nat.div_one] at sum product
  refine ⟨sum, (laneInt16_high (· + ·) a b i).trans ?_, product, (laneInt16_high (· * ·) a b i).trans ?_⟩
  · rw [extract_add_eq]
  · rw [extract_mul_eq]

theorem elemEval_lanes8 (a b x : BitVec 32) (f0 : Bool) {i k : Nat} (hi : i < 8) (hk : k < 4) : let r := fun op => elemEval op a b x f0
    (r .vaddS8).getLsbD (8 * k + i) = (BitVec.ofNat 8 (a.toNat / 2 ^ (8 * k) + b.toNat / 2 ^ (8 * k))).getLsbD i ∧
      (r .vmulS8).getLsbD (8 * k + i) = (BitVec.ofNat 8 (a.toNat / 2 ^ (8 * k) * (b.toNat / 2 ^ (8 * k)))).getLsbD i := by
  refine ⟨(laneInt8_lane (· + ·) a b hi hk).trans ?_, (laneInt8_lane (· * ·) a b hi hk).trans ?_⟩
  · rw [extract_add_eq]
  · rw [extract_mul_eq]

/-- Settles O39. -/
theorem fabricElementsFire : Obligations.FabricElementsFire := by
  unfold Obligations.FabricElementsFire
  refine ⟨⟨?_, ?_, ?_, ?_, ?_, ?_, ?_, ?_, ?_, ?_, ?_, ?_, ?_, ?_, ?_, ?_, ?_, ?_, elemEval_integer⟩,
    ⟨?_, ?_, ?_, ?_, ?_, ?_, ?_, ?_, ?_, ?_, ?_, ?_, ?_, ?_, ?_, ?_, ?_, ?_, ?_, ?_, ?_, ?_, ?_, ?_, ?_, ?_, ?_, ?_, ?_, ?_, ?_, ?_, ?_,
      fun a b x f0 => ?_⟩⟩
  case refine_52 =>
    obtain ⟨add, mul, fma, cmp⟩ := elemEval_float a b x f0
    exact ⟨add, mul, fma, cmp, fun i => elemEval_lanes16 a b x f0, fun i k => elemEval_lanes8 a b x f0⟩
  all_goals exact firesAs_of_fire fun _ _ _ => rfl

end Sys2Proof.Machine
end

section
/-! PROOFS. Chains and sequence waits (R370 to R375), and the eviction of an update-only copy (R317). -/

namespace Sys2Proof.Machine

/-! Chains. -/

section
variable {s : State} {x : Ctx} {i : Instr} {g : Guard} {coll : Bool} {a b : Reg} {sc : Scope}

/-- A chain as it starts. -/
def Chain.first (x : Ctx) (coll : Bool) (a b : Reg) (sc : Scope) : Chain :=
  ⟨x.id, x.asid, x.part, coll, x.g a, none, x.g b, sc, .idle, 0, 0⟩

theorem chain_starts (h : s.ready x g) (entry : (x.g a).toNat % 64 = 0) (seq : (x.g b).toNat % 8 = 0)
    (room : (if coll then decide (s.collQueue (coreDie s.cur) < 16) else decide ((s.core s.cur).copyQueue < 16)) = true) :
    chain i g coll a b sc s = .next (({ (s.handOver (s.me x) (chainAgent s.cur (Chain.first x coll a b sc))).setChain s.cur s.nextId
      (Chain.first x coll a b sc) with nextId := s.nextId + 1 }.chainTry s.cur s.nextId (Chain.first x coll a b sc)).ended s x) := by
  refine control_seq h (by simp) ?_
  simp only [require_ok (beq_iff_eq.mpr entry), require_ok (beq_iff_eq.mpr seq), await_ok room, Res.ok_bind]
  rfl

end

section
variable {s t u : State} {c k : Nat} {h : Chain} (alive : s.alive = true) (at_ : tabGet (s.core c).chains k = some h)
include alive at_

theorem exec_chainEntryComplete_idle (idle : h.run = .idle) : exec (.chainEntryComplete c k) s = .next (s.chainTry c k h) := by
  simp only [exec_chainEntryComplete, execChainEntryComplete, alive, at_, beq_iff_eq.mpr idle, Bool.not_true,
    Bool.false_eq_true, if_false, if_true]

theorem exec_chainEntryComplete_next (runs : h.run ≠ .idle) (done : s.chainDone c h = some (t, none))
    (quiet : t.performed (chainAgent c h) h.sc = true) (wrote : t.store (chainAgent c h) h.seqAddr (natLe 8 h.seq.toNat) = .ok u) :
    let w := ((u.releaseAt (chainAgent c h) (u.seqObj (chainAgent c h) false h.seqAddr)).publish (chainAgent c h) h.sc).consume (chainAgent c h)
    let q := { h with entry := h.next, last := some h.seq, run := .idle }
    exec (.chainEntryComplete c k) s = .next (if h.next = 0 then w.dropChain c k else (w.setChain c k q).chainTry c k q) := by
  simp only [exec_chainEntryComplete, execChainEntryComplete, alive, at_, beq_eq_false_iff_ne.mpr runs, done, quiet, wrote, Bool.not_true,
    Bool.false_eq_true, if_false]
  by_cases last : h.next = 0
  · rw [if_pos (beq_iff_eq.mpr last), if_pos last]
  · rw [if_neg (fun e => last (beq_iff_eq.mp e)), if_neg last]

end

/-! Sequence waits. -/

section
variable {s t : State} {x : Ctx} {g : Guard} {d a : Reg} {limit : BitVec 32} {sp : Bool} {sc : Scope} {v : Word} (h : s.ready x g)
include h

section
variable (polled : s.seqLoad x (x.g a) sp = .ok (t, v))
include polled

theorem exec_seqw_reached (reached : (x.g d).toNat ≤ v.toNat) : exec (.seqw g d a limit sp sc) s =
    .next (((t.acquire (t.me x) (t.seqObj (t.me x) sp (x.g a))).setCtx ((t.now x).setG d v)).ended s x) := by
  rw [exec_seqw, execSeqw]
  refine control_seq h (by simp) ?_
  simp only [polled, await_ok (decide_eq_true reached), Res.ok_bind, State.seqReturn, if_pos reached]

theorem exec_seqw_waits (below : v.toNat < (x.g d).toNat) : exec (.seqw g d a limit sp sc) s =
    .next ((s.consume (s.me x)).setCtx { x with wait := .seqw limit.toNat x.waitStart }) := by
  rw [exec_seqw, execSeqw, control_ready h (by simp)]
  simp only [polled, await_no (decide_eq_false (Nat.not_le.mpr below)), Res.error_bind, State.interrupt, State.waitAt]

end

theorem exec_seqw_asks {e : Exc} (polled : s.seqLoad x (x.g a) sp = .error e) (outside : ∀ f, e ≠ .trap f) :
    exec (.seqw g d a limit sp sc) s = .next (((s.askOutside e).waitAt x (.seqw limit.toNat x.waitStart)).consume (s.me x)) := by
  rw [exec_seqw, execSeqw]
  refine control_gone h (by simp) ?_
  cases e with
  | trap f => exact absurd rfl (outside f)
  | _ => simp only [polled]

end

theorem exec_seqwTimeout_returns {s u r' : State} {c : Nat} {x : Ctx} {w : Word} {g : Guard} {d a : Reg} {lim : BitVec 32} {sp : Bool}
    {sc : Scope} {v : Word} {limit : Nat} {since : Word} (alive : s.alive = true) (day : (s.core c).day = some x) (issues : x.issues = true)
    (waits : x.wait = .seqw limit since) (limited : limit ≠ 0) (passed : limit ≤ (x.cycle - since).toNat)
    (fetched : State.fetch { s with cur := c } x = .ok (r', w)) (word : instrOf w = .seqw g d a lim sp sc)
    (polled : State.seqLoad { s with cur := c } x (x.g a) sp = .ok (u, v)) :
    let m := (((if (x.g d).toNat ≤ v.toNat then u.acquire (u.me x) (u.seqObj (u.me x) sp (x.g a)) else u).setCtx
      ((u.now x).setG d v))).consume (State.me { s with cur := c } x)
    exec (.seqwTimeout c) s = .next { m.setDay c (.some ((m.now x).complete .seq)) with cur := s.cur } := by
  have due : (!(s.alive && x.issues && x.limitPassed limit since)) = false := by
    have late : x.limitPassed limit since = true := Bool.and_eq_true_iff.mpr ⟨bne_iff_ne.mpr limited, decide_eq_true passed⟩
    rw [alive, issues, late]
    rfl
  simp only [exec_seqwTimeout, execSeqwTimeout, day, waits, due, fetched, word, polled, State.seqReturn, Bool.false_eq_true, if_false]

/-! Evictions. -/

theorem foldl_max_ge {α : Type} (f : α → Nat) (l : List α) (m : Nat) : m ≤ l.foldl (fun m a => max m (f a)) m := by
  induction l generalizing m with
  | nil => exact le_rfl
  | cons a r ih => exact (le_max_left m (f a)).trans (ih _)

section
variable {s s' : State} {line : Nat} {u : UpdateOnly}

theorem State.foldCopy_lines : (s.foldCopy line u).lines = s.lines := by
  unfold State.foldCopy
  refine foldl_keeps State.lines _ (fun t p => ?_) ..
  rfl
theorem State.foldCopy_viewLines : (s.foldCopy line u).viewLines = s.viewLines := by
  unfold State.foldCopy
  refine foldl_keeps State.viewLines _ (fun t p => ?_) ..
  rfl

/-- The memory that a combination leaves depends on the memory alone. -/
theorem State.foldCopy_mem_congr (same : s.mem = s'.mem) : (s.foldCopy line u).mem = (s'.foldCopy line u).mem := by
  unfold State.foldCopy
  generalize u.partials = l
  induction l generalizing s s' with
  | nil => exact same
  | cons p r ih =>
    obtain ⟨off, v⟩ := p
    exact ih (by dsimp only; rw [same])

end

/-- The timestamp that a combination gives the line and the view lines filled from it. -/
def State.combineTs (s : State) (line : Nat) : Nat := (line :: s.viewsOf (128 * line) 128).foldl (fun m l => max m ((s.lineTs l).2 + 1)) 0

theorem exec_updateOnlyEvict_combines {s : State} {c line : Nat} {us : List (Nat × UpdateOnly)} {u : UpdateOnly} (alive : s.alive = true)
    (copies : tabGet s.updates line = some us) (copy : tabGet us c = some u) :
    ∃ t, exec (.updateOnlyEvict c line) s = .next t ∧ t.mem = (s.foldCopy line u).mem ∧ (s.lineTs line).2 < (t.lineTs line).1 ∧
      t.updates = (if tabDel us c = [] then tabDel s.updates line else tabPut s.updates line (tabDel us c)) ∧
      t.viewLines = s.viewLines.filter fun v => !(s.viewsOf (128 * line) 128).contains v.line := by
  refine ⟨s.combine line [(c, u)] (tabDel us c), ?_, ?_, ?_, ?_, ?_⟩
  · simp only [exec_updateOnlyEvict, execUpdateOnlyEvict, alive, copies, copy, Bool.not_true, Bool.false_eq_true, if_false]
  · exact State.foldCopy_mem_congr rfl
  · have above := foldl_max_ge (fun l => (s.lineTs l).2 + 1) (s.viewsOf (128 * line) 128) (max 0 ((s.lineTs line).2 + 1))
    have stamped := tabGet_foldl_tabPut (line :: s.viewsOf (128 * line) 128) (fun _ => true) (fun _ => (s.combineTs line, s.combineTs line))
      s.lines line
    rw [if_pos ⟨List.mem_cons_self, rfl⟩] at stamped
    have ts : (s.combine line [(c, u)] (tabDel us c)).lineTs line = (s.combineTs line, s.combineTs line) := by
      rw [State.lineTs, State.combine, List.foldl_cons, List.foldl_nil, State.foldCopy_lines]
      exact congrArg (·.getD (0, 0)) stamped
    rw [ts]
    exact (le_max_right 0 _).trans above
  · rw [State.combine, List.foldl_cons, List.foldl_nil, State.foldCopy_updates]
    by_cases last : tabDel us c = []
    · simp [last]
    · simp [last]
  · rw [State.combine, List.foldl_cons, List.foldl_nil, State.foldCopy_viewLines]

/-- Settles O43: a chain and the word that waits for a sequence by what their bodies answer, an entry that completes by what
stands after it, and an evicted copy by what a combination leaves, part by part. -/
theorem chainsAndSequencesComplete : Obligations.ChainsAndSequencesComplete := by
  refine ⟨fun s t x g d a b limit sp sc v h => ⟨fun entry seq => ⟨fun room => ?_, fun room => ?_⟩,
    fun polled => ⟨exec_seqw_reached h polled, exec_seqw_waits h polled⟩, fun e polled outside => exec_seqw_asks h polled outside⟩,
    fun s t u c k h alive at_ => ⟨exec_chainEntryComplete_idle alive at_, exec_chainEntryComplete_next alive at_⟩,
    fun s u r' c x w g d a lim sp sc v limit since alive day issues waits limited passed fetched word polled =>
      exec_seqwTimeout_returns alive day issues waits limited passed fetched word polled,
    fun s c line us u alive copies copy => exec_updateOnlyEvict_combines alive copies copy⟩
  · exact (exec_chainCpy ..).trans (chain_starts (coll := false) h entry seq (decide_eq_true room))
  · exact (exec_chainColl ..).trans (chain_starts (coll := true) h entry seq (decide_eq_true room))

end Sys2Proof.Machine
end

section
/-! PROOFS. PRUNE, MZERO, MLD and MST (R148 to R151). The one idea for PRUNE: comparing magnitudes is comparing in a linear order, and
the search for a largest element that passes over one row finds the first of the largest others. -/

namespace Sys2Proof.Machine

/-! Magnitudes. -/

/-- The size of a finite number. -/
def finSize (m : Nat) (e : Int) : ℚ := m * 2 ^ e

/-- The magnitude of a value in a linear order: NaN above infinity, infinity above all numbers. -/
def magRank : FVal → WithTop (WithTop ℚ)
  | .nan => ⊤
  | .inf _ => ((⊤ : WithTop ℚ) : WithTop (WithTop ℚ))
  | .fin _ m e => ((finSize m e : ℚ) : WithTop ℚ)

theorem scaled_lt_iff (m n : Nat) (e d : Int) : (m : Int) * 2 ^ (e - min e d).toNat < (n : Int) * 2 ^ (d - min e d).toNat ↔
    finSize m e < finSize n d := by
  have shift (k : Nat) (a : Int) (low : min e d ≤ a) :
      finSize k a = (((k : Int) * 2 ^ (a - min e d).toNat : Int) : ℚ) * 2 ^ (min e d) := by
    have split : a = ((a - min e d).toNat : Int) + min e d := by omega
    rw [finSize]
    push_cast
    rw [mul_assoc, ← zpow_natCast, ← zpow_add₀ two_ne_zero, ← split]
  rw [shift m e (min_le_left e d), shift n d (min_le_right e d), mul_lt_mul_iff_left₀ (by positivity), Int.cast_lt]

theorem magLt_iff (a b : FVal) : magLt a b = true ↔ magRank a < magRank b := by
  cases b with
  | nan => cases a <;> simp [magLt, magRank, FVal.isNan]
  | inf t => cases a <;> simp [magLt, magRank, FVal.isNan, FVal.abs, FVal.cmp]
  | fin t n d =>
    cases a with
    | nan => simp [magLt, magRank, FVal.isNan]
    | inf s => simp [magLt, magRank, FVal.isNan, FVal.abs, FVal.cmp]
    | fin s m e =>
      simp only [magLt, magRank, FVal.isNan, FVal.abs, FVal.cmp, signedInt, Bool.false_eq_true, if_false, decide_eq_true_eq, WithTop.coe_lt_coe,
        ← scaled_lt_iff]
      split
      case isTrue less => simpa using less
      case isFalse more =>
        split
        · simpa using not_lt.mp more
        · simpa using not_lt.mp more

/-! The two rows that are kept. -/

/-- The first row of the largest magnitude among the first `n`, one row passed over. -/
def topRow (v : Nat → FVal) (skip : Option Nat) (n : Nat) : Option Nat :=
  (List.range n).foldl (fun (b : Option Nat) q =>
    if skip == some q then b else match b with | none => some q | some p => if magLt (v p) (v q) then some q else b) none

theorem kept_eq (v : Nat → FVal) : kept v = (min ((topRow v none 4).getD 0) ((topRow v (some ((topRow v none 4).getD 0)) 4).getD 0),
    max ((topRow v none 4).getD 0) ((topRow v (some ((topRow v none 4).getD 0)) 4).getD 0)) := rfl

theorem topRow_succ (v : Nat → FVal) (skip : Option Nat) (n : Nat) : topRow v skip (n + 1) =
    if skip = some n then topRow v skip n else match topRow v skip n with
      | none => some n
      | some p => if magRank (v p) < magRank (v n) then some n else some p := by
  simp only [topRow, List.range_succ, List.foldl_append, List.foldl_cons, List.foldl_nil, beq_iff_eq]
  split
  · rfl
  · generalize (List.range n).foldl _ none = b
    cases b with
    | none => rfl
    | some p => simp only [magLt_iff]

/-- A row is the first of the largest among those below `n` that are not passed over. -/
def IsTop (v : Nat → FVal) (skip : Option Nat) (n p : Nat) : Prop :=
  p < n ∧ skip ≠ some p ∧ ∀ w, w < n → skip ≠ some w → magRank (v w) ≤ magRank (v p) ∧ (magRank (v w) = magRank (v p) → p ≤ w)

theorem topRow_isTop (v : Nat → FVal) (skip : Option Nat) (n : Nat) :
    (topRow v skip n = none → ∀ w, w < n → skip = some w) ∧ ∀ p, topRow v skip n = some p → IsTop v skip n p := by
  induction n with
  | zero => exact ⟨fun _ w hw => absurd hw (Nat.not_lt_zero w), fun p h => nomatch h⟩
  | succ n ih =>
    obtain ⟨noneSo, topSo⟩ := ih
    rw [topRow_succ]
    by_cases here : skip = some n
    · rw [if_pos here]
      refine ⟨fun h w hw => ?_, fun p h => ?_⟩
      · rcases Nat.lt_succ_iff_lt_or_eq.mp hw with below | rfl
        · exact noneSo h w below
        · exact here
      · obtain ⟨low, off, top⟩ := topSo p h
        refine ⟨low.trans n.lt_succ_self, off, fun w hw other => top w ?_ other⟩
        rcases Nat.lt_succ_iff_lt_or_eq.mp hw with below | rfl
        · exact below
        · exact absurd here other
    · rw [if_neg here]
      cases found : topRow v skip n with
      | none =>
        refine ⟨nofun, fun p h => ?_⟩
        obtain rfl : n = p := Option.some.inj h
        refine ⟨n.lt_succ_self, here, fun w hw other => ?_⟩
        rcases Nat.lt_succ_iff_lt_or_eq.mp hw with below | rfl
        · exact absurd (noneSo found w below) other
        · exact ⟨le_rfl, fun _ => le_rfl⟩
      | some p =>
        obtain ⟨low, off, top⟩ := topSo p found
        dsimp only
        split
        case isTrue larger =>
          refine ⟨nofun, fun p' h => ?_⟩
          obtain rfl : n = p' := Option.some.inj h
          refine ⟨n.lt_succ_self, here, fun w hw other => ?_⟩
          rcases Nat.lt_succ_iff_lt_or_eq.mp hw with below | rfl
          · have less := (top w below other).1.trans_lt larger
            exact ⟨less.le, fun same => absurd same less.ne⟩
          · exact ⟨le_rfl, fun _ => le_rfl⟩
        case isFalse smaller =>
          refine ⟨nofun, fun p' h => ?_⟩
          obtain rfl : p = p' := Option.some.inj h
          refine ⟨low.trans n.lt_succ_self, off, fun w hw other => ?_⟩
          rcases Nat.lt_succ_iff_lt_or_eq.mp hw with below | rfl
          · exact top w below other
          · exact ⟨not_lt.mp smaller, fun _ => low.le⟩

/-- Of four rows there is a first largest one, whichever one is passed over. -/
theorem topRow_four (v : Nat → FVal) (skip : Option Nat) : IsTop v skip 4 ((topRow v skip 4).getD 0) := by
  obtain ⟨noneSo, topSo⟩ := topRow_isTop v skip 4
  cases found : topRow v skip 4 with
  | none =>
    have both : (some 0 : Option Nat) = some 1 := (noneSo found 0 (by decide)).symm.trans (noneSo found 1 (by decide))
    cases both
  | some p => exact topSo p found

theorem kept_largestTwo (v : Nat → FVal) : largestTwo v (kept v).1 (kept v).2 := by
  rw [kept_eq]
  obtain ⟨lowP, -, topP⟩ := topRow_four v none
  generalize (topRow v none 4).getD 0 = p at *
  obtain ⟨lowQ, offP, topQ⟩ := topRow_four v (some p)
  generalize (topRow v (some p) 4).getD 0 = q at *
  have other : p ≠ q := fun same => offP (congrArg some same)
  have above {z w : Nat} (le : magRank (v w) ≤ magRank (v z)) (ties : magRank (v w) = magRank (v z) → z ≤ w) (off : w ≠ z) :
      magLt (v z) (v w) = false ∧ (magLt (v w) (v z) = false → z < w) := by
    simp only [← Bool.not_eq_true, magLt_iff, not_lt]
    exact ⟨le, fun ge => lt_of_le_of_ne (ties (le_antisymm le ge)) off.symm⟩
  refine ⟨by dsimp only; omega, by dsimp only; omega, fun w hw offU offV z hz => ?_⟩
  have offs : w ≠ p ∧ w ≠ q := by dsimp only at offU offV; omega
  obtain ⟨leP, tiesP⟩ := topP w hw nofun
  obtain ⟨leQ, tiesQ⟩ := topQ w hw fun same => offs.1 (Option.some.inj same).symm
  obtain rfl | rfl : z = p ∨ z = q := by dsimp only at hz; omega
  · exact above leP tiesP offs.1
  · exact above leQ tiesQ offs.2

/-! The instructions. -/

/-- A register that holds a number below 2^8 holds it in its low byte. -/
theorem low_byte_of_lt {w : Word} {n : Nat} (hw : w.toNat = n) (h : n < 2 ^ 8) :
    (w.extractLsb' 0 8).toNat = n ∧ w.extractLsb' 8 56 = 0 := by
  refine ⟨?_, BitVec.eq_of_toNat_eq ?_⟩
  · rw [BitVec.extractLsb'_toNat, Nat.shiftRight_zero]; omega
  · rw [BitVec.extractLsb'_toNat, Nat.shiftRight_eq_div_pow]; show _ = 0; omega

/-- A register that holds two words holds each in its half. -/
theorem word_halves {w : Word} {k off : Nat} (hw : w.toNat = k + 2 ^ 32 * off) (h : k < 2 ^ 32) :
    (w.extractLsb' 0 32).toNat = k ∧ (w.extractLsb' 32 32).toNat = off := by
  have := w.isLt
  constructor
  · rw [BitVec.extractLsb'_toNat, Nat.shiftRight_zero]; omega
  · rw [BitVec.extractLsb'_toNat, Nat.shiftRight_eq_div_pow]; omega

section
variable {s : State} {x : Ctx} {g : Guard} (h : s.ready x g)
include h

theorem exec_prune_ready {d a b c : Reg} {ty : Ty} {bt : Bool} {dd da : Desc} {n k off : Nat} (hd : x.holdsDesc d dd)
    (ha : x.holdsDesc a da) (plainD : dd.sc = false) (plainA : da.sc = false) (count : (x.g b).toNat = n) (some : 16 ≤ n) (few : n ≤ 128)
    (wide : n % 16 = 0) (fields : (x.g c).toNat = k + 2 ^ 32 * off) (small : k < 2 ^ 32) (depth : depthOk ty false true k = true)
    (aligned : off % 16 = 0) (claimA : claimB x da ty bt k n = .ok ()) (readyA : s.readyB x da ty bt k n = .ok ())
    (claimD : dd.claim x ty.bits (if bt then n else k / 2) (if bt then k / 2 else n) = .ok ()) (room : off + n * (k / 8) ≤ x.spadBytes) :
    let o := s.core s.cur
    let code := fun r j => bitsAt o.spad (bBit da ty bt r j) ty.bits
    let keep := fun j q => kept fun r => ty.value (code (4 * q + r) j)
    exec (.prune g d a b c ty bt) s = .next ((s.setCore s.cur { o with
      spad := putAll o.spad (pruneWrites dd ty bt n k off code (fun j q => (keep j q).1) (fun j q => (keep j q).2))
      poison := (rowsClean dd ty.bits (if bt then n else k / 2) (if bt then k / 2 else n) o.poison).filter fun p =>
        !((List.range (n * (k / 8) / 16)).any fun t => p == off / 16 + t) }).ended s x) := by
  rw [exec_prune, execPrune]
  refine control_seq h (by simp) ?_
  obtain ⟨fieldsD, placesD⟩ := hd
  obtain ⟨fieldsA, placesA⟩ := ha
  obtain ⟨low, high⟩ := low_byte_of_lt count (by omega)
  obtain ⟨lowK, lowOff⟩ := word_halves fields small
  have shape : (!dd.sc && !da.sc && (0 : BitVec 56) == 0 && 16 ≤ n && n ≤ 128 && n % 16 == 0 && depthOk ty false true k) = true := by
    rw [plainD, plainA, decide_eq_true some, decide_eq_true few, beq_iff_eq.mpr wide, depth]; rfl
  have claimOff : claimOff x off (n * (k / 8)) = .ok () := require_ok (decide_eq_true room)
  simp only [fieldsD, fieldsA, low, high, lowK, lowOff, require_ok shape, placesD, placesA, offAligned_ok aligned, claimA, readyA, claimD,
    claimOff, Res.ok_bind]

theorem exec_mzero_ready {d : Reg} {cols : Cols} (hd : s.mayUse x d cols) :
    exec (.mzero g d) s = .next ((s.setCore s.cur ((s.core s.cur).mapCols cols.first cols.n fun _ _ => 0)).ended s x) := by
  rw [exec_mzero, execMzero]
  refine control_seq h (by simp) ?_
  simp only [hd.colRange_eq, hd.claimCols_eq, Res.ok_bind]

theorem exec_mld_ready {d a : Reg} {ty : Ty} {rnd : Rnd} {cols : Cols} {da : Desc} (hd : s.mayUse x d cols) (ha : x.holdsDesc a da)
    (scales : da.sc = true → ty ≠ .s8 ∧ ty ≠ .s32 ∧ cols.n % 32 = 0) (pairs : ty = .e2m1 → cols.n % 2 = 0)
    (tile : da.claim x ty.bits 128 cols.n = .ok ()) (free : (s.core s.cur).spadReady 0 x.spadBytes = true)
    (clean : (s.core s.cur).tilePoison da ty.bits 128 cols.n = .ok ())
    (scale : da.sc = true → da.scale + 128 * (cols.n / 32) ≤ x.spadBytes ∧
      (s.core s.cur).spadPoisoned da.scale (128 * (cols.n / 32)) = false) :
    let c := s.core s.cur
    exec (.mld g d a ty rnd) s = .next (((s.setCore s.cur (c.mapCols cols.first cols.n fun i j =>
      f32Round rnd (x.drawFor rnd (i * cols.n + j)) false
        (scaled (da.elem c.spad ty i j) (da.scaleOf c.spad 32 cols.n i j)))).setCtx (x.drawn rnd (128 * cols.n))).ended s x) := by
  rw [exec_mld, execMld]
  refine control_seq h (by simp) ?_
  obtain ⟨fields, places⟩ := ha
  have even : (ty != .e2m1 || cols.n % 2 == 0) = true := by
    by_cases e2m1 : ty = .e2m1
    · rw [beq_iff_eq.mpr (pairs e2m1), Bool.or_true]
    · rw [bne_iff_ne.mpr e2m1, Bool.true_or]
  cases sc : da.sc with
  | false =>
    simp only [hd.colRange_eq, fields, sc, even, places, hd.claimCols_eq, tile, await_ok free, clean, Bool.false_and, Bool.not_false,
      Bool.true_or, Bool.and_true, Bool.false_eq_true, if_false, require_ok (rfl : true = true), Res.ok_bind]
    rfl
  | true =>
    obtain ⟨noS8, noS32, blocks⟩ := scales sc
    obtain ⟨room, sound⟩ := scale sc
    have types : (!(true && (ty == .s8 || ty == .s32)) && (!true || cols.n % 32 == 0) && (ty != .e2m1 || cols.n % 2 == 0)) = true := by
      rw [even, beq_eq_false_iff_ne.mpr noS8, beq_eq_false_iff_ne.mpr noS32, beq_iff_eq.mpr blocks]; rfl
    have claimOff : claimOff x da.scale (128 * (cols.n / 32)) = .ok () := require_ok (decide_eq_true room)
    have scaleClean : (s.core s.cur).rangePoison da.scale (128 * (cols.n / 32)) = .ok () := require_ok (by rw [sound]; rfl)
    simp only [hd.colRange_eq, fields, sc, require_ok types, places, hd.claimCols_eq, tile, await_ok free, clean, claimOff,
      scaleClean, if_true, Res.ok_bind]
    rfl

theorem exec_mst_ready {d a : Reg} {ty : Ty} {rnd : Rnd} {sat : Bool} {cols : Cols} {dd : Desc} (ha : s.mayUse x a cols)
    (hd : x.holdsDesc d dd) (plain : dd.sc = false) (pairs : ty = .e2m1 → cols.n % 2 = 0)
    (tile : dd.claim x ty.bits 128 cols.n = .ok ()) (free : (s.core s.cur).spadReady 0 x.spadBytes = true) :
    let c := s.core s.cur
    exec (.mst g d a ty rnd sat) s = .next (((s.setCore s.cur { c with
      spad := putTile dd ty.bits cols.n (fun i j =>
        ty.narrow rnd (x.drawFor rnd (i * cols.n + j)) sat (F32.val (c.accAt i (cols.first + j)))) c.spad
      poison := tileClean dd ty.bits cols.n c.poison }).setCtx (x.drawn rnd (128 * cols.n))).ended s x) := by
  rw [exec_mst, execMst]
  refine control_seq h (by simp) ?_
  obtain ⟨fields, places⟩ := hd
  have even : (!dd.sc && (ty != .e2m1 || cols.n % 2 == 0)) = true := by
    by_cases e2m1 : ty = .e2m1
    · rw [plain, beq_iff_eq.mpr (pairs e2m1), Bool.or_true]; rfl
    · rw [plain, bne_iff_ne.mpr e2m1, Bool.true_or]; rfl
  simp only [fields, ha.colRange_eq, require_ok even, places, ha.claimCols_eq, tile, await_ok free, Res.ok_bind]

end

/-- Settles O27: PRUNE keeps the two rows that the search finds, and the other instructions are what their bodies answer. -/
theorem tileInstructionsComplete : Obligations.TileInstructionsComplete := by
  unfold Obligations.TileInstructionsComplete
  refine ⟨fun s x g d a b c ty bt dd da n k off h hd ha plainD plainA count some few wide fields small depth aligned claimA readyA claimD
    room => ?prune, fun s x g d a ty rnd sat cols da h => ⟨exec_mzero_ready h, exec_mld_ready h, exec_mst_ready h⟩⟩
  case prune =>
    exact ⟨_, _, fun j q => kept_largestTwo _, exec_prune_ready h hd ha plainD plainA count some few wide fields small depth aligned claimA
      readyA claimD room⟩

end Sys2Proof.Machine
end

section
/-! PROOFS. Task and graph instructions (R376 to R390): the words by what their bodies answer, and the record that enters a queue. -/

namespace Sys2Proof.Machine

theorem State.nodeCheck_aligned {s t : State} {x : Ctx} {va : Word} {n : Node} (check : s.nodeCheck x va = .ok (t, n)) :
    va.toNat % 128 = 0 := by
  by_contra off
  rw [State.nodeCheck, beq_eq_false_iff_ne.mpr off] at check
  cases check

section
variable {s t u v w p : State} {x : Ctx} {g : Guard} {a b : Reg} {n : Node} {ptr : Word} {bs : List Byte} (h : s.ready x g)
  (check : s.nodeCheck x (x.g a) = .ok (t, n))
include h check

/-! Records enter a task node's queue. -/

section
variable (task : n.kind = 1) (aligned : (x.g b).toNat % 64 = 0) (base : t.loadWord (t.me x) (x.g a + 8) = .ok (u, ptr)) (some : ptr ≠ 0)
  (read : u.loadN (u.me x) (x.g b) 256 = .ok (v, bs)) (pure : v.purity (v.me x) (x.g a) 128 true = .ok p)
include task aligned base some read pure

theorem exec_tenq_puts (put : p.enqueueOp (p.me x) x.part (x.g a) bs = .ok w) : exec (.tenq g a b) s = .next (w.ended s x) := by
  rw [exec_tenq, execTenq]
  refine control_seq h (by simp) ?_
  simp only [require_ok (beq_iff_eq.mpr (State.nodeCheck_aligned check)), require_ok (beq_iff_eq.mpr aligned), check,
    require_ok (beq_iff_eq.mpr task), base, require_ok (bne_iff_ne.mpr some), read, State.enqueueAt, pure, put, Res.ok_bind]

theorem exec_tenq_waits (put : p.enqueueOp (p.me x) x.part (x.g a) bs = .error (.wait .queueFull)) :
    exec (.tenq g a b) s = .next (s.setCtx { x with wait := .queueFull }) := by
  rw [exec_tenq, execTenq]
  refine control_wait h (by simp) ?_ nofun
  simp only [require_ok (beq_iff_eq.mpr (State.nodeCheck_aligned check)), require_ok (beq_iff_eq.mpr aligned), check,
    require_ok (beq_iff_eq.mpr task), base, require_ok (bne_iff_ne.mpr some), read, State.enqueueAt, pure, put, Res.ok_bind, Res.error_bind]

end

section
variable (task : n.kind = 1) (opnd : t.loadWord (t.me x) (x.g a + 64) = .ok (u, ptr)) (some : ptr ≠ 0)
  (read : u.loadN (u.me x) ptr 256 = .ok (v, bs)) (pure : v.purity (v.me x) (x.g a) 128 true = .ok p)
include task opnd some read pure

theorem exec_launchArg_puts (put : p.enqueueOp (p.me x) x.part (x.g a) (bs.take 32 ++ natLe 8 (x.g b).toNat ++ bs.drop 40) = .ok w) :
    exec (.launchArg g a b) s = .next (w.ended s x) := by
  rw [exec_launchArg, execLaunchArg]
  refine control_seq h (by simp) ?_
  simp only [check, require_ok (beq_iff_eq.mpr task), opnd, require_ok (bne_iff_ne.mpr some), read, State.enqueueAt, pure, put, Res.ok_bind]

theorem exec_launchArg_waits
    (put : p.enqueueOp (p.me x) x.part (x.g a) (bs.take 32 ++ natLe 8 (x.g b).toNat ++ bs.drop 40) = .error (.wait .queueFull)) :
    exec (.launchArg g a b) s = .next (s.setCtx { x with wait := .queueFull }) := by
  rw [exec_launchArg, execLaunchArg]
  refine control_wait h (by simp) ?_ nofun
  simp only [check, require_ok (beq_iff_eq.mpr task), opnd, require_ok (bne_iff_ne.mpr some), read, State.enqueueAt, pure, put,
    Res.ok_bind, Res.error_bind]

end

section
variable (other : n.kind ≠ 1)
include other

theorem exec_tenq_other : exec (.tenq g a b) s = .next (if (x.g b).toNat % 64 = 0 then
    s.trapped x (.tenq g a b) .shape (encode (.tenq g a b)) else s.trapped x (.tenq g a b) .align (x.g b)) := by
  rw [exec_tenq, execTenq]
  by_cases aligned : (x.g b).toNat % 64 = 0
  · rw [if_pos aligned]
    refine control_trap h (by simp) ?_
    simp only [require_ok (beq_iff_eq.mpr (State.nodeCheck_aligned check)), require_ok (beq_iff_eq.mpr aligned), check,
      beq_eq_false_iff_ne.mpr other, Res.ok_bind]
    rfl
  · rw [if_neg aligned]
    refine control_trap h (by simp) ?_
    simp only [require_ok (beq_iff_eq.mpr (State.nodeCheck_aligned check)), beq_eq_false_iff_ne.mpr aligned, Res.ok_bind]
    rfl

theorem exec_launchArg_other :
    exec (.launchArg g a b) s = .next (s.trapped x (.launchArg g a b) .shape (encode (.launchArg g a b))) := by
  rw [exec_launchArg, execLaunchArg]
  refine control_trap h (by simp) ?_
  simp only [check, beq_eq_false_iff_ne.mpr other, Res.ok_bind]
  rfl

end

end

/-! Firings and signals. -/

/-- What the scheduler gets to do after the first operation of a cascade. -/
theorem State.firstOp_errand {t v w : State} {x : Ctx} {va : Word} {out : List Word} {budget : Nat} {lim : Bool} {k : Option Nat}
    (pure : t.purity (t.me x) va 128 true = .ok v) (op : v.nodeOp (v.me x) x.part va k 64 = .ok (w, out, budget, lim)) :
    let m := if lim then w.schedFault x.part x.asid (shapeTrap va) else w
    t.firstOp x va k = .ok (m.errand x.part ⟨x.asid, none, 0, none, out.map fun v => (v, some 1), budget, [], m.release (m.me x)⟩) := by
  simp only [State.firstOp, pure, op, Res.ok_bind]
  rfl

section
variable {s t u : State} {x : Ctx} {g : Guard} {a b : Reg} {n : Node} (h : s.ready x g) (check : s.nodeCheck x (x.g a) = .ok (t, n))
include h check

theorem exec_launch_fires (op : t.firstOp x (x.g a) none = .ok u) : exec (.launch g a) s = .next (u.ended s x) := by
  rw [exec_launch, execLaunch]
  refine control_seq h (by simp) ?_
  simp only [check, op, Res.ok_bind]

section
variable (some : 1 ≤ (x.g b).toNat) (few : (x.g b).toNat < 65536)
include some few

theorem exec_gsig_signals (node : x.g a ≠ 0) (op : t.firstOp x (x.g a) (.some (x.g b).toNat) = .ok u) :
    exec (.gsig g a b) s = .next (u.ended s x) := by
  rw [exec_gsig, execGsig]
  refine control_seq h (by simp) ?_
  have count : (decide (1 ≤ (x.g b).toNat) && decide ((x.g b).toNat < 65536)) = true := by rw [decide_eq_true some, decide_eq_true few]; rfl
  simp only [check, require_ok count, if_neg (fun e => node (beq_iff_eq.mp e)), op, Res.ok_bind]

theorem exec_gsig_none (none : x.g a = 0) : exec (.gsig g a b) s = .next (t.ended s x) := by
  rw [exec_gsig, execGsig]
  refine control_seq h (by simp) ?_
  have count : (decide (1 ≤ (x.g b).toNat) && decide ((x.g b).toNat < 65536)) = true := by rw [decide_eq_true some, decide_eq_true few]; rfl
  simp only [check, require_ok count, if_pos (beq_iff_eq.mpr none), Res.ok_bind]

end

end

/-! The record enters the queue. -/

section
variable {s t u v w : State} {ag : Agent} {p : Nat} {va : Word} {n : Node} {bs : List Byte} (head : s.readHead ag va = .ok (t, n))
include head

theorem State.enqueueOp_full (full : n.cap ≤ n.depth) : s.enqueueOp ag p va bs = .error (.wait .queueFull) := by
  simp only [State.enqueueOp, head, Node.full, decide_eq_true full, Res.ok_bind]
  rfl

theorem State.enqueueOp_puts (room : n.depth < n.cap)
    (stored : t.storeN ag (n.base + BitVec.ofNat 64 (256 * (n.tail.toNat % n.cap))) bs = .ok u)
    (raised : (u.noteQueued p ⟨va, ag.asid, n.tail, t.time⟩).writeNode ag va (n.setQueue n.head (n.tail + 1)) = .ok v)
    (whole : s.atOnce v ag (s.bufferLines ag va 128) = .ok w) : s.enqueueOp ag p va bs = .ok (w.releaseAt ag (.node ag.asid va)) := by
  simp only [State.enqueueOp, head, Node.full, decide_eq_false (Nat.not_le.mpr room), Bool.not_false, await_ok (rfl : true = true),
    State.enqueueRecord, Node.slot, stored, raised, whole, Res.ok_bind]

end

/-! The end of a task, and its yield. -/

section
variable {s : State} {x : Ctx} {g : Guard} (h : s.ready x g)
include h

section
variable (task : x.sup = false)
include task

theorem exec_tend_stops {f : Fabric} (stops : s.stopStreams x = some f) :
    exec (.tend g) s = .next (((s.setCtx { x with fabric := some f, wait := .tend }).settle s.cur).consume (s.me x)) := by
  rw [exec_tend, execTend]
  refine control_gone h (by simp) ?_
  simp only [task, Bool.not_false, require_ok (rfl : true = true), stops, Res.ok_bind]
  rfl

theorem exec_tend_waits (none : s.stopStreams x = none) (busy : s.tendReady x = false) :
    exec (.tend g) s = .next (s.setCtx { x with wait := .tend }) := by
  rw [exec_tend, execTend]
  refine control_wait h (by simp) ?_ nofun
  simp only [task, Bool.not_false, require_ok (rfl : true = true), none, await_no busy, Res.ok_bind, Res.error_bind]

section
variable (none : s.stopStreams x = none) (idle : s.tendReady x = true)
include none idle

theorem exec_tend_plain (plain : x.job = .none) :
    let t := (x.traps.foldl (fun t e => State.leaveFault t s.cur x.part x.asid e) s).freeDay s.cur x
    exec (.tend g) s = .next ((t.setCore s.cur { t.core s.cur with retired := some (x.complete .seq) }).consume (s.me x)) := by
  rw [exec_tend, execTend]
  refine control_gone h (by simp) ?_
  simp only [task, Bool.not_false, require_ok (rfl : true = true), none, await_ok idle, plain, Res.ok_bind]

theorem exec_tend_job {j : Job} (job : x.job = some j) :
    let w := x.traps.foldl (fun t e => State.leaveFault t s.cur x.part x.asid e) s
    let t := w.freeDay s.cur x
    let c := t.core s.cur
    let u := t.setCore s.cur { c with
      retired := some (x.complete .seq), ended := if j.pure then tabPut c.ended x.id (x.traps.foldl Job.noteFault j) else c.ended }
    exec (.tend g) s = .next ((u.errand x.part
      ⟨x.asid, if j.pure then some (s.cur, x.id) else .none, j.done, some x.node, [], 64, [], w.release (s.me x)⟩).consume (s.me x)) := by
  rw [exec_tend, execTend]
  refine control_gone h (by simp) ?_
  simp only [task, Bool.not_false, require_ok (rfl : true = true), none, await_ok idle, job, Res.ok_bind]

end

theorem exec_tyield_parks (free : (s.core s.cur).night = none) : exec (.tyield g) s =
    .next ((s.park s.cur { x.complete .seq with yielded := true, eligible := false }).consume (s.me x)) := by
  rw [exec_tyield, execTyield]
  refine control_gone h (by simp) ?_
  simp only [task, free, Bool.not_false, require_ok (rfl : true = true), Option.isSome_none, Bool.false_eq_true, if_false, Res.ok_bind]

theorem exec_tyield_passes (taken : (s.core s.cur).night ≠ none) : exec (.tyield g) s = .next (s.ended s x) := by
  rw [exec_tyield, execTyield]
  refine control_seq h (by simp) ?_
  simp only [task, Option.isSome_iff_ne_none.mpr taken, Bool.not_false, require_ok (rfl : true = true), if_true, Res.ok_bind]

end

theorem exec_tend_tyield_sup (sup : x.sup = true) :
    exec (.tend g) s = .next (s.trapped x (.tend g) .illegal (encode (.tend g))) ∧
    exec (.tyield g) s = .next (s.trapped x (.tyield g) .illegal (encode (.tyield g))) := by
  constructor
  · rw [exec_tend, execTend]
    refine control_trap h (by simp) ?_
    simp only [sup]
    rfl
  · rw [exec_tyield, execTyield]
    refine control_trap h (by simp) ?_
    simp only [sup]
    rfl

end

/-- Settles O48: the words by what their bodies answer, and the queue by the operation that enters a record. -/
theorem tasksComplete : Obligations.TasksComplete := by
  unfold Obligations.TasksComplete
  refine ⟨fun s t u v w x g a b n ptr bs h => ?words,
    fun s t u v w ag p va n bs head => ⟨State.enqueueOp_full head, State.enqueueOp_puts head⟩, fun s x g h => ?ends⟩
  case words =>
    intro va put check
    refine ⟨fun task aligned base some read p pure =>
        ⟨exec_tenq_puts h check task aligned base some read pure, exec_tenq_waits h check task aligned base some read pure⟩,
      fun task opnd some read p pure =>
        ⟨exec_launchArg_puts h check task opnd some read pure, exec_launchArg_waits h check task opnd some read pure⟩,
      fun out budget lim k pure op => ⟨?_, ?_⟩, exec_gsig_none h check,
      fun other => ⟨exec_tenq_other h check other, exec_launchArg_other h check other⟩⟩
    · rintro rfl
      exact exec_launch_fires h check (State.firstOp_errand pure op)
    · rintro rfl some few node
      exact exec_gsig_signals h check some few node (State.firstOp_errand pure op)
  case ends =>
    exact ⟨fun task f stops => exec_tend_stops h task stops,
      fun task none idle => ⟨exec_tend_plain h task none idle, fun j job => exec_tend_job h task none idle job⟩, exec_tend_waits h,
      exec_tend_tyield_sup h, exec_tyield_parks h, exec_tyield_passes h⟩

end Sys2Proof.Machine
end

section
/-! PROOFS. The scheduler (R376 to R395, R255): what DISPATCH and REUSE_LOOKUP start, and what a task starts with. -/

namespace Sys2Proof.Machine

/-! DISPATCH. -/

section
variable {s t u o w : State} {p n : Nat} {c : Cand} (alive : s.alive = true) (ht : (s.resumeErrands p).lookHeads p = t)
  (choice : t.choice p = some (c, n))
include alive ht choice

theorem exec_dispatch_parked {k : Nat} (work : c.work = .parked k) : exec (.dispatch p) s = .next (t.resumeParked k) := by
  simp only [exec_dispatch, execDispatch, alive, ht, choice, work, Bool.not_true, Bool.false_eq_true, if_false]

theorem exec_dispatch_ready {q : Partition} {r : Ready} (work : c.work = .ready r) (evicts : t.evictSpills n 0 r.cols = .ok u)
    (part : u.part p = some q) : exec (.dispatch p) s = .next ((u.setPart p { q with ready := q.ready.filter (· != r) }).startTask
      p n r.asid r.node r.slot ⟨r.bytes, r.cols, r.spad, []⟩ r.tag r.granules) := by
  simp only [exec_dispatch, execDispatch, alive, ht, choice, work, evicts, part, Bool.not_true, Bool.false_eq_true, if_false]

theorem exec_dispatch_head {node : Word} {asid : BitVec 13} (work : c.work = .head node asid) :
    exec (.dispatch p) s = .next (t.dispatchHead p n node asid) := by
  simp only [exec_dispatch, execDispatch, alive, ht, choice, work, Bool.not_true, Bool.false_eq_true, if_false]

end

section
variable {t u v o w : State} {p n : Nat} {node : Word} {asid : BitVec 13} {nd : Node} {ag : Agent} (agent : t.schedAgent p asid = ag)
  (head : (t.acquire ag (.node asid node)).readHead ag node = .ok (u, nd))
include agent head

theorem State.dispatchHead_starts {r : Record} (checked : u.recordCheck ag (nd.slot nd.head) = .ok (v, r))
    (evicts : v.evictSpills n 0 r.cols = .ok o) (taken : o.takeRecord p asid node = .ok w) :
    t.dispatchHead p n node asid = (w.consume ag).startTask p n asid node (nd.slot nd.head) r none [] := by
  subst agent
  simp only [State.dispatchHead, head, checked, evicts, taken]

theorem State.dispatchHead_drops {e : Trap} (refused : u.recordCheck ag (nd.slot nd.head) = .error (.trap e))
    (taken : u.takeRecord p asid node = .ok w) : t.dispatchHead p n node asid = w.schedFault p asid e := by
  subst agent
  simp only [State.dispatchHead, head, refused, State.dropRecord, taken]

end

/-! REUSE_LOOKUP. -/

section
variable {s o t u v w h : State} {p : Nat} {q : Partition} {node : Word} {asid : BitVec 13} {n : Node} {bs : List Byte} {r : Record}
  {ag : Agent} (alive : s.alive = true) (part : s.part p = some q) (waits : q.waiting node asid = true) (agent : s.schedAgent p asid = ag)
  (own : (s.acquire ag (.node asid node)).asidOf ag asid p = .ok (o, true)) (head : o.readHead ag node = .ok (h, n))
  (kind : n.kind = 1) (queued : n.depth ≠ 0) (read : h.loadN ag (n.slot n.head) 16 = .ok (t, bs)) (pure : recPure bs = true)
  (checked : t.recordCheck ag (n.slot n.head) = .ok (u, r))
include alive part waits agent own head kind queued read pure checked

theorem exec_reuseLookup_hit (found : u.lookupRecord p asid node r = .ok (v, .hit)) (taken : v.takeRecord p asid node = .ok w) :
    exec (.reuseLookup p node asid) s = .next ((w.consume ag).errand p
      ⟨asid, none, recDone r.bytes, some node, [], 64, [], (w.consume ag).release ag⟩) := by
  subst agent
  have pure : (recWord bs 1).getLsbD 8 = true := pure
  have task : (n.kind != 1 || n.depth == 0) = false := by rw [bne_eq_false_iff_eq.mpr kind, beq_eq_false_iff_ne.mpr queued]; rfl
  simp only [exec_reuseLookup, execReuseLookup, alive, part, waits, State.ownNode, own, head, task, read, pure, checked, found, taken,
    Res.ok_bind, Bool.not_true, Bool.false_eq_true, if_true, if_false]

theorem exec_reuseLookup_run {tag : Option (BitVec 128)} {g : List (Nat × BitVec 32)} {q' : Partition}
    (found : u.lookupRecord p asid node r = .ok (v, .run tag g)) (taken : v.takeRecord p asid node = .ok w)
    (there : (w.consume ag).part p = some q') :
    exec (.reuseLookup p node asid) s = .next ((w.consume ag).setPart p { q' with
      ready := q'.ready ++ [⟨node, asid, n.head, n.slot n.head, q.sinceOf node asid n.head t.time, r.bytes, r.cols, r.spad,
        tag, g⟩] }) := by
  subst agent
  have pure : (recWord bs 1).getLsbD 8 = true := pure
  have task : (n.kind != 1 || n.depth == 0) = false := by rw [bne_eq_false_iff_eq.mpr kind, beq_eq_false_iff_ne.mpr queued]; rfl
  simp only [exec_reuseLookup, execReuseLookup, alive, part, waits, State.ownNode, own, head, task, read, pure, checked, found, taken,
    there, Res.ok_bind, Bool.not_true, Bool.false_eq_true, if_true, if_false]

end

/-! What a task starts with (R386). -/

/-- The arguments of a record in the registers from g1 on. -/
def Ctx.withArgs (x : Ctx) (bs : List Byte) (m : Nat) : Ctx :=
  (List.range m).foldl (fun (y : Ctx) k => y.setG (BitVec.ofNat 6 (k + 1)) (recWord bs (4 + k))) x

theorem Ctx.withArgs_keeps {β : Type} (f : Ctx → β) (keeps : ∀ (y : Ctx) r v, f (y.setG r v) = f y) (x : Ctx) (bs : List Byte) (m : Nat) :
    f (x.withArgs bs m) = f x := foldl_keeps f _ (fun y _ => keeps y _ _) ..

theorem Ctx.withArgs_g (x : Ctx) (bs : List Byte) {m k : Nat} (some : 1 ≤ k) (low : k < 64) (few : m ≤ 8) :
    (x.withArgs bs m).g (BitVec.ofNat 6 k) = if k ≤ m then recWord bs (3 + k) else x.g (BitVec.ofNat 6 k) := by
  induction m with
  | zero => rw [if_neg (by omega)]; rfl
  | succ m ih =>
    have step : x.withArgs bs (m + 1) = (x.withArgs bs m).setG (BitVec.ofNat 6 (m + 1)) (recWord bs (4 + m)) := by
      rw [Ctx.withArgs, List.range_succ, List.foldl_append]; rfl
    have same : BitVec.ofNat 6 k = BitVec.ofNat 6 (m + 1) ↔ k = m + 1 := by
      rw [← BitVec.toNat_inj, BitVec.toNat_ofNat, BitVec.toNat_ofNat]; omega
    have named : BitVec.ofNat 6 (m + 1) ≠ 0 := by
      rw [ne_eq, ← BitVec.toNat_inj, BitVec.toNat_ofNat]; show ¬_ = 0; omega
    rw [step, Ctx.g_setG, ih (by omega)]
    by_cases here : k = m + 1
    · rw [if_pos ⟨same.mpr here, named⟩, if_pos (by omega), here, show 3 + (m + 1) = 4 + m by omega]
    · rw [if_neg (fun both => here (same.mp both.1))]
      exact if_congr (by omega) rfl rfl

theorem Ctx.entry_g (id : Nat) (asid : BitVec 13) (p : Nat) (sup : Bool) (pc : Word) (r : Reg) : (Ctx.entry id asid p sup pc).g r = 0 := by
  simp [Ctx.g, Ctx.entry]

theorem State.acquire_core (s : State) (ag : Agent) (o : SyncObj) (n : Nat) : (s.acquire ag o).core n = s.core n := by
  rw [State.acquire]
  split
  · rfl
  · rw [State.observe, State.inherit]
    split <;> rfl

/-- The context that a task starts with. -/
def State.startCtx (s : State) (p : Nat) (asid : BitVec 13) (node slot : Word) (r : Record) (tag : Option (BitVec 128))
    (gs : List (Nat × BitVec 32)) : Ctx :=
  { Ctx.entry s.nextId asid p false (recWord r.bytes 0 + 64) with
    code := s.recallAll.mem, codeLines := s.hostLines, cols := r.cols, spadBytes := r.spad, node := node, rslot := slot,
    prio := BitVec.ofNat 8 (recPrio r.bytes)
    job := some ⟨recDone r.bytes, recPure r.bytes, recTiles r.bytes, recResult r.bytes, recResultLen r.bytes, tag, gs, false,
      false, false⟩ }

theorem State.startTask_core {s : State} {p n : Nat} {asid : BitVec 13} {node slot : Word} {r : Record} {tag : Option (BitVec 128)}
    {gs : List (Nat × BitVec 32)} (alone : (s.core n).night = none) :
    ((s.startTask p n asid node slot r tag gs).core n).day = some ((s.startCtx p asid node slot r tag gs).withArgs r.bytes 8) ∧
    ((s.startTask p n asid node slot r tag gs).core n).full = [] := by
  have beside (t : State) (none : (t.core n).night = none) : t.besideNight n = t := by
    rw [State.besideNight, none]
    split
    · contradiction
    · rfl
  have core : (s.startTask p n asid node slot r tag gs).core n = { s.core n with
      day := some ((s.startCtx p asid node slot r tag gs).withArgs r.bytes 8)
      acc := if (s.core n).lastAsid == some asid then (s.core n).acc else []
      spad := if (s.core n).lastAsid == some asid then (s.core n).spad else []
      poison := if (s.core n).lastAsid == some asid then (s.core n).poison else []
      full := []
      retired := none
      lastAsid := some asid } := by
    rw [State.startTask, State.acquire_core, beside]
    · exact State.setCore_core ..
    · exact (congrArg Core.night (State.setCore_core ..)).trans alone
  exact ⟨congrArg Core.day core, congrArg Core.full core⟩

theorem State.startTask_starts {s : State} {p n : Nat} {asid : BitVec 13} {node slot : Word} {r : Record} {tag : Option (BitVec 128)}
    {gs : List (Nat × BitVec 32)} (alone : (s.core n).night = none) :
    ∃ x, ((s.startTask p n asid node slot r tag gs).core n).day = some x ∧
      x.pc = recWord r.bytes 0 + 64 ∧ x.sup = false ∧ x.asid = asid ∧ x.part = p ∧ x.node = node ∧ x.rslot = slot ∧
      x.cols = r.cols ∧ x.spadBytes = r.spad ∧ x.prio.toNat = recPrio r.bytes ∧
      (∀ k, 1 ≤ k → k ≤ 8 → x.g (BitVec.ofNat 6 k) = recWord r.bytes (3 + k)) ∧
      (∀ k, 9 ≤ k → k < 64 → x.g (BitVec.ofNat 6 k) = 0) ∧ x.cond = .run ∧ x.wait = .none ∧ x.fabric = none ∧ x.th = false ∧
      ((s.startTask p n asid node slot r tag gs).core n).full = [] := by
  obtain ⟨day, full⟩ := State.startTask_core (p := p) (asid := asid) (node := node) (slot := slot) (r := r) (tag := tag) (gs := gs) alone
  have keeps {β : Type} (f : Ctx → β) (hf : ∀ (y : Ctx) r v, f (y.setG r v) = f y) := Ctx.withArgs_keeps f hf
    (s.startCtx p asid node slot r tag gs) r.bytes 8
  refine ⟨_, day, keeps Ctx.pc Ctx.setG_pc, keeps Ctx.sup Ctx.setG_sup, keeps Ctx.asid Ctx.setG_asid, keeps Ctx.part Ctx.setG_part,
    keeps Ctx.node Ctx.setG_node, keeps Ctx.rslot Ctx.setG_rslot, keeps Ctx.cols Ctx.setG_cols, keeps Ctx.spadBytes Ctx.setG_spadBytes, ?prio,
    fun k some few => ?arg, fun k some few => ?zero, keeps Ctx.cond Ctx.setG_cond, keeps Ctx.wait Ctx.setG_wait,
    keeps Ctx.fabric Ctx.setG_fabric, keeps Ctx.th Ctx.setG_th, full⟩
  case prio =>
    rw [keeps Ctx.prio Ctx.setG_prio]
    exact (BitVec.toNat_ofNat ..).trans (Nat.mod_eq_of_lt (BitVec.isLt ((recWord r.bytes 1).extractLsb' 16 8)))
  case arg => rw [Ctx.withArgs_g _ _ some (by omega) le_rfl, if_pos few]
  case zero =>
    rw [Ctx.withArgs_g _ _ (by omega) few le_rfl, if_neg (by omega)]
    exact Ctx.entry_g s.nextId asid p false (recWord r.bytes 0 + 64) _

/-! Dusks, ages, returns and the faults of other blocks. -/

theorem State.askDusk_free {s : State} {n : Nat} {d : Dusk} (none : (s.core n).dusk = none) (unasked : (s.core n).asked = .none) :
    s.askDusk n d = s.setCore n { s.core n with asked := some d } := by
  have free : ((s.core n).dusk.isSome || (s.core n).asked.isSome) = false := by rw [none, unasked]; rfl
  simp only [State.askDusk, free, Bool.false_eq_true, if_false]

theorem State.askDusk_busy {s : State} {n : Nat} {d : Dusk} (busy : (s.core n).dusk ≠ none ∨ (s.core n).asked ≠ none) :
    s.askDusk n d = s := by
  have busy : ((s.core n).dusk.isSome || (s.core n).asked.isSome) = true := by
    rw [Bool.or_eq_true, Option.isSome_iff_ne_none, Option.isSome_iff_ne_none]; exact busy
  simp only [State.askDusk, busy, if_true]

section
variable {s : State} (alive : s.alive = true)
include alive

section
variable {p n : Nat} {q : Partition} {c : Cand} {ret : Bool} (part : s.part p = some q) (preempts : q.preempt ≠ 0)
  (first : ((orderCands (s.cands p q)).findSome? fun c => (s.target p q c).map fun t => (c, t)) = some (c, (n, ret)))
include part preempts first

theorem exec_schedulerDusk_asks : exec (.schedulerDusk p) s = .next (s.askDusk n
    ⟨ret, false, s.time, if ret then none else some (BitVec.ofNat 64 c.node, c.asid, c.number)⟩) := by
  simp only [exec_schedulerDusk, execSchedulerDusk, alive, part, beq_eq_false_iff_ne.mpr preempts, first, Bool.not_true, Bool.false_eq_true,
    if_false]

end

theorem exec_tyieldAgeExpiry_eligible {c : Nat} {y : Ctx} {q : Partition} (night : (s.core c).night = some y)
    (part : s.part y.part = some q) (yielded : y.yielded = true) (waits : y.eligible = false)
    (late : y.since.toNat + max 1 q.ageq.toNat ≤ s.time.toNat) :
    exec (.tyieldAgeExpiry c) s = .next (s.setNight c (some { y with eligible := true, yielded := false, since := s.time })) := by
  simp only [exec_tyieldAgeExpiry, execTyieldAgeExpiry, alive, night, part, yielded, waits, decide_eq_true late, Bool.not_true, Bool.not_false,
    Bool.and_self, Bool.false_eq_true, if_false, if_true]

theorem exec_taskResume_returns {c n : Nat} {y : Ctx} {k : Cand} (night : (s.core c).night = some y)
    (choice : s.choice y.part = some (k, n)) (work : k.work = .parked c) : exec (.taskResume c) s = .next (s.resumeParked c) := by
  simp only [exec_taskResume, execTaskResume, alive, night, choice, beq_iff_eq.mpr work, Bool.not_true, Bool.false_eq_true, if_false, if_true]

theorem exec_asyncTrap_taken {c : Nat} {x : Ctx} {t : Trap} {r : List Trap} (day : (s.core c).day = some x) (raised : x.traps = t :: r)
    (runs : x.halted = false) (cond : x.cond = .run) (boundary : x.atBoundary = true) : exec (.asyncTrap c) s =
      .next ((s.setDay c (some { x with traps := r })).takeTrap c { x with traps := r } t 0 x.pc false) := by
  simp only [exec_asyncTrap, execAsyncTrap, alive, day, raised, runs, beq_iff_eq.mpr cond, boundary, Bool.not_true, Bool.false_eq_true,
    if_false, if_true]

end

/-- Settles O50: DISPATCH and REUSE_LOOKUP by what they find, a start by the context it makes, and the rest by their definitions. -/
theorem schedulerWorks : Obligations.SchedulerWorks := by
  refine ⟨⟨fun s p n c q alive => ?dispatch,
      fun s o t u v w h p q node asid n bs r f alive part waits => ?lookup,
      fun s p n asid node slot r tag gs alone => State.startTask_starts alone⟩,
    fun s p n q c ret alive part preempts first => ?dusk,
    fun s c y q alive night part yielded waits late => exec_tyieldAgeExpiry_eligible alive night part yielded waits late,
    fun s c n y k alive night choice work => exec_taskResume_returns alive night choice work,
    fun s c x t r alive day raised runs cond boundary => exec_asyncTrap_taken alive day raised runs cond boundary⟩
  case dispatch =>
    intro t choice
    have ht : (s.resumeErrands p).lookHeads p = t := rfl
    clear_value t
    refine ⟨fun k work => exec_dispatch_parked alive ht choice work,
      fun r u work evicts part => exec_dispatch_ready alive ht choice work evicts part, fun node asid nd u work => ?_⟩
    intro ag a head
    refine ⟨fun v o w r checked evicts taken => ?_, fun e w refused taken => ?_⟩
    · rw [exec_dispatch_head alive ht choice work, State.dispatchHead_starts rfl head checked evicts taken]
    · rw [exec_dispatch_head alive ht choice work, State.dispatchHead_drops rfl head refused taken]
  case lookup =>
    intro ag a own head kind queued read pure checked found taken m
    refine ⟨?_, fun tag g q' run there => ?_⟩
    · rintro rfl
      exact exec_reuseLookup_hit alive part waits rfl own head kind queued read pure checked found taken
    · subst run
      exact exec_reuseLookup_run alive part waits rfl own head kind queued read pure checked found taken there
  case dusk =>
    refine ⟨fun none unasked => ?_, fun busy => ?_⟩
    · rw [exec_schedulerDusk_asks alive part preempts first, State.askDusk_free none unasked]
    · rw [exec_schedulerDusk_asks alive part preempts first, State.askDusk_busy busy]

end Sys2Proof.Machine
end

section
/-! PROOFS. Lookup cells (R401 to R420). The one idea: a sum of powers of two over lanes whose bit is set is the number with those bits, and
each cell of a layer is written once, at its own place. -/

namespace Sys2Proof.Machine

/-! Numbers from their bits. -/

/-- The number whose bits below `n` are given. -/
def laneSum (f : Nat → Bool) (n : Nat) : Nat := (List.range n).foldl (fun v l => if f l then v + 2 ^ l else v) 0

theorem laneSum_succ (f : Nat → Bool) (n : Nat) : laneSum f (n + 1) = if f n then laneSum f n + 2 ^ n else laneSum f n := by
  simp only [laneSum, List.range_succ, List.foldl_append, List.foldl_cons, List.foldl_nil]

theorem laneSum_lt (f : Nat → Bool) (n : Nat) : laneSum f n < 2 ^ n := by
  induction n with
  | zero => exact Nat.one_pos
  | succ n ih =>
    rw [laneSum_succ, Nat.pow_succ]
    split <;> omega

theorem testBit_laneSum (f : Nat → Bool) (n k : Nat) : (laneSum f n).testBit k = (decide (k < n) && f k) := by
  induction n with
  | zero => simp [laneSum]
  | succ n ih =>
    have below := laneSum_lt f n
    rw [laneSum_succ]
    rcases lt_trichotomy k n with less | rfl | more
    · have less' : k < n + 1 := by omega
      split
      · rw [Nat.add_comm, Nat.testBit_two_pow_add_gt less, ih, decide_eq_true less, decide_eq_true less']
      · rw [ih, decide_eq_true less, decide_eq_true less']
    · cases hf : f k with
      | true => rw [if_pos rfl, Nat.add_comm, Nat.testBit_two_pow_add_eq, Nat.testBit_lt_two_pow below]; simp
      | false => rw [if_neg Bool.false_ne_true, Nat.testBit_lt_two_pow below]; simp
    · rw [decide_eq_false (by omega), Bool.false_and]
      refine Nat.testBit_lt_two_pow (lt_of_lt_of_le ?_ (Nat.pow_le_pow_right two_pos (Nat.succ_le_of_lt more)))
      rw [Nat.pow_succ]
      split <;> omega

theorem foldl_bits (f : Nat → Bool) (o n : Nat) :
    (List.range n).foldl (fun v b => if f b then v + 2 ^ (o + b) else v) 0 = 2 ^ o * laneSum f n := by
  induction n with
  | zero => rfl
  | succ n ih =>
    rw [List.range_succ, List.foldl_append, ih, laneSum_succ]
    simp only [List.foldl_cons, List.foldl_nil]
    split
    · rw [Nat.mul_add, Nat.pow_add]
    · rfl

/-- Bits placed from `o` on, with all bits above them up to `w` set where the sign asks it. -/
theorem testBit_placed (f : Nat → Bool) {o n w b : Nat} (sign : Bool) (fits : o + n ≤ w) (low : b < w) :
    (if sign then 2 ^ o * laneSum f n + (2 ^ w - 2 ^ (o + n)) else 2 ^ o * laneSum f n).testBit b =
      if b < o then false else if b < o + n then f (b - o) else sign := by
  have inner (c : Nat) : (2 ^ o * (2 ^ n * c + laneSum f n)).testBit b =
      if b < o then false else if b < o + n then f (b - o) else c.testBit (b - o - n) := by
    rw [Nat.testBit_two_pow_mul]
    by_cases small : b < o
    · rw [if_pos small, decide_eq_false (by omega), Bool.false_and]
    · rw [if_neg small, decide_eq_true (by omega), Bool.true_and, Nat.testBit_two_pow_mul_add _ (laneSum_lt f n), testBit_laneSum]
      by_cases field : b < o + n
      · rw [if_pos field, if_pos (by omega), decide_eq_true (by omega), Bool.true_and]
      · rw [if_neg field, if_neg (by omega)]
  cases sign with
  | false =>
    have := inner 0
    simpa using this
  | true =>
    have ones : 2 ^ o * laneSum f n + (2 ^ w - 2 ^ (o + n)) = 2 ^ o * (2 ^ n * (2 ^ (w - o - n) - 1) + laneSum f n) := by
      have split : 2 ^ w = 2 ^ o * (2 ^ n * 2 ^ (w - o - n)) := by rw [← Nat.pow_add, ← Nat.pow_add]; congr 1; omega
      rw [split, Nat.pow_add, Nat.mul_sub_one, Nat.mul_add, Nat.mul_sub, Nat.add_comm]
    rw [if_pos rfl, ones, inner, Nat.testBit_two_pow_sub_one]
    by_cases small : b < o
    · rw [if_pos small, if_pos small]
    · by_cases field : b < o + n
      · rw [if_neg small, if_neg small, if_pos field, if_pos field]
      · rw [if_neg small, if_neg small, if_neg field, if_neg field, decide_eq_true (by omega)]

theorem foldl_count {α : Type} (p : α → Bool) (l : List α) (m : Nat) :
    l.foldl (fun v a => if p a then v + 1 else v) m = m + (l.filter p).length := by
  induction l generalizing m with
  | nil => rfl
  | cons a r ih =>
    rw [List.foldl_cons, ih, List.filter_cons]
    split
    · rw [List.length_cons]; omega
    · rfl

theorem foldl_add_length {α β : Type} (f : α → List β) (l : List α) (m : Nat) :
    l.foldl (fun v a => v + (f a).length) m = m + (l.flatMap f).length := by
  induction l generalizing m with
  | nil => rfl
  | cons a r ih => rw [List.foldl_cons, ih, List.flatMap_cons, List.length_append, Nat.add_assoc]

theorem Memory.take_drop_bytes (m : Memory) (a : Nat) {i k n : Nat} (h : i + k ≤ n) :
    ((Memory.bytes m a n).drop i).take k = Memory.bytes m (a + i) k := by
  simp only [Memory.bytes_eq_map]
  refine List.ext_getElem (by simp; omega) fun j hj hj' => ?_
  simp [Nat.add_assoc]

/-! A layer. -/

theorem Cells.foldl_set_zipIdx (f : Cell → BitVec 256) (cells : List Cell) (k : Nat) {p : Cells 256} (wf : p.wf = true) :
    (∀ i c, cells[i]? = some c → ((cells.zipIdx k).foldl (fun (p : Cells 256) q => p.set q.2 (f q.1)) p).get (k + i) = f c) ∧
    ∀ j, j < k ∨ k + cells.length ≤ j → ((cells.zipIdx k).foldl (fun (p : Cells 256) q => p.set q.2 (f q.1)) p).get j = p.get j := by
  induction cells generalizing k p with
  | nil => exact ⟨fun i c h => (by simp at h), fun j _ => rfl⟩
  | cons c r ih =>
    obtain ⟨at_, off⟩ := ih (k + 1) (Cells.wf_set wf k (f c))
    rw [List.zipIdx_cons, List.foldl_cons]
    dsimp only
    refine ⟨fun i d h => ?_, fun j hj => ?_⟩
    · cases i with
      | zero =>
        obtain rfl : c = d := by simpa using h
        exact (off k (Or.inl (Nat.lt_succ_self k))).trans ((Cells.get_set wf ..).trans (if_pos rfl))
      | succ i => rw [← at_ i d (by simpa using h), show k + (i + 1) = k + 1 + i by omega]
    · rw [List.length_cons] at hj
      rw [off j (by omega), Cells.get_set wf, if_neg (by omega)]

theorem runLayer_get {plane : Cells 256} (lkc : Word) (cells : List Cell) (wf : plane.wf = true) :
    (∀ j c, cells[j]? = some c → (runLayer plane lkc cells).get j = c.eval (wireAt plane lkc)) ∧
    ∀ j, cells.length ≤ j → (runLayer plane lkc cells).get j = plane.get j := by
  obtain ⟨at_, off⟩ := Cells.foldl_set_zipIdx (fun c => c.eval (wireAt plane lkc)) cells 0 wf
  refine ⟨fun j c h => ?_, fun j h => off j (Or.inr (by omega))⟩
  rw [← at_ j c h, Nat.zero_add]
  rfl

/-! The words. -/

/-- A register that names wires holds the first one and their number less one. -/
theorem wireRange_ok {word w : Word} {limit first n : Nat} (hw : w.toNat = first + 65536 * (n - 1)) (some : 1 ≤ n) (few : n ≤ 32)
    (fits : first + n ≤ limit) (small : limit ≤ 4096) : wireRange word w limit = .ok (first, n) := by
  have at0 : (w.extractLsb' 0 12).toNat = first := by
    rw [BitVec.extractLsb'_toNat, Nat.shiftRight_zero]; omega
  have at16 : (w.extractLsb' 16 5).toNat + 1 = n := by
    rw [BitVec.extractLsb'_toNat, Nat.shiftRight_eq_div_pow]; omega
  have at12 : w.extractLsb' 12 4 = 0 := BitVec.eq_of_toNat_eq (by
    rw [BitVec.extractLsb'_toNat, Nat.shiftRight_eq_div_pow]; show _ = 0; omega)
  have at21 : w.extractLsb' 21 43 = 0 := BitVec.eq_of_toNat_eq (by
    rw [BitVec.extractLsb'_toNat, Nat.shiftRight_eq_div_pow]; show _ = 0; omega)
  simp only [wireRange, at0, at16, at12, at21]
  exact congrArg (· >>= _) (require_ok (by rw [decide_eq_true fits]; rfl))

section
variable {s t u : State} {x : Ctx} {i : Instr} {g : Guard} {body : State → Ctx → Res (State × Flow)} (h : s.ready x g)
  (took : s.takePlane x = .ok t)
include h took

theorem lookup_seq (runs : body t (t.now x) = .ok (u, .seq)) : lookup i g s body = .next (u.ended s x) := by
  refine control_seq h (by simp) ?_
  simp only [took, runs, Res.ok_bind]

end

theorem State.sliceChecks_ok {t : State} {y : Ctx} {word range off : Word} {w sh first n : Nat}
    (named : range.toNat = first + 65536 * (n - 1)) (some : 1 ≤ n) (few : n ≤ 32) (fits : first + n ≤ 2048) (field : sh + n ≤ w)
    (aligned : off.toNat % 16 = 0) (small : off.toNat < 2 ^ 32) (claim : off.toNat + 32 * w ≤ y.spadBytes)
    (free : (t.core t.cur).spadReady off.toNat (32 * w) = true) :
    t.sliceChecks y word range off w sh = .ok (first, n, off.toNat) := by
  obtain ⟨-, high⟩ := low_word small
  have shape : (decide (sh + n ≤ w) && off.extractLsb' 32 32 == 0) = true := by rw [decide_eq_true field, high]; rfl
  have claim : claimSpad y off (32 * w) = .ok () := require_ok (decide_eq_true claim)
  simp only [State.sliceChecks, wireRange_ok named some few fits (by decide), require_ok shape, require_ok (beq_iff_eq.mpr aligned), claim,
    await_ok free, Res.ok_bind]

theorem Core.spadReady_mono {c : Core} {o m n : Nat} (h : m ≤ n) (ready : c.spadReady o n = true) : c.spadReady o m = true := by
  rw [Core.spadReady] at ready ⊢
  cases night : c.night with
  | none => rfl
  | some y =>
    simp only [night, Bool.or_eq_true, decide_eq_true_eq] at ready ⊢
    exact ready.imp_right fun fits => by omega

section
variable {s t : State} {x : Ctx} {g : Guard} {d a : Reg} (h : s.ready x g) (took : s.takePlane x = .ok t)
include h took

section
variable {ty : Ty} {sh : BitVec 6} {first n : Nat} (some : 1 ≤ n) (few : n ≤ 32) (fits : first + n ≤ 2048)
  (field : sh.toNat + n ≤ ty.bits)
include some few fits field

theorem exec_bslice_writes (named : ((t.now x).g d).toNat = first + 65536 * (n - 1)) (aligned : ((t.now x).g a).toNat % 16 = 0)
    (small : ((t.now x).g a).toNat < 2 ^ 32) (claim : ((t.now x).g a).toNat + 32 * ty.bits ≤ (t.now x).spadBytes)
    (free : (t.core t.cur).spadReady ((t.now x).g a).toNat (32 * ty.bits) = true)
    (clean : (t.core t.cur).spadPoisoned ((t.now x).g a).toNat (32 * ty.bits) = false) :
    ∃ v : Nat → BitVec 256, exec (.bslice g d a ty sh) s = .next ((t.setCore t.cur { t.core t.cur with
        plane := (List.range n).foldl (fun p b => Cells.set p (first + b) (v b)) (t.core t.cur).plane }).ended s x) ∧
      ∀ l b, l < 256 → b < n → (v b).getLsbD l = (leNat (Memory.bytes (t.core t.cur).spad
        (((t.now x).g a).toNat + l * (ty.bits / 8)) (ty.bits / 8))).testBit (sh.toNat + b) := by
  refine ⟨fun b => BitVec.ofNat 256 (laneSum (fun l => (leNat (((Memory.bytes (t.core t.cur).spad ((t.now x).g a).toNat (32 * ty.bits)).drop
    (l * (ty.bits / 8))).take (ty.bits / 8))).testBit (sh.toNat + b)) 256), ?_, fun l b hl _ => ?_⟩
  · rw [exec_bslice, execBslice]
    refine lookup_seq h took ?_
    have claim : claimSpad (t.now x) ((t.now x).g a) (32 * ty.bits) = .ok () := require_ok (decide_eq_true claim)
    have sound : (!(t.core t.cur).spadPoisoned ((t.now x).g a).toNat (32 * ty.bits)) = true := by rw [clean]; rfl
    simp only [State.sliceChecks_ok named some few fits field aligned small ‹_› free, State.readSpad, claim, await_ok free,
      require_ok sound, Res.ok_bind]
    rfl
  · have inside : l * (ty.bits / 8) + ty.bits / 8 ≤ 32 * ty.bits := by
      have := Nat.mul_le_mul_right (ty.bits / 8) (Nat.succ_le_of_lt hl)
      have := Nat.div_mul_le_self ty.bits 8
      rw [Nat.succ_mul] at *
      omega
    rw [BitVec.getLsbD_ofNat, testBit_laneSum, decide_eq_true hl, Bool.true_and, Bool.true_and, Memory.take_drop_bytes _ _ inside]

theorem exec_bjoin_writes (named : ((t.now x).g a).toNat = first + 65536 * (n - 1)) (aligned : ((t.now x).g d).toNat % 16 = 0)
    (small : ((t.now x).g d).toNat < 2 ^ 32) (claim : ((t.now x).g d).toNat + 32 * ty.bits ≤ (t.now x).spadBytes)
    (free : (t.core t.cur).spadReady ((t.now x).g d).toNat (32 * ty.bits) = true) :
    ∃ e : Nat → Nat, exec (.bjoin g d a ty sh) s = .next ((t.setCore t.cur ((t.core t.cur).putSpad ((t.now x).g d).toNat
        ((List.range 256).flatMap fun l => natLe (ty.bits / 8) (e l)))).ended s x) ∧
      ∀ l b, l < 256 → b < ty.bits → (e l).testBit b = if b < sh.toNat then false
        else if b < sh.toNat + n then ((t.core t.cur).plane.get (first + (b - sh.toNat))).getLsbD l
        else ty.signed && ((t.core t.cur).plane.get (first + n - 1)).getLsbD l := by
  let plane := (t.core t.cur).plane
  refine ⟨fun l =>
    let v := (List.range n).foldl (fun v b => if (plane.get (first + b)).getLsbD l then v + 2 ^ (sh.toNat + b) else v) 0
    if ty.signed && (plane.get (first + n - 1)).getLsbD l then v + (2 ^ ty.bits - 2 ^ (sh.toNat + n)) else v, ?_, fun l b _ low => ?_⟩
  · rw [exec_bjoin, execBjoin]
    refine lookup_seq h took ?_
    have length (f : Nat → Nat) : ((List.range 256).flatMap fun l => natLe (ty.bits / 8) (f l)).length ≤ 32 * ty.bits := by
      have := Nat.div_mul_le_self ty.bits 8
      simp only [List.length_flatMap, natLe_length, List.map_const', List.sum_replicate, List.length_range, smul_eq_mul]
      omega
    have claimed {m : Nat} (less : m ≤ 32 * ty.bits) : claimSpad (t.now x) ((t.now x).g d) m = .ok () :=
      require_ok (decide_eq_true (by omega))
    simp only [State.sliceChecks_ok named some few fits field aligned small claim free, State.writeSpad, claimed (length _),
      await_ok (Core.spadReady_mono (length _) free), Res.ok_bind]
    rfl
  · dsimp only
    rw [foldl_bits (fun b => (plane.get (first + b)).getLsbD l)]
    exact testBit_placed _ _ field low

end

theorem exec_lctx_starts {slot : BitVec 2} (aligned : ((t.now x).g a).toNat % 32 = 0)
    (idle : ∀ i m cs wh r, (t.now x).lcSlot slot ≠ .loading i m cs wh r) :
    exec (.lctx g slot a) s = .next (((t.handOver (t.me (t.now x)) (coreAgent 1 t.cur (12 + slot.toNat) (t.now x).id (t.now x).asid)).setCtx
      { t.now x with lcSlots := (t.now x).lcSlots.set slot.toNat (.loading ((t.now x).g a) none [] none none) }).ended s x) := by
  rw [exec_lctx, execLctx]
  refine lookup_seq h took ?_
  simp only [require_ok (beq_iff_eq.mpr aligned), Res.ok_bind]
  cases at_ : (t.now x).lcSlot slot with
  | loading i m cs wh r => exact absurd at_ (idle i m cs wh r)
  | empty f => rfl
  | resident cells => rfl

theorem exec_lsel_selects {slot : BitVec 2} : exec (.lsel g slot) s = .next ((t.setCtx { t.now x with lcSel := some slot }).ended s x) :=
  (exec_lsel ..).trans (lookup_seq h took rfl)

theorem exec_lrun_runs {slot : BitVec 2} {cells : List Cell} (selected : (t.now x).lcSel = some slot)
    (resident : (t.now x).lcSlot slot = .resident cells) : exec (.lrun g) s = .next (((t.setCore t.cur { t.core t.cur with
      plane := runLayer (t.core t.cur).plane (t.now x).lkc cells }).setCtx { t.now x with runs := (t.now x).runs + 1 }).ended s x) := by
  rw [exec_lrun, execLrun]
  refine lookup_seq h took ?_
  simp only [selected, resident]

theorem exec_lstatPop_counts {first n : Nat} (named : ((t.now x).g a).toNat = first + 65536 * (n - 1)) (some : 1 ≤ n) (few : n ≤ 32)
    (fits : first + n ≤ 2112) : exec (.lstatPop g d a) s = .next ((t.setCtx ((t.now x).setG d (BitVec.ofNat 64
      (((List.range n).flatMap fun j => (List.range 256).filter fun l =>
        (wireAt (t.core t.cur).plane (t.now x).lkc (first + j)).getLsbD l).length)))).ended s x) := by
  rw [exec_lstatPop, execLstatPop]
  refine lookup_seq h took ?_
  simp only [wireRange_ok named some few fits (by decide), Res.ok_bind, foldl_count, Nat.zero_add, foldl_add_length, State.setG]

theorem exec_lstatWord_reads {first : Nat} {q : BitVec 2} (named : ((t.now x).g a).toNat = first) (fits : first < 2112) :
    exec (.lstatWord g d a q) s = .next ((t.setCtx ((t.now x).setG d
      ((wireAt (t.core t.cur).plane (t.now x).lkc first).extractLsb' (64 * q.toNat) 64))).ended s x) := by
  rw [exec_lstatWord, execLstatWord]
  refine lookup_seq h took ?_
  have one : wireRange (encode (.lstatWord g d a q)) ((t.now x).g a) 2112 = .ok (first, 1) :=
    wireRange_ok (by omega) (by decide) (by decide) (by omega) (by decide)
  simp only [one, Res.ok_bind]
  rfl

theorem exec_lstatSlot_reads {slot : BitVec 2} :
    exec (.lstatSlot g d slot) s = .next ((t.setCtx ((t.now x).setG d (BitVec.ofNat 64
      ((if (t.now x).lcSel = some slot then 2 ^ 19 else 0) + match (t.now x).lcSlot slot with
        | .empty f => if f then 2 ^ 18 else 0
        | .loading _ m _ _ _ => 2 ^ 17 + m.getD 0 % 2 ^ 12
        | .resident cells => 2 ^ 16 + cells.length % 2 ^ 12)))).ended s x) := by
  rw [exec_lstatSlot, execLstatSlot]
  refine lookup_seq h took ?_
  have chosen : ((t.now x).lcSel == some slot).toNat * 2 ^ 19 = if (t.now x).lcSel = some slot then 2 ^ 19 else 0 := by
    by_cases same : (t.now x).lcSel = some slot
    · rw [beq_iff_eq.mpr same, if_pos same]; rfl
    · rw [beq_eq_false_iff_ne.mpr same, if_neg same]; rfl
  rw [chosen]
  generalize (if (t.now x).lcSel = some slot then 2 ^ 19 else 0) = sel
  refine congrArg (fun v => Except.ok (t.setCtx ((t.now x).setG d (BitVec.ofNat 64 v)), Flow.seq)) ?_
  rw [Nat.add_comm]
  refine congrArg (sel + ·) ?_
  cases (t.now x).lcSlot slot with
  | empty f => cases f <;> rfl
  | loading _ m _ _ _ => exact Nat.add_comm ..
  | resident cells => exact Nat.add_comm ..

theorem exec_lstatRuns_reads : exec (.lstatRuns g d) s = .next ((t.setCtx ((t.now x).setG d (t.now x).runs)).ended s x) :=
  (exec_lstatRuns ..).trans (lookup_seq h took rfl)

end

/-! A stream comes in. -/

section
variable {s t : State} {c slot entry m : Nat} {x : Ctx} {image : Word} {bs : List Byte} (alive : s.alive = true)
  (loads : s.loader c slot entry = some x)
include alive loads

theorem exec_tableLoadEntry_header (at_ : x.lcSlots[slot]? = some (.loading image none [] none none))
    (read : s.load (coreAgent 1 c (12 + slot) x.id x.asid) image 32 = .ok (t, bs)) (some : 1 ≤ m) (few : m ≤ 2048)
    (count : leWord ((bs.drop (8 * 0)).take 8) = BitVec.ofNat 64 m) (zero1 : leWord ((bs.drop (8 * 1)).take 8) = 0)
    (zero2 : leWord ((bs.drop (8 * 2)).take 8) = 0) (zero3 : leWord ((bs.drop (8 * 3)).take 8) = 0) :
    exec (.tableLoadEntry c slot entry) s = .next ((t.consume (coreAgent 1 c (12 + slot) x.id x.asid)).setLcSlot c x.id slot
      (.loading image (.some m) [] none none)) := by
  have low : ((BitVec.ofNat 64 m).extractLsb' 0 12).toNat = m := by
    rw [BitVec.extractLsb'_toNat, Nat.shiftRight_zero, BitVec.toNat_ofNat]; omega
  have high : (BitVec.ofNat 64 m).extractLsb' 12 52 = 0 := BitVec.eq_of_toNat_eq (by
    rw [BitVec.extractLsb'_toNat, Nat.shiftRight_eq_div_pow, BitVec.toNat_ofNat]; show _ = 0; omega)
  have header : (decide (1 ≤ m) && decide (m ≤ 2048) && (0 : BitVec 52) == 0 && (0 : Word) == 0 && (0 : Word) == 0 && (0 : Word) == 0) =
      true := by
    rw [decide_eq_true some, decide_eq_true few]; rfl
  simp only [exec_tableLoadEntry, execTableLoadEntry, alive, loads, at_, Option.getD_some, State.loadEntry, read, count, low, high, zero1,
    zero2, zero3, header, Bool.not_true, Bool.false_eq_true, if_false, if_true]

theorem exec_tableLoadEntry_cell {cells : List (Nat × Cell)} {cell : Cell}
    (at_ : x.lcSlots[slot]? = some (.loading image (some m) cells none none))
    (read : s.load (coreAgent 1 c (12 + slot) x.id x.asid) (image + BitVec.ofNat 64 (32 + 32 * entry)) 32 = .ok (t, bs))
    (made : cellOf (leWord ((bs.drop (8 * 0)).take 8)) (leWord ((bs.drop (8 * 1)).take 8)) (leWord ((bs.drop (8 * 2)).take 8))
      (leWord ((bs.drop (8 * 3)).take 8)) = some cell) :
    exec (.tableLoadEntry c slot entry) s = .next ((t.consume (coreAgent 1 c (12 + slot) x.id x.asid)).setLcSlot c x.id slot
      (if (tabPut cells entry cell).length = m then .resident ((tabPut cells entry cell).map (·.2))
        else .loading image (some m) (tabPut cells entry cell) none none)) := by
  simp only [exec_tableLoadEntry, execTableLoadEntry, alive, loads, at_, Option.getD_some, State.loadEntry, read, made, beq_iff_eq,
    Bool.not_true, Bool.false_eq_true, if_false]
  split <;> rfl

end

/-- Settles O47: the words over the plane that was taken, a layer by the places its cells write, and a stream entry by entry. -/
theorem lookupCellsComplete : Obligations.LookupCellsComplete := by
  unfold Obligations.LookupCellsComplete
  refine ⟨fun s t x g d a ty sh slot q h took => ?words, fun plane lkc cells wf => runLayer_get lkc cells wf,
    fun s t c slot entry x image cells m bs alive loads => ?stream⟩
  case words =>
    exact ⟨fun first n named some few fits field aligned small claim free clean =>
        exec_bslice_writes h took some few fits field named aligned small claim free clean,
      fun first n named some few fits field aligned small claim free =>
        exec_bjoin_writes h took some few fits field named aligned small claim free,
      exec_lctx_starts h took, exec_lsel_selects h took, fun cells => exec_lrun_runs h took,
      fun first n named some few fits => exec_lstatPop_counts h took named some few fits,
      fun first named fits => exec_lstatWord_reads h took named fits, exec_lstatSlot_reads h took, exec_lstatRuns_reads h took⟩
  case stream =>
    exact ⟨fun at_ read some few count zero1 zero2 zero3 =>
        exec_tableLoadEntry_header alive loads at_ read some few count zero1 zero2 zero3,
      fun cell at_ _ _ read made => exec_tableLoadEntry_cell alive loads at_ read made⟩

end Sys2Proof.Machine
end

section
/-! PROOFS. Register reads and writes (R94 to R96): a write of PRT_AROOT reads the entry twice, and each of the two reads recalls a copy of its
line where the table of copies names the line twice. -/

namespace Sys2Proof.Machine

/-- A supervisor of partition 0. -/
def Ctx.supervisor : Ctx := Ctx.entry 0 0 0 true 0

/-- Its machine, where the table of update-only copies names line 0, in which the ASID table begins, twice. -/
def State.twiceCopied : State :=
  { State.reset.setCore 0 { Core.idle with day := some Ctx.supervisor } with
    parts := [(0, Partition.fresh 0 1 [(0, 0)] 1)], updates := [(0, []), (0, [(0, ⟨.add, true, 0, [(64, 1)]⟩)])] }

/-- The second read of the entry recalls the copy that the first one left behind, and memory is not what one recall leaves. -/
theorem State.twiceCopied_writes :
    (match State.twiceCopied.csrWrite Ctx.supervisor 0 0x286 0 with
      | .ok t => t.mem != (State.twiceCopied.recall (lineOf (State.twiceCopied.asidAddr 0 0))).mem
      | .error _ => false) = true := by
  decide +kernel

theorem State.twiceCopied_entry : State.twiceCopied.region (State.twiceCopied.asidAddr 0 0) = .hbm ∧
    State.twiceCopied.sectorPoisoned (State.twiceCopied.asidAddr 0 0) = false ∧
    entryPart (leWord (Memory.bytes (State.twiceCopied.recall (lineOf (State.twiceCopied.asidAddr 0 0))).mem
      (State.twiceCopied.asidAddr 0 0) 8)) = Ctx.supervisor.part := by
  decide +kernel

/-- Refutes O23: in a state whose table of update-only copies names the line of the ASID's entry twice, a write of PRT_AROOT leaves a memory
other than the one that a single recall of that line leaves. -/
theorem not_registerSpaceAccessesComplete : ¬ Obligations.RegisterSpaceAccessesComplete := by
  rintro ⟨-, -, fields, -⟩
  obtain ⟨-, -, -, -, -, -, root, -⟩ := fields State.twiceCopied Ctx.supervisor (Partition.fresh 0 1 [(0, 0)] 1) 0 0 rfl rfl rfl
  obtain ⟨here, sound, own⟩ := State.twiceCopied_entry
  obtain ⟨written, -⟩ := root here sound
  obtain ⟨t, -, wrote, -, mem, -⟩ := written own
  have differs := State.twiceCopied_writes
  rw [wrote] at differs
  exact absurd mem (bne_iff_ne.mp differs)

end Sys2Proof.Machine
end

section
/-! PROOFS. MMA and MMAS (R140 to R147, R163): both run over scratchpad operands in one way, once their checks have passed, and from channels
group by group. -/

namespace Sys2Proof.Machine

theorem Ctx.mmaSaved_fresh {x : Ctx} (none : ∀ m, tabGet x.mma x.th.toNat = some m → m.pc ≠ x.pc) :
    x.mmaSaved = ⟨x.pc, 0, [], []⟩ := by
  rw [Ctx.mmaSaved]
  cases saved : tabGet x.mma x.th.toNat with
  | none => rfl
  | some m => simp only [beq_eq_false_iff_ne.mpr (none m saved), Bool.false_eq_true, if_false]

theorem State.mayUse.mmaCols_eq {s : State} {x : Ctx} {d : Reg} {cols : Cols} (h : s.mayUse x d cols) (whole : cols.n % 16 = 0)
    (few : cols.n ≤ 128) (word : Word) : mmaCols word (x.g d) = .ok cols := by
  rw [mmaCols, h.colRange_eq, Res.ok_bind, require_ok (by rw [beq_iff_eq.mpr whole, decide_eq_true few]; rfl), Res.ok_bind]

/-! How far it goes before a marker. -/

theorem State.before_unasked {s : State} (left : Nat) (none : (s.core s.cur).asked = none) : s.before left = left := by
  rw [State.before, none]; rfl

theorem State.before_le (s : State) (left : Nat) : s.before left ≤ left := by
  rw [State.before]
  split
  · exact min_le_left ..
  · exact le_rfl

theorem State.before_pos (s : State) {left : Nat} (some : 0 < left) : 1 ≤ s.before left := by
  rw [State.before]
  split
  · exact le_min some (by omega)
  · exact some

/-- A product over scratchpad operands ends, or stops before a marker, by the groups it went through. -/
theorem runMma_ends {s : State} {x : Ctx} {cols : Cols} {k : Nat} {va vb : Nat → Nat → FVal} {word : Word} {o : Out}
    (runs : o = .next (((s.runMma x cols k va vb).1.consume (s.me x)).finish s.cur word (s.runMma x cols k va vb).2)) :
    ((s.core s.cur).asked = none →
      o = .next ((s.addGroups cols x.mmaSaved.done (k / 16 - x.mmaSaved.done) va vb).ended s x)) ∧
    ((s.core s.cur).asked ≠ none → 0 < k / 16 - x.mmaSaved.done → ∃ n, 1 ≤ n ∧ n ≤ k / 16 - x.mmaSaved.done ∧
      o = .next (if n = k / 16 - x.mmaSaved.done then (s.addGroups cols x.mmaSaved.done n va vb).ended s x else
        ((s.addGroups cols x.mmaSaved.done n va vb).setCtx
          { x.saveMma { x.mmaSaved with done := x.mmaSaved.done + n } with wait := .operand }).consume (s.me x))) := by
  subst runs
  refine ⟨fun none => ?_, fun _ some => ⟨_, s.before_pos some, s.before_le _, ?_⟩⟩
  · simp only [State.runMma, State.before_unasked _ none, beq_self_eq_true, if_true]
    rfl
  · by_cases whole : s.before (k / 16 - x.mmaSaved.done) = k / 16 - x.mmaSaved.done
    · rw [if_pos whole, State.runMma, whole]
      simp only [beq_self_eq_true, if_true]
      rfl
    · rw [if_neg whole, State.runMma, if_neg (fun e => whole (beq_iff_eq.mp e)), State.finish_gone]

/-! The words over scratchpad operands. -/

section
variable {s : State} {x : Ctx} {g : Guard} {d a b c : Reg} {ty : Ty} {bt : Bool} {cols : Cols} {da db : Desc} {k : Nat} (h : s.ready x g)
  (hd : s.mayUse x d cols) (whole : cols.n % 16 = 0) (few : cols.n ≤ 128) (small : k < 2 ^ 32)
include h hd whole few small

/-- The elements of A, under their scales. -/
def elemA (m : Memory) (da : Desc) (ty : Ty) (k : Nat) (i q : Nat) : FVal := scaled (da.elem m (aType ty) i q) (da.scaleOf m 32 k i q)

/-- The elements of B, under their scales. -/
def elemB (m : Memory) (db : Desc) (ty : Ty) (bt : Bool) (k n : Nat) (q j : Nat) : FVal :=
  scaled (bElem db m ty bt q j) (bScale db m ty bt k n q j)

section
variable (ha : x.holdsDesc a da) (hb : x.holdsDesc b db) (claimA : claimA x da ty k = .ok ()) (readyA : s.readyA x da ty k = .ok ())
include ha hb claimA readyA

theorem exec_mma_runs (spadA : a ≠ 0) (spadB : b ≠ 0) (depth : (x.g c).toNat = k) (fits : depthOk ty (da.sc || db.sc) false k = true)
    (claimB : claimB x db ty bt k cols.n = .ok ()) (readyB : s.readyB x db ty bt k cols.n = .ok ()) :
    let m := (s.core s.cur).spad
    let r := s.runMma x cols k (elemA m da ty k) (elemB m db ty bt k cols.n)
    exec (.mma g d a b c ty bt) s = .next ((r.1.consume (s.me x)).finish s.cur (encode (.mma g d a b c ty bt)) r.2) := by
  rw [exec_mma, execMma, control_ready h (by simp)]
  obtain ⟨fieldsA, placesA⟩ := ha
  obtain ⟨fieldsB, placesB⟩ := hb
  obtain ⟨low, high⟩ := low_word (w := x.g c) (by rw [depth]; exact small)
  have shape : ((0 : BitVec 32) == 0 && depthOk ty (da.sc || db.sc) false k) = true := by rw [fits]; rfl
  simp only [beq_eq_false_iff_ne.mpr spadA, beq_eq_false_iff_ne.mpr spadB, hd.mmaCols_eq whole few, fieldsA, fieldsB, low, depth, high,
    require_ok shape, placesA, placesB, hd.claimCols_eq, claimA, claimB, readyA, readyB, Bool.not_false, Bool.true_or, Bool.and_self,
    Bool.or_self, Bool.false_eq_true, if_false, Res.ok_bind]
  cases x.fabric with
  | none => rfl
  | some f => rfl

theorem exec_mmas_runs {off : Nat} (depth : (x.g c).toNat = k + 2 ^ 32 * off) (fits : depthOk ty (da.sc || db.sc) true k = true)
    (claimB : claimB x db ty bt (k / 2) cols.n = .ok ()) (readyB : s.readyB x db ty bt (k / 2) cols.n = .ok ()) (aligned : off % 16 = 0)
    (room : off + cols.n * (k / 8) ≤ x.spadBytes) (clean : (s.core s.cur).spadPoisoned off (cols.n * (k / 8)) = false) :
    let m := (s.core s.cur).spad
    let r := s.runMma x cols k (elemA m da ty k) (fun q j => match sourceRow (nibble m off k j (q / 4)) (q / 4) (q % 4) with
      | some r => elemB m db ty bt (k / 2) cols.n r j
      | none => .fin false 0 0)
    exec (.mmas g d a b c ty bt) s = .next ((r.1.consume (s.me x)).finish s.cur (encode (.mmas g d a b c ty bt)) r.2) := by
  rw [exec_mmas, execMmas, control_ready h (by simp)]
  obtain ⟨fieldsA, placesA⟩ := ha
  obtain ⟨fieldsB, placesB⟩ := hb
  obtain ⟨low, high⟩ := word_halves depth small
  have claimOff : claimOff x off (cols.n * (k / 8)) = .ok () := require_ok (decide_eq_true room)
  have sound : (s.core s.cur).rangePoison off (cols.n * (k / 8)) = .ok () := require_ok (by rw [clean]; rfl)
  simp only [hd.mmaCols_eq whole few, fieldsA, fieldsB, low, high, require_ok fits, placesA, placesB, offAligned_ok aligned, hd.claimCols_eq,
    claimA, claimB, claimOff, readyA, readyB, sound, Res.ok_bind]
  rfl

end

end

/-! From channels. -/

/-- Of an operand that comes from a channel, no element of the scratchpad is used. -/
theorem mmaGroups_congr {cols : Cols} {k : Nat} {ty : Ty} {chA chB : Bool} {a a' b b' : Nat → Nat → FVal} (sameA : chA = false → a = a')
    (sameB : chB = false → b = b') (word : Word) (fuel : Nat) (s : State) (x : Ctx) (f : Fabric) (m : MmaSaved) :
    mmaGroups cols k ty chA chB a b word fuel s x f m = mmaGroups cols k ty chA chB a' b' word fuel s x f m := by
  induction fuel generalizing s f m with
  | zero => rw [mmaGroups, mmaGroups]
  | succ fuel ih =>
    rw [mmaGroups, mmaGroups]
    have groupA (e : Nat → Nat → FVal) : (fun i q => if chA then e i q else a i q) = fun i q => if chA then e i q else a' i q := by
      cases chA with
      | false => rw [sameA rfl]
      | true => rfl
    have groupB (e : Nat → Nat → FVal) : (fun i q => if chB then e i q else b i q) = fun i q => if chB then e i q else b' i q := by
      cases chB with
      | false => rw [sameB rfl]
      | true => rfl
    simp only [ih]
    simp only [groupA, groupB]

section
variable {s : State} {x : Ctx} {g : Guard} {d a b c : Reg} {ty : Ty} {bt : Bool} {cols : Cols} {da db : Desc} {k : Nat} {f : Fabric}

theorem exec_mma_channel {chA chB : Bool} (hA : (a == 0) = chA) (hB : (b == 0) = chB) (h : s.ready x g) (channel : (chA || chB) = true)
    (hd : s.mayUse x d cols) (whole : cols.n % 16 = 0) (few : cols.n ≤ 128) (fabric : x.fabric = some f) (depth : (x.g c).toNat = k)
    (small : k < 2 ^ 32) (fits : depthOk ty (da.sc || db.sc) false k = true)
    (wiredA : chA = true → f.wiredIn 80 0 = true ∧ f.wiredIn 80 1 = true ∧ da.sc = false)
    (spadA : chA = false → x.holdsDesc a da ∧ claimA x da ty k = .ok () ∧ s.readyA x da ty k = .ok ())
    (wiredB : chB = true → f.wiredIn 81 0 = true ∧ f.wiredIn 81 1 = true ∧ db.sc = false)
    (spadB : chB = false → x.holdsDesc b db ∧ claimB x db ty bt k cols.n = .ok () ∧ s.readyB x db ty bt k cols.n = .ok ()) :
    let m := (s.core s.cur).spad
    let word := encode (.mma g d a b c ty bt)
    let r := mmaGroups cols k ty chA chB (elemA m da ty k) (elemB m db ty bt k cols.n) word
      (s.before (k / 16 - x.mmaSaved.done)) s x f x.mmaSaved
    exec (.mma g d a b c ty bt) s = .next ((r.1.consume (s.me x)).finish s.cur word r.2) := by
  rw [exec_mma, execMma, control_ready h (by simp)]
  obtain ⟨low, high⟩ := low_word (w := x.g c) (by rw [depth]; exact small)
  have shape {sc : Bool} (fits : depthOk ty sc false k = true) : ((0 : BitVec 32) == 0 && depthOk ty sc false k) = true := by
    rw [fits]; rfl
  have none : (⟨0, 0, 0, 0, false, 0⟩ : Desc).aligned = .ok () := rfl
  let out (r : State × Flow) : Out := .next ((r.1.consume (s.me x)).finish s.cur (encode (.mma g d a b c ty bt)) r.2)
  cases chA with
  | true =>
    obtain ⟨inA0, inA1, plainA⟩ := wiredA rfl
    rw [plainA, Bool.false_or] at fits
    cases chB with
    | true =>
      obtain ⟨inB0, inB1, plainB⟩ := wiredB rfl
      rw [plainB] at fits
      simp only [hA, hB, hd.mmaCols_eq whole few, low, depth, high, require_ok (shape fits), fabric, inA0, inA1, inB0, inB1, none,
        hd.claimCols_eq, Bool.not_true, Bool.false_or, Bool.or_self, Bool.and_self, if_true, Res.ok_bind]
      refine congrArg out (mmaGroups_congr ?_ ?_ ..)
      · exact nofun
      · exact nofun
    | false =>
      obtain ⟨⟨fieldsB, placesB⟩, claimB, readyB⟩ := spadB rfl
      simp only [hA, hB, hd.mmaCols_eq whole few, low, depth, high, fieldsB, require_ok (shape fits), fabric, inA0, inA1, none, placesB,
        hd.claimCols_eq, claimB, readyB, Bool.not_true, Bool.not_false, Bool.false_or, Bool.true_or, Bool.or_false, Bool.and_self,
        Bool.false_eq_true, if_true, if_false, Res.ok_bind]
      refine congrArg out (mmaGroups_congr ?_ ?_ ..)
      · exact nofun
      · exact fun _ => rfl
  | false =>
    obtain rfl : chB = true := channel
    obtain ⟨⟨fieldsA, placesA⟩, claimA, readyA⟩ := spadA rfl
    obtain ⟨inB0, inB1, plainB⟩ := wiredB rfl
    rw [plainB, Bool.or_false] at fits
    simp only [hA, hB, hd.mmaCols_eq whole few, low, depth, high, fieldsA, require_ok (shape fits), fabric, inB0, inB1, none, placesA,
      hd.claimCols_eq, claimA, readyA, Bool.not_true, Bool.not_false, Bool.true_or, Bool.and_self, Bool.or_true, Bool.or_false,
      Bool.false_eq_true, if_true, if_false, Res.ok_bind]
    refine congrArg out (mmaGroups_congr ?_ ?_ ..)
    · exact fun _ => rfl
    · exact nofun

end

section
variable {cols : Cols} {k : Nat} {ty : Ty} {chA chB : Bool} {a b : Nat → Nat → FVal} {word : Word} {s : State} {x : Ctx} {f : Fabric}
  {m : MmaSaved}

theorem mmaGroups_pauses (more : m.done * 16 ≠ k) : mmaGroups cols k ty chA chB a b word 0 s x f m =
    ((s.setCtx { x.saveMma m with fabric := some f, wait := .operand }).settle s.cur, .gone) := by
  rw [mmaGroups, if_neg (fun e => more (beq_iff_eq.mp e))]
  rfl

theorem mmaGroups_done {fuel : Nat} (whole : m.done * 16 = k) : mmaGroups cols k ty chA chB a b word fuel s x f m =
    ((s.setCtx { x with fabric := some f }).settle s.cur, .seq) := by
  cases fuel with
  | zero => rw [mmaGroups, if_pos (beq_iff_eq.mpr whole)]
  | succ fuel => rw [mmaGroups, if_pos (beq_iff_eq.mpr whole)]

/-- Of a pair that has given all its words of a group and owes further ones, a head that is no DATA stands while the other pair is short. -/
def wrongAhead (k : Nat) (chA chB : Bool) (m : MmaSaved) (ra rb : Taken) (f : Fabric) : Prop :=
  (m.done + 1) * 16 < k ∧ (chA = true ∧ ra = .all ∧ rb = .short ∧ f.wrongHead 80 = true ∨
    chB = true ∧ rb = .all ∧ ra = .short ∧ f.wrongHead 81 = true)

theorem wrongAhead_iff {ra rb : Taken} : wrongAhead k chA chB m ra rb f ↔ (decide ((m.done + 1) * 16 < k) &&
    (chA && rb == .short && ra == .all && f.wrongHead 80 || chB && ra == .short && rb == .all && f.wrongHead 81)) = true := by
  simp only [wrongAhead, Bool.and_eq_true, Bool.or_eq_true, decide_eq_true_eq, beq_iff_eq]
  have order (p q r w : Prop) : p ∧ q ∧ r ∧ w ↔ ((p ∧ r) ∧ q) ∧ w := by tauto
  exact and_congr_right fun _ => or_congr (order ..) (order ..)

variable {fuel : Nat} {f1 f2 : Fabric} {ra rb : Taken} {wa wb : List (BitVec 32)} (more : m.done * 16 ≠ k)
  (takesA : takeWords 80 (if chA then (16 * 128 * ty.bits / 32 - m.wa.length) / 2 else 0) f m.wa = (ra, f1, wa))
  (takesB : takeWords 81 (if chB then (16 * cols.n * ty.bits / 32 - m.wb.length) / 2 else 0) f1 m.wb = (rb, f2, wb))
include more takesA takesB

/-- One group, by what its words are. -/
theorem mmaGroups_succ : mmaGroups cols k ty chA chB a b word (fuel + 1) s x f m =
    let ahead := (decide ((m.done + 1) * 16 < k) &&
      (chA && rb == .short && ra == .all && f2.wrongHead 80 || chB && ra == .short && rb == .all && f2.wrongHead 81))
    if ra == .wrong || rb == .wrong || ahead then (s.mmaTrap x f2 word ⟨m.pc, m.done, wa, wb⟩, .gone)
    else if ra == .short || rb == .short then (s.mmaPause x f2 ⟨m.pc, m.done, wa, wb⟩, .gone)
    else mmaGroups cols k ty chA chB a b word fuel (s.addGroups cols m.done 1
      (fun i q => if chA then ty.value (((unpack ty.bits wa)[128 * (q % 16) + i]?).getD 0) else a i q)
      (fun q j => if chB then ty.value (((unpack ty.bits wb)[cols.n * (q % 16) + j]?).getD 0) else b q j))
      x f2 ⟨m.pc, m.done + 1, [], []⟩ := by
  rw [mmaGroups, if_neg (fun e => more (beq_iff_eq.mp e))]
  simp only [takesA, takesB]

theorem mmaGroups_wrong (wrong : ra = .wrong ∨ rb = .wrong ∨ wrongAhead k chA chB m ra rb f2) :
    mmaGroups cols k ty chA chB a b word (fuel + 1) s x f m = (s.mmaTrap x f2 word ⟨m.pc, m.done, wa, wb⟩, .gone) := by
  rw [mmaGroups_succ more takesA takesB]
  refine if_pos ?_
  rw [Bool.or_eq_true, Bool.or_eq_true, beq_iff_eq, beq_iff_eq, ← wrongAhead_iff, or_assoc]
  exact wrong

section
variable (rightA : ra ≠ .wrong) (rightB : rb ≠ .wrong) (behind : ¬wrongAhead k chA chB m ra rb f2)
include rightA rightB behind

theorem mmaGroups_short (short : ra = .short ∨ rb = .short) :
    mmaGroups cols k ty chA chB a b word (fuel + 1) s x f m = (s.mmaPause x f2 ⟨m.pc, m.done, wa, wb⟩, .gone) := by
  rw [mmaGroups_succ more takesA takesB]
  refine (if_neg ?_).trans (if_pos ?_)
  · rw [Bool.or_eq_true, Bool.or_eq_true, beq_iff_eq, beq_iff_eq, ← wrongAhead_iff]
    exact fun wrong => wrong.elim (·.elim rightA rightB) behind
  · rw [Bool.or_eq_true, beq_iff_eq, beq_iff_eq]
    exact short

end

theorem mmaGroups_all (allA : ra = .all) (allB : rb = .all) : mmaGroups cols k ty chA chB a b word (fuel + 1) s x f m =
    mmaGroups cols k ty chA chB a b word fuel (s.addGroups cols m.done 1
      (fun i q => if chA then ty.value (((unpack ty.bits wa)[128 * (q % 16) + i]?).getD 0) else a i q)
      (fun q j => if chB then ty.value (((unpack ty.bits wb)[cols.n * (q % 16) + j]?).getD 0) else b q j))
      x f2 ⟨m.pc, m.done + 1, [], []⟩ := by
  rw [mmaGroups_succ more takesA takesB]
  subst allA allB
  refine (if_neg ?_).trans (if_neg (by decide))
  rw [Bool.or_eq_true, Bool.or_eq_true, ← wrongAhead_iff]
  rintro ((wrong | wrong) | ⟨-, ⟨-, -, short, -⟩ | ⟨-, -, short, -⟩⟩)
  · cases wrong
  · cases wrong
  · cases short
  · cases short

end

/-- Settles O26: both words run their checks and then the groups, of the scratchpad all at once and from channels one by one. -/
theorem matrixProductsComplete : Obligations.MatrixProductsComplete := by
  unfold Obligations.MatrixProductsComplete
  refine ⟨⟨fun x none => Ctx.mmaSaved_fresh none,
      fun s x g d a b c ty bt cols da db k off h spadA spadB hd whole few ha hb small claimA readyA => ?spad⟩,
    fun s x g d a b c ty bt cols k f da db h channel hd whole few fabric depth small fits opA opB => ?channel,
    fun cols k ty chA chB a b word s x f m more => mmaGroups_pauses more,
    fun cols k fuel ty chA chB a b word s x f f1 f2 m ra rb wa wb => ⟨mmaGroups_done, fun more takesA takesB => ?group⟩⟩
  case spad =>
    exact ⟨fun depth fits claimB readyB =>
        runMma_ends (exec_mma_runs h hd whole few small ha hb claimA readyA spadA spadB depth fits claimB readyB),
      fun depth fits claimB readyB aligned room clean =>
        runMma_ends (exec_mmas_runs h hd whole few small ha hb claimA readyA depth fits claimB readyB aligned room clean)⟩
  case channel =>
    refine ⟨s.before (k / 16 - x.mmaSaved.done), s.before_le _, s.before_pos, s.before_unasked _, ?_⟩
    have op {r : Reg} {p q : Prop} (hr : if r = 0 then p else q) : ((r == 0) = true → p) ∧ ((r == 0) = false → q) :=
      ⟨fun zero => by rwa [if_pos (beq_iff_eq.mp zero)] at hr, fun other => by rwa [if_neg (beq_eq_false_iff_ne.mp other)] at hr⟩
    exact exec_mma_channel rfl rfl h (by rw [Bool.or_eq_true, beq_iff_eq, beq_iff_eq]; exact channel) hd whole few fabric depth small fits
      (op opA).1 (op opA).2 (op opB).1 (op opB).2
  case group =>
    exact ⟨mmaGroups_wrong more takesA takesB, mmaGroups_short more takesA takesB, mmaGroups_all more takesA takesB⟩

end Sys2Proof.Machine
end

section
/-! PROOFS. A dusk goes its way (R163, R255, R429 to R442): each step by what the core, its task and its fabric are in. -/

namespace Sys2Proof.Machine

/-! A dusk starts. -/

theorem Ctx.noTrapHolds {x : Ctx} (cond : x.cond = .run) (route : ∀ t ∈ x.traps, x.taskRoute t = true) :
    (x.cond != .run || x.traps.any fun t => !x.taskRoute t) = false := by
  rw [bne_eq_false_iff_eq.mpr cond, Bool.false_or, List.any_eq_false]
  exact fun t mem => by rw [route t mem]; exact Bool.false_ne_true

section
variable {s : State} {c : Nat} {d : Dusk} {x : Ctx} (alive : s.alive = true) (asked : (s.core c).asked = some d)
  (day : (s.core c).day = some x)
include alive asked day

section
variable (cond : x.cond = .run) (route : ∀ t ∈ x.traps, x.taskRoute t = true) (none : (s.core c).dusk = none)
include cond route none

theorem exec_duskStart_starts (serves : s.duskRefused c d = false) :
    exec (.duskStart c) s = .next (s.setCore c { s.core c with
      asked := .none, dusk := some { d with since := s.time }, epoch := (s.core c).epoch + 1, limit := .none, refused := false
      day := some { x with fabric := x.fabric.map Fabric.inject } }) := by
  have free := Ctx.noTrapHolds cond route
  simp only [exec_duskStart, execDuskStart, alive, asked, day]
  rw [free]
  simp only [cond, none, serves, Option.isSome_none, bne_self_eq_false, Bool.false_and, ite_self, Bool.not_true, Bool.or_self,
    Bool.false_eq_true, if_false]

theorem exec_duskStart_refused (mild : d.drain = false) (refuses : s.duskRefused c d = true) :
    exec (.duskStart c) s = .next (s.setCore c { s.core c with asked := .none, refused := true }) := by
  have free := Ctx.noTrapHolds cond route
  simp only [exec_duskStart, execDuskStart, alive, asked, day]
  rw [free]
  simp only [cond, none, mild, refuses, Option.isSome_none, Bool.not_true, Bool.or_self, Bool.false_eq_true, if_false, if_true]

end

theorem exec_duskStart_held (mild : d.drain = false)
    (held : x.cond = .held ∨ (x.cond = .run ∧ ∃ t ∈ x.traps, x.taskRoute t = false)) :
    exec (.duskStart c) s = .next (s.setCore c { s.core c with asked := none }) := by
  have stands : (x.cond != .run || x.traps.any fun t => !x.taskRoute t) = true := by
    rcases held with cond | ⟨-, t, mem, off⟩
    · rw [cond]; rfl
    · rw [Bool.or_eq_true, List.any_eq_true]
      exact Or.inr ⟨t, mem, by rw [off]; rfl⟩
  have settled : ∀ r, x.cond ≠ .slotWait r := by
    rintro r waits
    rcases held with cond | ⟨cond, -⟩
    · cases waits.symm.trans cond
    · cases waits.symm.trans cond
  simp only [exec_duskStart, execDuskStart, alive, asked, day]
  rw [stands]
  cases cond : x.cond with
  | slotWait r => exact absurd cond (settled r)
  | _ => simp only [mild, Bool.not_true, Bool.or_true, Bool.false_eq_true, if_false, if_true]

theorem exec_duskStart_waits {fr : FaultRecord} (drain : d.drain = true) (cond : x.cond = .slotWait fr) : exec (.duskStart c) s = .next s := by
  simp only [exec_duskStart, execDuskStart, alive, asked, day, cond, drain, Bool.not_true, Bool.false_eq_true, if_false, if_true]

end

/-! Markers pass. -/

section
variable {s : State} {c n : Nat} {x : Ctx} {f : Fabric} (runs : s.runsFabric c x f) (dusk : (s.core c).dusk ≠ none)
include runs dusk

theorem drainStep_some {body : State → Ctx → Fabric → Option Fabric} {g : Fabric} (moves : body s x f = some g) :
    drainStep c s body = .next (s.setFabric c g) := by
  obtain ⟨alive, day⟩ := runs
  have going : (!s.alive || (s.core c).dusk.isNone) = false := by
    rw [alive, Bool.not_true, Bool.false_or, Option.isNone_eq_false_iff, Option.isSome_iff_ne_none]; exact dusk
  simp only [drainStep, going, day, moves, Bool.false_eq_true, if_false]

theorem drainStep_none {body : State → Ctx → Fabric → Option Fabric} (stays : body s x f = none) : drainStep c s body = .next s := by
  obtain ⟨alive, day⟩ := runs
  have going : (!s.alive || (s.core c).dusk.isNone) = false := by
    rw [alive, Bool.not_true, Bool.false_or, Option.isNone_eq_false_iff, Option.isSome_iff_ne_none]; exact dusk
  simp only [drainStep, going, day, stays, Bool.false_eq_true, if_false]

theorem exec_markerPass_step (named : n ∈ f.sites) (fresh : f.passed n = false) (may : f.mayPass n = true) :
    let owes := ∃ q, tabGet f.ports n = some q ∧ q.ingress = true ∧ q.pending = true
    (¬owes → exec (.markerPass c n) s = .next (s.setFabric c (f.pass n))) ∧ (owes → exec (.markerPass c n) s = .next s) := by
  intro owes
  have reads : ((tabGet f.ports n).any fun q => q.ingress && q.pending) = true ↔ owes := by
    rw [Option.any_eq_true]
    simp only [Bool.and_eq_true]
    rfl
  have named : f.sites.contains n = true := List.contains_iff_mem.mpr named
  refine ⟨fun none => ?_, fun some => ?_⟩
  · have idle : ((tabGet f.ports n).any fun q => q.ingress && q.pending) = false := Bool.eq_false_iff.mpr fun e => none (reads.mp e)
    refine (exec_markerPass ..).trans (drainStep_some runs dusk ?_)
    simp only [named, fresh, may, idle, Bool.not_false, Bool.and_self, if_true]
  · refine (exec_markerPass ..).trans (drainStep_none runs dusk ?_)
    simp only [reads.mpr some, Bool.not_true, Bool.and_false, Bool.false_eq_true, if_false]

theorem exec_writePortDrain_saved {q : Port} (port : tabGet f.ports (64 + n) = some q) (passed : q.passed = true) (drains : q.drains = true)
    (unsaved : q.saved = false) (marked : ∀ w ∈ f.wiresInto (64 + n), f.marked w = true)
    (quiet : s.performed (portAgent c n x) q.reach = true) :
    exec (.writePortDrain c n) s = .next (s.setFabric c { f with ports := tabPut f.ports (64 + n) { q with saved := true } }) := by
  refine (exec_writePortDrain ..).trans (drainStep_some runs dusk ?_)
  simp only [port, passed, drains, unsaved, List.all_eq_true.mpr marked, quiet, Bool.not_false, Bool.and_self, if_true]

end

theorem exec_foreignMarkArrival_arrives {s : State} {c site ch i : Nat} {x y : Ctx} {f g : Fabric} {w : Wire} (runs : s.runsFabric c x f)
    (wire : f.wires.find? (fun w => w.dstCore == ownCore && !w.localTo && w.dstSite.toNat == site && w.dstCh.toNat == ch) = some w)
    (core : s.physicalCore x.part w.srcCore.toNat = some i)
    (live : s.liveEnd x (w.absolute (s.logicalCore x.part c)) i = some (y, g)) :
    let k := chKey w.srcSite.toNat w.srcCh.toNat
    let e := (s.core i).epoch
    let q := f.inq (chKey site ch)
    (g.outq k).mark = true → (g.outq k).toks = [] →
    let t := s.setFabric i (g.setOut k { g.outq k with mark := false })
    exec (.foreignMarkArrival c site ch) s = .next (if e = (s.core c).epoch ∧ (s.core c).dusk = none
      then t.setFabric c (f.setIn (chKey site ch) { q with toks := q.toks ++ [⟨0, 4, e⟩] }) else t) := by
  intro k e q mark empty t
  obtain ⟨alive, day⟩ := runs
  have same : (fun w : Wire => w.dstCore == ownCore && w.srcCore != ownCore && w.dstSite.toNat == site && w.dstCh.toNat == ch) =
      fun w => w.dstCore == ownCore && !w.localTo && w.dstSite.toNat == site && w.dstCh.toNat == ch := by
    funext w
    cases here : w.dstCore == ownCore with
    | false => rfl
    | true => simp [Wire.localTo, here, bne]
  have empty : (g.outq k).toks.isEmpty = true := List.isEmpty_iff.mpr empty
  simp only [exec_foreignMarkArrival, execForeignMarkArrival, alive, day, same, wire, core, live, Bool.not_true, Bool.false_eq_true, if_false,
    Bool.and_eq_true, beq_iff_eq, Option.isNone_iff_eq_none]
  rw [if_pos ⟨mark, empty⟩]
  exact (apply_ite Host.Outcome.next _ _ _).symm

/-! The sets swap. -/

section
variable {s : State} {c : Nat} {d : Dusk} {x : Ctx} (alive : s.alive = true) (dusk : (s.core c).dusk = some d)
  (day : (s.core c).day = some x) (complete : ∀ f, x.fabric = some f → f.complete = true) (boundary : x.atBoundary = true)
  (free : x.cond = .run ∧ x.traps = [] ∨ x.cond = .held ∧ d.drain = true)
include alive dusk day complete boundary free

/-- The task as it parks. -/
def Ctx.parked (x : Ctx) (d : Dusk) : Ctx := { x with cond := x.parkCond d, eligible := x.parkCond d != .drained, yielded := false }

theorem exec_setSwap_parks : exec (.setSwap c) s = (match (s.core c).night with
    | none => (match (s.park c (x.parked d)).exportParked c ((((s.park c (x.parked d)).core c).night).getD (x.parked d)) with
      | .error e => .next (s.askOutside e)
      | .ok t => .next t)
    | some y =>
      if !(d.ret && y.returns) then .next s
      else .next (((s.park c (x.parked d)).enter c y).besideNight c)) := by
  have free : (if x.cond == .run then x.traps.isEmpty else d.drain && x.cond == .held) = true := by
    rcases free with ⟨cond, none⟩ | ⟨cond, drain⟩
    · rw [cond, none]; rfl
    · rw [cond, drain]; rfl
  simp only [exec_setSwap, execSetSwap, alive, dusk, day, Bool.not_true, Bool.false_eq_true, if_false]
  refine (if_neg ?_).trans rfl
  rw [free, boundary]
  cases fabric : x.fabric with
  | none => decide
  | some f => simp only [complete f fabric, Bool.and_self, Bool.not_true, Bool.false_eq_true, not_false_eq_true]

theorem exec_setSwap_alone (none : (s.core c).night = none) {t : State} (exported :
    (s.park c (x.parked d)).exportParked c ((((s.park c (x.parked d)).core c).night).getD (x.parked d)) = .ok t) :
    exec (.setSwap c) s = .next t := by
  rw [exec_setSwap_parks alive dusk day complete boundary free, none]
  dsimp only
  rw [exported]

theorem exec_setSwap_returns {z : Ctx} (night : (s.core c).night = some z) (ret : d.ret = true) (eligible : z.eligible = true)
    (resident : z.residence = .resident) (plane : z.plane = none) :
    exec (.setSwap c) s = .next (((s.park c (x.parked d)).enter c z).besideNight c) := by
  have returns : z.returns = true := by rw [Ctx.returns, eligible, resident, plane]; rfl
  rw [exec_setSwap_parks alive dusk day complete boundary free, night]
  dsimp only
  rw [ret, returns]
  rfl

end

theorem State.exportParked_none {s : State} {n : Nat} {y : Ctx} {q : Partition} (part : s.part y.part = some q) (none : q.ticket ≠ some n) :
    s.exportParked n y = .ok s := by
  simp only [State.exportParked, part, beq_eq_false_iff_ne.mpr none, Bool.false_eq_true, if_false]

/-! Overlapped parts go out and come back. -/

section
variable {s t : State} {c : Nat} {y : Ctx} (alive : s.alive = true) (night : (s.core c).night = some y)
include alive night

theorem exec_claimStreamDone_leaves {x : Ctx} (day : (s.core c).day = some x) (meets : claimsMeet x y = true)
    (leaving : y.residence = .leaving) (saved : s.saveParts c y = .ok t) :
    exec (.claimStreamDone c) s = .next (t.setNight c (some { y with residence := .out })) := by
  simp only [exec_claimStreamDone, execClaimStreamDone, alive, night, day, meets, leaving, saved, Bool.not_true, Bool.false_eq_true, if_false]

theorem exec_claimStreamDone_returns (apart : ∀ x, (s.core c).day = some x → claimsMeet x y = false) (gone : y.residence ≠ .resident) :
    exec (.claimStreamDone c) s = .next (s.setNight c (some { y with
      residence := .resident, since := if y.eligible then s.time else y.since })) := by
  simp only [exec_claimStreamDone, execClaimStreamDone, alive, night, Bool.not_true, Bool.false_eq_true, if_false]
  cases place : y.residence with
  | resident => exact absurd place gone
  | leaving =>
    cases day : (s.core c).day with
    | none => rfl
    | some x => simp only [apart x day]; rfl
  | out =>
    cases day : (s.core c).day with
    | none => rfl
    | some x => simp only [apart x day]; rfl

theorem exec_claimStreamDone_resident (resident : y.residence = .resident) :
    exec (.claimStreamDone c) s = .next (s.streamPlane c y) := by
  simp only [exec_claimStreamDone, execClaimStreamDone, alive, night, resident, Bool.not_true, Bool.false_eq_true, if_false]

theorem exec_claimStreamDone_plane {x : Ctx} (day : (s.core c).day = some x) (waits : x.wait = .plane) (resident : y.residence = .resident)
    (none : y.plane = none) (own : (s.core c).planeTask = some y.id) (saved : s.saveParts c y = .ok t) :
    exec (.claimStreamDone c) s = .next (t.setCore c { s.core c with
      planeTask := .none, night := some { y with plane := some (s.core c).plane } }) := by
  rw [exec_claimStreamDone_resident alive night resident]
  have asks : (x.wait == .plane && (s.core c).planeTask == some y.id) = true := by rw [waits, own, beq_self_eq_true, beq_self_eq_true]; rfl
  simp only [State.streamPlane, day, none, asks, saved, if_true]

theorem exec_claimStreamDone_planeBack {p : Cells 256} (idle : (s.core c).day = none) (resident : y.residence = .resident)
    (kept : y.plane = some p) : exec (.claimStreamDone c) s = .next (s.setCore c { s.core c with
      plane := p, planeTask := some y.id, planeAsid := some y.asid
      night := some { y with plane := none, since := if y.eligible then s.time else y.since } }) := by
  rw [exec_claimStreamDone_resident alive night resident]
  simp only [State.streamPlane, idle, kept]
  rfl

end

/-! Drains. -/

section
variable {s u : State} {c : Nat} {x : Ctx} (alive : s.alive = true) (day : (s.core c).day = some x)
include alive day

section
variable {t0 : Word} (limit : (s.core c).limit = some t0)
include limit

theorem exec_drainTimerExpiry_asks (held : x.heldNodes ≠ 0) (late : t0.toNat + s.drainLimit x.part ≤ s.time.toNat)
    (none : (s.core c).dusk = .none) (unasked : (s.core c).asked = .none) : exec (.drainTimerExpiry c) s =
      .next (s.setCore c { s.core c with asked := some ⟨false, true, s.time, .none⟩, limit := .none }) := by
  have due : (decide (t0.toNat + s.drainLimit x.part ≤ s.time.toNat) && (s.core c).dusk.isNone && (s.core c).asked.isNone) = true := by
    rw [decide_eq_true late, none, unasked]; rfl
  simp only [exec_drainTimerExpiry, execDrainTimerExpiry, alive, limit, day, beq_eq_false_iff_ne.mpr held, due, Bool.not_true,
    Bool.false_eq_true, if_false, if_true]

theorem exec_drainTimerExpiry_stops (free : x.heldNodes = 0) :
    exec (.drainTimerExpiry c) s = .next (s.setCore c { s.core c with limit := none }) := by
  simp only [exec_drainTimerExpiry, execDrainTimerExpiry, alive, limit, day, beq_iff_eq.mpr free, Bool.not_true, Bool.false_eq_true,
    if_false, if_true]

end

section
variable {d : Dusk} (dusk : (s.core c).dusk = some d) (late : d.since.toNat + s.drainLimit x.part ≤ s.time.toNat)
include dusk late

theorem exec_drainTimeout_ends :
    let fr := faultRecord ⟨.timeout, 0, 0, none, 0xFF, 0xF, 0, false, []⟩ false false 0 s.time x.part (s.logicalCore x.part c) x.asid
    let t := s.setCore c { s.core c with
      dusk := none, day := some { x with cond := .timedOut, fr := fr, wait := .none, fabric := none } }
    (t.pushFault x.part fr = .ok u → exec (.drainTimeout c) s = .next u) ∧
    (∀ e, t.pushFault x.part fr = .error e → exec (.drainTimeout c) s = .next ((t.askOutside e).setDay c
      (some { x with cond := .slotWait fr, fr := fr, wait := .none, fabric := none }))) := by
  intro fr t
  refine ⟨fun pushed => ?_, fun e full => ?_⟩
  · simp only [exec_drainTimeout, execDrainTimeout, alive, dusk, day, decide_eq_true late, Bool.not_true, Bool.false_eq_true, if_false,
      if_true]
    rw [pushed]
  · simp only [exec_drainTimeout, execDrainTimeout, alive, dusk, day, decide_eq_true late, Bool.not_true, Bool.false_eq_true, if_false,
      if_true]
    rw [full]

end

end

/-- Settles O53: each step of a dusk by what it finds. -/
theorem duskGoesItsWay : Obligations.DuskGoesItsWay := by
  unfold Obligations.DuskGoesItsWay
  refine ⟨fun s c d x alive asked day => ⟨exec_duskStart_starts alive asked day, exec_duskStart_held alive asked day,
      fun mild cond route none => exec_duskStart_refused alive asked day cond route none mild,
      fun fr => exec_duskStart_waits alive asked day⟩,
    fun s c n x f runs dusk => ⟨exec_markerPass_step runs dusk, fun q => exec_writePortDrain_saved runs dusk⟩,
    fun s c site ch i x y f g w runs wire core live => exec_foreignMarkArrival_arrives runs wire core live,
    fun s c d x alive dusk day complete boundary free => ?swap, fun s n y q part none => State.exportParked_none part none,
    fun s c y alive night => ⟨fun x t => exec_claimStreamDone_leaves alive night, exec_claimStreamDone_returns alive night,
      fun x t => exec_claimStreamDone_plane alive night, fun p => exec_claimStreamDone_planeBack alive night⟩,
    fun s c x t0 alive day limit => ⟨exec_drainTimerExpiry_asks alive day limit, exec_drainTimerExpiry_stops alive day limit⟩,
    fun s u c x d alive dusk day late => exec_drainTimeout_ends alive day dusk late⟩
  case swap =>
    have cond : (if d.drain = true ∨ x.heldNodes ≠ 0 then TaskCond.drained else x.cond) = x.parkCond d := by
      rw [Ctx.parkCond]
      exact if_congr (by rw [Bool.or_eq_true, bne_iff_ne]) rfl rfl
    rw [cond]
    exact ⟨fun none t => exec_setSwap_alone alive dusk day complete boundary free none,
      fun z night => exec_setSwap_returns alive dusk day complete boundary free night⟩

end Sys2Proof.Machine
end

section
/-! PROOFS. Memory ports move elements (R276, R279 to R300). A step of a port that streams starts and ends in one way; what differs is what its
body makes of the stream's position. -/

namespace Sys2Proof.Machine

section
variable {s : State} {c p : Nat} {x : Ctx} {f : Fabric} {q : Port} {st : Stream}

theorem advancePort_running {site n : Nat} (runs : q.running = some st) : advancePort site n f q = (f, q) := by
  cases n with
  | zero => rfl
  | succ n => rw [advancePort, runs]; rfl

theorem portStep_streamed (h : s.streams c p x f q st) {ok : StrmMode → Bool}
    {body : State → Ctx → Fabric → Port → Stream → Res (Option (State × Fabric × Port × Stream))} {t : State} {g : Fabric} {q' : Port}
    {st' : Stream} (mode : ok st.mode = true) (moves : body (if q.gate then s.gated c p x q else s) x f q st = .ok (some (t, g, q', st'))) :
    portStep c p s ok body = .next (t.streamed s c p x st.done g q' st') := by
  obtain ⟨runs, port, going, clear, running, sent, awaited, dusk⟩ := h
  have stays : ((s.core c).dusk.isSome && q.ingress) = false := by
    rcases dusk with none | plain
    · rw [none]; rfl
    · rw [plain, Bool.and_false]
  unfold portStep
  refine siteStep_sited runs ?_
  simp only [port, going, stays, clear, advancePort_running running, running, mode, awaited, sent, moves, Option.isSome_none,
    Bool.or_self, Bool.false_and, Bool.not_true, List.isEmpty_nil, Bool.false_eq_true, if_false]

end

/-! Reads. -/

section
variable {s t : State} {c p : Nat} {x : Ctx} {f h : Fabric} {q : Port} {st : Stream} {bs : List Byte} (streams : s.streams c p x f q st)
include streams

section
variable (gate : q.gate = true) (cond : condition f (64 + p) q = some h)
include gate cond

section
variable (more : st.done ≠ st.count)
include more

theorem exec_portReadAccess_element (mode : st.mode = .rd) (read : (s.gated c p x q).streamLoad c x (portAgent c p x) q.latches st.sp
      (st.base + st.done * st.stride.setWidth 64) st.ty.bytes = .ok (t, bs)) :
    exec (.portReadAccess c p) s = .next (t.streamed s c p x st.done h { q with spec := none } { st with
      done := st.done + 1, emit := [Token.data (payloadOf st.ty (leNat bs))] ++ st.closing (st.done + 1) }) := by
  refine (exec_portReadAccess ..).trans (portStep_streamed streams (by rw [mode]; rfl) ?_)
  have plain : (st.mode == .fib) = false := by rw [mode]; rfl
  simp only [beq_eq_false_iff_ne.mpr more, gate, cond, plain, read, Bool.not_true, Bool.or_self, Bool.false_eq_true, if_true, if_false,
    Res.ok_bind]

theorem exec_portReadAccess_entry (mode : st.mode = .fib)
    (read : (s.gated c p x q).entryLoad c x (portAgent c p x) q.latches st.sp (st.base + 8 * st.done) = .ok (t, bs)) :
    exec (.portReadAccess c p) s = .next (t.streamed s c p x st.done h { q with spec := none } { st with
      done := st.done + 1, emit := [Token.coordTok (BitVec.ofNat 32 (leNat (bs.take 4))),
        Token.data (BitVec.ofNat 32 (leNat (bs.drop 4)))] ++ st.closing (st.done + 1) }) := by
  refine (exec_portReadAccess ..).trans (portStep_streamed streams (by rw [mode]; rfl) ?_)
  simp only [beq_eq_false_iff_ne.mpr more, gate, cond, beq_iff_eq.mpr mode, read, Bool.not_true, Bool.or_self, Bool.false_eq_true, if_true,
    if_false, Res.ok_bind]

end

section
variable {tok : Token} (head : f.head (64 + p) 0 = some tok) (data : tok.isData = true)
include head data

theorem exec_portGatherAccess_element (mode : st.mode = .gath)
    (read : (s.gated c p x q).streamLoad c x (portAgent c p x) (gatherAddr f (64 + p) q st tok.payload).2 st.sp
      (gatherAddr f (64 + p) q st tok.payload).1 st.ty.bytes = .ok (t, bs)) :
    exec (.portGatherAccess c p) s = .next (t.streamed s c p x st.done (h.pop (64 + p) 0) { q with spec := none } { st with
      done := st.done + 1, emit := [Token.data (payloadOf st.ty (leNat bs))] }) := by
  refine (exec_portGatherAccess ..).trans (portStep_streamed streams (beq_iff_eq.mpr mode) ?_)
  simp only [head, data, gate, cond, read, Bool.not_true, Bool.false_eq_true, if_true, if_false, Res.ok_bind]

/-- A word that an access of the stream's address takes. -/
theorem writeToken_element {ok : StrmMode → Bool} {access : State → Ctx → Port → Stream → Word → BitVec 32 → Res State}
    (mode : ok st.mode = true) (wrote : access (s.gated c p x q) x q st
      (st.base + st.index * (if st.mode = .wr then st.stride.setWidth 64 else BitVec.ofNat 64 st.ty.bytes)) tok.payload = .ok t) :
    writeToken c p s ok access = .next (t.streamed s c p x st.done (h.pop (64 + p) 0) q
      { st with done := st.done + 1, index := st.index + 1 }) := by
  refine portStep_streamed streams mode ?_
  simp only [head, data, gate, cond, beq_iff_eq, wrote, Bool.not_true, Bool.false_eq_true, if_true, if_false, Res.ok_bind]

end

end

/-! Tokens that are no element. -/

section
variable {tok : Token} (head : f.head (64 + p) 0 = some tok)
include head

theorem exec_portGatherAccess_passes (mode : st.mode = .gath) (control : tok.cls = 1 ∨ tok.cls = 2 ∨ tok.cls = 3) :
    exec (.portGatherAccess c p) s = .next ((if q.gate then s.gated c p x q else s).streamed s c p x st.done (f.pop (64 + p) 0) q
      { st with emit := [tok] }) := by
  refine (exec_portGatherAccess ..).trans (portStep_streamed streams (beq_iff_eq.mpr mode) ?_)
  have passes : tok.isData = false ∧ (tok.cls == 6) = false ∧ tok.cls.toNat ≤ 3 := by
    rw [Token.isData]
    rcases control with cls | cls | cls
    · rw [cls]; decide
    · rw [cls]; decide
    · rw [cls]; decide
  obtain ⟨data, relatch, low⟩ := passes
  simp only [head, data, relatch, if_pos low, Bool.false_eq_true, if_false]

section
variable {ok : StrmMode → Bool} {access : State → Ctx → Port → Stream → Word → BitVec 32 → Res State} (mode : ok st.mode = true)
include mode

theorem writeToken_coord (coord : tok.cls = 1) : writeToken c p s ok access = .next
    ((if q.gate then s.gated c p x q else s).streamed s c p x st.done (f.pop (64 + p) 0) q { st with index := tok.payload.setWidth 64 }) := by
  refine portStep_streamed streams mode ?_
  have data : tok.isData = false := by rw [Token.isData, coord]; rfl
  have isCoord : tok.isCoord = true := by rw [Token.isCoord, coord]; rfl
  simp only [head, data, isCoord, Bool.false_eq_true, if_true, if_false]

theorem writeToken_eof (eof : tok.cls = 2) : writeToken c p s ok access = .next
    ((if q.gate then s.gated c p x q else s).streamed s c p x st.done (f.pop (64 + p) 0)
      { q with segment := q.segment + 1, due := q.due + 1 } st) := by
  refine portStep_streamed streams mode ?_
  have data : tok.isData = false := by rw [Token.isData, eof]; rfl
  have coord : tok.isCoord = false := by rw [Token.isCoord, eof]; rfl
  have isEof : tok.isEof = true := by rw [Token.isEof, eof]; rfl
  simp only [head, data, coord, isEof, Bool.false_eq_true, if_true, if_false]
  rfl

end

/-! Barriers. -/

section
variable (writes : writeMode st.mode = true) (bar : tok.isBar = true)
  (quiet : (if q.gate then s.gated c p x q else s).performed (portAgent c p x) q.reach = true)
include writes bar quiet

theorem exec_portBarArrival_arrives {r : BarRef} (entered : tabGet x.btok tok.aux.toNat = some r)
    (updated : (if q.gate then s.gated c p x q else s).barUpdate c (portAgent c p x) r 1 0 = .ok t) :
    exec (.portBarArrival c p) s = .next (t.streamed s c p x st.done (f.pop (64 + p) 0) q st) := by
  refine (exec_portBarArrival ..).trans (portStep_streamed streams writes ?_)
  simp only [head, bar, quiet, entered, updated, Bool.not_true, Bool.or_self, Bool.false_eq_true, if_false, Res.ok_bind]

theorem exec_portBarArrival_unknown (none : tabGet x.btok tok.aux.toNat = none) : exec (.portBarArrival c p) s =
    .next ((if q.gate then s.gated c p x q else s).streamed s c p x st.done (f.pop (64 + p) 0) q st) := by
  refine (exec_portBarArrival ..).trans (portStep_streamed streams writes ?_)
  simp only [head, bar, quiet, none, Bool.not_true, Bool.or_self, Bool.false_eq_true, if_false]

end

end

/-! Conditions that are not taken. -/

section
variable {tok : Token} (cuse : q.cuse = true) (head1 : f.head (64 + p) 1 = some tok) (data1 : tok.isData = true)
  (passes : (tok.payload = 0 ∧ q.csense = false) ∨ (tok.payload ≠ 0 ∧ q.csense = true))
include cuse head1 data1 passes

omit streams cuse head1 data1 in
theorem Port.takes_not : q.takes tok = false := by
  rw [Port.takes, Token.taken]
  rcases passes with ⟨zero, sense⟩ | ⟨other, sense⟩
  · rw [zero, sense]; rfl
  · rw [bne_iff_ne.mpr other, sense]; rfl

theorem exec_portCondition_read (mode : readMode st.mode = true) (more : st.done ≠ st.count) : exec (.portCondition c p) s =
    .next ((if q.gate then s.gated c p x q else s).streamed s c p x st.done (f.pop (64 + p) 1) { q with spec := none } { st with
      done := st.done + 1, emit := [Token.data 0] ++ st.closing (st.done + 1) }) := by
  refine (exec_portCondition ..).trans (portStep_streamed streams rfl ?_)
  simp only [cuse, head1, data1, Port.takes_not passes, mode, beq_eq_false_iff_ne.mpr more, Bool.not_true,
    Bool.false_eq_true, if_true, if_false]

section
variable {u : Token} (head : f.head (64 + p) 0 = some u) (data : u.isData = true)
include head data

theorem exec_portCondition_write (mode : writeMode st.mode = true) : exec (.portCondition c p) s =
    .next ((if q.gate then s.gated c p x q else s).streamed s c p x st.done ((f.pop (64 + p) 1).pop (64 + p) 0) q { st with
      done := st.done + 1, index := st.index + 1 }) := by
  refine (exec_portCondition ..).trans (portStep_streamed streams rfl ?_)
  have kinds : readMode st.mode = false ∧ (st.mode == .gath) = false := by
    revert mode; cases st.mode <;> decide
  simp only [cuse, head1, data1, Port.takes_not passes, kinds.1, kinds.2, head, data, Bool.not_true, Bool.false_eq_true, if_false]

theorem exec_portCondition_gather (mode : st.mode = .gath) : exec (.portCondition c p) s =
    .next ((if q.gate then s.gated c p x q else s).streamed s c p x st.done ((f.pop (64 + p) 1).pop (64 + p) 0) { q with spec := none }
      { st with done := st.done + 1, emit := [Token.data 0] }) := by
  refine (exec_portCondition ..).trans (portStep_streamed streams rfl ?_)
  have kinds : readMode st.mode = false ∧ (st.mode == .gath) = true := by rw [mode]; decide
  simp only [cuse, head1, data1, Port.takes_not passes, kinds.1, kinds.2, head, data, Bool.not_true, Bool.false_eq_true, if_true, if_false]

end

end

end

/-! Speculative fetches, done tokens and retries. -/

section
variable {s t : State} {c p : Nat} {x : Ctx} {f : Fabric} {q : Port} {st : Stream} {bs : List Byte} (runs : s.runsFabric c x f)
  (port : tabGet f.ports (64 + p) = some q)
include runs port

theorem exec_portDoneToken_sends (due : q.due ≠ 0) (quiet : s.performed (portAgent c p x) q.dscope = true) :
    exec (.portDoneToken c p) s = .next (((s.releaseAt (portAgent c p x) (.done c p)).publish (portAgent c p x) q.dscope).sited c
      (((List.range 16).filter q.done).foldl (fun (g : Fabric) k => match tabGet g.ports (64 + k) with
        | some r => { g with ports := tabPut g.ports (64 + k) { r with received := tabPut r.received p ((tabGet r.received p).getD 0 + 1) } }
        | none => g) { f with ports := tabPut f.ports (64 + p) { q with due := q.due - 1 } })) := by
  refine (exec_portDoneToken ..).trans (siteStep_sited runs ?_)
  simp only [port, beq_eq_false_iff_ne.mpr due, quiet, Bool.not_true, Bool.or_self, Bool.false_eq_true, if_false] <;> rfl

theorem exec_portRetry_retries {a : Attempt} {tr : Trap} (retry : q.retry = some a) (withheld : q.withheld = some tr) :
    exec (.portRetry c p) s =
      .next (s.sited c { f with ports := tabPut f.ports (64 + p) { q with withheld := none, retry := none, attempt := a } }) := by
  refine (exec_portRetry ..).trans (siteStep_sited runs ?_)
  simp only [port, retry, withheld, Option.isNone_some, Bool.false_eq_true, if_false]

/-- Where the next element of a stream that reads stands. -/
def nextElement (f : Fabric) (p : Nat) (q : Port) (st : Stream) (va : Word) (ls : List Latch) (n : Nat) : Prop :=
  st.mode = .rd ∧ st.done ≠ st.count ∧ va = st.base + st.done * st.stride.setWidth 64 ∧ ls = q.latches ∧ n = st.ty.bytes ∨
    st.mode = .fib ∧ st.done ≠ st.count ∧ va = st.base + 8 * st.done ∧ ls = q.latches ∧ n = 4 ∨
    ∃ tok, st.mode = .gath ∧ f.head (64 + p) 0 = some tok ∧ tok.isData = true ∧ (va, ls) = gatherAddr f (64 + p) q st tok.payload ∧
      n = st.ty.bytes

theorem exec_speculativeFetch_keeps (running : q.running = some st) (going : s.halted c f (64 + p) = false) (free : q.held = false)
    (spec : q.spec? = true) (empty : q.spec = none) (head1 : f.head (64 + p) 1 = none) {va : Word} {ls : List Latch} {n : Nat}
    (next : nextElement f p q st va ls n) (read : s.streamLoad c x (portAgent c p x) ls st.sp va n = .ok (t, bs)) :
    exec (.speculativeFetch c p) s =
      .next (s.sited c { f with ports := tabPut f.ports (64 + p) { q with spec := some (st.done.toNat, bs) } }) := by
  refine (exec_speculativeFetch ..).trans (siteStep_sited runs ?_)
  rcases next with ⟨mode, more, rfl, rfl, rfl⟩ | ⟨mode, more, rfl, rfl, rfl⟩ | ⟨tok, mode, head, data, addr, rfl⟩
  · have kinds : readMode st.mode = true ∧ (st.mode == .gath) = false ∧ (st.mode == .fib) = false := by
      rw [mode]; decide
    simp only [port, running, going, free, spec, empty, head1, kinds.1, kinds.2.1, kinds.2.2, beq_eq_false_iff_ne.mpr more, read,
      Option.isSome_none, Bool.true_or, Bool.not_true, Bool.or_self, Bool.false_eq_true, if_false]
  · have kinds : readMode st.mode = true ∧ (st.mode == .gath) = false ∧ (st.mode == .fib) = true := by
      rw [mode]; decide
    simp only [port, running, going, free, spec, empty, head1, kinds.1, kinds.2.1, kinds.2.2, beq_eq_false_iff_ne.mpr more, read,
      Option.isSome_none, Bool.true_or, Bool.not_true, Bool.or_self, Bool.false_eq_true, if_true, if_false]
  · have kind : (st.mode == .gath) = true := beq_iff_eq.mpr mode
    simp only [port, running, going, free, spec, empty, head1, kind, head, data, ← addr, read, Option.isSome_none, Bool.or_true, Bool.not_true,
      Bool.or_self, Bool.false_eq_true, if_true, if_false]

end

/-- Settles O37: each step of a port by what stands at its head. -/
theorem portsMoveElements : Obligations.PortsMoveElements := by
  unfold Obligations.PortsMoveElements
  intro s t c p x f h q st bs runs site ag v w
  refine ⟨fun streams gate cond => ⟨?read, fun tok head data => ?element⟩, fun tok streams head => ⟨?gather, fun i kind => ?token⟩,
    fun tok streams cuse head1 data1 passes => ?condition, fun port running going free spec empty head1 va ls n next read => ?spec,
    fun tok streams writes head bar quiet => ?bar, fun port due quiet => exec_portDoneToken_sends runs port due quiet,
    fun a tr port retry withheld => exec_portRetry_retries runs port retry withheld⟩
  case read =>
    exact fun _ more => ⟨exec_portReadAccess_element streams gate cond more, exec_portReadAccess_entry streams gate cond more⟩
  case element =>
    refine ⟨exec_portGatherAccess_element streams gate cond head data, fun mode wrote => ?_, fun l mode walked reduced => ?_⟩
    · refine (exec_portWriteAccess ..).trans (writeToken_element streams gate cond head data ?_ wrote)
      rw [Bool.or_eq_true, beq_iff_eq, beq_iff_eq]; exact mode
    · refine (exec_portReductionAccess ..).trans (writeToken_element streams gate cond head data ?_ ?_)
      · rw [Bool.or_eq_true, Bool.or_eq_true, beq_iff_eq, beq_iff_eq, beq_iff_eq, or_assoc]; exact mode
      · exact (congrArg (· >>= _) walked).trans reduced
  case gather => exact exec_portGatherAccess_passes streams head
  case token =>
    rcases kind with ⟨mode, rfl⟩ | ⟨mode, rfl⟩
    · have mode : (st.mode == .wr || st.mode == .scat) = true := by rw [Bool.or_eq_true, beq_iff_eq, beq_iff_eq]; exact mode
      exact ⟨fun coord => (exec_portWriteAccess ..).trans (writeToken_coord streams head mode coord),
        fun eof => (exec_portWriteAccess ..).trans (writeToken_eof streams head mode eof)⟩
    · have mode : (st.mode == .sadd || st.mode == .smin || st.mode == .smax) = true := by
        rw [Bool.or_eq_true, Bool.or_eq_true, beq_iff_eq, beq_iff_eq, beq_iff_eq, or_assoc]; exact mode
      exact ⟨fun coord => (exec_portReductionAccess ..).trans (writeToken_coord streams head mode coord),
        fun eof => (exec_portReductionAccess ..).trans (writeToken_eof streams head mode eof)⟩
  case condition =>
    exact ⟨exec_portCondition_read streams cuse head1 data1 passes,
      fun u mode head data => exec_portCondition_write streams cuse head1 data1 passes head data mode,
      fun u mode head data => exec_portCondition_gather streams cuse head1 data1 passes head data mode⟩
  case spec => exact exec_speculativeFetch_keeps runs port running going free spec empty head1 next read
  case bar =>
    exact ⟨fun r => exec_portBarArrival_arrives streams head writes bar quiet, exec_portBarArrival_unknown streams head writes bar quiet⟩

end Sys2Proof.Machine
end

section
/-! PROOFS. Configuration, stream and fabric instructions (R257 to R271, R302 to R313): the words by what their checks and their bodies answer. -/

namespace Sys2Proof.Machine

/-! Configurations. -/

section
variable {s : State} {x : Ctx} {m : Staged}

theorem State.switch_active {u : State} (quiet : x.quiescent = true) (active : s.activate x m = .ok u) : s.switch x m = .ok (u, .seq) := by
  simp only [State.switch, quiet, active, Bool.not_true, Bool.false_eq_true, if_false]

theorem State.switch_busy (busy : x.quiescent = false) :
    s.switch x m = .ok (s.setCtx { s.now x with wait := .quiescence (some m) }, .gone) := by
  simp only [State.switch, busy, Bool.not_false, if_true]

end

section
variable {s t : State} {x : Ctx} {g : Guard} {a : Reg} {m : Staged} (h : s.ready x g)
include h

section
variable (checked : ∀ w, s.checkedImage x (x.g a) w = .ok (t, m))
include checked

section
variable (fresh : ∀ k, x.wait ≠ .quiescence (some k))
include fresh

theorem exec_cfg_active {u : State} (quiet : (t.now x).quiescent = true) (active : t.activate (t.now x) m = .ok u) :
    exec (.cfg g a) s = .next (u.ended s x) := by
  refine (exec_cfg ..).trans (control_seq h (by simp) ?_)
  split
  · next k wait => exact absurd wait (fresh k)
  · simp only [checked, State.switch_active quiet active, Res.ok_bind]

theorem exec_cfg_waits (busy : (t.now x).quiescent = false) : exec (.cfg g a) s =
    .next ((t.setCtx { t.now (t.now x) with wait := .quiescence (some m) }).consume (s.me x)) := by
  refine (exec_cfg ..).trans (control_gone h (by simp) ?_)
  split
  · next k wait => exact absurd wait (fresh k)
  · simp only [checked, State.switch_busy busy, Res.ok_bind]

end

theorem exec_cfgStg_keeps : exec (.cfgStg g a) s = .next ((t.setCtx { t.now x with staged := some m }).ended s x) := by
  refine (exec_cfgStg ..).trans (control_seq h (by simp) ?_)
  simp only [checked, Res.ok_bind]

end

/-! The configuration that was kept becomes active. -/

section
variable {u : State}

theorem exec_cfg_goes (waits : x.wait = .quiescence (some m)) (quiet : x.quiescent = true) (active : s.activate x m = .ok u) :
    exec (.cfg g a) s = .next (u.ended s x) :=
  (exec_cfg ..).trans (control_seq h (by simp) (by simp only [waits, State.switch_active quiet active]))

theorem exec_cfg_stays (waits : x.wait = .quiescence (some m)) (busy : x.quiescent = false) : exec (.cfg g a) s =
    .next ((s.setCtx { x with wait := .quiescence (some m) }).consume (s.me x)) := by
  refine (exec_cfg ..).trans (control_gone h (by simp) ?_)
  simp only [waits, State.switch_busy busy, State.now_eq h.1]

theorem exec_cfgsw_goes (staged : x.staged = some m) (quiet : x.quiescent = true) (active : s.activate x m = .ok u) :
    exec (.cfgsw g) s = .next (u.ended s x) :=
  (exec_cfgsw ..).trans (control_seq h (by simp) (by simp only [staged, State.switch_active quiet active]))

theorem exec_cfgsw_stays (staged : x.staged = some m) (busy : x.quiescent = false) : exec (.cfgsw g) s =
    .next ((s.setCtx { x with wait := .quiescence (some m) }).consume (s.me x)) := by
  refine (exec_cfgsw ..).trans (control_gone h (by simp) ?_)
  simp only [staged, State.switch_busy busy, State.now_eq h.1]

end

end

/-! What a new configuration holds. -/

/-- A table written with one value reads as that value wherever it read so before. -/
theorem tabGet_foldl_constant {α β : Type} (l : List β) (named : β → Bool) (key : β → Nat) {t : List (Nat × α)} {k : Nat} {v : α}
    (h : (tabGet t k).getD v = v) : (tabGet (l.foldl (fun t w => if named w then tabPut t (key w) v else t) t) k).getD v = v := by
  induction l generalizing t with
  | nil => exact h
  | cons w r ih =>
    refine ih ?_
    dsimp only
    split
    · by_cases same : key w = k
      · rw [same, tabGet_tabPut]; rfl
      · rw [tabGet_tabPut_ne _ (Ne.symm same)]; exact h
    · exact h

theorem State.fabricOf_new {s t : State} {x : Ctx} {m : Staged} {f : Fabric} (made : s.fabricOf x m = .ok (t, f)) :
    f.wires = m.wires ∧ f.order = [] ∧ (∀ k, (f.inq k).toks = [] ∧ (f.outq k).toks = []) ∧
    ∀ e el, (e, el) ∈ f.elems → ∃ h pool, (e, h, pool) ∈ m.elems ∧ el.k = h.extractLsb' 32 32 ∧ el.f = h.extractLsb' 0 8 ∧
      (∀ k : Fin 8, el.d[k] = 0) ∧ ∀ k : Fin 16, el.pool[k] = (pool[k.val]?).getD 0 := by
  rw [State.fabricOf] at made
  obtain ⟨⟨u, ops⟩, -, made⟩ := Res.bind_ok made
  obtain ⟨⟨w, ports⟩, -, made⟩ := Res.bind_ok made
  cases made
  refine ⟨rfl, rfl, fun k => ⟨?ins, ?outs⟩, fun e el mem => ?elems⟩
  case ins =>
    exact congrArg InQ.toks (tabGet_foldl_constant m.wires (·.dstCore == ownCore) (fun w => chKey w.dstSite.toNat w.dstCh.toNat)
      (t := []) (v := InQ.empty) rfl)
  case outs =>
    exact congrArg OutQ.toks (tabGet_foldl_constant m.wires (·.srcCore == ownCore) (fun w => chKey w.srcSite.toNat w.srcCh.toNat)
      (t := []) (v := (⟨[], false⟩ : OutQ)) rfl)
  case elems =>
    obtain ⟨⟨site, h, pool⟩, there, made⟩ := List.mem_map.mp mem
    cases made
    exact ⟨h, pool, there, rfl, rfl, fun k => by simp [elementOf], fun k => by simp [elementOf]⟩

theorem State.activate_new {s t : State} {x : Ctx} {m : Staged} {f : Fabric} (made : s.fabricOf x m = .ok (t, f)) :
    s.activate x m = .ok ((t.setCtx { t.now x with fabric := some f, btok := [], staged := none }).settle s.cur) := by
  simp only [State.activate, made, Res.ok_bind]

/-! Streams and barriers. -/

/-- A register in two halves. -/
theorem halves_eq (w : Word) : BitVec.ofNat 32 w.toNat = w.extractLsb' 0 32 ∧ BitVec.ofNat 32 (w.toNat / 2 ^ 32) = w.extractLsb' 32 32 := by
  constructor
  · refine BitVec.eq_of_toNat_eq ?_
    rw [BitVec.toNat_ofNat, BitVec.extractLsb'_toNat, Nat.shiftRight_zero]
  · refine BitVec.eq_of_toNat_eq ?_
    rw [BitVec.toNat_ofNat, BitVec.extractLsb'_toNat, Nat.shiftRight_eq_div_pow]

/-- A register that holds a number below 2^k has no bit from there on. -/
theorem high_zero {w : Word} {k n : Nat} (h : w.toNat < 2 ^ k) : w.extractLsb' k n = 0 := by
  refine BitVec.eq_of_toNat_eq ?_
  rw [BitVec.extractLsb'_toNat, Nat.shiftRight_eq_div_pow, Nat.div_eq_of_lt h]
  exact Nat.zero_mod _

section
variable {s : State} {x : Ctx} {g : Guard} {a : Reg} (h : s.ready x g)
include h

theorem exec_strm_enters {port : BitVec 4} {b c : Reg} {mode : StrmMode} {ty : Ty} {sc : Scope} {sp : Bool} {f : Fabric} {q : Port}
    (fabric : x.fabric = some f) (there : tabGet f.ports (64 + port.toNat) = some q)
    (wiredIn : readMode mode = true ∨ f.wiredIn (64 + port.toNat) 0 = true)
    (wiredOut : writeMode mode = true ∨ f.wiredOut (64 + port.toNat) 0 = true) :
    let stride : BitVec 32 := BitVec.ofNat 32 (x.g c).toNat
    (x.g a).toNat % ty.bytes = 0 → stride.toNat % ty.bytes = 0 → (q.queue.filter PortItem.isStream).length < 3 →
    let st : Stream := ⟨mode, ty, sc, sp, x.g a, x.g b, if stride = 0 then BitVec.ofNat 32 ty.bytes else stride,
      BitVec.ofNat 32 ((x.g c).toNat / 2 ^ 32), 0, 0, [], f.order⟩
    let r := advancePort (64 + port.toNat) 8 f
      { q with queue := q.queue ++ [.stream st], latestRead := readMode mode, issued := q.issued + 1 }
    exec (.strm g port a b c mode ty sc sp) s = .next ((((s.setCtx { x with
      fabric := some { r.1 with ports := tabPut r.1.ports (64 + port.toNat) r.2 } }).handOver (s.me x)
        (portAgent s.cur port.toNat x)).settle s.cur).ended s x) := by
  intro stride aligned whole room st r
  rw [exec_strm, execStrm]
  refine control_seq h (by simp) ?_
  obtain ⟨low, high⟩ := halves_eq (x.g c)
  have wired : ((readMode mode || f.wiredIn (64 + port.toNat) 0) && (writeMode mode || f.wiredOut (64 + port.toNat) 0)) = true := by
    rw [Bool.and_eq_true, Bool.or_eq_true, Bool.or_eq_true]; exact ⟨wiredIn, wiredOut⟩
  have whole : ((x.g c).extractLsb' 0 32).toNat % ty.bytes = 0 := by rw [← low]; exact whole
  simp only [Ctx.portOf, fabric, there, require_ok wired, require_ok (beq_iff_eq.mpr aligned), require_ok (beq_iff_eq.mpr whole),
    await_ok (decide_eq_true room), Res.ok_bind]
  simp only [r, st, stride, low, high, beq_iff_eq]

theorem exec_sbar_observes (few : (x.g a).toNat < 2 ^ 16)
    (idle : ∀ p q f, p < 16 → x.fabric = some f → (x.g a).getLsbD p = true → tabGet f.ports (64 + p) = some q →
      q.running = none ∧ (∀ i ∈ q.queue, i.isStream = false) ∧ s.performed (portAgent s.cur p x) q.reach = true) :
    exec (.sbar g a) s = .next (((x.namedPorts (x.g a)).foldl (fun t e =>
      t.observe (s.me x) (t.release (portAgent s.cur e.1 x))) s).ended s x) := by
  refine (exec_sbar ..).trans (control_seq h (by simp) ?_)
  have all : ((x.namedPorts (x.g a)).all fun (p, q) => s.portIdle x p q) = true := by
    rw [List.all_eq_true]
    rintro ⟨p, q⟩ mem
    cases fabric : x.fabric with
    | none => rw [Ctx.namedPorts, fabric] at mem; cases mem
    | some f =>
      rw [Ctx.namedPorts, fabric] at mem
      obtain ⟨k, low, named⟩ := List.mem_filterMap.mp mem
      by_cases bit : (x.g a).getLsbD k = true
      · rw [if_pos bit, Option.map_eq_some_iff] at named
        obtain ⟨r, port, same⟩ := named
        cases same
        obtain ⟨stopped, none, quiet⟩ := idle p q f (List.mem_range.mp low) fabric bit port
        have none : q.queue.any PortItem.isStream = false := List.any_eq_false.mpr fun i mem => by rw [none i mem]; exact Bool.false_ne_true
        simp only [State.portIdle, stopped, none, quiet, Option.isNone_none, Bool.not_false, Bool.and_self]
      · rw [if_neg bit] at named; cases named
  simp only [high_zero few, require_ok (rfl : ((0 : BitVec 48) == 0) = true), await_ok all, Res.ok_bind]

theorem exec_sbarOrd_orders (few : (x.g a).toNat < 2 ^ 16) :
    exec (.sbarOrd g a) s = .next (s.retired x { x with fabric := x.fabric.map fun f => { f with
      order := (List.range 16).foldl (fun o p => if (x.g a).getLsbD p then
        (match tabGet f.ports (64 + p) with | some q => tabPut o (64 + p) q.issued | none => o) else o) f.order } }) := by
  cases fabric : x.fabric with
  | none =>
    have same : { x with fabric := none } = x := by rw [← fabric]
    refine (exec_sbarOrd ..).trans ((control_retired_self h (by simp) ?_).trans (congrArg (fun y => Host.Outcome.next (s.retired x y)) same.symm))
    simp only [high_zero few, require_ok (rfl : ((0 : BitVec 48) == 0) = true), fabric, Res.ok_bind]
  | some f =>
    refine (exec_sbarOrd ..).trans (control_retired h (by simp) ?_)
    simp only [high_zero few, require_ok (rfl : ((0 : BitVec 48) == 0) = true), fabric, Res.ok_bind]
    rfl

theorem exec_btok_enters {t : State} {id : BitVec 5} {gm : Bool} {b : Bar} (checked : s.barChecked s.cur (s.me x) ⟨gm, x.g a⟩ = .ok (t, b)) :
    exec (.btok g a id gm) s = .next (((t.setCtx { t.now x with
      btok := tabPut (t.now x).btok id.toNat ⟨gm, x.g a⟩
      fabric := (t.now x).fabric.map fun f => f.ports.foldl (fun h e => if e.2.latestRead then
        let r := advancePort e.1 8 h { e.2 with queue := e.2.queue ++ [.bar id] }
        { r.1 with ports := tabPut r.1.ports e.1 r.2 } else h) f }).settle s.cur).ended s x) := by
  refine (exec_btok ..).trans (control_seq h (by simp) ?_)
  simp only [checked, Res.ok_bind]
  cases fabric : (t.now x).fabric with
  | none => rfl
  | some f => rfl

end

/-! Arguments, tokens and status. -/

/-- Bits from two ranges. -/
theorem laneSum_add (f : Nat → Bool) (m n : Nat) : laneSum f (m + n) = laneSum f m + 2 ^ m * laneSum (fun k => f (m + k)) n := by
  induction n with
  | zero => rfl
  | succ n ih =>
    rw [← Nat.add_assoc, laneSum_succ, laneSum_succ, ih]
    split
    · rw [Nat.mul_add, Nat.pow_add, Nat.add_assoc]
    · rfl

theorem laneSum_congr {f f' : Nat → Bool} {n : Nat} (same : ∀ k, k < n → f k = f' k) : laneSum f n = laneSum f' n := by
  induction n with
  | zero => rfl
  | succ n ih => rw [laneSum_succ, laneSum_succ, ih fun k hk => same k (Nat.lt_succ_of_lt hk), same n (Nat.lt_succ_self n)]

theorem foldl_toNat (p : Nat → Bool) (n : Nat) : (List.range n).foldl (fun v k => v + (p k).toNat * 2 ^ k) 0 = laneSum p n := by
  induction n with
  | zero => rfl
  | succ n ih =>
    rw [List.range_succ, List.foldl_append, ih, laneSum_succ, List.foldl_cons, List.foldl_nil]
    cases p n with
    | false => rw [Bool.toNat_false, Nat.zero_mul, Nat.add_zero, if_neg Bool.false_ne_true]
    | true => rw [Bool.toNat_true, Nat.one_mul, if_pos rfl]

/-- A bit, at the weight it has in a status word. -/
theorem toNat_mul_eq_ite {b : Bool} {p : Prop} [Decidable p] (k : Nat) (same : b = true ↔ p) : b.toNat * k = if p then k else 0 := by
  by_cases hold : p
  · rw [same.mpr hold, if_pos hold, Bool.toNat_true, Nat.one_mul]
  · rw [if_neg hold, Bool.eq_false_iff.mpr (fun e => hold (same.mp e)), Bool.toNat_false, Nat.zero_mul]

/-- The bits of the status of all sites. -/
def Fabric.statusBit (f : Fabric) (k : Nat) : Bool :=
  if k < 16 then (match tabGet f.ports (64 + k) with | some q => q.running.isSome | none => false)
  else if k < 32 then (match tabGet f.ports (48 + k) with | some q => f.portHeld (48 + k) q | none => false)
  else if k < 48 then (match tabGet f.ops (16 + k) with | some o => f.opHeld (16 + k) o | none => false)
  else k == 48 && f.quiescent

/-- The four parts of the status, each as the word gives it. -/
theorem Fabric.statusBits_parts (f : Fabric) : laneSum f.statusBit 49 =
    laneSum (fun k => match tabGet f.ports (64 + k) with | some q => q.running.isSome | none => false) 16 +
      laneSum (fun k => match tabGet f.ports (64 + k) with | some q => f.portHeld (64 + k) q | none => false) 16 * 2 ^ 16 +
      laneSum (fun k => match tabGet f.ops (48 + k) with | some o => f.opHeld (48 + k) o | none => false) 16 * 2 ^ 32 +
      f.quiescent.toNat * 2 ^ 48 := by
  have run : laneSum f.statusBit 16 = laneSum (fun k => match tabGet f.ports (64 + k) with | some q => q.running.isSome | none => false) 16 :=
    laneSum_congr fun k hk => by rw [Fabric.statusBit, if_pos hk]
  have held : laneSum (fun k => f.statusBit (16 + k)) 16 =
      laneSum (fun k => match tabGet f.ports (64 + k) with | some q => f.portHeld (64 + k) q | none => false) 16 :=
    laneSum_congr fun k hk => by
      rw [Fabric.statusBit, if_neg (by omega), if_pos (by omega), show 48 + (16 + k) = 64 + k by omega]
  have ops : laneSum (fun k => f.statusBit (32 + k)) 16 =
      laneSum (fun k => match tabGet f.ops (48 + k) with | some o => f.opHeld (48 + k) o | none => false) 16 :=
    laneSum_congr fun k hk => by
      rw [Fabric.statusBit, if_neg (by omega), if_neg (by omega), if_pos (by omega), show 16 + (32 + k) = 48 + k by omega]
  have last : laneSum (fun k => f.statusBit (48 + k)) 1 = f.quiescent.toNat := by
    rw [laneSum_succ]
    show (if f.quiescent then _ else _) = _
    cases f.quiescent <;> rfl
  have parts := laneSum_add f.statusBit 16 33
  have upper := laneSum_add (fun k => f.statusBit (16 + k)) 16 17
  have top := laneSum_add (fun k => f.statusBit (16 + (16 + k))) 16 1
  simp only [← Nat.add_assoc, Nat.reduceAdd] at parts upper top
  rw [parts, upper, top, run, held, ops, last]
  omega

section
variable {s : State} {x : Ctx} {g : Guard} {d a : Reg} {f : Fabric} (h : s.ready x g) (fabric : x.fabric = some f)
include h fabric

theorem exec_argw_sets {op : BitVec 4} {o : Operator} (there : tabGet f.ops (48 + op.toNat) = some o) (small : (x.g a).toNat < 2 ^ 32)
    (kind : o.kind = 1 ∨ o.kind = 2 ∨ o.kind = 3 ∨ o.kind = 8) :
    exec (.argw g op a) s = .next (s.retired x { x with fabric := some { f with
      ops := tabPut f.ops (48 + op.toNat) { o with a := BitVec.ofNat 32 (x.g a).toNat } } }) := by
  rw [exec_argw, execArgw]
  refine control_retired h (by simp) ?_
  have takes : takesArgument o.kind = true := by
    simp only [takesArgument, Bool.or_eq_true, beq_iff_eq, or_assoc]; exact kind
  simp only [high_zero small, require_ok (rfl : ((0 : BitVec 32) == 0) = true), fabric, there, require_ok takes, (halves_eq (x.g a)).1,
    Res.ok_bind]

section
variable {ch : BitVec 2}

section
variable (small : (x.g a).toNat < 2 ^ 40) (mark : (Token.ofWord (x.g a)).cls ≠ 4) (relatch : (Token.ofWord (x.g a)).cls ≠ 6)
  (packet : (Token.ofWord (x.g a)).cls ≠ 7) (good : (Token.ofWord (x.g a)).bad = false) (wired : f.wiredOut 82 ch.toNat = true)
include small mark relatch packet good wired

omit h fabric wired in
theorem tinj_allowed : ((x.g a).extractLsb' 40 24 == 0 && (Token.ofWord (x.g a)).cls != 4 && (Token.ofWord (x.g a)).cls != 6 &&
    (Token.ofWord (x.g a)).cls != 7 && !(Token.ofWord (x.g a)).bad) = true := by
  rw [high_zero small, bne_iff_ne.mpr mark, bne_iff_ne.mpr relatch, bne_iff_ne.mpr packet, good]; rfl

theorem exec_tinj_moves (room : (f.outq (chKey 82 ch.toNat)).toks.length < 4) :
    exec (.tinj g ch a) s =
      .next (((s.setCtx { x with fabric := some (f.push 82 ch.toNat (Token.ofWord (x.g a))) }).settle s.cur).ended s x) := by
  rw [exec_tinj, execTinj]
  refine control_seq h (by simp) ?_
  have space : decide (0 < f.space 82 ch.toNat) = true := decide_eq_true (by rw [Fabric.space]; omega)
  simp only [require_ok (tinj_allowed small mark relatch packet good), fabric, require_ok wired, await_ok space, Res.ok_bind]

theorem exec_tinj_waits (full : 4 ≤ (f.outq (chKey 82 ch.toNat)).toks.length) :
    exec (.tinj g ch a) s = .next (s.setCtx { x with wait := .channel }) := by
  rw [exec_tinj, execTinj]
  refine control_wait h (by simp) ?_ nofun
  have space : decide (0 < f.space 82 ch.toNat) = false := decide_eq_false (by rw [Fabric.space]; omega)
  simp only [require_ok (tinj_allowed small mark relatch packet good), fabric, require_ok wired, await_no space, Res.ok_bind, Res.error_bind]

end

section
variable (wired : f.wiredIn 82 ch.toNat = true)
include wired

theorem exec_tpop_moves {tok : Token} (head : f.head 82 ch.toNat = some tok) : exec (.tpop g d ch) s =
    .next (((s.setCtx { x.setG d tok.word with fabric := some (f.pop 82 ch.toNat) }).settle s.cur).ended s x) := by
  rw [exec_tpop, execTpop]
  refine control_seq h (by simp) ?_
  simp only [fabric, require_ok wired, head, Res.ok_bind]

theorem exec_tpop_waits (none : f.head 82 ch.toNat = none) : exec (.tpop g d ch) s = .next (s.setCtx { x with wait := .channel }) := by
  rw [exec_tpop, execTpop]
  refine control_wait h (by simp) ?_ nofun
  simp only [fabric, require_ok wired, none, Res.ok_bind]

end

end

section
variable {site : BitVec 5}

theorem exec_fstat_port {q : Port} (low : site.toNat < 16) (there : tabGet f.ports (64 + site.toNat) = some q) :
    exec (.fstat g d site) s = .next (s.retired x (x.setG d (BitVec.ofNat 64
      ((match q.running with | some st => st.done.toNat % 2 ^ 32 | none => 0) + (q.queue.filter PortItem.isStream).length * 2 ^ 32 +
        (if q.running = none then 0 else 2 ^ 35) + (if f.portHeld (64 + site.toNat) q = true then 2 ^ 36 else 0) +
        (if q.cuse = true ∧ q.running ≠ none ∧ f.head (64 + site.toNat) 1 = none then 2 ^ 37 else 0))))) := by
  refine (exec_fstat ..).trans ((simple_ready h).trans ?_)
  refine congrArg (fun v => Host.Outcome.next (s.retired x (x.setG d v))) ?_
  simp only [fabric, if_pos low, there, portStatus]
  generalize (2 : Nat) ^ 35 = w35, (2 : Nat) ^ 36 = w36, (2 : Nat) ^ 37 = w37
  have runs : (q.running.isSome = true ↔ ¬ q.running = none) := Option.isSome_iff_ne_none
  have starves : (q.cuse && q.running.isSome && (f.head (64 + site.toNat) 1).isNone) = true ↔
      q.cuse = true ∧ q.running ≠ none ∧ f.head (64 + site.toNat) 1 = none := by
    rw [Bool.and_eq_true, Bool.and_eq_true, Option.isSome_iff_ne_none, Option.isNone_iff_eq_none, and_assoc]
  simp only [toNat_mul_eq_ite w35 runs, toNat_mul_eq_ite w36 (Iff.rfl (a := f.portHeld (64 + site.toNat) q = true)),
    toNat_mul_eq_ite w37 starves, ite_not] <;> rfl

theorem exec_fstat_op {o : Operator} (high : 16 ≤ site.toNat) (there : tabGet f.ops (32 + site.toNat) = some o) :
    exec (.fstat g d site) s = .next (s.retired x (x.setG d (BitVec.ofNat 64 (o.emitted.toNat +
      (if o.buf = [] then 0 else 2 ^ 32) + (if f.opHeld (32 + site.toNat) o = true then 2 ^ 33 else 0))))) := by
  refine (exec_fstat ..).trans ((simple_ready h).trans ?_)
  refine congrArg (fun v => Host.Outcome.next (s.retired x (x.setG d v))) ?_
  simp only [fabric, if_neg (Nat.not_lt.mpr high), there]
  generalize (2 : Nat) ^ 32 = w32, (2 : Nat) ^ 33 = w33
  have buffered : (!o.buf.isEmpty) = true ↔ ¬ o.buf = [] := by rw [Bool.not_eq_true', List.isEmpty_eq_false_iff]
  rw [toNat_mul_eq_ite w32 buffered, toNat_mul_eq_ite w33 (Iff.rfl (a := f.opHeld (32 + site.toNat) o = true)), ite_not]

theorem exec_fstat_none (noPort : site.toNat < 16 → tabGet f.ports (64 + site.toNat) = none)
    (noOp : 16 ≤ site.toNat → tabGet f.ops (32 + site.toNat) = none) : exec (.fstat g d site) s = .next (s.retired x (x.setG d 0)) := by
  refine (exec_fstat ..).trans ((simple_ready h).trans ?_)
  refine congrArg (fun v => Host.Outcome.next (s.retired x (x.setG d v))) ?_
  by_cases low : site.toNat < 16
  · simp only [fabric, if_pos low, noPort low]
  · simp only [fabric, if_neg low, noOp (Nat.not_lt.mp low)]

end

theorem exec_fstatAll_bits : exec (.fstatAll g d) s = .next (s.retired x (x.setG d (BitVec.ofNat 64 (laneSum f.statusBit 49)))) := by
  refine (exec_fstatAll ..).trans ((simple_ready h).trans ?_)
  refine congrArg (fun v => Host.Outcome.next (s.retired x (x.setG d v))) ?_
  simp only [fabric, foldl_toNat]
  exact congrArg (BitVec.ofNat 64) (Fabric.statusBits_parts f).symm

end

theorem Fabric.statusBit_get (f : Fabric) {k : Nat} (hk : k < 64) : (BitVec.ofNat 64 (laneSum f.statusBit 49)).getLsbD k = f.statusBit k := by
  rw [BitVec.getLsbD_ofNat, decide_eq_true hk, Bool.true_and, testBit_laneSum]
  by_cases low : k < 49
  · rw [decide_eq_true low, Bool.true_and]
  · rw [decide_eq_false low, Bool.false_and, Fabric.statusBit, if_neg (by omega), if_neg (by omega), if_neg (by omega),
      beq_eq_false_iff_ne.mpr (by omega : k ≠ 48), Bool.false_and]

theorem exec_fstat_unconfigured {s : State} {x : Ctx} {g : Guard} {d : Reg} {site : BitVec 5} (h : s.ready x g) (none : x.fabric = none) :
    exec (.fstat g d site) s = .next (s.retired x (x.setG d 0)) ∧
    exec (.fstatAll g d) s = .next (s.retired x (x.setG d (BitVec.ofNat 64 (2 ^ 48)))) := by
  constructor
  · refine (exec_fstat ..).trans ((simple_ready h).trans ?_)
    simp only [none]
  · refine (exec_fstatAll ..).trans ((simple_ready h).trans ?_)
    simp only [none]
    rfl

/-- Settles O36: the words by what they check and do, and a new configuration by the tables it is made of. -/
theorem fabricInstructionsComplete : Obligations.FabricInstructionsComplete := by
  unfold Obligations.FabricInstructionsComplete
  refine ⟨⟨fun s t x g a m h checked => ⟨fun fresh => ⟨fun u => exec_cfg_active h checked fresh, exec_cfg_waits h checked fresh⟩,
        exec_cfgStg_keeps h checked⟩,
      fun s u x g a m h => ⟨fun waits => ⟨exec_cfg_goes h waits, exec_cfg_stays h waits⟩,
        fun staged => ⟨exec_cfgsw_goes h staged, exec_cfgsw_stays h staged⟩⟩,
      fun s t x m f made => ⟨State.activate_new made, State.fabricOf_new made⟩⟩,
    fun s x g port a b c mode ty sc sp f q h fabric there wiredIn wiredOut => exec_strm_enters h fabric there wiredIn wiredOut,
    fun s t x g a id gm b h => ⟨exec_sbar_observes h, exec_sbarOrd_orders h, exec_btok_enters h⟩,
    fun s x g d a op ch site f h fabric => ⟨fun o => exec_argw_sets h fabric, ?tokens,
      fun wired => ⟨fun tok => exec_tpop_moves h fabric wired, exec_tpop_waits h fabric wired⟩, fun q => exec_fstat_port h fabric,
      fun o => exec_fstat_op h fabric, exec_fstat_none h fabric, _, exec_fstatAll_bits h fabric, fun k hk => f.statusBit_get hk⟩,
    fun s x g d site h none => exec_fstat_unconfigured h none⟩
  case tokens =>
    exact fun small mark relatch packet good wired => ⟨exec_tinj_moves h fabric small mark relatch packet good wired,
      exec_tinj_waits h fabric small mark relatch packet good wired⟩

end Sys2Proof.Machine
end

section
/-! PROOFS. Copies, rings and free-slot notices (R354 to R358): what each word enters, what a sector of a copy leaves and when a slot copy starts. -/

namespace Sys2Proof.Machine

theorem setHas_setAdd (t : List Nat) (k : Nat) : setHas (setAdd t k) k = true := by
  induction t with
  | nil => simp [setAdd, setHas]
  | cons j r ih =>
    rw [setAdd]
    by_cases same : j = k
    · rw [if_pos (beq_iff_eq.mpr same), same]; simp [setHas]
    · rw [if_neg (beq_iff_eq.not.mpr same)]
      split
      · simp [setHas]
      · simp only [setHas, List.elem_eq_mem, decide_eq_true_eq, List.mem_cons] at ih ⊢
        exact .inr ih

/-! Copies enter (R355). -/

section
variable {dst src len : Word}

/-- The checks, on aligned operands: the ranges of one memory do not meet, and what lies in the scratchpad lies in the claim. -/
theorem copyChecks_ok {word : Word} {claim : Nat} {dir : BitVec 3} (dst32 : dst.toNat % 32 = 0) (src32 : src.toNat % 32 = 0)
    (len32 : len.toNat % 32 = 0) (short : len.toNat ≤ 2 ^ 40)
    (apart : srcSpad dir = dstSpad dir → dst.toNat + len.toNat ≤ src.toNat ∨ src.toNat + len.toNat ≤ dst.toNat)
    (into : dstSpad dir = true → dst.toNat + len.toNat ≤ claim) (from_ : srcSpad dir = true → src.toNat + len.toNat ≤ claim) :
    copyChecks word claim dir dst src len = .ok () := by
  have one : (srcSpad dir != dstSpad dir || !meet dst.toNat src.toNat len.toNat) = true := by
    by_cases same : srcSpad dir = dstSpad dir
    · have miss : meet dst.toNat src.toNat len.toNat = false := by
        rw [meet, Bool.and_eq_false_iff, decide_eq_false_iff_not, decide_eq_false_iff_not]
        have := apart same; omega
      rw [miss, Bool.not_false, Bool.or_true]
    · rw [bne_iff_ne.mpr same, Bool.true_or]
  have two : (!dstSpad dir || decide (dst.toNat + len.toNat ≤ claim)) = true := by
    cases spad : dstSpad dir with
    | false => rfl
    | true => exact decide_eq_true (into spad)
  have three : (!srcSpad dir || decide (src.toNat + len.toNat ≤ claim)) = true := by
    cases spad : srcSpad dir with
    | false => rfl
    | true => exact decide_eq_true (from_ spad)
  simp only [copyChecks, require_ok (beq_iff_eq.mpr dst32), require_ok (beq_iff_eq.mpr src32), require_ok (beq_iff_eq.mpr len32),
    require_ok (decide_eq_true short), require_ok one, require_ok two, require_ok three, Res.ok_bind]

end

theorem copyInstr_enters {s t : State} {x : Ctx} {g : Guard} {i : Instr} {dir : BitVec 3} {d a b c : Reg} {fe gm : Bool} {sc : Scope} {o : Bar}
    (h : s.ready x g) (checks : copyChecks (encode i) x.spadBytes dir (x.g d) (x.g a) (x.g b) = .ok ())
    (checked : s.barChecked s.cur (s.me x) ⟨gm, x.g c⟩ = .ok (t, o)) (room : (t.core t.cur).copyQueue < 16) :
    copyInstr i g dir d a b c fe gm sc s = .next (((t.handOver (t.me x) (copyAgent t.cur x.id x.asid)).enqueue t.cur
      (Copy.fresh .command x.id x.asid x.part dir (x.g d) (x.g a) (x.g b).toNat fe (some ⟨gm, x.g c⟩) sc)).ended s x) := by
  rw [copyInstr]
  refine control_seq h (by simp) ?_
  simp only [checks, checked, await_ok (decide_eq_true room), Res.ok_bind]

/-! The sectors of a copy (R355, R356). -/

theorem State.sectorCount_bare {s t : State} {c e : Nat} {q : Copy} (reach : s.copyReach c q e = true) (bare : q.bar = none)
    (counted : s.sectorCount c q e = .ok (t, q)) : t = s ∧ setHas q.counted e = true := by
  simp only [State.sectorCount, await_ok reach, bare, Res.ok_bind] at counted
  injection counted with same
  injection same with there copy
  refine ⟨there.symm, ?_⟩
  rw [← congrArg Copy.counted copy]
  exact setHas_setAdd ..

theorem State.sectorCount_bar {s t : State} {c e : Nat} {q : Copy} {b : BarRef} (reach : s.copyReach c q e = true) (bar : q.bar = some b)
    (done : s.barUpdate c (copyAgent c q.task q.asid) b 0 (-1) = .ok t) :
    s.sectorCount c q e = .ok (t, { q with counted := setAdd q.counted e }) := by
  simp only [State.sectorCount, await_ok reach, bar, done, Res.ok_bind]

theorem State.sectorCount_unreached {s : State} {c e : Nat} {q : Copy} (reach : s.copyReach c q e = false) :
    s.sectorCount c q e = .error (.wait .interlock) := by
  simp only [State.sectorCount, await_no reach, Res.error_bind]

theorem State.copyEnd_goesOn {s : State} {c k : Nat} {q : Copy} (more : q.counted.length < q.sectors) : s.copyEnd c k q = s.setCopy c k q := by
  rw [State.copyEnd, if_pos more]

theorem State.copyEnd_command {s : State} {c k : Nat} {q : Copy} (all : q.sectors ≤ q.counted.length) (command : q.owner = .command) :
    s.copyEnd c k q = s.setCore c { s.core c with copies := tabDel (s.core c).copies k } := by
  rw [State.copyEnd, if_neg (Nat.not_lt.mpr all), command]

section
variable {s t u : State} {c k e : Nat} {p : Copy} {a : Attempt} (there : tabGet (s.core c).copies k = some p) (inside : e < p.sectors)
  (open_ : setHas p.counted e = false)
include there inside open_

/-- The sector as a step takes it up: no longer withheld, no retry due. -/
def Copy.takeUp (p : Copy) (e : Nat) : Copy := { p with withheld := p.withheld.filter (·.1 != e), retry := tabDel p.retry e }

omit there inside open_ in
theorem Copy.takeUp_fields : (p.takeUp e).done = p.done ∧ (p.takeUp e).fe = p.fe ∧ (p.takeUp e).halves = p.halves := ⟨rfl, rfl, rfl⟩

omit there in
theorem Copy.not_over : (decide (p.sectors ≤ e) || setHas p.counted e) = false := by
  rw [open_, decide_eq_false (Nat.not_le.mpr inside), Bool.or_false]

theorem State.sectorStep_counts {q : Copy} (done : setHas p.done e = true) (counted : s.sectorCount c (p.takeUp e) e = .ok (t, q)) :
    s.sectorStep c k e a = (t.consume (copyAgent c p.task p.asid)).copyEnd c k q := by
  have counted' : s.sectorCount c { p with withheld := p.withheld.filter (·.1 != e), retry := tabDel p.retry e } e = .ok (t, q) := counted
  simp only [State.sectorStep, there, Copy.not_over inside open_, done, counted', Bool.false_eq_true, if_false, if_true]

section
variable {q q' : Copy} (todo : setHas p.done e = false) (written : s.sectorWrite c (p.takeUp e) e = .ok (t, q))
include todo written

theorem State.sectorStep_partly (unfinished : setHas q.done e = false) :
    s.sectorStep c k e a = (t.consume (copyAgent c p.task p.asid)).copyEnd c k q := by
  have written' : s.sectorWrite c { p with withheld := p.withheld.filter (·.1 != e), retry := tabDel p.retry e } e = .ok (t, q) := written
  simp only [State.sectorStep, there, Copy.not_over inside open_, todo, written', unfinished, Bool.false_eq_true, if_false]

theorem State.sectorStep_written (finished : setHas q.done e = true) (counted : t.sectorCount c q e = .ok (u, q')) :
    s.sectorStep c k e a = (u.consume (copyAgent c p.task p.asid)).copyEnd c k q' := by
  have written' : s.sectorWrite c { p with withheld := p.withheld.filter (·.1 != e), retry := tabDel p.retry e } e = .ok (t, q) := written
  simp only [State.sectorStep, there, Copy.not_over inside open_, todo, written', finished, counted, Bool.false_eq_true, if_false, if_true]

theorem State.sectorStep_outstanding (finished : setHas q.done e = true) (reach : t.copyReach c q e = false) :
    s.sectorStep c k e a = (t.consume (copyAgent c p.task p.asid)).copyEnd c k q := by
  have written' : s.sectorWrite c { p with withheld := p.withheld.filter (·.1 != e), retry := tabDel p.retry e } e = .ok (t, q) := written
  simp only [State.sectorStep, there, Copy.not_over inside open_, todo, written', finished, State.sectorCount_unreached reach,
    Bool.false_eq_true, if_false, if_true]

end

end

section
variable {s t : State} {c e : Nat} {q : Copy}

theorem State.sectorWrite_plain {v : State} {bs : List Byte} {bad : Bool} (plain : q.fe = false) (read : s.copyRead c q e = .ok (v, bs, bad))
    (written : v.copyWrite c q e bs bad = .ok t) : s.sectorWrite c q e = .ok (t, { q with done := setAdd q.done e }) := by
  simp only [State.sectorWrite, plain, read, written, Res.ok_bind, Bool.false_eq_true, if_false]

theorem State.sectorWrite_half {m : Half} (fills : q.fe = true) (filled : s.fillSector c q e = .ok (t, some m)) :
    s.sectorWrite c q e = .ok (t, { q with halves := tabPut q.halves e m }) := by
  simp only [State.sectorWrite, fills, filled, Res.ok_bind, if_true]

theorem State.sectorWrite_full (fills : q.fe = true) (filled : s.fillSector c q e = .ok (t, none)) :
    s.sectorWrite c q e = .ok (t, { q with done := setAdd q.done e, halves := tabDel q.halves e }) := by
  simp only [State.sectorWrite, fills, filled, Res.ok_bind, if_true]

end

/-- A sector that is not withheld is written, and a withheld one for which a retry is due is tried. -/
theorem exec_sector {s : State} {c k e : Nat} {p : Copy} {i : Instr} (alive : s.alive = true) (there : tabGet (s.core c).copies k = some p)
    (which : tabGet p.withheld e = none ∧ i = .copySectorWrite c k e ∨ (∃ a, tabGet p.retry e = some a) ∧ i = .copySectorRetry c k e) :
    ∃ a, exec i s = .next (s.sectorStep c k e a) := by
  rcases which with ⟨free, rfl⟩ | ⟨⟨a, due⟩, rfl⟩
  · refine ⟨.first, ?_⟩
    simp only [exec_copySectorWrite, execCopySectorWrite, alive, there, free, Bool.not_true, Option.isSome_none, Bool.false_eq_true, if_false]
  · refine ⟨a, ?_⟩
    simp only [exec_copySectorRetry, execCopySectorRetry, alive, there, due, Bool.not_true, Bool.false_eq_true, if_false]

/-! Rings (R357, R358). -/

/-- The fields of the third word of a ring's descriptor. -/
theorem ring_fields {w : Word} {fe dsp : Bool} {nslot : BitVec 16} {slot : BitVec 32}
    (hw : w = (0 : BitVec 14) ++ BitVec.ofBool fe ++ BitVec.ofBool dsp ++ nslot ++ slot) :
    w.extractLsb' 0 32 = slot ∧ w.extractLsb' 32 16 = nslot ∧ w.getLsbD 48 = dsp ∧ w.getLsbD 49 = fe ∧ w.extractLsb' 50 14 = 0 := by
  subst hw
  refine ⟨?_, ?_, ?_, ?_, ?_⟩
  · ext k hk
    rw [BitVec.getElem_extractLsb', BitVec.getLsbD_append, Nat.zero_add, if_pos hk, BitVec.getLsbD_eq_getElem hk]
  · ext k hk
    rw [BitVec.getElem_extractLsb', BitVec.getLsbD_append, if_neg (by omega), BitVec.getLsbD_append, if_pos (by omega), Nat.add_sub_cancel_left,
      BitVec.getLsbD_eq_getElem hk]
  · simp only [BitVec.getLsbD_append, Nat.reduceLT, Nat.reduceSub, if_false, if_true]
    simp
  · simp only [BitVec.getLsbD_append, Nat.reduceLT, Nat.reduceSub, if_false, if_true]
    simp
  · ext k hk
    rw [BitVec.getElem_extractLsb', BitVec.getLsbD_append, if_neg (by omega), BitVec.getLsbD_append, if_neg (by omega),
      BitVec.getLsbD_append, if_neg (by omega), BitVec.getLsbD_append, if_neg (by omega)]
    simp

section
variable {s t u v : State} {x : Ctx} {g : Guard} {a b : Reg} {slot : BitVec 32} {nslot : BitVec 16} {gm dsp fe : Bool} {total : BitVec 41}
  {bs : List Byte} {wd : Nat → Word}

/-- The descriptor's ranges: 1 to 65535 slots of 32 bytes to 1 MiB, as many slot copies as TOTAL says, the unnamed words zero. -/
theorem ring_shape (w : wd 2 = (0 : BitVec 14) ++ BitVec.ofBool fe ++ BitVec.ofBool dsp ++ nslot ++ slot)
    (wt : wd 3 = total.setWidth 64) (w6 : wd 6 = 0) (w7 : wd 7 = 0) (least : 32 ≤ slot.toNat) (most : slot.toNat ≤ 2 ^ 20)
    (some : 1 ≤ nslot.toNat) (one : 1 ≤ total.toNat) (few : total.toNat ≤ 2 ^ 40) (credit : (x.g b).toNat ≤ nslot.toNat)
    (fills : fe = true → dsp = true) :
    (32 ≤ ((wd 2).extractLsb' 0 32).toNat && decide (((wd 2).extractLsb' 0 32).toNat ≤ 2 ^ 20) && 1 ≤ ((wd 2).extractLsb' 32 16).toNat &&
      (!(wd 2).getLsbD 49 || (wd 2).getLsbD 48) && (wd 2).extractLsb' 50 14 == 0 && 1 ≤ (wd 3).toNat &&
      decide ((wd 3).toNat ≤ 2 ^ 40) && wd 6 == 0 && wd 7 == 0 && decide ((x.g b).toNat ≤ ((wd 2).extractLsb' 32 16).toNat)) = true := by
  obtain ⟨hs, hn, hd, hf, hz⟩ := ring_fields w
  have wt : (wd 3).toNat = total.toNat := by rw [wt, BitVec.toNat_setWidth_of_le (by decide)]
  have pair : (!fe || dsp) = true := by
    cases fe with
    | false => rfl
    | true => exact fills rfl
  rw [hs, hn, hd, hf, hz, wt, w6, w7, pair, decide_eq_true least, decide_eq_true most, decide_eq_true some, decide_eq_true one,
    decide_eq_true few, decide_eq_true credit]
  rfl

theorem exec_cpyRing_enters (h : s.ready x g) (hwd : wd = fun k => leWord ((bs.drop (8 * k)).take 8)) (aligned : (x.g a).toNat % 64 = 0)
    (read : if gm then s.loadN (s.me x) (x.g a) 64 = .ok (t, bs) else t = s ∧ s.readSpad s.cur x (x.g a) 64 = .ok bs)
    (w : wd 2 = (0 : BitVec 14) ++ BitVec.ofBool fe ++ BitVec.ofBool dsp ++ nslot ++ slot) (wt : wd 3 = total.setWidth 64)
    (w6 : wd 6 = 0) (w7 : wd 7 = 0) (src32 : (wd 0).toNat % 32 = 0) (dst32 : (wd 1).toNat % 32 = 0) (slot32 : slot.toNat % 32 = 0)
    (least : 32 ≤ slot.toNat) (most : slot.toNat ≤ 2 ^ 20) (some : 1 ≤ nslot.toNat) (one : 1 ≤ total.toNat) (few : total.toNat ≤ 2 ^ 40)
    (credit : (x.g b).toNat ≤ nslot.toNat) (fills : fe = true → dsp = true)
    (fits : if dsp then (wd 1).toNat + nslot.toNat * slot.toNat ≤ x.spadBytes else
      (wd 1).toNat + nslot.toNat * slot.toNat ≤ (wd 0).toNat ∨ (wd 0).toNat + total.toNat * slot.toNat ≤ (wd 1).toNat)
    (room : (t.core t.cur).copyQueue < 16) (rings : (t.core t.cur).rings.length < 4) :
    let put := fun (t : State) (o v : Word) =>
      if gm then t.store (t.me x) (x.g a + o) (natLe 8 v.toNat) else t.writeSpad t.cur x (x.g a + o) (natLe 8 v.toNat)
    put t 32 (x.g b) = .ok u → put u 40 0 = .ok v →
    let r : Ring := ⟨x.id, x.asid, x.part, gm, x.g a, wd 0, wd 1, slot.toNat, nslot.toNat, dsp, fe, total.toNat, 0, [], none, none⟩
    let z := v.handOver (v.me x) (copyAgent v.cur x.id x.asid)
    exec (.cpyRing g a b gm) s = .next ({ z.setRing z.cur z.nextId r with nextId := z.nextId + 1 }.ended s x) := by
  intro put put1 put2 r z
  have shape := ring_shape (x := x) (b := b) w wt w6 w7 least most some one few credit fills
  obtain ⟨hs, hn, hd, hf, -⟩ := ring_fields w
  have ht : (wd 3).toNat = total.toNat := by rw [wt, BitVec.toNat_setWidth_of_le (by decide)]
  have apart : (dsp || decide ((wd 1).toNat + nslot.toNat * slot.toNat ≤ (wd 0).toNat) ||
      decide ((wd 0).toNat + total.toNat * slot.toNat ≤ (wd 1).toNat)) = true := by
    cases dsp with
    | true => rfl
    | false => exact (by simpa using fits)
  have claim : (!dsp || decide ((wd 1).toNat + nslot.toNat * slot.toNat ≤ x.spadBytes)) = true := by
    cases dsp with
    | false => rfl
    | true => exact (by simpa using fits)
  have got : (if gm then s.loadN (s.me x) (x.g a) 64 else (s.readSpad s.cur x (x.g a) 64).map fun bs => (s, bs)) = .ok (t, bs) := by
    cases gm with
    | true => exact read
    | false => obtain ⟨rfl, read⟩ := read; rw [if_neg Bool.false_ne_true, read]; rfl
  rw [exec_cpyRing, execCpyRing]
  refine control_seq h (by simp) ?_
  rw [hs, hn, hd, hf, ht] at shape
  subst hwd
  dsimp only at hs hn hd hf ht src32 dst32 shape apart claim
  dsimp only [put] at put1 put2
  simp only [require_ok (beq_iff_eq.mpr aligned), got, hs, hn, hd, hf, ht, require_ok (beq_iff_eq.mpr src32), require_ok (beq_iff_eq.mpr dst32),
    require_ok (beq_iff_eq.mpr slot32), shape, apart, claim, require_ok rfl, room, rings, await_ok rfl, decide_true, Bool.and_self, put1, put2, Res.ok_bind]
  rfl

end

section
variable {s t u v : State} {c k : Nat} {r : Ring} {credit : Word}

section
variable (alive : s.alive = true) (there : tabGet (s.core c).rings k = some r) (held : r.withheld = none) (due : r.retry = none)
  (advanced : s.ringAdvance c k r = .ok t) (still : tabGet (t.core c).rings k = some r) (read : t.ringRead c r 4 = .ok (u, credit))
include alive there held due advanced still read

theorem exec_ringSlotCopy_idle (idle : credit = 0 ∨ r.total ≤ r.next) :
    exec (.ringSlotCopy c k) s = .next (u.consume (copyAgent c r.task r.asid)) := by
  have same : { r with withheld := none, retry := none } = r := by rw [← held, ← due]
  have idle : (credit == 0 || decide (r.total ≤ r.next)) = true := by
    rw [Bool.or_eq_true, beq_iff_eq, decide_eq_true_eq]; exact idle
  simp only [exec_ringSlotCopy, execRingSlotCopy, alive, there, held, same, advanced, still, read, idle, Option.isSome_none, Bool.false_and,
    Bool.not_true, Bool.false_eq_true, if_false, if_true, Res.ok_bind]

theorem exec_ringSlotCopy_starts {took : Bool} (some : credit ≠ 0) (left : r.next < r.total) (taken : u.takeCredit c r credit = .ok (v, took)) :
    let p := Copy.fresh (.ring k r.next) r.task r.asid r.part (if r.dsp then 0 else 2)
      (r.dst + BitVec.ofNat 64 (r.next % r.nslot * r.slot)) (r.src + BitVec.ofNat 64 (r.next * r.slot)) r.slot r.fe none .core
    exec (.ringSlotCopy c k) s =
      .next ((if took then (v.setRing c k { r with next := r.next + 1 }).enqueue c p else v).consume (copyAgent c r.task r.asid)) := by
  intro p
  have same : { r with withheld := none, retry := none } = r := by rw [← held, ← due]
  have goes : (credit == 0 || decide (r.total ≤ r.next)) = false := by
    rw [beq_eq_false_iff_ne.mpr some, decide_eq_false (Nat.not_le.mpr left)]; rfl
  simp only [exec_ringSlotCopy, execRingSlotCopy, alive, there, held, same, advanced, still, read, goes, taken, Option.isSome_none,
    Bool.false_and, Bool.not_true, Bool.false_eq_true, if_false, Res.ok_bind]
  rfl

end

theorem State.takeCredit_spad (spad : r.gm = false) (written : u.ringWrite c r 4 (credit - 1) = .ok v) :
    u.takeCredit c r credit = .ok (v, true) := by
  rw [State.takeCredit, if_neg (ne_true_of_eq_false spad), written]; rfl

theorem State.takeCredit_global (gm : r.gm = true) :
    u.takeCredit c r credit = u.swapWord (copyAgent c r.task r.asid) (r.desc + 32) credit (credit - 1) := by
  rw [State.takeCredit, if_pos gm]

end

theorem State.swapWord_indivisible {s t : State} {ag : Agent} {va v v' : Word} {w : Walk} {bs : List Byte}
    (walk : s.translate ag va .atomic = .ok w) (device : s.region w.pa ≠ .host)
    (swapped : s.updateVia ag va 8 (.cas true v) (natLe 8 v'.toNat) (fun o => if leWord o = v then natLe 8 v'.toNat else o) w = .ok (t, bs)) :
    s.swapWord ag va v v' = .ok (t, decide (leWord bs = v)) := by
  have same : (fun o : List Byte => if (leWord o == v) = true then natLe 8 v'.toNat else o) =
      fun o => if leWord o = v then natLe 8 v'.toNat else o := by
    funext o; simp only [beq_iff_eq]
  simp only [State.swapWord, walk, beq_eq_false_iff_ne.mpr device, Bool.false_eq_true, if_false, same, swapped, Res.ok_bind]
  rfl

/-! Free-slot notices (R323, R358). -/

theorem leNat_bytes_lt (m : Memory) (a n : Nat) : leNat (Memory.bytes m a n) < 256 ^ n := by
  induction n generalizing a with
  | zero => exact Nat.one_pos
  | succ n ih =>
    have low := (m.byte a).isLt
    have high := ih (a + 1)
    rw [Memory.bytes, leNat, Nat.pow_succ]
    omega

theorem leWord_bytes (m : Memory) (a : Nat) : (leWord (Memory.bytes m a 8)).toNat = leNat (Memory.bytes m a 8) := by
  rw [leWord, BitVec.toNat_ofNat]
  exact Nat.mod_eq_of_lt (leNat_bytes_lt m a 8)

/-- NSLOT, bits [47:32] of its word. -/
theorem nslot_toNat (w : Word) : (w.extractLsb' 32 16).toNat = w.toNat / 2 ^ 32 % 2 ^ 16 := by
  rw [BitVec.extractLsb'_toNat, Nat.shiftRight_eq_div_pow]

section
variable {s : State} {x : Ctx} {g : Guard} {a b : Reg} (h : s.ready x g)
include h

theorem exec_slotf_shape (count : (x.g b).toNat = 0 ∨ 2 ^ 16 ≤ (x.g b).toNat) (sp : Bool) :
    exec (.slotf g a b sp) s = .next (s.trapped x (.slotf g a b sp) .shape (encode (.slotf g a b sp))) := by
  rw [exec_slotf, execSlotf]
  refine control_trap h (by simp) ?_
  have bad : ((x.g b).toNat != 0 && decide ((x.g b).toNat < 2 ^ 16)) = false := by
    rw [Bool.and_eq_false_iff, bne_eq_false_iff_eq, decide_eq_false_iff_not, Nat.not_lt]; exact count
  simp only [require_no bad]
  rfl

section
variable (some : (x.g b).toNat ≠ 0) (few : (x.g b).toNat < 2 ^ 16) (aligned : (x.g a).toNat % 16 = 0)
include some few aligned

omit h aligned in
theorem slotf_count : ((x.g b).toNat != 0 && decide ((x.g b).toNat < 2 ^ 16)) = true := by
  rw [bne_iff_ne.mpr some, decide_eq_true few]; rfl

section
variable {t u v : State} {w2 cr : Word} (slots : s.loadWord (s.me x) (x.g a + 16) true = .ok (t, w2))
  (credit : t.loadWord (t.me x) (x.g a + 32) true = .ok (u, cr))
include slots credit

theorem exec_slotf_adds (fits : cr.toNat + (x.g b).toNat ≤ w2.toNat / 2 ^ 32 % 2 ^ 16)
    (swapped : u.swapWord (u.me x) (x.g a + 32) cr (cr + BitVec.ofNat 64 (x.g b).toNat) = .ok (v, true)) :
    exec (.slotf g a b false) s = .next (v.ended s x) := by
  rw [exec_slotf, execSlotf]
  refine control_seq h (by simp) ?_
  rw [← nslot_toNat] at fits
  simp only [require_ok (slotf_count some few), require_ok (beq_iff_eq.mpr aligned), slots, credit, require_ok (decide_eq_true fits), swapped,
    Bool.false_eq_true, if_false, if_true, Res.ok_bind]

theorem exec_slotf_sync (much : w2.toNat / 2 ^ 32 % 2 ^ 16 < cr.toNat + (x.g b).toNat) :
    exec (.slotf g a b false) s = .next (s.trapped x (.slotf g a b false) .sync (x.g a)) := by
  rw [exec_slotf, execSlotf]
  refine control_trap h (by simp) ?_
  rw [← nslot_toNat] at much
  simp only [require_ok (slotf_count some few), require_ok (beq_iff_eq.mpr aligned), slots, credit,
    require_no (decide_eq_false (Nat.not_le.mpr much)), Bool.false_eq_true, if_false, Res.ok_bind]
  rfl

end

theorem exec_slotf_spad (wClaim : (x.g a + 16).toNat + 8 ≤ x.spadBytes) (oClaim : (x.g a + 32).toNat + 8 ≤ x.spadBytes)
    (wReady : (s.core s.cur).spadReady (x.g a + 16).toNat 8 = true) (oReady : (s.core s.cur).spadReady (x.g a + 32).toNat 8 = true)
    (wClean : (s.core s.cur).spadPoisoned (x.g a + 16).toNat 8 = false) (oClean : (s.core s.cur).spadPoisoned (x.g a + 32).toNat 8 = false) :
    let old := leNat (Memory.bytes (s.core s.cur).spad (x.g a + 32).toNat 8)
    old + (x.g b).toNat ≤ leNat (Memory.bytes (s.core s.cur).spad (x.g a + 16).toNat 8) / 2 ^ 32 % 2 ^ 16 →
    exec (.slotf g a b true) s =
      .next ((s.setCore s.cur ((s.core s.cur).putSpad (x.g a + 32).toNat (natLe 8 (old + (x.g b).toNat)))).ended s x) := by
  intro old fits
  rw [exec_slotf, execSlotf]
  refine control_seq h (by simp) ?_
  have word : (leWord (Memory.bytes (s.core s.cur).spad (x.g a + 16).toNat 8)).toNat =
      leNat (Memory.bytes (s.core s.cur).spad (x.g a + 16).toNat 8) :=
    leWord_bytes ..
  have fits : old + (x.g b).toNat ≤ ((leWord (Memory.bytes (s.core s.cur).spad (x.g a + 16).toNat 8)).extractLsb' 32 16).toNat := by
    rw [nslot_toNat, word]; exact fits
  have len (n : Nat) : (natLe 8 n).length = 8 := natLe_length 8 n
  have put := writeSpad_ok (s := s) (x := x) (o := x.g a + 32) (bs := natLe 8 (old + (x.g b).toNat)) (by rw [len]; exact oClaim)
    (by rw [len]; exact oReady)
  simp only [require_ok (slotf_count some few), require_ok (beq_iff_eq.mpr aligned), readSpad_ok wClaim wReady wClean,
    readSpad_ok oClaim oReady oClean, require_ok (decide_eq_true fits), put, if_true, Res.ok_bind, old]

end

end

/-- Settles O44: a copy by its checks and by what one attempt at a sector leaves, a ring and its slot copies by their descriptor. -/
theorem copiesAndRingsComplete : Obligations.CopiesAndRingsComplete := by
  unfold Obligations.CopiesAndRingsComplete
  refine ⟨⟨?enters, ?sectors, fun s c k e p q there => ⟨fun t => State.sectorCount_bare, fun t b => State.sectorCount_bar, State.copyEnd_goesOn,
      State.copyEnd_command⟩⟩, ?rings, ?slots, fun s t ag va v v' w bs => State.swapWord_indivisible, ?notices⟩
  case enters =>
    intro s t x g d a b c fe gm sc o h r dst src n entered d32 s32 n32 short checked room
    exact ⟨fun into => copyInstr_enters h (copyChecks_ok d32 s32 n32 short nofun (fun _ => into) nofun) checked room,
      fun from_ => copyInstr_enters h (copyChecks_ok d32 s32 n32 short nofun nofun (fun _ => from_)) checked room,
      fun apart => copyInstr_enters h (copyChecks_ok d32 s32 n32 short (fun _ => apart) nofun nofun) checked room,
      fun apart into from_ => copyInstr_enters h (copyChecks_ok d32 s32 n32 short (fun _ => apart) (fun _ => into) (fun _ => from_)) checked room⟩
  case sectors =>
    intro s t u c k e p i alive there inside uncounted which q ag ended
    obtain ⟨a, runs⟩ := exec_sector alive there which
    have ends {q' : Copy} {v : State} (step : s.sectorStep c k e a = (v.consume ag).copyEnd c k q') : ended q' v :=
      runs.trans (congrArg Host.Outcome.next step)
    refine ⟨fun done q' counted => ends (State.sectorStep_counts there inside uncounted done counted), ?_, ?_⟩
    · intro todo plain bs bad v read written q1
      have whole := State.sectorWrite_plain (q := q) plain read written
      exact ⟨fun q' counted => ends (State.sectorStep_written there inside uncounted todo whole (setHas_setAdd ..) counted),
        fun far => ends (State.sectorStep_outstanding there inside uncounted todo whole (setHas_setAdd ..) far)⟩
    · intro todo fills m filled
      refine ⟨?_, ?_⟩
      · rintro m rfl
        exact ends (State.sectorStep_partly there inside uncounted todo (State.sectorWrite_half (q := q) fills filled) todo)
      · rintro rfl q1 q' counted
        exact ends (State.sectorStep_written there inside uncounted todo (State.sectorWrite_full (q := q) fills filled) (setHas_setAdd ..) counted)
  case rings =>
    intro s t u v x g a b slot nslot gm dsp fe total bs h va wd last k put aligned read w wt w6 w7 src32 dst32 slot32 least most some one few credit
      fills fits room rings put1 put2
    exact exec_cpyRing_enters h rfl aligned read w wt w6 w7 src32 dst32 slot32 least most some one few credit fills fits room rings put1 put2
  case slots =>
    intro s t u v c k r credit alive there held due advanced still read ag
    exact ⟨exec_ringSlotCopy_idle alive there held due advanced still read,
      fun took => exec_ringSlotCopy_starts alive there held due advanced still read, State.takeCredit_spad, State.takeCredit_global⟩
  case notices =>
    intro s t u v x g a b w2 cr h va k n
    refine ⟨exec_slotf_shape h, fun some few aligned => ⟨fun slots credit => ⟨exec_slotf_adds h some few aligned slots credit,
      exec_slotf_sync h some few aligned slots credit⟩, ?_⟩⟩
    exact exec_slotf_spad h some few aligned

end Sys2Proof.Machine
end

section
/-! PROOFS. The operators (R299 to R308, R241): what each makes of the tokens at its inputs. -/

namespace Sys2Proof.Machine

section
variable {s : State} {c o : Nat} {x : Ctx} {f : Fabric} {kind : Byte} {q q' : Operator} {pops : List Nat} {act : Fabric → Nat → Operator → OpAct}
  (h : s.operates c o x f kind q)
include h

/-- A step of an operator that takes its tokens and forms others. -/
theorem opStep_takes {k : Nat} {mode : Option Nat} (named : kind.toNat = k) (row : mode.any (· != q.mode.toNat) = false)
    (goes : act f (48 + o) q = .go pops q') :
    opStep k mode c o s act = .next (s.operated c o (pops.foldl (fun g k => g.pop (48 + o) k) f) q') := by
  obtain ⟨runs, there, hkind, running, free, empty⟩ := h
  rw [opStep]
  refine (siteStep_sited runs ?_)
  simp only [there, hkind, bne_eq_false_iff_eq.mpr named, row, running, free, empty, goes, Option.isSome_none, List.isEmpty_nil, Bool.or_self,
    Bool.not_true, Bool.false_eq_true, if_false]

/-- A step of an operator whose rows do not part by mode. -/
theorem opStep_any {k : Nat} (named : kind.toNat = k) (goes : act f (48 + o) q = .go pops q') :
    opStep k none c o s act = .next (s.operated c o (pops.foldl (fun g k => g.pop (48 + o) k) f) q') := opStep_takes h named rfl goes

theorem opStep_mode {k m : Nat} (named : kind.toNat = k) (mode : q.mode.toNat = m) (goes : act f (48 + o) q = .go pops q') :
    opStep k (some m) c o s act = .next (s.operated c o (pops.foldl (fun g k => g.pop (48 + o) k) f) q') :=
  opStep_takes h named (by rw [mode]; exact bne_self_eq_false ..) goes

/-- With nothing left to send, what an operator adds is what it sends. -/
theorem Operator.out_eq (ts : List (Nat × Token)) : q.out ts = { q with emit := ts } := by
  obtain ⟨-, -, -, -, -, empty⟩ := h
  rw [Operator.out, empty, List.nil_append]

end

/-! The classes of a token. -/

section
variable {t : Token}

theorem Token.data_class (h : t.cls = 0) : t.isData = true ∧ t.isCoord = false ∧ t.isEof = false ∧ t.isBar = false := by
  simp only [Token.isData, Token.isCoord, Token.isEof, Token.isBar, h]; decide
theorem Token.coord_class (h : t.cls = 1) : t.isData = false ∧ t.isCoord = true ∧ t.isEof = false ∧ t.isBar = false := by
  simp only [Token.isData, Token.isCoord, Token.isEof, Token.isBar, h]; decide
theorem Token.eof_class (h : t.cls = 2) : t.isData = false ∧ t.isCoord = false ∧ t.isEof = true ∧ t.isBar = false := by
  simp only [Token.isData, Token.isCoord, Token.isEof, Token.isBar, h]; decide
theorem Token.bar_class (h : t.cls = 3) : t.isData = false ∧ t.isCoord = false ∧ t.isEof = false ∧ t.isBar = true := by
  simp only [Token.isData, Token.isCoord, Token.isEof, Token.isBar, h]; decide
/-- DATA and COORD, the two classes that are no end of a segment. -/
theorem Token.low_class (h : t.cls.toNat ≤ 1) : t.isEof = false ∧ t.isBar = false := by
  rcases Nat.le_one_iff_eq_zero_or_eq_one.mp h with zero | one
  · have := Token.data_class (t := t) (BitVec.eq_of_toNat_eq zero); exact ⟨this.2.2.1, this.2.2.2⟩
  · have := Token.coord_class (t := t) (BitVec.eq_of_toNat_eq one); exact ⟨this.2.2.1, this.2.2.2⟩

end

section
variable {s : State} {c o : Nat} {x : Ctx} {f : Fabric} {q : Operator}

/-! REPEAT (R301). -/

section
variable (h : s.operates c o x f 1 q)
include h

section
variable {t : Token} {r : Nat} (left : q.rep = r + 1) (next : q.buf[q.pos]? = some t)
include left next

theorem exec_repeat_within (more : q.pos + 1 ≠ q.buf.length) :
    exec (.repeatBlock c o) s = .next (s.operated c o f { q with emit := [(0, t)], pos := q.pos + 1 }) := by
  refine (exec_repeatBlock ..).trans (opStep_any h rfl (pops := []) ?_)
  have some : (q.rep == 0) = false := by rw [left]; rfl
  simp only [actRepeat, left, Nat.succ_pos, next, beq_eq_false_iff_ne.mpr more, Bool.false_eq_true, if_true, if_false]
  rw [← left, some, if_neg Bool.false_ne_true]

theorem exec_repeat_last (last : q.pos + 1 = q.buf.length) : exec (.repeatBlock c o) s = .next (s.operated c o f { q with
    emit := [(0, t)], pos := 0, rep := r, buf := if r = 0 then [] else q.buf }) := by
  refine (exec_repeatBlock ..).trans (opStep_any h rfl (pops := []) ?_)
  simp only [actRepeat, left, Nat.succ_pos, next, beq_iff_eq.mpr last, if_true, Nat.add_sub_cancel, beq_iff_eq]

end

section
variable (idle : q.rep = 0)
include idle

theorem exec_repeat_first {t : Token} (empty : q.buf = []) (head : f.head (48 + o) 0 = some t) (low : t.cls.toNat ≤ 1) :
    exec (.repeatBlock c o) s = .next (s.operated c o (f.pop (48 + o) 0) { q with buf := [t] }) := by
  refine (exec_repeatBlock ..).trans (opStep_any h rfl (pops := [0]) ?_)
  obtain ⟨noEof, noBar⟩ := Token.low_class low
  have known : ¬ 3 < t.cls.toNat := by omega
  simp [actRepeat, idle, empty, head, noEof, noBar, known]

theorem exec_repeat_ends {b : List Token} {u : Token} (block : q.buf = b ++ [u]) (low : u.cls.toNat ≤ 1) (short : q.buf.length < 2048)
    (head : f.head (48 + o) 0 = some (Token.eof 0)) : exec (.repeatBlock c o) s = .next (s.operated c o (f.pop (48 + o) 0)
      (if f.wiredIn (48 + o) 1 then { q with buf := q.buf ++ [Token.eof 0] }
       else { q with buf := if q.a = 0 then [] else q.buf ++ [Token.eof 0], rep := q.a.toNat, pos := 0 })) := by
  refine (exec_repeatBlock ..).trans (opStep_any h rfl (pops := [0]) ?_)
  obtain ⟨noEof, -⟩ := Token.low_class low
  have last : q.buf.getLast? = some u := by rw [block, List.getLast?_concat]
  have some : q.buf.isEmpty = false := by rw [block]; simp
  have ends : ((Token.eof 0).isEof && (Token.eof 0).aux == 0) = true := by decide
  have fits : (decide (3 < (Token.eof 0).cls.toNat) || decide (2048 ≤ q.buf.length)) = false := by
    rw [decide_eq_false (by decide), decide_eq_false (Nat.not_le.mpr short)]; rfl
  simp only [actRepeat, idle, last, some, head, noEof, ends, fits, Nat.lt_irrefl, Option.any_some, Bool.false_and, Bool.true_and, Bool.false_eq_true,
    if_false]
  cases f.wiredIn (48 + o) 1 with
  | true => rfl
  | false => simp only [Bool.not_false, if_true, Bool.false_eq_true, if_false, beq_iff_eq]

theorem exec_repeat_counted {b : List Token} {n : BitVec 32} (block : q.buf = b ++ [Token.eof 0])
    (head : f.head (48 + o) 1 = some (Token.data n)) : exec (.repeatBlock c o) s = .next (s.operated c o (f.pop (48 + o) 1)
      { q with buf := if n = 0 then [] else q.buf, rep := n.toNat, pos := 0 }) := by
  refine (exec_repeatBlock ..).trans (opStep_any h rfl (pops := [1]) ?_)
  have last : q.buf.getLast? = some (Token.eof 0) := by rw [block, List.getLast?_concat]
  have ends : ((Token.eof 0).isEof && (Token.eof 0).aux == 0) = true := by decide
  have data : (Token.data n).isData = true := rfl
  simp only [actRepeat, idle, last, head, ends, data, Nat.lt_irrefl, Option.any_some, if_false, if_true, beq_iff_eq]
  rfl

end

end

/-! MERGE (R302). -/

section
variable {i j : BitVec 32} {d e : Token} (h : s.operates c o x f 2 q) (one : f.entry (48 + o) 0 q.prev0 = .entry i d)
include h one

section
variable (two : f.entry (48 + o) 1 q.prev1 = .entry j e)
include two

/-- A pair of equal coordinates passes; the lower one of two is dropped, or joined with the fill value. -/
theorem opStep_merge {k : Nat} {union : Bool} (mode : q.mode.toNat = k) : opStep 2 (some k) c o s (actMerge union) = .next (
    if i = j then s.operated c o ((((f.pop (48 + o) 0).pop (48 + o) 0).pop (48 + o) 1).pop (48 + o) 1) { q with
      emit := [(0, Token.coordTok i), (0, d), (1, e)], prev0 := some i, prev1 := some j }
    else if i.toNat < j.toNat then s.operated c o ((f.pop (48 + o) 0).pop (48 + o) 0) { q with
      emit := if union then [(0, Token.coordTok i), (0, d), (1, Token.data q.a)] else [], prev0 := some i }
    else s.operated c o ((f.pop (48 + o) 1).pop (48 + o) 1) { q with
      emit := if union then [(0, Token.coordTok j), (0, Token.data q.a), (1, e)] else [], prev1 := some j }) := by
  by_cases same : i = j
  · rw [if_pos same]
    refine opStep_mode h rfl mode (pops := [0, 0, 1, 1]) ?_
    simp only [actMerge, one, two, beq_iff_eq.mpr same, if_true]
  · rw [if_neg same]
    by_cases lower : i.toNat < j.toNat
    · rw [if_pos lower]
      refine opStep_mode h rfl mode (pops := [0, 0]) ?_
      simp only [actMerge, one, two, beq_eq_false_iff_ne.mpr same, Bool.false_eq_true, if_false, if_pos lower]
      rfl
    · rw [if_neg lower]
      refine opStep_mode h rfl mode (pops := [1, 1]) ?_
      simp only [actMerge, one, two, beq_eq_false_iff_ne.mpr same, Bool.false_eq_true, if_false, if_neg lower]
      rfl

end

theorem exec_mergeChk_passes (mode : q.mode = 2) : exec (.mergeChk c o) s = .next (s.operated c o ((f.pop (48 + o) 0).pop (48 + o) 0) { q with
    emit := [(0, Token.coordTok i), (0, d)], prev0 := some i }) := by
  refine (exec_mergeChk ..).trans (opStep_mode h rfl (by rw [mode]; rfl) (pops := [0, 0]) ?_)
  simp only [actChk, one]

end

section
variable {t : Token}

/-! RADIX (R303). -/

section
variable (h : s.operates c o x f 3 q) (head : f.head (48 + o) 0 = some t)
include h head

theorem exec_radix_data (data : t.cls = 0) : exec (.radix c o) s = .next (s.operated c o (f.pop (48 + o) 0) { q with
    emit := [(radixOut q (f.inq (chKey (48 + o) 0)).coord, t)] }) := by
  obtain ⟨isData, noCoord, -, -⟩ := Token.data_class data
  refine (exec_radix ..).trans (opStep_any h rfl (pops := [0]) ?_)
  simp only [actRadix, head, noCoord, isData, Operator.out_eq h, Bool.false_eq_true, if_false, if_true]

theorem exec_radix_coord (coord : t.cls = 1) :
    exec (.radix c o) s = .next (s.operated c o (f.pop (48 + o) 0) { q with emit := [(radixOut q t.payload, t)] }) := by
  obtain ⟨-, isCoord, -, -⟩ := Token.coord_class coord
  refine (exec_radix ..).trans (opStep_any h rfl (pops := [0]) ?_)
  simp only [actRadix, head, isCoord, Operator.out_eq h, if_true]

theorem exec_radix_all (ends : t.cls = 2 ∨ t.cls = 3) : exec (.radix c o) s = .next (s.operated c o (f.pop (48 + o) 0) { q with
    emit := (List.range (if q.mode = 0 then 2 else 4)).map fun k => (k, t) }) := by
  refine (exec_radix ..).trans (opStep_any h rfl (pops := [0]) ?_)
  have cls : t.isData = false ∧ t.isCoord = false ∧ (t.isEof || t.isBar) = true := by
    rcases ends with eof | bar
    · obtain ⟨noData, noCoord, isEof, -⟩ := Token.eof_class eof; rw [isEof]; exact ⟨noData, noCoord, rfl⟩
    · obtain ⟨noData, noCoord, -, isBar⟩ := Token.bar_class bar; rw [isBar, Bool.or_true]; exact ⟨noData, noCoord, rfl⟩
  obtain ⟨noData, noCoord, passes⟩ := cls
  simp only [actRadix, head, noData, noCoord, passes, Operator.outAll, Operator.out_eq h, Bool.false_eq_true, if_false, if_true, beq_iff_eq]

end

section
variable (head : f.head (48 + o) 0 = some t) (data : t.cls = 0)
include head data

/-! GATE and SELECT (R304). -/

theorem exec_gate_passes (h : s.operates c o x f 4 q) {n : BitVec 32} (tells : f.head (48 + o) 1 = some (Token.data n)) :
    exec (.gate c o) s = .next (s.operated c o ((f.pop (48 + o) 0).pop (48 + o) 1) { q with
      emit := if (n ≠ 0 ∧ q.mode ≠ 1) ∨ (n = 0 ∧ q.mode = 1) then [(0, t)] else [] }) := by
  refine (exec_gate ..).trans (opStep_any h rfl (pops := [0, 1]) ?_)
  have passes : ((Token.data n).taken != (q.mode == 1)) = true ↔ (n ≠ 0 ∧ q.mode ≠ 1) ∨ (n = 0 ∧ q.mode = 1) := by
    show ((n != 0) != (q.mode == 1)) = true ↔ _
    rw [bne_iff_ne, ne_eq, Bool.eq_iff_iff, bne_iff_ne, beq_iff_eq]
    tauto
  have isData : (Token.data n).isData = true := rfl
  simp only [actGate, head, tells, (Token.data_class data).1, isData, if_true, passes, Operator.out_eq h, List.cons_append, List.nil_append]

theorem exec_select_chooses (h : s.operates c o x f 5 q) {u : Token} {n : BitVec 32} (other : f.head (48 + o) 1 = some u) (uData : u.cls = 0)
    (tells : f.head (48 + o) 2 = some (Token.data n)) :
    exec (.select c o) s = .next (s.operated c o (((f.pop (48 + o) 0).pop (48 + o) 1).pop (48 + o) 2) { q with
      emit := [(0, if n = 0 then u else t)] }) := by
  refine (exec_select ..).trans (opStep_any h rfl (pops := [0, 1, 2]) ?_)
  have isData : (Token.data n).isData = true := rfl
  have taken : (Token.data n).taken = (n != 0) := rfl
  simp only [actSelect, head, other, tells, (Token.data_class data).1, (Token.data_class uData).1, isData, taken, Bool.and_self, if_true,
    Operator.out_eq h, List.cons_append, List.nil_append]
  by_cases zero : n = 0
  · rw [zero]; rfl
  · rw [if_neg zero, bne_iff_ne.mpr zero]; rfl

/-! STAT (R305). -/

theorem exec_stat_data (h : s.operates c o x f 6 q) : exec (.stat c o) s = .next (s.operated c o (f.pop (48 + o) 0) { q with
    sum := if q.mode = 0 then q.sum + t.payload else f32Add q.sum t.payload
    count := q.count + 1
    high := if q.mode = 0 then (if q.high.toInt < t.payload.toInt then t.payload else q.high) else f32Max q.high t.payload }) := by
  refine (exec_stat ..).trans (opStep_any h rfl (pops := [0]) ?_)
  simp only [actStat, head, (Token.data_class data).1, if_true, beq_iff_eq, BitVec.slt, decide_eq_true_eq]

/-! XLAT (R241). -/

theorem exec_xlat_names (h : s.operates c o x f 7 q) {l : Latch} {b : Nat} :
    let e := t.payload.toNat / 2 ^ q.xlatS
    e < q.xlatE → q.relatch = false → q.latches[e]? = some l → l.pbase = some b →
    exec (.xlat c o) s = .next (s.operated c o (f.pop (48 + o) 0) { q with
      emit := [(0, Token.data (BitVec.ofNat 32 (e * 2 ^ 26 + t.payload.toNat % 2 ^ q.xlatS * 2 ^ q.xlatV)))] }) := by
  intro e inside quiet latch base
  refine (exec_xlat ..).trans (opStep_any h rfl (pops := [0]) ?_)
  have valid : l.pbase.isSome = true := by rw [base]; rfl
  simp only [actXlat, head, quiet, (Token.data_class data).1, Nat.not_le.mpr inside, latch, valid, Operator.out_eq h, Bool.false_eq_true,
    if_false, if_true, e]

end

theorem exec_stat_eof (head : f.head (48 + o) 0 = some t) (h : s.operates c o x f 6 q) (eof : t.cls = 2) :
    exec (.stat c o) s = .next (s.operated c o (f.pop (48 + o) 0) { q with
      emit := [(0, Token.data q.sum), (0, Token.data q.count), (0, Token.data q.high), (0, t)]
      sum := 0, count := 0, high := if q.mode = 0 then 0x80000000 else 0xFF800000 }) := by
  obtain ⟨noData, noCoord, isEof, -⟩ := Token.eof_class eof
  obtain ⟨-, -, -, -, -, empty⟩ := id h
  refine (exec_stat ..).trans (opStep_any h rfl (pops := [0]) ?_)
  simp only [actStat, head, noData, noCoord, isEof, Operator.out, Operator.fresh, empty, List.nil_append, Bool.false_eq_true, if_false, if_true,
    beq_iff_eq]

/-! CBDEC (R306). -/

section
variable (head : f.head (48 + o) 0 = some t) (data : t.cls = 0)
include head data

/-- The eight values of an index under a scale, as CBDEC sends them. -/
def Operator.eight (q : Operator) (index scale : Nat) : List (Nat × Token) :=
  ((c2x8 (fun k => ((q.table[k / 2]?).getD 0).extractLsb' (32 * (k % 2)) 32) index).map fun v =>
    if scale = 0xFF then FVal.nan else v.scale ((scale : Int) - 127)).map fun y =>
      ((0 : Nat), Token.data (if q.mode = 0 then f32 y else BitVec.ofNat 32 (Fmt.bf16.rne y)))

omit head data in
theorem Operator.eight_eq (q : Operator) (index scale : Nat) :
    ((c2x8 (fun k => ((q.table[k / 2]?).getD 0).extractLsb' (32 * (k % 2)) 32) index).map fun v =>
      let y := if scale == 0xFF then FVal.nan else v.scale ((scale : Int) - 127)
      ((0 : Nat), Token.data (if q.mode == 0 then f32 y else BitVec.ofNat 32 (Fmt.bf16.rne y)))) = q.eight index scale := by
  rw [Operator.eight, List.map_map]
  refine List.map_congr_left fun v _ => ?_
  simp only [Function.comp, beq_iff_eq]

section
variable (h : s.operates c o x f 8 q)
include h

theorem exec_cbdec_plain (bare : f.wiredIn (48 + o) 1 = false) : exec (.cbdec c o) s = .next (s.operated c o (f.pop (48 + o) 0) { q with
    emit := q.eight (t.payload.toNat % 65536) (q.a.toNat % 256) }) := by
  refine (exec_cbdec ..).trans (opStep_any h rfl (pops := [0]) ?_)
  simp only [actCbdec, head, (Token.data_class data).1, bare, Operator.eight_eq, Operator.out_eq h, Bool.not_false, if_true]

section
variable (wired : f.wiredIn (48 + o) 1 = true)
include wired

theorem exec_cbdec_scale (first : q.pos = 0) {b : BitVec 32} (scale : f.head (48 + o) 1 = some (Token.data b)) :
    exec (.cbdec c o) s = .next (s.operated c o ((f.pop (48 + o) 0).pop (48 + o) 1) { q with
      emit := q.eight (t.payload.toNat % 65536) (b.toNat % 256), sum := b, pos := 1 }) := by
  refine (exec_cbdec ..).trans (opStep_any h rfl (pops := [0, 1]) ?_)
  have isData : (Token.data b).isData = true := rfl
  simp only [actCbdec, head, (Token.data_class data).1, wired, beq_iff_eq.mpr first, scale, isData, Operator.eight_eq, Bool.not_true,
    Bool.false_eq_true, if_false, if_true]
  rfl

theorem exec_cbdec_under (later : q.pos ≠ 0) : exec (.cbdec c o) s = .next (s.operated c o (f.pop (48 + o) 0) { q with
    emit := q.eight (t.payload.toNat % 65536) (q.sum.toNat % 256), pos := (q.pos + 1) % 8 }) := by
  refine (exec_cbdec ..).trans (opStep_any h rfl (pops := [0]) ?_)
  simp only [actCbdec, head, (Token.data_class data).1, wired, beq_eq_false_iff_ne.mpr later, Operator.eight_eq, Bool.not_true,
    Bool.false_eq_true, if_false, if_true]

end

end

/-! DELTA (R307). -/

theorem exec_delta_corrects (h : s.operates c o x f 9 q) {i : BitVec 32} {d : Token} (entry : f.entry (48 + o) 1 q.prev1 = .entry i d) :
    let at' := (f.inq (chKey (48 + o) 0)).coord
    let y := if q.mode = 0 then f32 ((F32.val t.payload).add (Fmt.bf16.decode (d.payload.toNat % 65536)))
      else BitVec.ofNat 32 (Fmt.bf16.rne ((Fmt.bf16.decode (t.payload.toNat % 65536)).add (Fmt.bf16.decode (d.payload.toNat % 65536))))
    exec (.delta c o) s = .next (if i = at' then
        s.operated c o (((f.pop (48 + o) 0).pop (48 + o) 1).pop (48 + o) 1) { q with emit := [(0, Token.data y)], prev1 := some i }
      else if i.toNat < at'.toNat then s.operated c o ((f.pop (48 + o) 1).pop (48 + o) 1) { q with prev1 := some i }
      else s.operated c o (f.pop (48 + o) 0) { q with emit := [(0, t)] }) := by
  intro at' y
  rw [exec_delta, execDelta]
  obtain ⟨isData, noCoord, -, -⟩ := Token.data_class data
  have low : ¬ 3 < t.cls.toNat := by rw [data]; decide
  by_cases same : i = at'
  · rw [if_pos same]
    have equal : i = (f.inq (chKey (48 + o) 0)).coord := same
    refine opStep_any h rfl (pops := [0, 1, 1]) ?_
    simp only [actDelta, head, isData, noCoord, low, entry, beq_iff_eq, if_pos equal, Bool.false_eq_true, if_false, if_true, y]
  · rw [if_neg same]
    have other : (i == (f.inq (chKey (48 + o) 0)).coord) = false := beq_eq_false_iff_ne.mpr same
    by_cases lower : i.toNat < at'.toNat
    · rw [if_pos lower]
      have under : i.toNat < (f.inq (chKey (48 + o) 0)).coord.toNat := lower
      refine opStep_any h rfl (pops := [1, 1]) ?_
      simp only [actDelta, head, isData, noCoord, low, entry, other, Bool.false_eq_true, if_false, if_true, if_pos under]
    · rw [if_neg lower]
      have beyond : ¬ i.toNat < (f.inq (chKey (48 + o) 0)).coord.toNat := lower
      refine opStep_any h rfl (pops := [0]) ?_
      simp only [actDelta, head, isData, noCoord, low, entry, other, Bool.false_eq_true, if_false, if_true, if_neg beyond, Operator.out_eq h]

/-! FCONV, RLE and TRANSP (R308). -/

theorem exec_fconv_converts (h : s.operates c o x f 10 q) {op : ElemOp} (named : ElemOp.ofCode (q.mode.setWidth 7) = some op) :
    exec (.fconv c o) s = .next (s.operated c o (f.pop (48 + o) 0) { q with emit := [(0, Token.data (elemEval op t.payload 0 0 false))] }) := by
  refine (exec_fconv ..).trans (opStep_any h rfl (pops := [0]) ?_)
  simp only [actFconv, head, (Token.data_class data).1, named, Option.getD_some, Operator.out_eq h, if_true]

section
variable (h : s.operates c o x f 11 q)
include h

theorem exec_rle_joins (runs : q.count ≠ 0) (same : q.high = t.payload) (short : q.count + 1 ≠ (if t.payload = 0 then 0xFFFFFFFF else 16)) :
    exec (.rle c o) s = .next (s.operated c o (f.pop (48 + o) 0) { q with count := q.count + 1 }) := by
  refine (exec_rle ..).trans (opStep_any h rfl (pops := [0]) ?_)
  have joins : (q.count != 0 && q.high == t.payload) = true := by rw [bne_iff_ne.mpr runs, beq_iff_eq.mpr same]; rfl
  simp only [actRle, head, (Token.data_class data).1, joins, beq_iff_eq, if_neg short, if_true]

theorem exec_rle_begins (other : q.count = 0 ∨ q.high ≠ t.payload) : exec (.rle c o) s = .next (s.operated c o (f.pop (48 + o) 0) { q with
    emit := runTokens q.high q.count, count := 1, high := t.payload }) := by
  refine (exec_rle ..).trans (opStep_any h rfl (pops := [0]) ?_)
  have begins : (q.count != 0 && q.high == t.payload) = false := by
    rw [Bool.and_eq_false_iff, bne_eq_false_iff_eq, beq_eq_false_iff_ne]; exact other
  simp only [actRle, head, (Token.data_class data).1, begins, Bool.false_eq_true, if_false, if_true]

end

theorem exec_transp_buffers (h : s.operates c o x f 12 q) (short : (q.buf.filter Token.isData).length < 2048) :
    exec (.transp c o) s = .next (s.operated c o (f.pop (48 + o) 0) { q with buf := q.buf ++ [t] }) := by
  refine (exec_transp ..).trans (opStep_any h rfl (pops := [0]) ?_)
  simp only [actTransp, head, (Token.data_class data).1, if_neg (Nat.not_le.mpr short), if_true]

end

theorem exec_transp_sends (head : f.head (48 + o) 0 = some t) (h : s.operates c o x f 12 q) (eof : t.cls = 2) (block : t.aux = 1) {w : Nat}
    (even : ∀ r ∈ blockRows q.buf, r.length = w) (some : blockRows q.buf ≠ []) :
    exec (.transp c o) s = .next (s.operated c o (f.pop (48 + o) 0) { q with
      emit := (((List.range w).flatMap fun k => ((blockRows q.buf).filterMap fun r => r[k]?) ++ [Token.eof 0]) ++ [t] ++
        q.buf.filter Token.isBar).map fun u => (0, u)
      buf := [] }) := by
  refine (exec_transp ..).trans (opStep_any h rfl (pops := [0]) ?_)
  obtain ⟨noData, -, isEof, noBar⟩ := Token.eof_class eof
  obtain ⟨r, rows, first⟩ := List.exists_cons_of_ne_nil some
  have width : r.length = w := even r (by rw [first]; exact List.mem_cons_self)
  have ragged : (blockRows q.buf).any (fun r => r.length != w) = false :=
    List.any_eq_false.mpr fun r mem => by rw [even r mem]; simp
  have level : ¬ 1 < t.aux.toNat ∧ t.aux.toNat ≤ 1 ∧ (t.aux == 0) = false := by rw [block]; decide
  obtain ⟨notHigh, low, notRow⟩ := level
  rw [first] at ragged
  simp only [actTransp, head, noData, isEof, noBar, notHigh, low, notRow, first, ragged, width, decide_true, decide_false, Bool.and_true,
    Bool.false_and, Bool.and_false, Bool.false_eq_true, if_false, if_true]

end

end

/-- Settles O40: each operator by what its act takes and forms. -/
theorem operatorsStep : Obligations.OperatorsStep := by
  unfold Obligations.OperatorsStep
  refine ⟨fun s c o x f q => ⟨?blocks, ?merge, fun i d h mode one => exec_mergeChk_passes h one mode, ?radix⟩, fun s c o x f q t head => ?rest⟩
  case blocks =>
    exact fun h => ⟨fun t idle => exec_repeat_first h idle, fun t r => exec_repeat_within h, fun t r => exec_repeat_last h,
      fun b u idle => exec_repeat_ends h idle, fun b n idle => exec_repeat_counted h idle⟩
  case merge =>
    intro i j d e h one two both first second
    refine ⟨fun mode => ?_, fun mode => ?_⟩
    · exact (exec_mergeIsect ..).trans (opStep_merge h one two (by rw [mode]; rfl))
    · exact (exec_mergeUnion ..).trans (opStep_merge h one two (by rw [mode]; rfl))
  case radix =>
    exact fun t h head => ⟨exec_radix_data h head, exec_radix_coord h head, exec_radix_all h head⟩
  case rest =>
    exact ⟨fun h data n => exec_gate_passes head data h, fun h data u n other uData => exec_select_chooses head data h other uData,
      fun h data => exec_stat_data head data h, fun h => exec_stat_eof head h, fun h data l b => exec_xlat_names head data h,
      fun h data => ⟨exec_cbdec_plain head data h, fun wired first b => exec_cbdec_scale head data h wired first,
        exec_cbdec_under head data h⟩,
      fun h data i d => exec_delta_corrects head data h, fun h data op => exec_fconv_converts head data h,
      fun h data => ⟨exec_rle_joins head data h, exec_rle_begins head data h⟩, fun h data => exec_transp_buffers head data h,
      fun h eof block w => exec_transp_sends head h eof block⟩

end Sys2Proof.Machine
end

section
/-! PROOFS. The effects of a supervisor's registers (R239, R240, R258 to R260, R431, R441 to R451): each register's effect, and what its
commands leave. -/

namespace Sys2Proof.Machine

/-- A mapped operation that answered has answered. -/
theorem Res.map_ok {α β : Type} {r : Res α} {f : α → β} {b : β} (h : r.map f = .ok b) : ∃ a, r = .ok a ∧ f a = b := by
  cases r with
  | error e => cases h
  | ok a => exact ⟨a, rfl, Except.ok.inj h⟩

/-! An effect stands for a supervisor that issues. -/

section
variable {s t : State} {x : Ctx} {body : State → Ctx → Res State} (task : s.ctx = some x) (issues : x.issues = true)
include task issues

theorem effect_done (sup : x.sup = true) (done : body s x = .ok t) : effect s body = .next t := by
  simp only [effect, task, issues, sup, done, Bool.not_true, Bool.false_eq_true, if_false]

theorem effect_stops {e : Exc} (sup : x.sup = true) (stops : body s x = .error e) : effect s body = .next (s.interrupt x 0 e) := by
  simp only [effect, task, issues, sup, stops, Bool.not_true, Bool.false_eq_true, if_false]

theorem effect_priv (taskMode : x.sup = false) :
    effect s body = .next (s.interrupt x 0 (.trap ⟨.priv, 0, 0, none, 0xFF, 0xF, 0, false, []⟩)) := by
  simp only [effect, task, issues, taskMode, Bool.not_true, Bool.not_false, Bool.false_eq_true, if_false, if_true]

end

section
variable {s t : State} {x : Ctx} {v : Word} {d : Reg} (task : s.ctx = some x) (issues : x.issues = true)
include task issues

section
variable (sup : x.sup = true)
include sup

theorem exec_hotvalRead_reads {h : Word} (read : s.readHot x = .ok (t, h)) : exec (.hotvalRead d) s = .next (t.setCtx (x.setG d h)) := by
  refine (exec_hotvalRead ..).trans (effect_done task issues sup ?_)
  simp only [read, Res.ok_bind]
  rfl

theorem exec_frrEnable_writes (clear : s.performed (s.me x) .fab = true) (written : s.writeCtl x (v ||| 0x80000000) = .ok t) :
    exec (.frrEnable v) s = .next t := by
  refine (exec_frrEnable ..).trans (effect_done task issues sup ?_)
  simp only [State.frrReady, await_ok clear, written, Res.ok_bind]

theorem exec_frrDisable_writes (clear : s.performed (s.me x) .fab = true) (written : s.writeCtl x (v &&& ~~~0x80000000) = .ok t) :
    exec (.frrDisable v) s = .next t := by
  refine (exec_frrDisable ..).trans (effect_done task issues sup ?_)
  simp only [State.frrReady, await_ok clear, written, Res.ok_bind]

theorem exec_frr_waits (due : s.performed (s.me x) .fab = false) :
    exec (.frrEnable v) s = .next (s.setCtx { x with wait := .interlock }) ∧
    exec (.frrDisable v) s = .next (s.setCtx { x with wait := .interlock }) := by
  constructor
  · refine (exec_frrEnable ..).trans (effect_stops task issues sup (e := .wait .interlock) ?_)
    simp only [State.frrReady, await_no due, Res.error_bind]
  · refine (exec_frrDisable ..).trans (effect_stops task issues sup (e := .wait .interlock) ?_)
    simp only [State.frrReady, await_no due, Res.error_bind]

end

theorem exec_supervisor_priv {asid : BitVec 13} (taskMode : x.sup = false) : ∀ i ∈ [.prtInv v, .popMigrate asid, .popDuplicate asid,
    .popCollapse asid, .tcmdResume, .tcmdEnd, .hotvalRead d, .frrEnable v, .frrDisable v, .schQuotaWrite v, .prtDusk, .prtRsz v, .prtMove v,
    .ticketExport, .ticketImport asid, .prtFqheadWrite v],
    exec i s = .next (s.interrupt x 0 (.trap ⟨.priv, 0, 0, none, 0xFF, 0xF, 0, false, []⟩)) := by
  have refuses {i : Instr} {body : State → Ctx → Res State} (is : exec i s = effect s body) :
      exec i s = .next (s.interrupt x 0 (.trap ⟨.priv, 0, 0, none, 0xFF, 0xF, 0, false, []⟩)) := is.trans (effect_priv task issues taskMode)
  simp only [List.forall_mem_cons, List.not_mem_nil, false_implies, implies_true, and_true]
  exact ⟨refuses (exec_prtInv ..), refuses (exec_popMigrate ..), refuses (exec_popDuplicate ..), refuses (exec_popCollapse ..),
    refuses (exec_tcmdResume ..), refuses (exec_tcmdEnd ..), refuses (exec_hotvalRead ..), refuses (exec_frrEnable ..),
    refuses (exec_frrDisable ..), refuses (exec_schQuotaWrite ..), refuses (exec_prtDusk ..), refuses (exec_prtRsz ..),
    refuses (exec_prtMove ..), refuses (exec_ticketExport ..), refuses (exec_ticketImport ..), refuses (exec_prtFqheadWrite ..)⟩

end

/-! The status word that a request leaves: SEQ one on, FAIL and REASON, BUSY clear. -/

theorem rszDone_fields {st : Word} {r : Nat} (small : r < 16) : (rszDone st r).extractLsb' 32 32 = st.extractLsb' 32 32 + 1 ∧
    ((rszDone st r).extractLsb' 4 4).toNat = r ∧ (rszDone st r).getLsbD 1 = decide (r ≠ 0) ∧ (rszDone st r).getLsbD 0 = false := by
  generalize hn : (st.extractLsb' 32 32 + 1 : BitVec 32) = n
  have fits := n.isLt
  have bit : (r != 0).toNat = if r ≠ 0 then 1 else 0 := by
    by_cases zero : r = 0
    · rw [zero]; rfl
    · rw [if_pos zero, bne_iff_ne.mpr zero]; rfl
  have word : (rszDone st r).toNat = n.toNat * 2 ^ 32 + r * 16 + (if r ≠ 0 then 1 else 0) * 2 := by
    rw [rszDone, hn, bit, BitVec.toNat_ofNat, Nat.mod_eq_of_lt]
    split <;> omega
  refine ⟨BitVec.eq_of_toNat_eq ?_, ?_, ?_, ?_⟩
  · rw [BitVec.extractLsb'_toNat, Nat.shiftRight_eq_div_pow, word]; split <;> omega
  · rw [BitVec.extractLsb'_toNat, Nat.shiftRight_eq_div_pow, word]; split <;> omega
  · rw [BitVec.getLsbD, Nat.testBit_eq_decide_div_mod_eq, word]
    by_cases zero : r = 0
    · subst zero; simp; omega
    · simp [zero]; omega
  · rw [BitVec.getLsbD, Nat.testBit_eq_decide_div_mod_eq, word, decide_eq_false]
    split <;> omega

section
variable {s : State} {x : Ctx} {q : Partition} (own : s.part x.part = some q)

include own in
theorem State.own_of : s.own x = .ok q := by rw [State.own, own]

include own in
theorem State.endPop_of {r : Nat} : s.endPop x.part r = s.setPart x.part { q with pop := none, popSt := popDone q.popSt r } := by
  rw [State.endPop, own]

/-! Invalidations (R239, R240). -/

theorem invScope_eq (v : Word) : invScope v = v.toNat / 2 % 4 := by
  rw [invScope, BitVec.extractLsb'_toNat, Nat.shiftRight_eq_div_pow, Nat.pow_one]
theorem invAsid_eq (v : Word) : invAsid v = BitVec.ofNat 13 (v.toNat / 8) := by
  refine BitVec.eq_of_toNat_eq ?_
  rw [invAsid, BitVec.extractLsb'_toNat, Nat.shiftRight_eq_div_pow, BitVec.toNat_ofNat]

/-- A word of an invalidation: a scope, and nothing in the bits that are zero. -/
theorem inv_good (v : Word) : (invScope v != 3 && v.extractLsb' 52 12 == 0 && !v.getLsbD 0) = true ↔
    v.toNat / 2 % 4 ≠ 3 ∧ v.toNat < 2 ^ 52 ∧ v.toNat % 2 = 0 := by
  have fits := v.isLt
  have high : v.extractLsb' 52 12 = 0 ↔ v.toNat < 2 ^ 52 := by
    rw [← BitVec.toNat_inj, BitVec.extractLsb'_toNat, Nat.shiftRight_eq_div_pow]
    show _ = 0 ↔ _
    omega
  have even : v.getLsbD 0 = false ↔ v.toNat % 2 = 0 := by
    rw [BitVec.getLsbD, Nat.testBit_eq_decide_div_mod_eq, decide_eq_false_iff_not]; omega
  rw [Bool.and_eq_true, Bool.and_eq_true, bne_iff_ne, beq_iff_eq, Bool.not_eq_true', invScope_eq, high, even, and_assoc]

section
variable {word v : Word} {t u : State}

theorem State.writeInv_illegal (bad : ¬ (v.toNat / 2 % 4 ≠ 3 ∧ v.toNat < 2 ^ 52 ∧ v.toNat % 2 = 0)) :
    s.writeInv x word v = trapWith .illegal word := by
  have bad : (invScope v != 3 && v.extractLsb' 52 12 == 0 && !v.getLsbD 0) = false := Bool.eq_false_iff.mpr fun h => bad ((inv_good v).mp h)
  simp only [State.writeInv, require_no bad]
  rfl

section
variable (good : v.toNat / 2 % 4 ≠ 3 ∧ v.toNat < 2 ^ 52 ∧ v.toNat % 2 = 0)
include own good

theorem State.writeInv_prot
    (other : (if v.toNat / 2 % 4 = 2 then .ok (s, true) else s.asidOf (s.me x) (BitVec.ofNat 13 (v.toNat / 8)) x.part : Res (State × Bool)) =
      .ok (t, false)) :
    s.writeInv x word v = .error (.trap ⟨.prot, v, 0, none, 0xFF, 0xF, 0, false, [s.asidAddr (BitVec.ofNat 13 (v.toNat / 8)) 0]⟩) := by
  have named : v.toNat / 2 % 4 ≠ 2 := fun part => by rw [if_pos part] at other; cases other
  rw [if_neg named] at other
  have named : (invScope v == 2) = false := beq_eq_false_iff_ne.mpr (by rw [invScope_eq]; exact named)
  simp only [State.writeInv, require_ok ((inv_good v).mpr good), State.own_of own, named, State.ownAsid, invAsid_eq, other, Res.ok_bind,
    Bool.false_eq_true, if_false]
  rfl

section
variable (ours : (if v.toNat / 2 % 4 = 2 then .ok (s, true) else s.asidOf (s.me x) (BitVec.ofNat 13 (v.toNat / 8)) x.part : Res (State × Bool)) =
  .ok (t, true))
include ours

omit own good in
/-- The whole partition, or an ASID of it. -/
theorem State.inv_owned : (invScope v == 2) = true ∧ t = s ∨ (invScope v == 2) = false ∧ s.ownAsid (s.me x) (invAsid v) x.part v = .ok t := by
  by_cases part : v.toNat / 2 % 4 = 2
  · rw [if_pos part] at ours
    cases ours
    exact .inl ⟨beq_iff_eq.mpr ((invScope_eq v).trans part), rfl⟩
  · rw [if_neg part] at ours
    refine .inr ⟨beq_eq_false_iff_ne.mpr fun h => part ((invScope_eq v).symm.trans h), ?_⟩
    rw [State.ownAsid, invAsid_eq, ours]
    rfl

theorem State.writeInv_waits (busy : q.invBusy = true) : s.writeInv x word v = .error (.wait .busy) := by
  have busy : (!q.invBusy) = false := by rw [busy]; rfl
  rcases State.inv_owned ours with ⟨whole, rfl⟩ | ⟨named, owned⟩
  · simp only [State.writeInv, require_ok ((inv_good v).mpr good), State.own_of own, whole, await_no busy, Res.ok_bind, Res.error_bind, if_true]
  · simp only [State.writeInv, require_ok ((inv_good v).mpr good), State.own_of own, named, owned, await_no busy, Res.ok_bind, Res.error_bind,
      Bool.false_eq_true, if_false]

theorem State.writeInv_marks (free : q.invBusy = false)
    (applied : (t.setPart x.part { q with inv := v, invBusy := true }).applyRoots x.part v = .ok u) :
    s.writeInv x word v = .ok (u.markNodes x.part v) := by
  have free : (!q.invBusy) = true := by rw [free]; rfl
  rcases State.inv_owned ours with ⟨whole, rfl⟩ | ⟨named, owned⟩
  · simp only [State.writeInv, require_ok ((inv_good v).mpr good), State.own_of own, whole, await_ok free, State.startInv, applied, Res.ok_bind,
      if_true]
  · simp only [State.writeInv, require_ok ((inv_good v).mpr good), State.own_of own, named, owned, await_ok free, State.startInv, applied,
      Res.ok_bind, Bool.false_eq_true, if_false]

end

end

theorem State.applyRoots_one {r : Word} {p : Nat} (named : v.toNat / 2 % 4 ≠ 2) (next : s.rootsNext = [((BitVec.ofNat 13 (v.toNat / 8)).toNat, r)]) :
    s.applyRoots p v = .ok { s with roots := tabPut s.roots (BitVec.ofNat 13 (v.toNat / 8)).toNat r, rootsNext := [] } := by
  have named : (invScope v == 2) = false := beq_eq_false_iff_ne.mpr (by rw [invScope_eq]; exact named)
  have same : (BitVec.ofNat 13 (BitVec.ofNat 13 (v.toNat / 8)).toNat == invAsid v) = true := by
    rw [beq_iff_eq, invAsid_eq, BitVec.ofNat_toNat, BitVec.setWidth_eq]
  simp only [State.applyRoots, next, List.foldlM_cons, List.foldlM_nil, named, same, Bool.false_eq_true, if_false, if_true, Res.ok_bind,
    List.nil_append]
  refine (Res.ok_bind ..).trans ?_
  dsimp only
  rw [next]
  simp only [List.foldl_cons, List.foldl_nil, List.filter_cons, List.filter_nil, List.contains_cons, beq_self_eq_true, Bool.true_or, Bool.not_true,
    Bool.false_eq_true, if_false]

end

/-! Page operations (R258 to R260). -/

section
variable {op : Nat} {asid : BitVec 13}

/-- The partition with the command that was written. -/
def Partition.popWritten (q : Partition) (op : Nat) (asid : BitVec 13) : Partition := { q with popCmd := BitVec.ofNat 64 (asid.toNat * 8 + op) }

include own

theorem State.writePop_waits (busy : q.pop ≠ none) : s.writePop x op asid = .error (.wait .busy) := by
  have busy : q.pop.isNone = false := by rw [Option.isNone_eq_false_iff, Option.isSome_iff_ne_none]; exact busy
  simp only [State.writePop, State.own_of own, await_no busy, Res.ok_bind, Res.error_bind]

section
variable (free : q.pop = none)
include free

theorem State.writePop_unread {e : Trap} :
    let reader := dieAgent (s.schedDie x.part) 4 asid
    s.walk reader q.popVa = .error (.trap e) → s.writePop x op asid = .ok (((((s.stampReads reader e.reads).consume reader).setPart x.part
      (q.popWritten op asid)).endPop x.part 1).consume reader) := by
  intro reader walk
  have free : q.pop.isNone = true := by rw [free]; rfl
  have walk : s.walk (dieAgent (s.schedDie x.part) 4 asid) q.popVa = .error (.trap e) := walk
  simp only [State.writePop, State.own_of own, await_ok free, walk, Res.ok_bind, Res.error_bind]
  have once (u : State) (p : Partition) : (((u.consume reader).setPart x.part p).endPop x.part 1).consume reader =
      ((u.consume reader).setPart x.part p).endPop x.part 1 := by
    have there : ((u.consume reader).setPart x.part p).part x.part = some p := tabGet_tabPut ..
    rw [State.endPop_of there]
    simp only [State.consume, State.setPart, List.filter_filter, Bool.and_self]
  exact congrArg Except.ok (once ..).symm

section
variable {w : Walk} {t : State} {page : Nat} (walk : s.walk (dieAgent (s.schedDie x.part) 4 asid) q.popVa = .ok w)
include walk

theorem State.writePop_refused {r : Nat}
    (checked : (s.stampWalk (dieAgent (s.schedDie x.part) 4 asid) w).popRefused (dieAgent (s.schedDie x.part) 4 asid) op asid x.part
      q.popDst.toNat w = .ok (t, some r, page)) :
    s.writePop x op asid =
      .ok (((t.setPart x.part (q.popWritten op asid)).endPop x.part r).consume (dieAgent (s.schedDie x.part) 4 asid)) := by
  have free : q.pop.isNone = true := by rw [free]; rfl
  simp only [State.writePop, State.own_of own, await_ok free, walk, checked, Res.ok_bind]
  rfl

section
variable (checked : (s.stampWalk (dieAgent (s.schedDie x.part) 4 asid) w).popRefused (dieAgent (s.schedDie x.part) 4 asid) op asid x.part
  q.popDst.toNat w = .ok (t, none, page))
include checked

/-- The state in which an operation has begun. -/
def State.popBegun (t : State) (x : Ctx) (q : Partition) (op : Nat) (asid : BitVec 13) (w : Walk) (page : Nat) : State :=
  (t.handOver (t.me x) (migAgent (hbmDie page))).setPart x.part { q.popWritten op asid with
    pop := some ⟨op, asid, q.popVa, q.popDst, w.entry, w.leaf, w.size, false, none⟩, popSt := (q.popSt &&& ~~~0xFF) ||| 1 }

theorem State.writePop_begins (copies : op ≠ 1) : s.writePop x op asid =
    .ok ((t.popBegun x q op asid w page).consume (dieAgent (s.schedDie x.part) 4 asid)) := by
  have free : q.pop.isNone = true := by rw [free]; rfl
  simp only [State.writePop, State.own_of own, await_ok free, walk, checked, beq_eq_false_iff_ne.mpr copies, Res.ok_bind, Bool.false_eq_true,
    if_false]
  rfl

theorem State.writePop_migrates {v z : State} (migrates : op = 1) (written : (t.popBegun x q op asid w page).writeLeaf (migAgent (hbmDie page))
      ⟨op, asid, q.popVa, q.popDst, w.entry, w.leaf, w.size, false, none⟩ (w.leaf ||| 0x80) = .ok v)
    (started : v.startInv x.part (PageOp.scope ⟨op, asid, q.popVa, q.popDst, w.entry, w.leaf, w.size, false, none⟩) = .ok z) :
    s.writePop x op asid = .ok (z.consume (dieAgent (s.schedDie x.part) 4 asid)) := by
  have free : q.pop.isNone = true := by rw [free]; rfl
  have written' : State.writeLeaf ((t.handOver (t.me x) (migAgent (hbmDie page))).setPart x.part { q with
      popCmd := BitVec.ofNat 64 (asid.toNat * 8 + op)
      pop := some ⟨op, asid, q.popVa, q.popDst, w.entry, w.leaf, w.size, false, none⟩, popSt := (q.popSt &&& ~~~0xFF) ||| 1 })
      (migAgent (hbmDie page)) ⟨op, asid, q.popVa, q.popDst, w.entry, w.leaf, w.size, false, none⟩ (w.leaf ||| migBit) = .ok v := written
  simp only [State.writePop, State.own_of own, await_ok free, walk, checked, beq_iff_eq.mpr migrates, written', started, Res.ok_bind, if_true]

end

end

end

end

/-! A held or drained task goes on or ends (R233, R436). -/

theorem State.dropHolds_cores (s : State) (die pass : Nat) : (s.dropHolds die pass).cores = s.cores ∧ (s.dropHolds die pass).parts = s.parts ∧
    (s.dropHolds die pass).reuse = s.reuse := ⟨rfl, rfl, rfl⟩

section
variable {n : Nat} {night : Bool} {y : Ctx}

/-- The end of a task drops it from its set; its partition and the reuse tables stay. -/
theorem State.kill_keeps : (s.kill n night y).parts = s.parts ∧ (s.kill n night y).reuse = s.reuse ∧
    (if night then ((s.kill n night y).core n).night = none else ((s.kill n night y).core n).day = none) := by
  have holds {α : Type} (get : State → α) (keeps : ∀ (t : State) die pass, get (t.dropHolds die pass) = get t) (l : List (Nat × Pass))
      (t : State) : get (l.foldl (fun u e => u.dropHolds (handleDie (e.2.bind.handle.setWidth 64)) e.2.id) t) = get t :=
    foldl_keeps get _ (fun u e => keeps u _ _) l t
  cases night with
  | true =>
    exact ⟨holds State.parts (fun _ _ _ => rfl) .., holds State.reuse (fun _ _ _ => rfl) ..,
      (holds (fun t => (t.core n).night) (fun _ _ _ => rfl) ..).trans ((congrArg Core.night (State.setCore_core ..)).trans
        (congrArg Core.night (State.setCore_core ..)))⟩
  | false =>
    exact ⟨holds State.parts (fun _ _ _ => rfl) .., holds State.reuse (fun _ _ _ => rfl) ..,
      (holds (fun t => (t.core n).day) (fun _ _ _ => rfl) ..).trans ((congrArg Core.day (State.setCore_core ..)).trans
        (congrArg Core.day (State.setCore_core ..)))⟩

section
variable (chosen : s.selected x q = .ok (n, night, y))
include own chosen

theorem State.tcmdEnd_kills : s.tcmdEnd x = .ok (s.kill n night y) := by
  simp only [State.tcmdEnd, State.own_of own, chosen, Res.ok_bind]

theorem State.tcmdResume_timedOut {word : Word} (late : y.cond = .timedOut) : s.tcmdResume x word = trapWith .illegal word := by
  have late : (y.cond != .timedOut) = false := by rw [late]; rfl
  simp only [State.tcmdResume, State.own_of own, chosen, require_no late, Res.ok_bind]
  rfl

theorem State.tcmdResume_held {word : Word} (held : y.cond = .held) (day : night = false) : s.tcmdResume x word =
    .ok (((s.setDay n (some { y with cond := .run })).continueTask n y.id .resumed).settle n) := by
  have waits : (y.cond != .timedOut) = true := by rw [held]; rfl
  simp only [State.tcmdResume, State.own_of own, chosen, require_ok waits, day, Res.ok_bind, Bool.false_eq_true, if_false]

theorem State.tcmdResume_drained {word : Word} (drained : y.cond = .drained) (parked : night = true) : s.tcmdResume x word =
    .ok (s.setNight n (some { y with cond := .run, eligible := true, since := s.time, afterDrain := true })) := by
  have waits : (y.cond != .timedOut) = true := by rw [drained]; rfl
  have is : (y.cond == .drained) = true := by rw [drained]; rfl
  simp only [State.tcmdResume, State.own_of own, chosen, require_ok waits, parked, is, Res.ok_bind, if_true]

end

end

/-! A dusk asked for (R431). -/

section
variable {n : Nat} (core : s.physicalCore x.part (q.tsel.extractLsb' 0 10).toNat = some n)
include core

theorem State.tselCore_of : s.tselCore x q = .ok n := by rw [State.tselCore, core]

include own

theorem State.writeDusk_refuses (idle : (s.core n).dusk = none) (bad : s.supervised n = true ∨ (s.core n).night ≠ none) :
    s.writeDusk x = .ok (s.setCore n { s.core n with refused := true }) := by
  have bad : ((s.core n).dusk.isNone && (s.supervised n || (s.core n).night.isSome)) = true := by
    rw [idle, Bool.and_eq_true, Bool.or_eq_true, Option.isSome_iff_ne_none]; exact ⟨rfl, bad⟩
  simp only [State.writeDusk, State.own_of own, State.tselCore_of core, bad, Res.ok_bind, Bool.true_or, if_true]

theorem State.writeDusk_asks (idle : (s.core n).dusk = none) (quiet : (s.core n).asked = none) (task : s.supervised n = false)
    (room : (s.core n).night = none) (day : (s.core n).day ≠ none) : s.writeDusk x =
    .ok (s.setCore n { s.core n with refused := false, asked := some ⟨false, false, s.time, none⟩ }) := by
  have good : ((s.core n).dusk.isNone && (s.supervised n || (s.core n).night.isSome)) = false := by rw [task, room]; simp
  have day : (s.core n).day.isNone = false := by rw [Option.isNone_eq_false_iff, Option.isSome_iff_ne_none]; exact day
  simp only [State.writeDusk, State.own_of own, State.tselCore_of core, good, day, Res.ok_bind, Bool.or_self, Bool.false_eq_true, if_false]
  simp only [State.askDusk, State.setCore_core, idle, quiet, Option.isSome_none, State.setCore_setCore, Bool.or_self, Bool.false_eq_true,
    if_false]

theorem State.writeDusk_goesOn (goes : (s.core n).dusk ≠ none) : s.writeDusk x = .ok (s.setCore n { s.core n with refused := false }) := by
  have goes : (s.core n).dusk.isSome = true := Option.isSome_iff_ne_none.mpr goes
  have good : ((s.core n).dusk.isNone && (s.supervised n || (s.core n).night.isSome)) = false := by
    rw [← Option.not_isSome, goes]; rfl
  simp only [State.writeDusk, State.own_of own, State.tselCore_of core, good, Res.ok_bind, Bool.false_or, State.askDusk, State.setCore_core, goes,
    Bool.true_or, if_true]
  split <;> rfl

end

/-! Resizes and moves (R441 to R446). -/

/-- The low bits of a word, as a register keeps them. -/
theorem low22_eq (v : Word) : (v.extractLsb' 0 22).setWidth 64 = v &&& 0x3FFFFF := by
  refine BitVec.eq_of_toNat_eq ?_
  rw [BitVec.toNat_setWidth_of_le (by decide), BitVec.extractLsb'_toNat, BitVec.toNat_and, Nat.shiftRight_zero]
  exact (Nat.and_two_pow_sub_one_eq_mod v.toNat 22).symm
theorem low16_eq (v : Word) : (v.extractLsb' 0 16).setWidth 64 = v &&& 0xFFFF := by
  refine BitVec.eq_of_toNat_eq ?_
  rw [BitVec.toNat_setWidth_of_le (by decide), BitVec.extractLsb'_toNat, BitVec.toNat_and, Nat.shiftRight_zero]
  exact (Nat.and_two_pow_sub_one_eq_mod v.toNat 16).symm

section
variable {v : Word}
include own

theorem State.writeRsz_waits (busy : q.resize ≠ none) : s.writeRsz x v = .error (.wait .busy) ∧ s.writeMove x v = .error (.wait .busy) := by
  have busy : q.resize.isNone = false := by rw [Option.isNone_eq_false_iff, Option.isSome_iff_ne_none]; exact busy
  constructor
  · simp only [State.writeRsz, State.own_of own, await_no busy, Res.ok_bind, Res.error_bind]
  · simp only [State.writeMove, State.own_of own, await_no busy, Res.ok_bind, Res.error_bind]

section
variable (free : q.resize = none)
include free

omit own free in
/-- A resize keeps the place and the number of the partition. -/
theorem resize_same {g : Word} : (geomX g != geomX q.geom || geomY g != geomY q.geom || geomPart g != geomPart q.geom || !geomOk g) = false ↔
    geomX g = geomX q.geom ∧ geomY g = geomY q.geom ∧ geomPart g = geomPart q.geom ∧ geomOk g = true := by
  simp only [Bool.or_eq_false_iff, bne_eq_false_iff_eq, Bool.not_eq_false', and_assoc]

theorem State.writeRsz_shape (other : ¬ (geomX (v &&& 0x3FFFFF) = geomX q.geom ∧ geomY (v &&& 0x3FFFFF) = geomY q.geom ∧
      geomPart (v &&& 0x3FFFFF) = geomPart q.geom ∧ geomOk (v &&& 0x3FFFFF) = true)) :
    s.writeRsz x v = .ok (s.setPart x.part { q with rsz := v &&& 0x3FFFFF, rszSt := rszDone q.rszSt 1 }) := by
  have free : q.resize.isNone = true := by rw [free]; rfl
  have other := Bool.eq_true_of_not_eq_false fun h => other (resize_same.mp h)
  simp only [State.writeRsz, State.own_of own, await_ok free, low22_eq, other, Res.ok_bind, if_true]

section
variable (same : geomX (v &&& 0x3FFFFF) = geomX q.geom ∧ geomY (v &&& 0x3FFFFF) = geomY q.geom ∧
  geomPart (v &&& 0x3FFFFF) = geomPart q.geom ∧ geomOk (v &&& 0x3FFFFF) = true)
include same

theorem State.writeRsz_many (many : q.cmax < (geomClusters (v &&& 0x3FFFFF)).length) :
    s.writeRsz x v = .ok (s.setPart x.part { q with rsz := v &&& 0x3FFFFF, rszSt := rszDone q.rszSt 2 }) := by
  have free : q.resize.isNone = true := by rw [free]; rfl
  simp only [State.writeRsz, State.own_of own, await_ok free, low22_eq, resize_same.mpr same, many, Res.ok_bind, if_true, Bool.false_eq_true,
    if_false]

section
variable (few : (geomClusters (v &&& 0x3FFFFF)).length ≤ q.cmax)
include few

theorem State.writeRsz_noPlace (placed : placeClusters s.heldClusters
      ((geomClusters (v &&& 0x3FFFFF)).filter fun l => !(q.cit.map (·.1)).contains l) = none) :
    s.writeRsz x v = .ok (s.setPart x.part { q with rsz := v &&& 0x3FFFFF, rszSt := rszDone q.rszSt 3 }) := by
  have free : q.resize.isNone = true := by rw [free]; rfl
  simp only [State.writeRsz, State.own_of own, await_ok free, low22_eq, resize_same.mpr same, Nat.not_lt.mpr few, placed, Res.ok_bind,
    Bool.false_eq_true, if_false]

section
variable {add : List (Nat × Nat)} (placed : placeClusters s.heldClusters
  ((geomClusters (v &&& 0x3FFFFF)).filter fun l => !(q.cit.map (·.1)).contains l) = some add)
include placed

theorem State.writeRsz_supervisor
    (sup : ∃ l ∈ (q.cit.map (·.1)).filter fun l => !(geomClusters (v &&& 0x3FFFFF)).contains l, q.supCluster = some l) :
    s.writeRsz x v = .ok (s.setPart x.part { q with rsz := v &&& 0x3FFFFF, rszSt := rszDone q.rszSt 4 }) := by
  have free : q.resize.isNone = true := by rw [free]; rfl
  have sup : (((q.cit.map (·.1)).filter fun l => !(geomClusters (v &&& 0x3FFFFF)).contains l).any
      (Partition.supCluster { q with rsz := v &&& 0x3FFFFF } == some ·)) = true := by
    obtain ⟨l, mem, is⟩ := sup
    exact List.any_eq_true.mpr ⟨l, mem, beq_iff_eq.mpr is⟩
  simp only [State.writeRsz, State.own_of own, await_ok free, low22_eq, resize_same.mpr same, Nat.not_lt.mpr few, placed, sup, Res.ok_bind,
    Bool.false_eq_true, if_false, if_true]

theorem State.writeRsz_goes
    (keeps : ∀ l ∈ (q.cit.map (·.1)).filter fun l => !(geomClusters (v &&& 0x3FFFFF)).contains l, q.supCluster ≠ some l) :
    s.writeRsz x v = .ok (s.setPart x.part (if ((q.cit.map (·.1)).filter fun l => !(geomClusters (v &&& 0x3FFFFF)).contains l) = []
      then { q with rsz := v &&& 0x3FFFFF, cit := add.foldl (fun t (l, c) => tabPut t l c) q.cit, geom := v &&& 0x3FFFFF, rszSt := rszDone q.rszSt 0 }
      else { q with rsz := v &&& 0x3FFFFF, cit := add.foldl (fun t (l, c) => tabPut t l c) q.cit, resize := some (.shrink (v &&& 0x3FFFFF)
        ((q.cit.map (·.1)).filter fun l => !(geomClusters (v &&& 0x3FFFFF)).contains l) (add.map (·.1))) })) := by
  have free : q.resize.isNone = true := by rw [free]; rfl
  have keeps : (((q.cit.map (·.1)).filter fun l => !(geomClusters (v &&& 0x3FFFFF)).contains l).any
      (Partition.supCluster { q with rsz := v &&& 0x3FFFFF } == some ·)) = false := by
    rw [List.any_eq_false]
    exact fun l mem is => keeps l mem (beq_iff_eq.mp is)
  simp only [State.writeRsz, State.own_of own, await_ok free, low22_eq, resize_same.mpr same, Nat.not_lt.mpr few, placed, keeps, Res.ok_bind,
    Bool.false_eq_true, if_false]
  cases gone : (q.cit.map (·.1)).filter fun l => !(geomClusters (v &&& 0x3FFFFF)).contains l with
  | nil => rfl
  | cons l r => rfl

end

end

end

omit own free in
theorem move_fields (v : Word) : (v.extractLsb' 0 8).toNat = v.toNat % 256 ∧ (v.extractLsb' 8 8).toNat = v.toNat / 256 % 256 := by
  constructor
  · rw [BitVec.extractLsb'_toNat, Nat.shiftRight_zero]
  · rw [BitVec.extractLsb'_toNat, Nat.shiftRight_eq_div_pow]

theorem State.writeMove_refused {r : Nat} (refused : s.moveRefused { q with move := v &&& 0xFFFF } (v.toNat % 256) (v.toNat / 256 % 256) = some r) :
    s.writeMove x v = .ok (s.setPart x.part { q with move := v &&& 0xFFFF, rszSt := rszDone q.rszSt r }) := by
  have free : q.resize.isNone = true := by rw [free]; rfl
  obtain ⟨hl, hc⟩ := move_fields v
  simp only [State.writeMove, State.own_of own, await_ok free, low16_eq, hl, hc, refused, Res.ok_bind]

theorem State.writeMove_goes (free' : s.moveRefused { q with move := v &&& 0xFFFF } (v.toNat % 256) (v.toNat / 256 % 256) = none) :
    s.writeMove x v = .ok (s.setPart x.part { q with move := v &&& 0xFFFF, resize := some (.move (v.toNat % 256) (v.toNat / 256 % 256) false) }) := by
  have free : q.resize.isNone = true := by rw [free]; rfl
  obtain ⟨hl, hc⟩ := move_fields v
  simp only [State.writeMove, State.own_of own, await_ok free, low16_eq, hl, hc, free', Res.ok_bind]

end

end

omit own in
/-- A cluster moves within its die to a free one, and the supervisor's does not. -/
theorem State.moveRefused_none {l c : Nat} : s.moveRefused q l c = none ↔ q.physical l ≠ none ∧ c < 160 ∧ c ∉ s.heldClusters ∧
    clusterDie l = clusterDie c ∧ q.supCluster ≠ some l := by
  by_cases bad : ((q.physical l).isNone || decide (160 ≤ c) || s.heldClusters.contains c || clusterDie l != clusterDie c) = true
  · rw [State.moveRefused, if_pos bad]
    simp only [Bool.or_eq_true, Option.isNone_iff_eq_none, decide_eq_true_eq, List.contains_iff_mem, bne_iff_ne] at bad
    refine iff_of_false nofun ?_
    rintro ⟨there, low, free, die, -⟩
    rcases bad with ((gone | high) | held) | other
    · exact there gone
    · omega
    · exact free held
    · exact other die
  · rw [State.moveRefused, if_neg bad]
    simp only [Bool.or_eq_true, Option.isNone_iff_eq_none, decide_eq_true_eq, List.contains_iff_mem, bne_iff_ne, not_or, not_not, Nat.not_le] at bad
    obtain ⟨⟨⟨there, low⟩, free⟩, die⟩ := bad
    by_cases sup : q.supCluster = some l
    · rw [if_pos (beq_iff_eq.mpr sup)]
      exact iff_of_false nofun fun h => h.2.2.2.2 sup
    · rw [if_neg (beq_iff_eq.not.mpr sup)]
      exact iff_of_true rfl ⟨there, low, free, die, sup⟩

/-! Tickets (R447 to R451). -/

section
variable {n : Nat} (core : s.physicalCore x.part (q.tsel.extractLsb' 0 10).toNat = some n) (free : q.ticket = none)
include core free

omit core in
theorem State.settleTicket_none {p : Nat} : s.settleTicket p q = (s, q) := by rw [State.settleTicket, free]

section
variable {y : Ctx} (parked : (s.core n).night = some y)
include own parked

omit parked in
theorem State.exportTicket_place (bad : q.tsel.getLsbD 10 = false ∨ s.ticketPlace q.tkAddr.toNat = false) :
    s.exportTicket x = .ok (s.setPart x.part { q with tkSt := rszDone q.tkSt 1 }) := by
  have bad : (!q.tsel.getLsbD 10 || !s.ticketPlace q.tkAddr.toNat) = true := by
    rw [Bool.or_eq_true, Bool.not_eq_true', Bool.not_eq_true']; exact bad
  have idle : q.ticket.isNone = true := by rw [free]; rfl
  simp only [State.exportTicket, State.own_of own, State.tselCore_of core, State.settleTicket_none free, await_ok idle, bad, Res.ok_bind, if_true]
  rfl

section
variable (night : q.tsel.getLsbD 10 = true) (place : s.ticketPlace q.tkAddr.toNat = true)
include night place

theorem State.exportTicket_now : s.exportTicket x = s.exportNow x.part q n y := by
  have idle : q.ticket.isNone = true := by rw [free]; rfl
  simp only [State.exportTicket, State.own_of own, State.tselCore_of core, State.settleTicket_none free, await_ok idle, night, place, parked,
    Res.ok_bind, Bool.not_true, Bool.or_self, Bool.false_eq_true, if_false]

theorem State.exportTicket_held (held : s.ticketHeld n y = true) :
    s.exportTicket x = .ok (s.setPart x.part { q with tkSt := rszDone q.tkSt 2 }) := by
  have same : { q with ticket := none } = q := by rw [← free]
  rw [State.exportTicket_now own core free parked night place, State.exportNow, if_pos held, same]
  rfl

theorem State.exportTicket_leaves {t : State} (fits : s.ticketHeld n y = false) (left : s.exportNow x.part q n y = .ok t) :
    s.exportTicket x = .ok t ∧ (t.core n).night = none := by
  refine ⟨(State.exportTicket_now own core free parked night place).trans left, ?_⟩
  rw [State.exportNow, if_neg (ne_true_of_eq_false fits)] at left
  obtain ⟨u, -, rfl⟩ := Res.map_ok left
  exact congrArg Core.night (State.setCore_core ..)

end

end

section
variable {t u : State} {bs : List Byte} {asid : BitVec 13} {e : Option Word} (place : s.ticketPlace q.tkAddr.toNat = true)
  (read : s.getRange (dieAgent (coreDie n) 4 0) q.tkAddr.toNat 0x181000 = .ok (t, bs))
  (word : (t.consume (dieAgent (coreDie n) 4 0)).asidWord (dieAgent (coreDie n) 4 0) asid 0 = .ok (u, e))
include own place read word

theorem State.importTicket_refused {r : Nat} (refused : u.importRefused n (e.any fun w => entryV w && entryPart w == x.part) bs = some r) :
    s.importTicket x asid = .ok (u.setPart x.part { q with tkSt := rszDone q.tkSt r }) := by
  have idle : q.ticket.isNone = true := by rw [free]; rfl
  have read : s.getRange (dieAgent (coreDie n) 4 0) q.tkAddr.toNat ticketSize = .ok (t, bs) := read
  simp only [State.importTicket, State.own_of own, State.tselCore_of core, State.settleTicket_none free, await_ok idle, place, read, word, refused,
    Res.ok_bind, Bool.not_true, Bool.false_eq_true, if_false]
  rfl

omit own core free place read word in
/-- The slots of an imported task are to be translated again. -/
theorem Ctx.taken_latches {y : Ctx} {part : Nat} {f : Fabric} (fabric : (y.taken part).fabric = some f) :
    ∀ a ∈ f.ports, ∀ l ∈ a.2.latches, l.stale = true ∧ l.size = 0 := by
  obtain ⟨g, -, rfl⟩ := Option.map_eq_some_iff.mp fabric
  intro a port l latch
  obtain ⟨b, -, rfl⟩ := List.mem_map.mp port
  obtain ⟨m, -, rfl⟩ := List.mem_map.mp latch
  exact ⟨rfl, rfl⟩

omit own core free place read word in
theorem vectorPc_aligned (v : Word) : (vectorPc v).toNat % 8 = 0 := by
  have clear : vectorPc v &&& 7 = 0#64 := by
    rw [vectorPc, BitVec.and_assoc, show (~~~7 &&& 7 : Word) = 0#64 by decide, BitVec.and_zero]
  have bits : (vectorPc v).toNat &&& 2 ^ 3 - 1 = 0 := congrArg BitVec.toNat clear
  rwa [Nat.and_two_pow_sub_one_eq_mod] at bits

/-- The task that a ticket's image becomes in a state: a new one of the partition, eligible to return. -/
def State.imported (u : State) (p : Nat) (asid : BitVec 13) (bs : List Byte) : Ctx :=
  let w3 := leWord ((bs.drop 24).take 8)
  let im := u.ticketImage p asid ((bs.drop 64).take (ticketSize - 80))
  { im.taken p with
    id := u.nextId, asid := asid, part := p, sup := false, cond := .run, wait := .none, halted := false
    code := u.recallAll.mem, codeLines := u.hostLines, patched := []
    cols := 32 * (w3.extractLsb' 0 6).toNat, spadBytes := 16384 * (w3.extractLsb' 8 6).toNat
    residence := .resident, yielded := false, eligible := true, since := u.time, parts := some (im.parts.getD ⟨[], [], [], []⟩).norm }

theorem State.importTicket_enters {o : State} (good : u.importRefused n (e.any fun w => entryV w && entryPart w == x.part) bs = none)
    (evicted : u.evictSpills n (1024 - 32 * ((leWord ((bs.drop 24).take 8)).extractLsb' 0 6).toNat) 1024 = .ok o) :
    s.importTicket x asid =
      .ok (({ o with nextId := o.nextId + 1 }.setNight n (some (u.imported x.part asid bs))).endTicket x.part q 0) := by
  have idle : q.ticket.isNone = true := by rw [free]; rfl
  have read : s.getRange (dieAgent (coreDie n) 4 0) q.tkAddr.toNat ticketSize = .ok (t, bs) := read
  simp only [State.importTicket, State.own_of own, State.tselCore_of core, State.settleTicket_none free, await_ok idle, place, read, word, good,
    evicted, Res.ok_bind, Bool.not_true, Bool.false_eq_true, if_false]
  rfl

theorem State.importTicket_task {o : State} (good : u.importRefused n (e.any fun w => entryV w && entryPart w == x.part) bs = none)
    (evicted : u.evictSpills n (1024 - 32 * ((leWord ((bs.drop 24).take 8)).extractLsb' 0 6).toNat) 1024 = .ok o) :
    ∃ t y, s.importTicket x asid = .ok t ∧ (t.core n).night = some y ∧
      y.asid = asid ∧ y.part = x.part ∧ y.cond = .run ∧ y.eligible = true ∧ y.sup = false ∧ y.id = u.nextId ∧
      y.cols = 32 * ((leWord ((bs.drop 24).take 8)).extractLsb' 0 6).toNat ∧ y.pc.toNat % 8 = 0 ∧
      (∀ f, y.fabric = some f → ∀ a ∈ f.ports, ∀ l ∈ a.2.latches, l.stale = true ∧ l.size = 0) :=
  ⟨_, u.imported x.part asid bs, State.importTicket_enters own core free place read word good evicted,
    congrArg Core.night (State.setCore_core ..), rfl, rfl, rfl, rfl, rfl, rfl, rfl, vectorPc_aligned _, fun _ => Ctx.taken_latches⟩

end

end

end

/-- Settles O51: each register's effect for a supervisor that issues, and what the writes and commands leave. -/
theorem supervisorEffectsComplete : Obligations.SupervisorEffectsComplete := by
  unfold Obligations.SupervisorEffectsComplete
  refine ⟨fun s t x v asid d task issues => ⟨fun sup => ?effects, exec_supervisor_priv task issues⟩, fun st r small f mem => ?status,
    fun s x q v word asid own => ⟨?inv, fun r => State.endPop_of own, ?pops, ?tcmd, ?dusk, State.writeRsz_waits own, ?rsz, ?move, ?ticketOut, ?ticketIn⟩⟩
  case effects =>
    have does {i : Instr} {body : State → Ctx → Res State} (is : exec i s = effect s body) (done : body s x = .ok t) : exec i s = .next t :=
      is.trans (effect_done task issues sup done)
    exact ⟨does (exec_prtInv ..), does (exec_popMigrate ..), does (exec_popDuplicate ..), does (exec_popCollapse ..), does (exec_tcmdResume ..),
      does (exec_tcmdEnd ..), fun h => exec_hotvalRead_reads task issues sup, fun clear => ⟨exec_frrEnable_writes task issues sup clear,
        exec_frrDisable_writes task issues sup clear⟩, exec_frr_waits task issues sup, does (exec_schQuotaWrite ..), does (exec_prtDusk ..),
      does (exec_prtRsz ..), does (exec_prtMove ..), does (exec_ticketExport ..), does (exec_ticketImport ..), does (exec_prtFqheadWrite ..)⟩
  case status =>
    simp only [List.mem_cons, List.not_mem_nil, or_false] at mem
    rcases mem with rfl | rfl
    · exact rszDone_fields small
    · exact rszDone_fields small
  case inv =>
    exact ⟨State.writeInv_illegal, fun t => State.writeInv_prot own, fun t => State.writeInv_waits own, fun t u => State.writeInv_marks own,
      fun r => State.applyRoots_one⟩
  case pops =>
    intro op small q'
    refine ⟨State.writePop_waits own, fun free => ⟨fun e => State.writePop_unread own free, fun w t refused page walk checked => ⟨?_, ?_⟩⟩⟩
    · rintro r rfl
      exact State.writePop_refused own free walk checked
    · rintro rfl ag o u
      exact ⟨State.writePop_begins own free walk checked, fun v z => State.writePop_migrates own free walk checked⟩
  case tcmd =>
    intro n night y chosen
    obtain ⟨parts, reuse, gone⟩ := State.kill_keeps (s := s) (n := n) (night := night) (y := y)
    exact ⟨State.tcmdEnd_kills own chosen, parts, reuse, gone, State.tcmdResume_timedOut own chosen, State.tcmdResume_held own chosen,
      State.tcmdResume_drained own chosen⟩
  case dusk =>
    exact fun n core => ⟨State.writeDusk_refuses own core, State.writeDusk_asks own core, State.writeDusk_goesOn own core⟩
  case rsz =>
    exact fun free => ⟨State.writeRsz_shape own free, State.writeRsz_many own free, fun same few => ⟨State.writeRsz_noPlace own free same few,
      fun add placed => ⟨State.writeRsz_supervisor own free same few placed, State.writeRsz_goes own free same few placed⟩⟩⟩
  case move =>
    exact fun free => ⟨fun r => State.writeMove_refused own free, State.writeMove_goes own free, State.moveRefused_none⟩
  case ticketOut =>
    exact fun n y core free parked => ⟨State.exportTicket_place own core free, fun night place =>
      ⟨State.exportTicket_held own core free parked night place, fun t => State.exportTicket_leaves own core free parked night place⟩⟩
  case ticketIn =>
    exact fun n t bs core free place read u e word => ⟨fun r => State.importTicket_refused own core free place read word,
      fun o => State.importTicket_task own core free place read word⟩

end Sys2Proof.Machine
end

section
/-! PROOFS. The frame of loads and stores (R56, R90 to R93): a task's registers through a global access, and the bytes that one leaves. -/

namespace Sys2Proof.Machine

/-! A core's task keeps its registers through every operation that a global access is made of. -/

/-- Core k is the moving core, and its task has the registers of z. -/
def State.Holds (s : State) (k : Nat) (z : Ctx) : Prop :=
  s.cur = k ∧ ∃ y, (s.core k).day = some y ∧ y.regs = z.regs ∧ y.preds = z.preds

section
variable {k : Nat} {z : Ctx}

theorem State.Holds.upd {s t : State} (h : s.Holds k z) (cores : t.cores = s.cores) (cur : t.cur = s.cur) : t.Holds k z := by
  simp only [State.Holds, State.core, cores, cur]
  exact h
theorem State.Holds.foldl {α : Type} {f : State → α → State} {l : List α} {s : State} (h : s.Holds k z)
    (step : ∀ {t a}, t.Holds k z → (f t a).Holds k z) : (l.foldl f s).Holds k z := by
  induction l generalizing s with
  | nil => exact h
  | cons a r ih => exact ih (step h)
theorem State.Holds.ite {c : Prop} [Decidable c] {s t : State} (hs : s.Holds k z) (ht : t.Holds k z) :
    (if c then s else t).Holds k z := by
  split <;> assumption

theorem State.Holds.mapTasks {s t : State} {f : Core → Core} {g : Ctx → Ctx} (hs : s.Holds k z)
    (cores : t.cores = s.cores.map fun (n, c) => (n, f c)) (cur : t.cur = s.cur) (hf : ∀ c, (f c).day = c.day.map g)
    (hg : ∀ y, (g y).regs = y.regs ∧ (g y).preds = y.preds) : t.Holds k z := by
  obtain ⟨sameCur, y, day, regs, preds⟩ := hs
  refine ⟨cur.trans sameCur, g y, ?_, (hg y).1.trans regs, (hg y).2.trans preds⟩
  rw [State.core, cores, tabGet_map s.cores (fun _ => f)]
  rw [State.core] at day
  cases entry : tabGet s.cores k with
  | none => rw [entry] at day; cases day
  | some c =>
    rw [entry] at day
    have day : c.day = some y := day
    exact (hf c).trans (by rw [day]; rfl)

theorem Core.find_day {c : Core} {id : Nat} {y : Ctx} (h : c.find id = some (true, y)) : c.day = some y := by
  unfold Core.find at h
  cases day : c.day with
  | none =>
    simp only [day] at h
    split at h
    next => split at h <;> cases h
    next => cases h
  | some x =>
    simp only [day] at h
    split at h
    next => cases h; rfl
    next =>
      split at h
      next => split at h <;> cases h
      next => cases h

theorem State.Holds.setNight {s : State} {n : Nat} {x : Option Ctx} (hs : s.Holds k z) : (s.setNight n x).Holds k z := by
  obtain ⟨cur, y, day, same⟩ := hs
  by_cases h : k = n
  · subst h; exact ⟨cur, y, by rw [State.setNight, State.setCore_core]; exact day, same⟩
  · exact ⟨cur, y, by rw [State.setNight, State.setCore_core_ne _ h]; exact day, same⟩
theorem State.Holds.raiseClock {s : State} {ag : Agent} {ts : Nat} (hs : s.Holds k z) : (s.raiseClock ag ts).Holds k z := hs.upd rfl rfl
theorem State.Holds.stampLoad {s : State} {ag : Agent} {line : Nat} (hs : s.Holds k z) : (s.stampLoad ag line).Holds k z := by
  unfold State.stampLoad
  split
  exact hs.upd rfl rfl
theorem State.Holds.stampWrites {s : State} {ag : Agent} {lines : List Nat} (hs : s.Holds k z) : (s.stampWrites ag lines).Holds k z :=
  hs.upd rfl rfl
theorem State.Holds.stampWrite {s : State} {ag : Agent} {line : Nat} (hs : s.Holds k z) : (s.stampWrite ag line).Holds k z := hs.stampWrites
theorem State.Holds.keepCopy {s : State} {ag : Agent} {home line lease : Nat} {bytes : List Byte} (hs : s.Holds k z) :
    (s.keepCopy ag home line lease bytes).Holds k z := hs.upd rfl rfl
theorem State.Holds.dropCopies {s : State} {hit : Nat → Bool} (hs : s.Holds k z) : (s.dropCopies hit).Holds k z := hs.upd rfl rfl
theorem State.Holds.bumpGen {s : State} {pa : Nat} (hs : s.Holds k z) : (s.bumpGen pa).Holds k z := by
  unfold State.bumpGen
  split
  · exact hs.upd rfl rfl
  · exact hs
  · exact hs
theorem State.Holds.foldCopy {s : State} {line : Nat} {u : UpdateOnly} (hs : s.Holds k z) : (s.foldCopy line u).Holds k z :=
  hs.foldl fun ht => ht.upd rfl rfl
theorem State.Holds.combine {s : State} {line : Nat} {us rest : List (Nat × UpdateOnly)} (hs : s.Holds k z) :
    (s.combine line us rest).Holds k z :=
  State.Holds.foldl (hs.upd rfl rfl) fun ht => ht.foldCopy
theorem State.Holds.recall {s : State} {line : Nat} (hs : s.Holds k z) : (s.recall line).Holds k z := by
  unfold State.recall
  split
  · exact hs
  · exact hs.combine
theorem State.Holds.recallAll {s : State} (hs : s.Holds k z) : (s.recallAll).Holds k z := hs.foldl fun ht => ht.recall
theorem State.Holds.fillView {s : State} {n line : Nat} (hs : s.Holds k z) : (s.fillView n line).Holds k z := by
  unfold State.fillView
  split
  · exact hs
  · dsimp only
    exact hs.upd rfl rfl
theorem State.Holds.readHbm {s : State} {ag : Agent} {pa n : Nat} (hs : s.Holds k z) : (s.readHbm ag pa n).1.Holds k z := by
  unfold State.readHbm
  dsimp only
  split
  · exact hs.raiseClock
  · exact .ite hs.recall.stampLoad hs.recall.stampLoad.keepCopy
theorem State.Holds.cleanPoison {s : State} {pa n : Nat} (hs : s.Holds k z) : (s.cleanPoison pa n).Holds k z :=
  State.Holds.ite (hs.upd rfl rfl) hs
theorem State.Holds.writeHbm {s : State} {ag : Agent} {pa : Nat} {bs : List Byte} (hs : s.Holds k z) : (s.writeHbm ag pa bs).Holds k z := by
  unfold State.writeHbm
  extract_lets t views u v w
  have hu : u.Holds k z := hs.recall.stampWrites
  have hv : v.Holds k z := hu.upd rfl rfl
  have hw : w.Holds k z := hv.cleanPoison.bumpGen
  exact .ite (hw.upd rfl rfl) hw
theorem State.Holds.stampReads {s : State} {ag : Agent} {reads : List Nat} (hs : s.Holds k z) : (s.stampReads ag reads).Holds k z := by
  unfold State.stampReads
  refine hs.foldl fun {t _} ht => ?_
  split
  · exact ht.recall.stampLoad
  · split
    · exact ht.recallAll.fillView.stampLoad
    · exact ht
  · exact ht.stampLoad
  · exact ht
  · exact ht
theorem State.Holds.stampWalk {s : State} {ag : Agent} {w : Walk} (hs : s.Holds k z) : (s.stampWalk ag w).Holds k z := hs.stampReads
theorem State.Holds.readTable {s : State} {ag : Agent} {va : Word} {pa : Nat} (hs : s.Holds k z) :
    Res.Post (fun r => r.1.Holds k z) (s.readTable ag va pa) := by
  unfold State.readTable
  refine .skip fun _ => ?_
  exact .ok hs.stampReads
theorem State.Holds.noteDup {s : State} {ag : Agent} {w : Walk} (hs : s.Holds k z) : (s.noteDup ag w).Holds k z := by
  unfold State.noteDup
  split
  · split
    · exact State.Holds.ite hs (hs.upd rfl rfl)
    · exact hs
  · exact hs
theorem State.Holds.noteHeld {s : State} {ag : Agent} {va : Word} {w : Walk} (hs : s.Holds k z) : (s.noteHeld ag va w).Holds k z :=
  State.Holds.ite hs.noteDup (hs.noteDup.upd rfl rfl)
theorem State.Holds.countHot {s : State} {ag : Agent} {w : Walk} (hs : s.Holds k z) : (s.countHot ag w).Holds k z :=
  State.Holds.ite (hs.upd rfl rfl) hs
theorem State.Holds.editTask {s : State} {core id : Nat} {f : Ctx → Ctx} (hf : ∀ y, (f y).regs = y.regs ∧ (f y).preds = y.preds)
    (hs : s.Holds k z) : (s.editTask core id f).Holds k z := by
  unfold State.editTask
  split
  next y found =>
    obtain ⟨cur, w, day, regs, preds⟩ := hs
    by_cases h : k = core
    · subst h
      have found := Core.find_day found
      cases day.symm.trans found
      exact ⟨cur, f y, by rw [State.setDay_core], (hf y).1.trans regs, (hf y).2.trans preds⟩
    · exact ⟨cur, w, by rw [State.setDay, State.setCore_core_ne _ h]; exact day, regs, preds⟩
  next => exact hs.setNight
  next => exact hs
theorem State.Holds.editJob {s : State} {core id : Nat} {f : Job → Job} (hs : s.Holds k z) : (s.editJob core id f).Holds k z := by
  unfold State.editJob
  split
  next =>
    obtain ⟨cur, y, day, same⟩ := hs
    by_cases h : k = core
    · subst h; exact ⟨cur, y, by rw [State.setCore_core]; exact day, same⟩
    · exact ⟨cur, y, by rw [State.setCore_core_ne _ h]; exact day, same⟩
  next => exact hs.editTask fun _ => ⟨rfl, rfl⟩
theorem State.Holds.purity {s : State} {ag : Agent} {va : Word} {n : Nat} {write : Bool} (hs : s.Holds k z) :
    Res.Post (State.Holds · k z) (s.purity ag va n write) := by
  unfold State.purity
  split
  · exact .ok hs
  · split
    · exact .ok hs
    · split
      · exact .ok hs
      · split
        · exact .error
        · split
          · exact .ok hs
          · exact .ok hs.editJob
theorem State.Holds.send {s : State} {port kind : Nat} {dest : BitVec 12} {addr : Nat} {bytes : List (Nat × Byte)} {op : RemoteOp}
    (hs : s.Holds k z) :
    (s.send port kind dest addr bytes op).Holds k z := by
  unfold State.send
  split
  · exact hs
  · exact hs.upd rfl rfl
theorem State.Holds.issueRemote {s : State} {r : Remote} (hs : s.Holds k z) : (s.issueRemote r).Holds k z :=
  State.Holds.send (hs.upd rfl rfl)
theorem State.Holds.postRemote {s : State} {ag : Agent} {va : Word} {pa : Nat} {op : RemoteOp} {bs : List Byte} (hs : s.Holds k z) :
    Res.Post (State.Holds · k z) (s.postRemote ag va pa op bs) := by
  unfold State.postRemote
  split
  · exact .error
  · split
    · exact .error
    · exact .ok hs.issueRemote
theorem State.Holds.writeHost {s : State} {ag : Agent} {pa : Nat} {bs : List Byte} (hs : s.Holds k z) : (s.writeHost ag pa bs).Holds k z :=
  hs.stampWrite.cleanPoison.upd rfl rfl
theorem State.Holds.readAt {s : State} {ag : Agent} {va : Word} {pa n : Nat} {home : Bool} (hs : s.Holds k z) :
    Res.Post (fun r => r.1.Holds k z) (s.readAt ag va pa n home) := by
  unfold State.readAt
  dsimp only
  split
  · split
    · exact .error
    · exact .ok hs.readHbm
  · split
    · exact .error
    · split
      · exact .ok hs.recallAll.raiseClock
      · split
        · exact .error
        · exact .ok hs.recallAll.fillView.stampLoad.keepCopy
  · split
    · exact .error
    · split
      · exact .ok hs.raiseClock
      · refine .skip fun _ => ?_
        exact .ok hs.stampLoad.keepCopy
  · refine .skip fun _ => ?_
    exact .ok hs
  · exact .error
theorem State.Holds.loadVia {s : State} {ag : Agent} {va : Word} {n : Nat} {w : Walk} {fetch home : Bool} (hs : s.Holds k z) :
    Res.Post (fun r => r.1.Holds k z) (s.loadVia ag va n w fetch home) := by
  unfold State.loadVia
  have read : ∀ {t : State}, t.Holds k z → Res.Post (fun r => r.1.Holds k z) (do
      let (t, bs) ← w.refusing ((t.stampWalk ag w).readAt ag va w.pa n home)
      .ok ((t.countHot ag w).noteHeld ag va w, bs)) := fun ht =>
    .bind (.refusing ht.stampWalk.readAt) fun _ hu => .ok hu.countHot.noteHeld
  dsimp only
  split
  · exact read hs
  · exact hs.purity.bind fun t ht => read ht
theorem State.Holds.writeAt {s : State} {ag : Agent} {va : Word} {pa : Nat} {bs : List Byte} (hs : s.Holds k z) :
    Res.Post (State.Holds · k z) (s.writeAt ag va pa bs) := by
  unfold State.writeAt
  split
  · refine .skip fun _ => ?_
    exact .ok hs.writeHbm
  · exact .error
  · exact .ok hs.writeHost
  · exact hs.postRemote
  · exact .error
theorem State.Holds.descriptor {s : State} {ag : Agent} {val : Word} {desc : Nat} (hs : s.Holds k z) :
    Res.Post (fun r => r.1.Holds k z) (s.descriptor ag val desc) := by
  unfold State.descriptor
  refine hs.readTable.bind fun ⟨t, _⟩ ht => ?_
  refine .bind (Res.Post.foldlM (P := fun r : State × List Nat => r.1.Holds k z) (fun hu => ?_) ht) fun ⟨u, _⟩ hu => .ok hu
  exact hu.readTable.bind fun ⟨v, _⟩ hv => .ok hv
theorem State.Holds.collapse {s : State} {ag : Agent} {val : Word} {entry : Nat} {old : Word} {size : Nat} (hs : s.Holds k z) :
    Res.Post (State.Holds · k z) (s.collapse ag val entry old size) := by
  unfold State.collapse
  refine hs.descriptor.bind fun ⟨t, _⟩ ht => ?_
  dsimp -zeta only
  extract_lets _ _ u v g
  have hu : u.Holds k z := ht.upd rfl rfl
  have hv : v.Holds k z := hu.dropCopies
  exact hv.writeAt.bind fun w hw => .ok (hw.mapTasks (f := fun c => { c with day := c.day.map g, night := c.night.map g }) (g := g)
      rfl rfl (fun _ => rfl) fun _ => ⟨rfl, rfl⟩)
theorem State.Holds.markWritten {s : State} {pa n : Nat} (hs : s.Holds k z) : (s.markWritten pa n).Holds k z := hs.upd rfl rfl
theorem State.Holds.forPhysical {s : State} {ag : Agent} {pa n : Nat} (hs : s.Holds k z) :
    Res.Post (State.Holds · k z) (s.forPhysical ag pa n) := by
  unfold State.forPhysical
  dsimp only
  refine .foldlM (P := (State.Holds · k z)) (fun {t _} ht => ?_) hs.markWritten
  refine ht.readTable.bind fun ⟨u, _⟩ hu => ?_
  split
  · refine hu.descriptor.bind fun ⟨v, _⟩ hv => ?_
    split
    · exact hv.collapse
    · exact .ok hv
  · exact .ok hu
theorem State.Holds.forWrite {s : State} {ag : Agent} {va : Word} {n : Nat} {acc : Acc} {w : Walk} (hs : s.Holds k z) :
    Res.Post (fun r => r.1.Holds k z) (s.forWrite ag va n acc w) := by
  unfold State.forWrite
  refine .skip fun _ => ?_
  refine .bind (P := fun r => r.1.Holds k z) ?_ fun ⟨t, _⟩ ht => ?_
  · split
    · refine hs.collapse.bind fun t ht => ?_
      refine .skip fun _ => ?_
      exact .ok ht
    · exact .ok hs
  · dsimp only
    refine ht.forPhysical.bind fun u hu => ?_
    exact .ok hu
theorem State.Holds.notePatch {s : State} {ag : Agent} {pa n : Nat} (hs : s.Holds k z) : (s.notePatch ag pa n).Holds k z :=
  .ite (hs.editTask fun _ => ⟨rfl, rfl⟩) hs
theorem State.Holds.storeVia {s : State} {ag : Agent} {va : Word} {bs : List Byte} {w : Walk} (hs : s.Holds k z) :
    Res.Post (State.Holds · k z) (s.storeVia ag va bs w) := by
  unfold State.storeVia
  refine hs.stampWalk.forWrite.bind fun ⟨t, _⟩ ht => ?_
  dsimp only
  refine ht.purity.bind fun u hu => ?_
  refine hu.writeAt.bind fun v hv => ?_
  exact .ok hv.countHot.noteHeld.notePatch

end

/-! The operations that stamp and recall lines do not look at the cores. -/

/-- The state with other cores. -/
def State.withCores (s : State) (c : List (Nat × Core)) : State := { s with cores := c }

section
variable (s : State) (c : List (Nat × Core))

theorem State.foldl_withCores {α : Type} {f : State → α → State} (hf : ∀ s a, f (s.withCores c) a = (f s a).withCores c)
    (l : List α) : l.foldl f (s.withCores c) = (l.foldl f s).withCores c := by
  induction l generalizing s with
  | nil => rfl
  | cons a r ih => rw [List.foldl_cons, hf, ih]; rfl

theorem State.foldCopy_withCores (line : Nat) (u : UpdateOnly) : (s.withCores c).foldCopy line u = (s.foldCopy line u).withCores c :=
  State.foldl_withCores s c (fun _ _ => rfl) u.partials

theorem State.combine_withCores (line : Nat) (us rest : List (Nat × UpdateOnly)) :
    (s.withCores c).combine line us rest = (s.combine line us rest).withCores c := by
  unfold State.combine
  refine Eq.trans ?_ (State.foldl_withCores _ c (fun t p => ?_) us)
  · rfl
  · exact t.foldCopy_withCores c line p.2

theorem State.recall_withCores (line : Nat) : (s.withCores c).recall line = (s.recall line).withCores c := by
  have updates : (s.withCores c).updates = s.updates := rfl
  simp only [State.recall, updates]
  cases tabGet s.updates line with
  | none => rfl
  | some us => exact s.combine_withCores c line us []

theorem State.recallAll_withCores : (s.withCores c).recallAll = s.recallAll.withCores c := by
  refine State.foldl_withCores s c (fun t p => ?_) s.updates
  exact t.recall_withCores c p.1

theorem State.fillView_withCores (n line : Nat) : (s.withCores c).fillView n line = (s.fillView n line).withCores c := by
  unfold State.fillView
  by_cases same : ((s.viewLines.any fun v => v.line == line) && !Config.fills s.tick) = true
  · rw [if_pos same]
    exact if_pos same
  · rw [if_neg same]
    exact if_neg same

theorem State.stampReads_withCores (ag : Agent) (reads : List Nat) :
    (s.withCores c).stampReads ag reads = (s.stampReads ag reads).withCores c := by
  refine State.foldl_withCores s c (fun t pa => ?_) reads
  have region : (t.withCores c).region pa = t.region pa := rfl
  have range : (t.withCores c).rangeAt pa = t.rangeAt pa := rfl
  simp only [region, range, State.recall_withCores, State.recallAll_withCores, State.fillView_withCores]
  cases t.region pa with
  | view => cases t.rangeAt pa <;> rfl
  | _ => rfl

theorem State.editTask_cores (core id : Nat) (f : Ctx → Ctx) : ∃ c, s.editTask core id f = s.withCores c := by
  unfold State.editTask
  split <;> exact ⟨_, rfl⟩

theorem State.editJob_cores (core id : Nat) (f : Job → Job) : ∃ c, s.editJob core id f = s.withCores c := by
  unfold State.editJob
  split
  · exact ⟨_, rfl⟩
  · exact s.editTask_cores ..

/-- The purity of a task is noted at its job alone. -/
theorem State.purity_cores {s t : State} {ag : Agent} {va : Word} {n : Nat} {write : Bool} (h : s.purity ag va n write = .ok t) :
    ∃ c, t = s.withCores c := by
  have same : ∃ c, s = s.withCores c := ⟨s.cores, rfl⟩
  unfold State.purity at h
  cases job : s.jobOf ag with
  | none => rw [job] at h; cases h; exact same
  | some j =>
    simp only [job] at h
    split at h
    · cases h; exact same
    split at h
    · cases h; exact same
    split at h
    · cases h
    split at h
    · cases h; exact same
    · cases h; exact s.editJob_cores ..

end

/-! Stamps and recalls leave the address map as it is. -/

section
variable (s : State) (pa : Nat)

theorem State.foldCopy_region (line : Nat) (u : UpdateOnly) : (s.foldCopy line u).region pa = s.region pa := by
  refine foldl_keeps (State.region · pa) _ (fun t p => ?_) u.partials s
  rfl
theorem State.recall_region (line : Nat) : (s.recall line).region pa = s.region pa := by
  rw [State.recall]
  cases tabGet s.updates line with
  | none => rfl
  | some us =>
    refine (foldl_keeps (State.region · pa) _ (fun t u => ?_) us _).trans ?_
    · exact t.foldCopy_region pa line u.2
    · rfl
theorem State.recallAll_region : s.recallAll.region pa = s.region pa := by
  refine foldl_keeps (State.region · pa) _ (fun t u => ?_) s.updates s
  exact t.recall_region pa u.1
theorem State.fillView_region (n line : Nat) : (s.fillView n line).region pa = s.region pa := by
  unfold State.fillView
  split <;> rfl
theorem State.stampReads_region (ag : Agent) (reads : List Nat) : (s.stampReads ag reads).region pa = s.region pa := by
  refine foldl_keeps (State.region · pa) _ (fun t line => ?_) reads s
  split
  · exact t.recall_region pa _
  · split
    · exact (State.fillView_region ..).trans (t.recallAll_region pa)
    · rfl
  · rfl
  · rfl
  · rfl

end

/-! With no update-only copy, a stamp recalls nothing. -/

/-- No partials have been folded into memory, and none stand. -/
def State.Unfolded (t s : State) : Prop := t.mem = s.mem ∧ t.updates = [] ∧ t.dups = s.dups

section
variable {s : State} (bare : s.updates = [])
include bare

theorem State.recall_bare (line : Nat) : s.recall line = s := by rw [State.recall, bare]; rfl
theorem State.recallAll_bare : s.recallAll = s := by rw [State.recallAll, bare]; rfl
theorem State.fillView_bare (n line : Nat) : (s.fillView n line).Unfolded s := by
  unfold State.fillView
  split <;> exact ⟨rfl, bare, rfl⟩

theorem State.stampReads_bare (ag : Agent) (reads : List Nat) : (s.stampReads ag reads).Unfolded s := by
  induction reads generalizing s with
  | nil => exact ⟨rfl, bare, rfl⟩
  | cons pa r ih =>
    have step {t : State} (one : t.Unfolded s) : (t.stampReads ag r).Unfolded s := by
      obtain ⟨mem, updates, dups⟩ := one
      obtain ⟨mem', updates', dups'⟩ := ih updates
      exact ⟨mem'.trans mem, updates', dups'.trans dups⟩
    rw [State.stampReads, List.foldl_cons]
    refine step ?_
    cases s.region pa with
    | view =>
      dsimp only
      cases s.rangeAt pa with
      | none => exact ⟨rfl, bare, rfl⟩
      | some n =>
        dsimp only
        rw [State.recallAll_bare bare]
        exact State.fillView_bare bare ..
    | hbm =>
      dsimp only
      rw [State.recall_bare bare]
      exact ⟨rfl, bare, rfl⟩
    | host => exact ⟨rfl, bare, rfl⟩
    | aperture n => exact ⟨rfl, bare, rfl⟩
    | none => exact ⟨rfl, bare, rfl⟩

end

/-! What a read and a write at a physical address leave in device memory. -/

section
variable {s t : State} {ag : Agent} {va : Word} {pa n : Nat} {home : Bool} {bs : List Byte}

theorem State.readHbm_mem (s : State) (ag : Agent) (pa n : Nat) :
    (s.readHbm ag pa n).1.mem = s.mem ∨ (s.readHbm ag pa n).1.mem = (s.recall (lineOf pa)).mem := by
  unfold State.readHbm
  dsimp only
  cases s.servedBy ag (lineOf pa) with
  | some c => exact .inl rfl
  | none =>
    refine .inr ?_
    dsimp only
    split <;> rfl

theorem State.readAt_hbm (hbm : s.region pa = .hbm) (read : s.readAt ag va pa n home = .ok (t, bs)) :
    t.mem = s.mem ∨ t.mem = (s.recall (lineOf pa)).mem := by
  unfold State.readAt at read
  simp only [hbm] at read
  split at read
  · cases read
  · have first : (s.readHbm (if home then ag.atHome (hbmDie pa) else ag) pa n).1 = t := congrArg Prod.fst (Except.ok.inj read)
    rw [← first]
    exact s.readHbm_mem ..

theorem State.readAt_bare (bare : s.updates = []) (read : s.readAt ag va pa n home = .ok (t, bs)) : t.mem = s.mem := by
  cases region : s.region pa with
  | hbm =>
    rcases State.readAt_hbm region read with same | recalled
    · exact same
    · rw [recalled, State.recall_bare bare]
  | view =>
    unfold State.readAt at read
    simp only [region, State.recallAll_bare bare] at read
    split at read
    · cases read
    · split at read
      · cases read; rfl
      · split at read
        · cases read
        · cases read
          exact (State.fillView_bare bare ..).1
  | host =>
    unfold State.readAt at read
    simp only [region] at read
    split at read
    · cases read
    · split at read
      · cases read; rfl
      · obtain ⟨line, -, read⟩ := Res.bind_ok read
        cases read; rfl
  | aperture k =>
    unfold State.readAt at read
    simp only [region] at read
    obtain ⟨got, -, read⟩ := Res.bind_ok read
    cases read; rfl
  | none =>
    unfold State.readAt at read
    simp only [region] at read
    cases read

theorem State.writeAt_hbm_eq (hbm : s.region pa = .hbm) (written : s.writeAt ag va pa bs = .ok t) : t = s.writeHbm ag pa bs := by
  simp only [State.writeAt, hbm] at written
  obtain ⟨-, -, written⟩ := Res.bind_ok written
  cases written; rfl

theorem State.send_mem {port kind : Nat} {dest : BitVec 12} {addr : Nat} {bytes : List (Nat × Byte)} {op : RemoteOp} :
    (s.send port kind dest addr bytes op).mem = s.mem := by
  unfold State.send
  split <;> rfl

theorem State.writeAt_elsewhere (other : s.region pa ≠ .hbm) (written : s.writeAt ag va pa bs = .ok t) : t.mem = s.mem := by
  cases region : s.region pa with
  | hbm => exact absurd region other
  | view => simp only [State.writeAt, region] at written; cases written
  | host =>
    simp only [State.writeAt, region] at written
    cases written
    exact State.cleanPoison_mem ..
  | aperture k =>
    simp only [State.writeAt, region, State.postRemote] at written
    split at written
    · cases written
    · split at written
      · cases written
      · cases written
        exact State.send_mem
  | none => simp only [State.writeAt, region] at written; cases written

end

/-! What an access notes changes no byte. -/

section
variable (s : State) (ag : Agent) (va : Word) (w : Walk) (pa n : Nat)

theorem State.countHot_mem : (s.countHot ag w).mem = s.mem := by
  unfold State.countHot
  split <;> rfl
theorem State.noteDup_mem : (s.noteDup ag w).mem = s.mem := by
  unfold State.noteDup
  split
  · split
    · dsimp only
      split <;> rfl
    · rfl
  · rfl
theorem State.noteHeld_mem : (s.noteHeld ag va w).mem = s.mem := by
  unfold State.noteHeld
  dsimp only
  split
  · exact s.noteDup_mem ag w
  · exact s.noteDup_mem ag w
theorem State.notePatch_mem : (s.notePatch ag pa n).mem = s.mem := by
  unfold State.notePatch
  split
  · obtain ⟨c, same⟩ := s.editTask_cores ag.core ag.task _
    rw [same]
    rfl
  · rfl
theorem State.noted_mem : (((s.countHot ag w).noteHeld ag va w).notePatch ag pa n).mem = s.mem :=
  (State.notePatch_mem ..).trans ((State.noteHeld_mem ..).trans (s.countHot_mem ag w))

end

/-! Global loads and stores. -/

section
variable {s u v : State} {ag : Agent} {va : Word} {w w' : Walk} {bs : List Byte}

theorem Walk.refusing_ok {α : Type} {r : Res α} {a : α} (h : w.refusing r = .ok a) : r = .ok a := by
  cases r with
  | ok b => exact h
  | error e => cases e <;> cases h

/-- A load is a read of its address, behind the reads of its walk. -/
theorem State.load_reads {n : Nat} (walk : s.translate ag va .load = .ok w) (loaded : s.load ag va n = .ok (u, bs)) :
    ∃ c t, ((s.stampWalk ag w).withCores c).readAt ag va w.pa n = .ok (t, bs) ∧ u.mem = t.mem := by
  simp only [State.load, walk, Res.ok_bind, State.loadVia, show (Acc.load == Acc.fetch) = false by decide, Bool.false_eq_true, if_false] at loaded
  obtain ⟨p, pure, loaded⟩ := Res.bind_ok loaded
  obtain ⟨c, rfl⟩ := s.purity_cores pure
  obtain ⟨⟨t, bytes⟩, read, loaded⟩ := Res.bind_ok loaded
  cases loaded
  refine ⟨c, t, ?_, (State.noteHeld_mem ..).trans (State.countHot_mem ..)⟩
  rw [State.stampWalk, ← State.stampReads_withCores]
  exact Walk.refusing_ok read

theorem State.load_hbm {n : Nat} (walk : s.translate ag va .load = .ok w) (hbm : s.region w.pa = .hbm) (loaded : s.load ag va n = .ok (u, bs)) :
    u.mem = (s.stampWalk ag w).mem ∨ u.mem = ((s.stampWalk ag w).recall (lineOf w.pa)).mem := by
  obtain ⟨c, t, read, mem⟩ := State.load_reads walk loaded
  have hbm : ((s.stampWalk ag w).withCores c).region w.pa = .hbm := (s.stampReads_region ..).trans hbm
  rw [mem]
  rcases State.readAt_hbm hbm read with same | recalled
  · exact .inl same
  · rw [State.recall_withCores] at recalled
    exact .inr recalled

theorem State.load_bare {n : Nat} (bare : s.updates = []) (loaded : s.load ag va n = .ok (u, bs)) : u.mem = s.mem := by
  obtain ⟨w, walk, -⟩ := Res.bind_ok loaded
  obtain ⟨c, t, read, mem⟩ := State.load_reads walk loaded
  obtain ⟨same, none, -⟩ := s.stampReads_bare bare ag w.reads
  have none : ((s.stampWalk ag w).withCores c).updates = [] := none
  exact mem.trans ((State.readAt_bare none read).trans same)

section
variable (walk : s.translate ag va .store = .ok w) (ready : (s.stampWalk ag w).forWrite ag va bs.length .store w = .ok (v, w'))
  (stored : s.store ag va bs = .ok u)
include walk ready stored

/-- A store is a write at the address that its page has once it may be written. -/
theorem State.store_writes : ∃ c t, (v.withCores c).writeAt ag va w'.pa bs = .ok t ∧ u.mem = t.mem := by
  simp only [State.store, walk, Res.ok_bind, State.storeVia, ready] at stored
  obtain ⟨p, pure, stored⟩ := Res.bind_ok stored
  obtain ⟨c, rfl⟩ := v.purity_cores pure
  obtain ⟨t, written, stored⟩ := Res.bind_ok stored
  cases stored
  exact ⟨c, t, written, State.noted_mem ..⟩

theorem State.store_hbm (hbm : v.region w'.pa = .hbm) : u.mem = Memory.setBytes (v.recall (lineOf w'.pa)).mem w'.pa bs := by
  obtain ⟨c, t, written, mem⟩ := State.store_writes walk ready stored
  rw [mem, State.writeAt_hbm_eq (s := v.withCores c) hbm written, State.writeHbm_mem, State.recall_withCores]
  rfl

theorem State.store_elsewhere (other : v.region w'.pa ≠ .hbm) : u.mem = v.mem := by
  obtain ⟨c, t, written, mem⟩ := State.store_writes walk ready stored
  exact mem.trans (State.writeAt_elsewhere (s := v.withCores c) other written)

end

/-- A page with no duplicates is written where it is. -/
theorem State.forWrite_plain {n : Nat} {acc : Acc} (bare : s.updates = []) (single : s.dups = []) (plain : entryDup w.leaf = false)
    (ready : (s.stampWalk ag w).forWrite ag va n acc w = .ok (v, w')) : w' = w ∧ v.mem = s.mem ∧ v.updates = [] := by
  obtain ⟨mem, updates, dups⟩ := s.stampReads_bare bare ag w.reads
  have dups : (s.stampWalk ag w).dups = [] := dups.trans single
  unfold State.forWrite at ready
  obtain ⟨-, -, ready⟩ := Res.bind_ok ready
  simp only [plain, Bool.false_eq_true, if_false, Res.ok_bind, State.forPhysical, dups, List.filter_nil, List.foldlM_nil] at ready
  obtain ⟨t, marked, ready⟩ := Res.bind_ok ready
  cases marked
  cases ready
  exact ⟨rfl, mem, updates⟩

end

/-! The task's registers behind an access. -/

section
variable {s t u : State} {x : Ctx}

/-- What a state's task keeps of another's registers. -/
def State.SameRegs (t : State) (x : Ctx) : Prop := ∃ y, t.ctx = some y ∧ (∀ r, y.g r = x.g r) ∧ ∀ p, y.p p = x.p p

theorem State.Holds.start (task : s.ctx = some x) : s.Holds s.cur x := ⟨rfl, x, task, rfl, rfl⟩

theorem State.ended_of {y : Ctx} (task : (t.core s.cur).day = some y) :
    t.ended s x = (t.consume (s.me x)).setDay s.cur (some (y.complete .seq)) := by
  rw [State.ended, State.finish, State.consume_core, task]

theorem State.ended_ctx {y : Ctx} (task : (t.core s.cur).day = some y) (cur : t.cur = s.cur) : (t.ended s x).ctx = some (y.complete .seq) := by
  rw [State.ended_of task, State.ctx]
  show (State.core _ t.cur).day = _
  rw [cur, State.setDay_core]

theorem State.ended_mem : (t.ended s x).mem = t.mem := by
  rw [State.ended, State.finish]
  split <;> rfl

/-- A task that completes at the next word keeps its registers. -/
theorem State.Holds.ended {z : Ctx} (held : t.Holds s.cur z) : (t.ended s x).SameRegs z := by
  obtain ⟨cur, y, task, regs, preds⟩ := held
  refine ⟨_, State.ended_ctx task cur, fun r => ?_, fun p => ?_⟩
  · rw [Ctx.g_complete, Ctx.g, regs]; rfl
  · rw [Ctx.p_complete, Ctx.p, preds]; rfl

end

section
variable (x : Ctx) (d : Reg) (sx : Bool) (sz : Size) (bs : List Byte)

theorem Ctx.setLoaded_frame : (∀ p, (x.setLoaded d sx sz bs).p p = x.p p) ∧
    ∀ r, r ≠ d → (sz = .q → r ≠ d ||| 1) → (x.setLoaded d sx sz bs).g r = x.g r := by
  unfold Ctx.setLoaded
  by_cases pair : sz = .q
  · rw [if_pos (beq_iff_eq.mpr pair)]
    exact ⟨fun p => by rw [Ctx.p_setG, Ctx.p_setG], fun r low high =>
      (Ctx.g_setG_ne _ (d := pairHi d) (high pair) _).trans (Ctx.g_setG_ne _ low _)⟩
  · rw [if_neg (beq_iff_eq.not.mpr pair)]
    exact ⟨fun p => Ctx.p_setG .., fun r low _ => Ctx.g_setG_ne _ low _⟩

theorem Ctx.keeps_setLoaded : ((x.setLoaded d sx sz bs).complete .seq).keeps x := by
  unfold Ctx.setLoaded
  split
  · have outer := (x.setG d (leWord (bs.take 8))).keeps_setG (pairHi d) (leWord (bs.drop 8))
    have inner := x.setG_frame d (leWord (bs.take 8))
    rw [Ctx.keeps] at *
    rw [outer, inner]
  · exact x.keeps_setG d _

end

section
variable {s t u v : State} {x : Ctx} {g : Guard} {d : Reg} {m : MemOp} {sx : Bool} {sz : Size} {bs : List Byte} (h : s.ready x g)
  (aligned : (x.ea m).toNat % sizeBytes sz = 0)
include h aligned

/-! The scratchpad. -/

section
variable (claim : (x.ea m).toNat + sizeBytes sz ≤ x.spadBytes) (free : (s.core s.cur).spadReady (x.ea m).toNat (sizeBytes sz) = true)
include claim free

theorem exec_ld_spad_frame (clean : (s.core s.cur).spadPoisoned (x.ea m).toNat (sizeBytes sz) = false)
    (ran : exec (.ld g d m true sx sz) s = .next t) : t.keeps s ∧ ∃ y, t.ctx = some y ∧ y.keeps x ∧ (∀ p, y.p p = x.p p) ∧
      ∀ r, r ≠ d → (sz = .q → r ≠ d ||| 1) → y.g r = x.g r := by
  rw [exec_ld_spad h d m sx sz aligned (readSpad_ok claim free clean)] at ran
  cases ran
  obtain ⟨preds, regs⟩ := x.setLoaded_frame d sx sz (Memory.bytes (s.core s.cur).spad (x.ea m).toNat (sizeBytes sz))
  exact ⟨s.keeps_retired _ _, _, s.setCtx_ctx _, x.keeps_setLoaded .., fun p => (Ctx.p_complete ..).trans (preds p),
    fun r low high => (Ctx.g_complete ..).trans (regs r low high)⟩

theorem exec_st_spad_frame (ran : exec (.st g d m true sz) s = .next t) :
    t.mem = s.mem ∧ (∀ c, c ≠ s.cur → t.core c = s.core c) ∧
      ∃ y out, t.core s.cur = { s.core s.cur with
          spad := Memory.setBytes (s.core s.cur).spad (x.ea m).toNat out, poison := (t.core s.cur).poison, day := some y } ∧
        out.length = sizeBytes sz ∧ y.keeps x ∧ (∀ r, y.g r = x.g r) ∧ ∀ p, y.p p = x.p p := by
  have length := x.storeBytes_length d sz
  rw [exec_st_spad h d m sz aligned (writeSpad_ok (by rw [length]; exact claim) (by rw [length]; exact free))] at ran
  cases ran
  have task : ((s.setCore s.cur ((s.core s.cur).putSpad (x.ea m).toNat (x.storeBytes d sz))).core s.cur).day = some x := by
    rw [State.setCore_core]; exact h.1
  refine ⟨State.ended_mem, fun c other => ?_, x.complete .seq, x.storeBytes d sz, ?_, length, x.complete_keeps, fun r => x.g_complete _ r,
    fun p => x.p_complete _ p⟩
  · rw [State.ended_of task, State.setDay, State.setCore_core_ne _ other, State.consume_core, State.setCore_core_ne _ other]
  · rw [State.ended_of task, State.setDay_core, State.consume_core, State.setCore_core]
    rfl

end

/-! Global accesses. -/

theorem exec_st_frame (stored : s.store (s.me x) (x.ea m) (x.storeBytes d sz) = .ok u) (ran : exec (.st g d m false sz) s = .next t) :
    t.mem = u.mem ∧ t.SameRegs x := by
  rw [exec_st_global h d m sz aligned stored] at ran
  cases ran
  obtain ⟨w, -, stored⟩ := Res.bind_ok stored
  exact ⟨State.ended_mem, (((State.Holds.start h.1).storeVia).of_ok stored).ended⟩

theorem exec_ld_frame (loaded : s.load (s.me x) (x.ea m) (sizeBytes sz) = .ok (u, bs)) (ran : exec (.ld g d m false sx sz) s = .next t) :
    t.mem = u.mem ∧ ∃ y, t.ctx = some y ∧ (∀ p, y.p p = x.p p) ∧ ∀ r, r ≠ d → (sz = .q → r ≠ d ||| 1) → y.g r = x.g r := by
  rw [exec_ld_global h d m sx sz aligned loaded] at ran
  cases ran
  obtain ⟨w, -, loaded⟩ := Res.bind_ok loaded
  obtain ⟨cur, y, task, regs, preds⟩ := ((State.Holds.start h.1).loadVia).of_ok loaded
  have now : u.now x = y := by
    have task : u.ctx = some y := by rw [State.ctx, cur]; exact task
    rw [State.now, task]; rfl
  obtain ⟨preds', regs'⟩ := y.setLoaded_frame d sx sz bs
  have held : ((u.setCtx (y.setLoaded d sx sz bs)).core s.cur).day = some (y.setLoaded d sx sz bs) := by
    rw [← cur]; exact State.setCtx_ctx ..
  rw [now]
  refine ⟨State.ended_mem, _, State.ended_ctx held cur, fun p => ?_, fun r low high => ?_⟩
  · rw [Ctx.p_complete, preds', Ctx.p, preds]; rfl
  · rw [Ctx.g_complete, regs' r low high, Ctx.g, regs]; rfl

/-- A store to a view traps, before anything else is looked at. -/
theorem exec_st_view {w : Walk} (walk : s.lookUp (s.me x) (x.ea m) = .ok w) (view : s.region w.pa = .view) : exec (.st g d m false sz) s =
    .next (s.interrupt x (encode (.st g d m false sz)) (.trap ⟨.prot, x.ea m, 5, none, 0xFF, 0xF, 0, false, w.reads⟩)) := by
  have stops : s.store (s.me x) (x.ea m) (x.storeBytes d sz) = .error (.trap ⟨.prot, x.ea m, 5, none, 0xFF, 0xF, 0, false, w.reads⟩) := by
    have refused : w.refusing (w.permit true .store (x.ea m)) = .error (.trap ⟨.prot, x.ea m, 5, none, 0xFF, 0xF, 0, false, w.reads⟩) := by
      rw [Walk.permit, Bool.not_true, require_no rfl]
      simp only [trapWith, Res.error_bind, Walk.refusing, List.append_nil]
    simp only [State.store, State.translate, walk, view, beq_self_eq_true, refused, Res.ok_bind, Res.error_bind]
  rw [exec_st, execSt, control_ready h (by simp)]
  simp only [require_ok (beq_iff_eq.mpr aligned), stops, Res.ok_bind, Res.error_bind, Bool.false_eq_true, if_false]

end

/-- Settles O11: the scratchpad's accesses by what they write of the core, the global ones by the operations on device memory they are made of. -/
theorem loadsAndStoresFrame : Obligations.LoadsAndStoresFrame := by
  unfold Obligations.LoadsAndStoresFrame
  intro s t u v x g d m sx sz bs w w' h n ea k ag aligned
  have length := x.storeBytes_length d sz
  refine ⟨fun claim free => ⟨exec_ld_spad_frame h aligned claim free, exec_st_spad_frame h aligned claim free⟩, ?hbm, ?elsewhere,
    exec_st_view h aligned, ?load⟩
  case hbm =>
    intro wf walk ready hbm stored ran
    have ready : (s.stampWalk ag w).forWrite ag ea (x.storeBytes d sz).length .store w = .ok (v, w') := by rw [length]; exact ready
    obtain ⟨mem, regs⟩ := exec_st_frame h aligned stored ran
    have bytes : ∀ a, a < w'.pa ∨ w'.pa + n ≤ a → Memory.byte t.mem a = Memory.byte (v.recall (lineOf w'.pa)).mem a := by
      intro a outside
      have canon : v.Canon := (State.Canon.forWrite (State.Canon.stampWalk wf)).of_ok ready
      rw [mem, State.store_hbm walk ready stored hbm, Memory.byte_setBytes (State.Canon.recall canon), if_neg]
      rw [length]; omega
    refine ⟨bytes, fun bare single plain => ?_, regs⟩
    obtain ⟨rfl, same, none⟩ := State.forWrite_plain bare single plain ready
    exact ⟨rfl, fun a outside => by rw [bytes a outside, State.recall_bare none, same]⟩
  case elsewhere =>
    intro walk ready other stored ran
    have ready : (s.stampWalk ag w).forWrite ag ea (x.storeBytes d sz).length .store w = .ok (v, w') := by rw [length]; exact ready
    obtain ⟨mem, regs⟩ := exec_st_frame h aligned stored ran
    have same : t.mem = v.mem := mem.trans (State.store_elsewhere walk ready stored other)
    exact ⟨same, fun bare single plain => same.trans (State.forWrite_plain bare single plain ready).2.1, regs⟩
  case load =>
    intro loaded ran
    obtain ⟨mem, regs⟩ := exec_ld_frame h aligned loaded ran
    refine ⟨fun bare => mem.trans (State.load_bare bare loaded), fun walk hbm => ?_, regs⟩
    rw [mem]
    exact State.load_hbm walk hbm loaded

end Sys2Proof.Machine
end

end
